-- ==== Sys2Proof/Word.lean ====
section
/-! DEFINITION. The words the machine is made of, and the one table type that holds everything sparse. -/

namespace Sys2Proof

/-- One byte, the smallest addressable unit of every memory (R7). -/
abbrev Byte := BitVec 8

/-- A 64-bit register or address (R113). -/
abbrev Word := BitVec 64

/-- A sparse table in one canonical form: keys strictly rising, and no entry equal to what an absent key
reads as. Memories, register files, queues and unit tables are all held this way. -/
abbrev Tab (α : Type) := List (Nat × α)

/-- `sext(x, n)` of R9 for a natural number: the low `n` bits read as two's complement. -/
def sextN (x n : Nat) : Int :=
  let y := x % 2 ^ n
  if 2 * y < 2 ^ n then (y : Int) else (y : Int) - (2 ^ n : Nat)

/-- `zext(x, n)` of R9 for an exact integer: the low `n` bits of the two's complement form. -/
def zextI (x : Int) (n : Nat) : Nat := (x % ((2 ^ n : Nat) : Int)).toNat

/-- `bits(x, h, l)` of R9. -/
def bitsN (x h l : Nat) : Nat := (x >>> l) % 2 ^ (h + 1 - l)

/-- Rounds up to a multiple of `k`. -/
def roundUp (x k : Nat) : Nat := (x + k - 1) / k * k

end Sys2Proof
end

