-- ==== Sys2Proof/Syntax.lean ====
section
/-! DEFINITION. The instructions: one constructor for each row of the table of operations and events.
Slot instructions carry their decoded fields and the lent bits they accept (R118 to R130); events carry what
their agent chooses or the outside world supplies. -/

namespace Sys2Proof

/-- The four slots of a bundle (R111). -/
inductive Slot where
  | c | s | v | m
  deriving DecidableEq, Repr

/-- The number of a slot as records name it (R111, R297). -/
def Slot.num : Slot → Nat
  | .c => 0
  | .s => 1
  | .v => 2
  | .m => 3

/-- The loop flags a slot may carry under a loop header (R40, R127). -/
inductive LoopFlag where
  | always
  | first (n : BitVec 3)
  | last (n : BitVec 3)
  deriving DecidableEq, Repr

/-- What every S-, V- and M-slot word carries beside its own fields: predicate, negate, trap-on-empty and
loop flag (R118, R127). -/
structure Cond where
  p : BitVec 3
  neg : Bool
  te : Bool
  loop : LoopFlag
  deriving DecidableEq, Repr

/-- Rounding modes (R89, R127). -/
inductive Rm where
  | rne | rtz | rdn | rup
  deriving DecidableEq, Repr

/-- Scopes (R74). -/
inductive Scope where
  | cl | pk | fb | sy
  deriving DecidableEq, Repr

/-- Order annotations (R73). -/
inductive Ord where
  | plain | acq | rel | ar
  deriving DecidableEq, Repr

/-- Size codes 000 to 110 of a load (R120). -/
inductive LSz where
  | z1 | z2 | z4 | z8 | s1 | s2 | s4
  deriving DecidableEq, Repr

/-- Size codes 000 to 011 of a store (R120). -/
inductive SSz where
  | b1 | b2 | b4 | b8
  deriving DecidableEq, Repr

/-- Vector element types (R121). -/
inductive VType where
  | s8 | s16 | s32 | z8 | z16 | z32 | f16 | bf16 | f32
  deriving DecidableEq, Repr

/-- The two scalar float precisions (R172). -/
inductive FFmt where
  | f32 | f64
  deriving DecidableEq, Repr

/-- Type codes of FCVT (R175). -/
inductive CvtTy where
  | s32 | z32 | s64 | z64 | f16 | bf16 | f32 | f64
  deriving DecidableEq, Repr

/-- Conditions of CMP (R167). -/
inductive CmpCond where
  | eq | ne | lt | ge | ltu | geu | tst | ntst
  deriving DecidableEq, Repr

/-- Conditions of FCMP (R174). -/
inductive FCond where
  | eq | lt | le | un | ne
  deriving DecidableEq, Repr

/-- Conditions of VCMP (R184). -/
inductive VCond where
  | eq | ne | lt | le | gt | ge | un
  deriving DecidableEq, Repr

/-- Operations of VRED (R187). -/
inductive RedOp where
  | add | min | max | and | or | xor
  deriving DecidableEq, Repr

/-- Types of XRED (R274). -/
inductive XTy where
  | s32 | z32 | s64 | z64 | f32 | bf16
  deriving DecidableEq, Repr

/-- Selectors of MSTAT (R254). -/
inductive MSel where
  | tstat | prec | wload | nest
  deriving DecidableEq, Repr

/-- A core: cluster 0-191 in die-major order and core 0-7 (R4, R272). -/
structure CoreId where
  cl : Nat
  core : Nat
  deriving DecidableEq, Repr

/-- A hardware context (R33, R163). -/
structure CtxId where
  cl : Nat
  core : Nat
  cx : Nat
  deriving DecidableEq, Repr

/-- The core of a context. -/
def CtxId.coreId (x : CtxId) : CoreId := ⟨x.cl, x.core⟩

/-- Where a continuation's state stands: in a context, or saved under its record's vault offset (R26, R28). -/
inductive Home where
  | live (x : CtxId)
  | saved (cl : Nat) (crec : Nat)
  deriving DecidableEq, Repr

/-- A register a datum fills (R113, R115). -/
inductive RegRef where
  | s (n : Nat)
  | a (n : Nat)
  | v (n : Nat)
  | p (n : Nat)
  deriving DecidableEq, Repr

/-- The kinds of fabric packet (R271). -/
inductive PktKind where
  | xsend | xst | xldReq | xldRep | xred
  deriving DecidableEq, Repr

/-- One more contribution of a merged packet (R271, R275): its context, record and bundle, its place in its context's order,
and whether its bundle stood in a delay slot. -/
structure Contrib where
  home : Home
  crec : Nat
  baddr : Nat
  prod : Nat
  delay : Bool
  deriving DecidableEq, Repr

/-- A fabric packet (R271 to R274). `data` is the payload, the stored value or the reply's value; `home`,
`reg`, `prod` say whose register an XLD's reply fills; `mark` is the cause of a reply's fabric mark, 0 for none
(R275); `baddr` and `crec` name the bundle and the record for a failure, `delay` whether the bundle stood in a delay slot, `also` the other
contributions of a merged packet. -/
structure Packet where
  kind : PktKind
  job : BitVec 16
  src : Nat
  dst : Nat
  voff : Nat
  size : Nat
  data : List (BitVec 64)
  op : RedOp
  ty : XTy
  count : Nat
  hidx : Nat
  clu : Nat
  core : Nat
  rel : Bool
  scope : Scope
  home : Home
  reg : Nat
  prod : Nat
  lsz : LSz
  mark : Nat
  baddr : Nat
  crec : Nat
  also : List Contrib := []
  delay : Bool := false
  deriving DecidableEq, Repr

/-- Where an arriving packet comes from: this module's own list of packets in flight, or another module. -/
inductive PktSrc where
  | net (i : Nat)
  | peer (p : Packet)
  deriving DecidableEq, Repr

/-- One job's counters as another module reports them to a wave (R278). -/
structure PeerSum where
  job : BitVec 16
  inj : Nat
  cons : Nat
  lost : Nat
  deriving DecidableEq, Repr

/-- Whose access a page walk serves (R332): a request of a resident context's queue or of a saved one's, by its record, a held queue
store, a gather request or a Marver's. -/
inductive WalkFor where
  | queue (x : CtxId) (q : Nat) (pos : Nat)
  | saved (cl crec q pos : Nat)
  | held (x : CtxId) (i : Nat)
  | gather (c : CoreId) (ch : Nat) (id : Nat) (req : Nat) (write : Bool)
  | marver (cl : Nat) (port : Nat) (req : Nat)
  deriving DecidableEq, Repr

/-- Fields of a job-table entry as system software writes it (R308). -/
structure JobEntry where
  valid : Bool
  jobid : BitVec 16
  troot : BitVec 64
  windows : List (Nat × Nat)
  red : Nat × Nat
  part : Nat
  deriving DecidableEq, Repr

/-- Who reaches the cluster control space: the RISC-V mode of the Gaffer's access (R286). -/
inductive GMode where
  | user | supervisor | machine
  deriving DecidableEq, Repr

/-- What the Gaffer does at a physical address (R285, R331). -/
inductive GOp where
  | load
  | store (v : Nat)
  deriving DecidableEq, Repr

/-- How a unit's storage error is found (R365, R370). -/
inductive ErrKind where
  | none | corrected | uncorrectable
  deriving DecidableEq, Repr, Inhabited

/-- What the outside world presents with a request: the request latch of the module's ports. One record serves
the CXL links, the management port, the fabric manager, the DOE mailboxes and the sensors; each event reads the
fields it names. -/
structure Request where
  ld : Nat := 0
  port : Nat := 0
  die : Nat := 0
  cl : Nat := 0
  addr : Nat := 0
  len : Nat := 0
  val : BitVec 64 := 0
  bytes : List Byte := []
  nonce : BitVec 256 := 0
  ok : Bool := false
  ok2 : Bool := false
  ok3 : Bool := false
  err : ErrKind := .none
  temps : List (Nat × Nat) := []
  hot : List Nat := []
  deriving DecidableEq, Repr, Inhabited

/-- The instructions and events, one constructor for each row of the opcode table. -/
inductive Instr where
  -- C-slot (R141); the first argument is the predicate selector
  | nop
  | br (p : BitVec 3) (disp : BitVec 23)
  | bri (p : BitVec 3) (sb : BitVec 6) (aa : BitVec 4)
  | call (p : BitVec 3) (disp : BitVec 23)
  | calli (p : BitVec 3) (sb : BitVec 6) (aa : BitVec 4)
  | ret (p : BitVec 3)
  | bmz (p : BitVec 3) (disp : BitVec 23)
  | bsel (p : BitVec 3) (sd sa : BitVec 6) (aT : BitVec 4)
  | loop (p : BitVec 3) (aR : BitVec 4)
  | lexit (p : BitVec 3)
  | wait (p : BitVec 3) (sd : BitVec 6) (aB : BitVec 4)
  | wquiet (p : BitVec 3) (sd sT : BitVec 6)
  | yield (p : BitVec 3)
  | spawn (p : BitVec 3) (sd sW sP : BitVec 6) (aE : BitVec 4)
  | done (p : BitVec 3)
  | pont (p : BitVec 3) (disp : BitVec 23)
  | commit (p : BitVec 3)
  | abort (p : BitVec 3)
  | svc (p : BitVec 3) (n : BitVec 16)
  | trap (p : BitVec 3) (n : BitVec 16)
  | brk (p : BitVec 3) (n : BitVec 16)
  | mfc (p : BitVec 3) (sd : BitVec 6) (creg : BitVec 12)
  | mtc (p : BitVec 3) (creg : BitVec 12) (sS : BitVec 6)
  | tbar (p : BitVec 3)
  | permit (p : BitVec 3) (mask : BitVec 4)
  -- S-slot (R142)
  | add (c : Cond) (sd sa sb : BitVec 6)
  | sub (c : Cond) (sd sa sb : BitVec 6)
  | and (c : Cond) (sd sa sb : BitVec 6)
  | or (c : Cond) (sd sa sb : BitVec 6)
  | xor (c : Cond) (sd sa sb : BitVec 6)
  | andn (c : Cond) (sd sa sb : BitVec 6)
  | shl (c : Cond) (sd sa sb : BitVec 6)
  | shr (c : Cond) (sd sa sb : BitVec 6)
  | sar (c : Cond) (sd sa sb : BitVec 6)
  | mul (c : Cond) (sd sa sb : BitVec 6)
  | mulh (c : Cond) (sd sa sb : BitVec 6)
  | mulhu (c : Cond) (sd sa sb : BitVec 6)
  | div (c : Cond) (sd sa sb : BitVec 6)
  | divu (c : Cond) (sd sa sb : BitVec 6)
  | rem (c : Cond) (sd sa sb : BitVec 6)
  | remu (c : Cond) (sd sa sb : BitVec 6)
  | min (c : Cond) (sd sa sb : BitVec 6)
  | max (c : Cond) (sd sa sb : BitVec 6)
  | minu (c : Cond) (sd sa sb : BitVec 6)
  | maxu (c : Cond) (sd sa sb : BitVec 6)
  | cmp (c : Cond) (cond : CmpCond) (pd : BitVec 3) (sa sb : BitVec 6)
  | sel (c : Cond) (sd sa sb : BitVec 6) (pc : BitVec 3)
  | addi (c : Cond) (sd sa : BitVec 6) (imm : BitVec 17)
  | andi (c : Cond) (sd sa : BitVec 6) (imm : BitVec 17)
  | ori (c : Cond) (sd sa : BitVec 6) (imm : BitVec 17)
  | xori (c : Cond) (sd sa : BitVec 6) (imm : BitVec 17)
  | shli (c : Cond) (sd sa sh : BitVec 6)
  | shri (c : Cond) (sd sa sh : BitVec 6)
  | sari (c : Cond) (sd sa sh : BitVec 6)
  | li (c : Cond) (sd : BitVec 6) (imm : BitVec 22)
  | lih (c : Cond) (ext : Bool) (sd : BitVec 6) (imm : BitVec 22)
  | clz (c : Cond) (sd sa : BitVec 6)
  | popc (c : Cond) (sd sa : BitVec 6)
  | ext (c : Cond) (sd sa pos lenm1 : BitVec 6)
  | ins (c : Cond) (sd sa pos lenm1 : BitVec 6)
  | lea (c : Cond) (ad aa : BitVec 4) (sb : BitVec 6) (sh : BitVec 3)
  | leai (c : Cond) (ad aa : BitVec 4) (imm : BitVec 21)
  | amovSToA (c : Cond) (ad : BitVec 4) (sS : BitVec 6)
  | amovAToS (c : Cond) (sd : BitVec 6) (aa : BitVec 4)
  | plog (c : Cond) (pd pa pb : BitVec 3) (tt : BitVec 4)
  | widf (c : Cond) (sd sa : BitVec 6) (n : BitVec 3)
  | widfTeam (c : Cond) (sd sa : BitVec 6)
  | widfRank (c : Cond) (sd sa : BitVec 6)
  | fadd (c : Cond) (f : FFmt) (rm : Rm) (sd sa sb : BitVec 6)
  | fsub (c : Cond) (f : FFmt) (rm : Rm) (sd sa sb : BitVec 6)
  | fmul (c : Cond) (f : FFmt) (rm : Rm) (sd sa sb : BitVec 6)
  | ffma (c : Cond) (f : FFmt) (rm : Rm) (sd sa sb : BitVec 6)
  | fmin (c : Cond) (f : FFmt) (sd sa sb : BitVec 6)
  | fmax (c : Cond) (f : FFmt) (sd sa sb : BitVec 6)
  | fcmp (c : Cond) (cond : FCond) (f : FFmt) (pd : BitVec 3) (sa sb : BitVec 6)
  | fcvt (c : Cond) (dst src : CvtTy) (rm : Rm) (sat : Bool) (sd sa : BitVec 6)
  -- V-slot (R143)
  | vadd (c : Cond) (t : VType) (rm : Rm) (sat : Bool) (vd va vb : BitVec 5)
  | vsub (c : Cond) (t : VType) (rm : Rm) (sat : Bool) (vd va vb : BitVec 5)
  | vmul (c : Cond) (t : VType) (rm : Rm) (sat : Bool) (vd va vb : BitVec 5)
  | vfma (c : Cond) (t : VType) (rm : Rm) (sat : Bool) (vd va vb : BitVec 5)
  | vmin (c : Cond) (t : VType) (vd va vb : BitVec 5)
  | vmax (c : Cond) (t : VType) (vd va vb : BitVec 5)
  | vand (c : Cond) (t : VType) (vd va vb : BitVec 5)
  | vor (c : Cond) (t : VType) (vd va vb : BitVec 5)
  | vxor (c : Cond) (t : VType) (vd va vb : BitVec 5)
  | vshl (c : Cond) (t : VType) (vd va vb : BitVec 5)
  | vshr (c : Cond) (t : VType) (vd va vb : BitVec 5)
  | vsar (c : Cond) (t : VType) (vd va vb : BitVec 5)
  | vabs (c : Cond) (t : VType) (sat : Bool) (vd va : BitVec 5)
  | vneg (c : Cond) (t : VType) (sat : Bool) (vd va : BitVec 5)
  | vcvt (c : Cond) (dst src : VType) (rm : Rm) (sat : Bool) (vd va h : BitVec 5)
  | vcmp (c : Cond) (cond : VCond) (t : VType) (vd va vb : BitVec 5)
  | vsel (c : Cond) (t : VType) (vd va vb : BitVec 5)
  | vred (c : Cond) (op : RedOp) (t : VType) (rm : Rm) (sat : Bool) (vd va : BitVec 5)
  | vbcast (c : Cond) (t : VType) (vd : BitVec 5) (sS : BitVec 6)
  | vext (c : Cond) (t : VType) (sd : BitVec 6) (va lane : BitVec 5)
  | vins (c : Cond) (t : VType) (vd : BitVec 5) (sS : BitVec 6) (lane : BitVec 5)
  | vperm (c : Cond) (vd va vb : BitVec 5)
  | vexp2 (c : Cond) (t : VType) (rm : Rm) (vd va : BitVec 5)
  | vrcp (c : Cond) (t : VType) (rm : Rm) (vd va : BitVec 5)
  | vrsq (c : Cond) (t : VType) (rm : Rm) (vd va : BitVec 5)
  | vamax (c : Cond) (pk : BitVec 3) (va : BitVec 5)
  | kpush (c : Cond) (va : BitVec 5)
  | kinv (c : Cond)
  | kpop (c : Cond)
  | ktop (c : Cond) (sd : BitVec 6)
  | vld (c : Cond) (chk : Bool) (vd : BitVec 5) (a : BitVec 4) (imm : BitVec 14)
  | vst (c : Cond) (vs : BitVec 5) (a : BitVec 4) (imm : BitVec 14)
  | vlds (c : Cond) (vd : BitVec 5) (a : BitVec 4) (sS : BitVec 6)
  | vsts (c : Cond) (vs : BitVec 5) (a : BitVec 4) (sS : BitVec 6)
  | vgth (c : Cond) (vd : BitVec 5) (a : BitVec 4) (vb : BitVec 5)
  | vsct (c : Cond) (vs : BitVec 5) (a : BitVec 4) (vb : BitVec 5)
  | ldl (c : Cond) (sz : LSz) (chk : Bool) (sd : BitVec 6) (a : BitVec 4) (imm : BitVec 14)
  | stl (c : Cond) (sz : SSz) (sS : BitVec 6) (a : BitVec 4) (imm : BitVec 14)
  | viota (c : Cond) (t : VType) (vd : BitVec 5)
  | viotaRank (c : Cond) (t : VType) (vd : BitVec 5)
  -- M-slot (R144)
  | ld (c : Cond) (sz : LSz) (o : Ord) (sc : Scope) (chk : Bool) (sd : BitVec 6) (a : BitVec 4) (imm : BitVec 14)
  | st (c : Cond) (sz : SSz) (o : Ord) (sc : Scope) (sS : BitVec 6) (a : BitVec 4) (imm : BitVec 14)
  | ldv (c : Cond) (o : Ord) (sc : Scope) (chk : Bool) (vd : BitVec 5) (a : BitVec 4) (imm : BitVec 14)
  | stv (c : Cond) (o : Ord) (sc : Scope) (vs : BitVec 5) (a : BitVec 4) (imm : BitVec 14)
  | qld (c : Cond) (sz : LSz) (o : Ord) (sc : Scope) (chk : Bool) (q : BitVec 3) (a : BitVec 4) (imm : BitVec 11)
  | qvld (c : Cond) (o : Ord) (sc : Scope) (chk : Bool) (q : BitVec 3) (a : BitVec 4) (imm : BitVec 11)
  | qpop (c : Cond) (cls : Bool) (d : BitVec 6) (q : BitVec 3)
  | qst (c : Cond) (sz : SSz) (o : Ord) (sc : Scope) (q : BitVec 3) (sS : BitVec 6) (a : BitVec 4) (imm : BitVec 11)
  | qvst (c : Cond) (o : Ord) (sc : Scope) (q : BitVec 3) (vs : BitVec 5) (a : BitVec 4) (imm : BitVec 11)
  | atadd (c : Cond) (w8 : Bool) (o : Ord) (sc : Scope) (sd : BitVec 6) (a : BitVec 4) (sb : BitVec 6)
  | atand (c : Cond) (w8 : Bool) (o : Ord) (sc : Scope) (sd : BitVec 6) (a : BitVec 4) (sb : BitVec 6)
  | ator (c : Cond) (w8 : Bool) (o : Ord) (sc : Scope) (sd : BitVec 6) (a : BitVec 4) (sb : BitVec 6)
  | atxor (c : Cond) (w8 : Bool) (o : Ord) (sc : Scope) (sd : BitVec 6) (a : BitVec 4) (sb : BitVec 6)
  | atmin (c : Cond) (w8 : Bool) (o : Ord) (sc : Scope) (sd : BitVec 6) (a : BitVec 4) (sb : BitVec 6)
  | atmax (c : Cond) (w8 : Bool) (o : Ord) (sc : Scope) (sd : BitVec 6) (a : BitVec 4) (sb : BitVec 6)
  | atswp (c : Cond) (w8 : Bool) (o : Ord) (sc : Scope) (sd : BitVec 6) (a : BitVec 4) (sb : BitVec 6)
  | atcas (c : Cond) (w8 : Bool) (o : Ord) (sc : Scope) (sd : BitVec 6) (a : BitVec 4) (sb : BitVec 6)
  | atincw (c : Cond) (w8 : Bool) (o : Ord) (sc : Scope) (sd : BitVec 6) (a : BitVec 4) (sb : BitVec 6)
  | atbadd (c : Cond) (w8 : Bool) (o : Ord) (sc : Scope) (sd : BitVec 6) (a : BitVec 4) (sb : BitVec 6)
  | atfadd (c : Cond) (w8 : Bool) (rm : Rm) (o : Ord) (sc : Scope) (sd : BitVec 6) (a : BitVec 4) (sb : BitVec 6)
  | sinit (c : Cond) (o : Ord) (sc : Scope) (a : BitVec 4) (sb : BitVec 6)
  | sarv (c : Cond) (o : Ord) (sc : Scope) (sd : BitVec 6) (a : BitVec 4) (sb : BitVec 6)
  | bfacq (c : Cond) (a : BitVec 4) (ring : BitVec 3)
  | bfrel (c : Cond) (a : BitVec 4) (ring : BitVec 3)
  | gcopy (c : Cond) (sc : Scope) (ch : BitVec 2) (a : BitVec 4) (sd : BitVec 6)
  | mnest (c : Cond) (a : BitVec 4)
  | mprec (c : Cond) (cn : BitVec 3) (sS : BitVec 6)
  | mwld (c : Cond) (t : Bool) (cn : BitVec 3) (a : BitVec 4) (kvm1 : BitVec 8)
  | mma (c : Cond) (t nest ovw wrel : Bool) (cn : BitVec 3) (a : BitVec 4)
  | mdrn (c : Cond) (t clr pkEn : Bool) (pk : BitVec 3) (rm : Rm) (sat : Bool) (sc : Scope) (cn : BitVec 3) (a : BitVec 4) (sS : BitVec 6)
  | mpert (c : Cond) (log : Bool) (cn : BitVec 3) (a : BitVec 4) (sV : BitVec 6)
  | mstat (c : Cond) (sel : MSel) (sd : BitVec 6) (cn : BitVec 3)
  | xsend (c : Cond) (o : Ord) (sc : Scope) (sT : BitVec 6) (a : BitVec 4) (nm1 : BitVec 3)
  | xst (c : Cond) (sz : SSz) (o : Ord) (sc : Scope) (sS : BitVec 6) (a : BitVec 4) (imm : BitVec 8)
  | xld (c : Cond) (sz : LSz) (o : Ord) (sc : Scope) (sd : BitVec 6) (a : BitVec 4) (imm : BitVec 8)
  | xred (c : Cond) (op : RedOp) (ty : XTy) (o : Ord) (sc : Scope) (a : BitVec 4) (sb : BitVec 6)
  -- the machine's own steps and the outside world's inputs
  | regionLengthRollback (x : CtxId)
  | heldCommandIssue (x : CtxId)
  | doneComplete (x : CtxId)
  | launchEnd (l : Nat)
  | push (ld : Nat) (off : Nat) (bytes : List Byte)
  | dependenceMet (l d : Nat)
  | launchCheck (l : Nat)
  | teamCreate (l : Nat) (cl : Nat) (vbase : Nat)
  | itemCreate (cl : Nat) (team : Nat)
  | continuationPlace (x : CtxId) (crec : Nat) (base : Nat)
  | contextSelect (c : CoreId)
  | quantumExpiry (x : CtxId)
  | stallTimeout (x : CtxId)
  | registerFill (h : Home) (i : Nat)
  | eviction (cl : Nat)
  | waitWake (h : Home)
  | waitTimeout (h : Home)
  | loopIterationEnd (x : CtxId)
  | accessPerform (h : Home) (i : Nat)
  | queueDataArrival (h : Home) (q : Nat) (i : Nat)
  | syncArrival (i : Nat)
  | syncErrorArrival (i : Nat)
  | ringSlotAcquire (c : CoreId) (ring : Nat)
  | trackerRelease (c : CoreId) (i : Nat)
  | matrixPassStart (c : CoreId)
  | matrixPassRetire (c : CoreId)
  | tileWindowClose (c : CoreId) (t : Nat)
  | tstatUpdate (c : CoreId) (t : Nat)
  | weightLoadStart (c : CoreId) (i : Nat)
  | weightLoadLand (c : CoreId) (i : Nat)
  | drainLand (c : CoreId) (i : Nat)
  | deferredTrap (x : CtxId)
  | gatherSectorLand (c : CoreId) (ch : Nat) (id : Nat) (req : Nat)
  | gatherTransferComplete (c : CoreId) (ch : Nat) (id : Nat)
  | marverEntryStart (cl : Nat) (port : Nat)
  | marverEntryLand (cl : Nat) (port : Nat)
  | xsendDeliver (k : PktSrc) (cl : Nat)
  | xstArrival (k : PktSrc)
  | xldRequestArrival (k : PktSrc)
  | xldReplyArrival (k : PktSrc)
  | xredMerge (i j : Nat)
  | xredApply (k : PktSrc)
  | countingWave (peers : List PeerSum)
  | packetDrop (i : Nat)
  | lossRecordReceive (k : PktSrc)
  | breakpointStop (x : CtxId)
  | ctxctlStopreq (x : CtxId) (v : Bool)
  | contextStop (x : CtxId)
  | replay (x : CtxId)
  | next (x : CtxId)
  | replaynb (x : CtxId)
  | redirect (x : CtxId)
  | trapRecordEnqueue (cl : Nat)
  | svcAnswer (cl : Nat) (v2 : BitVec 64)
  | smaskWrite (cl : Nat) (gk : BitVec 3)
  | railWrite (cl : Nat) (greq : Bool)
  | dbgdataRead (c : CoreId)
  | dbgdataWrite (c : CoreId) (v : BitVec 64)
  | dbgfeWrite (c : CoreId) (v : BitVec 64)
  | budgetOverrun (x : CtxId)
  | pageWalk (cl : Nat) (w : WalkFor)
  | faultRecordEnqueue (cl : Nat)
  | retry (cl : Nat) (tag : BitVec 8)
  | fail (cl : Nat) (tag : BitVec 8)
  | tlbiPages (cl : Nat) (jslot : BitVec 4) (count : BitVec 16) (global : Bool)
  | tlbiJobSlot (cl : Nat) (jslot : BitVec 4) (global : Bool)
  | tlbiAll (cl : Nat) (global : Bool)
  | tlbiComplete (cl : Nat)
  | pageMoveGo (cl : Nat) (size : BitVec 2)
  | pageMoveComplete (cl : Nat)
  | preempt (cl : Nat) (v : BitVec 64)
  | preemptionTake (x : CtxId)
  | preload (x : CtxId) (crec : Nat)
  | qctlWrite (q : Nat) (v : BitVec 64)
  | cancel (q : Nat)
  | queueMakeResident (q : Nat)
  | jobTableWrite (ld : Nat) (ix : Nat) (e : JobEntry)
  | jobSlotUpdate (cl : Nat) (slot : Nat)
  | busRetry (die ch group : Nat) (pass : Bool)
  | busDiagnosisComplete (die ch : Nat) (lanes : List Nat) (pass : Bool)
  | reheatReplay (c : CoreId) (matrix : Bool) (again : Bool)
  | dieLinkDown (a b : Nat)
  | lehrMigrate (cl : Nat) (team : Nat) (target : Nat)
  | lmsgRead (cl : Nat)
  | controlRegisterWrite (cl : Nat) (off : Nat) (v : BitVec 64)
  | gafferAccess (cl : Nat) (mode : GMode) (addr : Nat) (n : Nat) (op : GOp)
  | railChangeComplete (cl : Nat)
  | clusterFailure (cl : Nat)
  | teamMoveComplete (cl : Nat) (team : Nat) (vbase : Nat)
  | reservedOpcode (slot : Slot) (word : BitVec 32) (field : Bool)
  -- requests and events of the outside world whose particulars stand in the request latch (State.req)
  | getVersion
  | getCapabilities
  | negotiateAlgorithms
  | getDigests
  | getCertificate
  | challenge
  | getMeasurements
  | keyExchange
  | finish
  | endSession
  | heartbeat
  | keyUpdate
  | sessionExpiry
  | lockInterfaceRequest
  | getDeviceInterfaceReport
  | getDeviceInterfaceState
  | startInterfaceRequest
  | stopInterfaceRequest
  | fmBind
  | hostMemoryWrite
  | hostMemoryRead
  | linkDown
  | completionTimeout
  | hostDeadReport
  | warmRestart
  | linkUp
  | rebind
  | freeze
  | thaw
  | partitionDestroy
  | ldctlWrite
  | patrolScrub
  | dieLinkReroute
  | lehrPredict
  | lehrMeasure
  | lehrUndoStep
  | fastThrottle
  | fastThrottleEnd
  | pcapWrite
  | fprioWrite
  | talarmWrite
  | moduleReset
  | recoveryImage
  | lockedRegisterError
  | waveSumsArrival
  deriving DecidableEq, Repr

/-- Where an error strikes: a word of L-mem, of the vault or of a code store by its number, a DRAM codeword, a tile element, a weight
plane, the path to the destination of an engine command (with the elements of a drain that it takes, by row * 256 + column) or of a
Marver's oldest entry, or a flit of a die link (R364, R369). -/
inductive Struck where
  | lmem (c : CoreId) (w : Nat)
  | vault (w : Nat)
  | code (cl w : Nat)
  | dram (w : Nat)
  | tile (c : CoreId) (t : Nat) (key : Nat)
  | plane (c : CoreId) (i : Nat)
  | path (c : CoreId) (id : Nat) (els : List Nat)
  | marver (cl port : Nat)
  | link (a b : Nat)
  deriving DecidableEq, Repr, Inhabited

/-- What moves next: a core issuing its running context's bundle, the reference tick, an event, a request
presented to the module's ports with its event, a host changing a byte of its own memory, or an error that a code finds. -/
inductive Turn where
  | issue (c : CoreId)
  | tick
  | event (i : Instr)
  | request (r : Request) (i : Instr)
  | hostStore (ld : Nat) (addr : Nat) (b : Byte)
  | strike (w : Struck) (k : ErrKind)
  deriving DecidableEq, Repr, Inhabited

end Sys2Proof
end

