-- ==== Sys2Proof/Decode.lean ====
section
/-! DEFINITION. Decoding of slot words and bundles, total on any bits, and the encoder beside it (R111 to R145).
A word that no entry defines decodes to `reservedOpcode` with its kind of fault (R145). -/

namespace Sys2Proof

/-- The kind of header a bundle holds (R126). `kind11` raises cause 0x01. -/
inductive Hdr where
  | none | extend | loop | modifier | kind11
  deriving DecidableEq, Repr

/-- Bits `lo` upward of a slot word, `n` of them. -/
def fld (w : BitVec 32) (lo n : Nat) : BitVec n := BitVec.ofNat n (w.toNat / 2 ^ lo)

/-- The same field as a number. -/
def fldN (w : BitVec 32) (lo n : Nat) : Nat := w.toNat / 2 ^ lo % 2 ^ n

/-- Bit `k` of a lent byte. -/
def lbit (b : BitVec 8) (k : Nat) : Bool := b.toNat / 2 ^ k % 2 == 1

def b2n (b : Bool) : Nat := if b then 1 else 0

/-! Codes of the enumerations. -/

def Rm.code : Rm → Nat
  | .rne => 0 | .rtz => 1 | .rdn => 2 | .rup => 3
def Rm.ofCode : Nat → Rm
  | 0 => .rne | 1 => .rtz | 2 => .rdn | _ => .rup
def Scope.code : Scope → Nat
  | .cl => 0 | .pk => 1 | .fb => 2 | .sy => 3
def Scope.ofCode : Nat → Scope
  | 0 => .cl | 1 => .pk | 2 => .fb | _ => .sy
def Ord.code : Ord → Nat
  | .plain => 0 | .acq => 1 | .rel => 2 | .ar => 3
def Ord.ofCode : Nat → Ord
  | 0 => .plain | 1 => .acq | 2 => .rel | _ => .ar
def LSz.code : LSz → Nat
  | .z1 => 0 | .z2 => 1 | .z4 => 2 | .z8 => 3 | .s1 => 4 | .s2 => 5 | .s4 => 6
def LSz.ofCode : Nat → Option LSz
  | 0 => some .z1 | 1 => some .z2 | 2 => some .z4 | 3 => some .z8 | 4 => some .s1 | 5 => some .s2 | 6 => some .s4 | _ => none
def SSz.code : SSz → Nat
  | .b1 => 0 | .b2 => 1 | .b4 => 2 | .b8 => 3
def SSz.ofCode : Nat → Option SSz
  | 0 => some .b1 | 1 => some .b2 | 2 => some .b4 | 3 => some .b8 | _ => none
def VType.code : VType → Nat
  | .s8 => 0 | .s16 => 1 | .s32 => 2 | .z8 => 3 | .z16 => 4 | .z32 => 5 | .f16 => 6 | .bf16 => 7 | .f32 => 8
def VType.ofCode : Nat → Option VType
  | 0 => some .s8 | 1 => some .s16 | 2 => some .s32 | 3 => some .z8 | 4 => some .z16 | 5 => some .z32
  | 6 => some .f16 | 7 => some .bf16 | 8 => some .f32 | _ => none
def CvtTy.code : CvtTy → Nat
  | .s32 => 0 | .z32 => 1 | .s64 => 2 | .z64 => 3 | .f16 => 4 | .bf16 => 5 | .f32 => 6 | .f64 => 7
def CvtTy.ofCode : Nat → CvtTy
  | 0 => .s32 | 1 => .z32 | 2 => .s64 | 3 => .z64 | 4 => .f16 | 5 => .bf16 | 6 => .f32 | _ => .f64
def CmpCond.code : CmpCond → Nat
  | .eq => 0 | .ne => 1 | .lt => 2 | .ge => 3 | .ltu => 4 | .geu => 5 | .tst => 6 | .ntst => 7
def CmpCond.ofCode : Nat → Option CmpCond
  | 0 => some .eq | 1 => some .ne | 2 => some .lt | 3 => some .ge | 4 => some .ltu | 5 => some .geu
  | 6 => some .tst | 7 => some .ntst | _ => none
def FCond.code : FCond → Nat
  | .eq => 0 | .lt => 1 | .le => 2 | .un => 3 | .ne => 4
def FCond.ofCode : Nat → Option FCond
  | 0 => some .eq | 1 => some .lt | 2 => some .le | 3 => some .un | 4 => some .ne | _ => none
def VCond.code : VCond → Nat
  | .eq => 0 | .ne => 1 | .lt => 2 | .le => 3 | .gt => 4 | .ge => 5 | .un => 6
def VCond.ofCode : Nat → Option VCond
  | 0 => some .eq | 1 => some .ne | 2 => some .lt | 3 => some .le | 4 => some .gt | 5 => some .ge | 6 => some .un | _ => none
def RedOp.code : RedOp → Nat
  | .add => 0 | .min => 1 | .max => 2 | .and => 3 | .or => 4 | .xor => 5
def RedOp.ofCode : Nat → Option RedOp
  | 0 => some .add | 1 => some .min | 2 => some .max | 3 => some .and | 4 => some .or | 5 => some .xor | _ => none
def XTy.code : XTy → Nat
  | .s32 => 0 | .z32 => 1 | .s64 => 2 | .z64 => 3 | .f32 => 4 | .bf16 => 5
def XTy.ofCode : Nat → Option XTy
  | 0 => some .s32 | 1 => some .z32 | 2 => some .s64 | 3 => some .z64 | 4 => some .f32 | 5 => some .bf16 | _ => none
def MSel.code : MSel → Nat
  | .tstat => 0 | .prec => 1 | .wload => 2 | .nest => 3
def MSel.ofCode : Nat → Option MSel
  | 0 => some .tstat | 1 => some .prec | 2 => some .wload | 3 => some .nest | _ => none
def FFmt.code : FFmt → Nat
  | .f32 => 0 | .f64 => 1
def FFmt.ofCode : Nat → FFmt
  | 0 => .f32 | _ => .f64

def VType.isFloat : VType → Bool
  | .f16 => true | .bf16 => true | .f32 => true | _ => false
def VType.isSigned : VType → Bool
  | .s8 => true | .s16 => true | .s32 => true | _ => false
/-- Element width in bits (R121, R176). -/
def VType.width : VType → Nat
  | .s8 => 8 | .z8 => 8 | .s16 => 16 | .z16 => 16 | .f16 => 16 | .bf16 => 16 | .s32 => 32 | .z32 => 32 | .f32 => 32
/-- Elements per lane (R176). -/
def VType.perLane (t : VType) : Nat := 32 / t.width
def CvtTy.isInt : CvtTy → Bool
  | .s32 => true | .z32 => true | .s64 => true | .z64 => true | _ => false
/-- Bytes of a load's size code (R120). -/
def LSz.bytes : LSz → Nat
  | .z1 => 1 | .z2 => 2 | .z4 => 4 | .z8 => 8 | .s1 => 1 | .s2 => 2 | .s4 => 4
/-- Whether a load's size code sign-extends (R120). -/
def LSz.signed : LSz → Bool
  | .s1 => true | .s2 => true | .s4 => true | _ => false
/-- Bytes of a store's size code (R120). -/
def SSz.bytes : SSz → Nat
  | .b1 => 1 | .b2 => 2 | .b4 => 4 | .b8 => 8
/-- Parts of a packed conversion: `P` of R186. -/
def vcvtParts (dst src : VType) : Nat :=
  Nat.max dst.perLane src.perLane / Nat.min dst.perLane src.perLane
def XTy.bytes : XTy → Nat
  | .s32 => 4 | .z32 => 4 | .s64 => 8 | .z64 => 8 | .f32 => 4 | .bf16 => 2
def XTy.isFloat : XTy → Bool
  | .f32 => true | .bf16 => true | _ => false

/-! Reading the lent byte (R127 to R130). -/

def dCond (h : Hdr) (b : BitVec 8) (w : BitVec 32) : Cond :=
  { p := fld w 23 3
    neg := lbit b 6
    te := lbit b 7
    loop := match h with
      | .loop =>
        if lbit b 5 then .first (BitVec.ofNat 3 (b.toNat / 2))
        else if lbit b 4 then .last (BitVec.ofNat 3 (b.toNat / 2)) else .always
      | _ => .always }

def dRm (h : Hdr) (b : BitVec 8) : Rm :=
  match h with
  | .modifier => Rm.ofCode (b.toNat / 16 % 4)
  | _ => .rne
def dSat (h : Hdr) (b : BitVec 8) : Bool :=
  match h with
  | .modifier => lbit b 3
  | _ => false
def dScope (h : Hdr) (b : BitVec 8) : Scope :=
  match h with
  | .modifier => Scope.ofCode (b.toNat / 2 % 4)
  | _ => .pk
def dChk (h : Hdr) (b : BitVec 8) : Bool :=
  match h with
  | .modifier => lbit b 0
  | _ => false

/-- The immediate of R129: `lo` is the format's field of `n` bits, `n + 6` bits under an extend header. -/
def dImm (h : Hdr) (b : BitVec 8) (n lo : Nat) : BitVec (n + 6) :=
  match h with
  | .extend => BitVec.ofNat (n + 6) (b.toNat % 64 * 2 ^ n + lo)
  | _ => BitVec.ofInt (n + 6) (sextN lo n)

/-- The length field of EXT and INS, bit 5 lent (R123, R168). -/
def dLen (h : Hdr) (b : BitVec 8) (lo : Nat) : BitVec 6 :=
  match h with
  | .extend => BitVec.ofNat 6 (b.toNat % 2 * 32 + lo)
  | _ => BitVec.ofNat 6 lo

/-! Decoders of the four slots. `none` stands for a field value that no entry defines (R119). -/

def orField (slot : Slot) (w : BitVec 32) : Option Instr → Instr
  | some i => i
  | none => .reservedOpcode slot w true

def guardF (ok : Bool) (i : Instr) : Option Instr := if ok then some i else none

/-- C-slot words (R141, R146): no lent byte, every unnamed field zero. -/
def decodeC (w : BitVec 32) : Option Instr :=
  let p := fld w 23 3
  let d := fld w 0 23
  let sd := fld w 17 6
  let sa := fld w 11 6
  let sb := fld w 5 6
  let aa := fld w 1 4
  let z (lo n : Nat) : Bool := fldN w lo n == 0
  match fldN w 26 6 with
  | 0x01 => some (.br p d)
  | 0x02 => guardF (z 17 6 && z 5 6 && z 0 1) (.bri p sa aa)
  | 0x03 => some (.call p d)
  | 0x04 => guardF (z 17 6 && z 5 6 && z 0 1) (.calli p sa aa)
  | 0x05 => guardF (z 0 23) (.ret p)
  | 0x06 => some (.bmz p d)
  | 0x07 => guardF (z 5 6 && z 0 1) (.bsel p sd sa aa)
  | 0x08 => guardF (z 17 6 && z 11 6 && z 5 6 && z 0 1) (.loop p aa)
  | 0x09 => guardF (z 0 23) (.lexit p)
  | 0x0A => guardF (z 11 6 && z 5 6 && z 0 1) (.wait p sd aa)
  | 0x0B => guardF (z 0 11) (.wquiet p sd sa)
  | 0x0C => guardF (z 0 23) (.yield p)
  | 0x0D => guardF (z 0 1) (.spawn p sd sa sb aa)
  | 0x0E => guardF (z 0 23) (.done p)
  | 0x0F => some (.pont p d)
  | 0x10 => guardF (z 0 23) (.commit p)
  | 0x11 => guardF (z 0 23) (.abort p)
  | 0x12 => guardF (z 16 7) (.svc p (fld w 0 16))
  | 0x13 => guardF (z 16 7) (.trap p (fld w 0 16))
  | 0x14 => guardF (z 16 7) (.brk p (fld w 0 16))
  | 0x15 => guardF (z 12 5) (.mfc p sd (fld w 0 12))
  | 0x16 => guardF (z 12 5) (.mtc p (fld w 0 12) sd)
  | 0x17 => guardF (z 0 23) (.tbar p)
  | 0x18 => guardF (z 4 19 && !z 0 4) (.permit p (fld w 0 4))
  | _ => none

/-- S-slot words (R142). -/
def decodeS (h : Hdr) (b : BitVec 8) (w : BitVec 32) : Option Instr :=
  let c := dCond h b w
  let sd := fld w 17 6
  let sa := fld w 11 6
  let sb := fld w 5 6
  let pd := fld w 20 3
  let z (lo n : Nat) : Bool := fldN w lo n == 0
  let f0 := z 0 5
  let rm := dRm h b
  let ff := FFmt.ofCode (fldN w 0 1)
  let imm := dImm h b 11 (fldN w 0 11)
  let len := dLen h b (fldN w 0 5)
  match fldN w 26 6 with
  | 0x01 => guardF f0 (.add c sd sa sb)
  | 0x02 => guardF f0 (.sub c sd sa sb)
  | 0x03 => guardF f0 (.and c sd sa sb)
  | 0x04 => guardF f0 (.or c sd sa sb)
  | 0x05 => guardF f0 (.xor c sd sa sb)
  | 0x06 => guardF f0 (.andn c sd sa sb)
  | 0x07 => guardF f0 (.shl c sd sa sb)
  | 0x08 => guardF f0 (.shr c sd sa sb)
  | 0x09 => guardF f0 (.sar c sd sa sb)
  | 0x0A => guardF f0 (.mul c sd sa sb)
  | 0x0B => guardF f0 (.mulh c sd sa sb)
  | 0x0C => guardF f0 (.mulhu c sd sa sb)
  | 0x0D => guardF f0 (.div c sd sa sb)
  | 0x0E => guardF f0 (.divu c sd sa sb)
  | 0x0F => guardF f0 (.rem c sd sa sb)
  | 0x10 => guardF f0 (.remu c sd sa sb)
  | 0x11 => guardF f0 (.min c sd sa sb)
  | 0x12 => guardF f0 (.max c sd sa sb)
  | 0x13 => guardF f0 (.minu c sd sa sb)
  | 0x14 => guardF f0 (.maxu c sd sa sb)
  | 0x15 => if z 17 3 then (CmpCond.ofCode (fldN w 0 5)).map fun k => .cmp c k pd sa sb else none
  | 0x16 => guardF (z 3 2) (.sel c sd sa sb (fld w 0 3))
  | 0x17 => some (.addi c sd sa imm)
  | 0x18 => some (.andi c sd sa imm)
  | 0x19 => some (.ori c sd sa imm)
  | 0x1A => some (.xori c sd sa imm)
  | 0x1B => guardF (z 6 5) (.shli c sd sa (fld w 0 6))
  | 0x1C => guardF (z 6 5) (.shri c sd sa (fld w 0 6))
  | 0x1D => guardF (z 6 5) (.sari c sd sa (fld w 0 6))
  | 0x1E => guardF (z 16 1) (.li c sd (dImm h b 16 (fldN w 0 16)))
  | 0x1F => guardF (z 16 1) (.lih c (h == .extend) sd
      (BitVec.ofNat 22 ((if h == .extend then b.toNat % 64 * 2 ^ 16 else 0) + fldN w 0 16)))
  | 0x20 => guardF (z 0 11) (.clz c sd sa)
  | 0x21 => guardF (z 0 11) (.popc c sd sa)
  | 0x22 => guardF (fldN w 5 6 + len.toNat + 1 ≤ 64) (.ext c sd sa sb len)
  | 0x23 => guardF (fldN w 5 6 + len.toNat + 1 ≤ 64) (.ins c sd sa sb len)
  | 0x24 => guardF (z 0 6) (.lea c (fld w 19 4) (fld w 15 4) (fld w 9 6) (fld w 6 3))
  | 0x25 => some (.leai c (fld w 19 4) (fld w 15 4) (dImm h b 15 (fldN w 0 15)))
  | 0x26 =>
    if z 0 12 then
      (if z 12 1 then some (.amovSToA c (fld w 13 4) sd) else some (.amovAToS c sd (fld w 13 4)))
    else none
  | 0x27 => guardF (z 4 10) (.plog c pd (fld w 17 3) (fld w 14 3) (fld w 0 4))
  | 0x28 =>
    if z 5 6 then
      (match fldN w 3 2 with
       | 0 => some (.widf c sd sa (fld w 0 3))
       | 1 => guardF (z 0 3) (.widfTeam c sd sa)
       | 2 => guardF (z 0 3) (.widfRank c sd sa)
       | _ => none)
    else none
  | 0x29 => guardF (z 1 4) (.fadd c ff rm sd sa sb)
  | 0x2A => guardF (z 1 4) (.fsub c ff rm sd sa sb)
  | 0x2B => guardF (z 1 4) (.fmul c ff rm sd sa sb)
  | 0x2C => guardF (z 1 4) (.ffma c ff rm sd sa sb)
  | 0x2D => guardF (z 1 4) (.fmin c ff sd sa sb)
  | 0x2E => guardF (z 1 4) (.fmax c ff sd sa sb)
  | 0x2F =>
    if z 17 3 && z 4 1 then
      (FCond.ofCode (fldN w 0 3)).map fun k => .fcmp c k (FFmt.ofCode (fldN w 3 1)) pd sa sb
    else none
  | 0x30 =>
    let dst := CvtTy.ofCode (fldN w 8 3)
    let src := CvtTy.ofCode (fldN w 5 3)
    guardF (f0 && !(dst == src) && !(dst.isInt && src.isInt)) (.fcvt c dst src rm (dSat h b) sd sa)
  | _ => none

/-- V-slot words (R143). -/
def decodeV (h : Hdr) (b : BitVec 8) (w : BitVec 32) : Option Instr :=
  let c := dCond h b w
  let vd := fld w 18 5
  let va := fld w 13 5
  let vb := fld w 8 5
  let z (lo n : Nat) : Bool := fldN w lo n == 0
  let rm := dRm h b
  let sat := dSat h b
  let ty := VType.ofCode (fldN w 4 4)
  let xty := VType.ofCode (fldN w 8 4)
  let f0 := z 0 4
  let bin (ok : VType → Bool) (k : VType → Instr) : Option Instr :=
    match ty with
    | some t => if f0 && ok t then some (k t) else none
    | none => none
  let any : VType → Bool := fun _ => true
  let int : VType → Bool := fun t => !t.isFloat
  let w32 : VType → Bool := fun t => t.width == 32
  let vm (k : Instr) : Option Instr := guardF (fldN w 10 3 == 7 && z 8 2 && z 22 1) k
  let imm := dImm h b 8 (fldN w 0 8)
  match fldN w 26 6 with
  | 0x01 => bin any fun t => .vadd c t rm sat vd va vb
  | 0x02 => bin any fun t => .vsub c t rm sat vd va vb
  | 0x03 => bin any fun t => .vmul c t rm sat vd va vb
  | 0x04 => bin any fun t => .vfma c t rm sat vd va vb
  | 0x05 => bin any fun t => .vmin c t vd va vb
  | 0x06 => bin any fun t => .vmax c t vd va vb
  | 0x07 => bin any fun t => .vand c t vd va vb
  | 0x08 => bin any fun t => .vor c t vd va vb
  | 0x09 => bin any fun t => .vxor c t vd va vb
  | 0x0A => bin int fun t => .vshl c t vd va vb
  | 0x0B => bin int fun t => .vshr c t vd va vb
  | 0x0C => bin int fun t => .vsar c t vd va vb
  | 0x0D => bin (fun _ => z 8 5) fun t => .vabs c t sat vd va
  | 0x0E => bin (fun _ => z 8 5) fun t => .vneg c t sat vd va
  | 0x0F =>
    (match ty, VType.ofCode (fldN w 0 4) with
     | some dst, some src =>
       guardF (!(dst == src) && decide (fldN w 8 5 < vcvtParts dst src)) (.vcvt c dst src rm sat vd va vb)
     | _, _ => none)
  | 0x10 =>
    (match ty, VCond.ofCode (fldN w 0 4) with
     | some t, some k => guardF (!(k == .un && !t.isFloat)) (.vcmp c k t vd va vb)
     | _, _ => none)
  | 0x11 => bin any fun t => .vsel c t vd va vb
  | 0x12 =>
    (match ty, RedOp.ofCode (fldN w 0 4) with
     | some t, some k =>
       guardF (z 8 5 && w32 t && !(t.isFloat && !(k == .add || k == .min || k == .max))) (.vred c k t rm sat vd va)
     | _, _ => none)
  | 0x13 => xty.bind fun t => guardF (z 0 8) (.vbcast c t vd (fld w 12 6))
  | 0x14 => xty.bind fun t => guardF (z 0 3 && w32 t) (.vext c t (fld w 12 6) vd (fld w 3 5))
  | 0x15 => xty.bind fun t => guardF (z 0 3 && w32 t) (.vins c t vd (fld w 12 6) (fld w 3 5))
  | 0x16 => bin (fun t => t == .z32) fun _ => .vperm c vd va vb
  | 0x17 => bin (fun t => t.isFloat && z 8 5) fun t => .vexp2 c t rm vd va
  | 0x18 => bin (fun t => t.isFloat && z 8 5) fun t => .vrcp c t rm vd va
  | 0x19 => bin (fun t => t.isFloat && z 8 5) fun t => .vrsq c t rm vd va
  | 0x1A => bin (fun t => t == .f32 && z 8 5 && z 21 2) fun _ => .vamax c (fld w 18 3) va
  | 0x1B => guardF (z 18 5 && z 0 13) (.kpush c va)
  | 0x1C => guardF (z 0 23) (.kinv c)
  | 0x1D => guardF (z 0 23) (.kpop c)
  | 0x1E => guardF (z 18 5 && z 0 12) (.ktop c (fld w 12 6))
  | 0x1F => vm (.vld c (dChk h b) (fld w 17 5) (fld w 13 4) imm)
  | 0x20 => vm (.vst c (fld w 17 5) (fld w 13 4) imm)
  | 0x21 => guardF (z 22 1 && z 0 7) (.vlds c (fld w 17 5) (fld w 13 4) (fld w 7 6))
  | 0x22 => guardF (z 22 1 && z 0 7) (.vsts c (fld w 17 5) (fld w 13 4) (fld w 7 6))
  | 0x23 => guardF (z 22 1 && z 0 8) (.vgth c (fld w 17 5) (fld w 13 4) (fld w 8 5))
  | 0x24 => guardF (z 22 1 && z 0 8) (.vsct c (fld w 17 5) (fld w 13 4) (fld w 8 5))
  | 0x25 => if z 8 2 then (LSz.ofCode (fldN w 10 3)).map fun k => .ldl c k (dChk h b) (fld w 17 6) (fld w 13 4) imm else none
  | 0x26 => if z 8 2 then (SSz.ofCode (fldN w 10 3)).map fun k => .stl c k (fld w 17 6) (fld w 13 4) imm else none
  | 0x27 =>
    (match ty, fldN w 0 4 with
     | some t, 0 => guardF (z 8 10 && !t.isFloat) (.viota c t vd)
     | some t, 1 => guardF (z 8 10 && !t.isFloat && w32 t) (.viotaRank c t vd)
     | _, _ => none)
  | _ => none

/-- M-slot words (R144). -/
def decodeM (h : Hdr) (b : BitVec 8) (w : BitVec 32) : Option Instr :=
  let c := dCond h b w
  let d6 := fld w 17 6
  let d5 := fld w 17 5
  let a := fld w 13 4
  let sc := dScope h b
  let chk := dChk h b
  let o := Ord.ofCode (fldN w 8 2)
  let z (lo n : Nat) : Bool := fldN w lo n == 0
  let lsz := LSz.ofCode (fldN w 10 3)
  let ssz := SSz.ofCode (fldN w 10 3)
  let vec := fldN w 10 3 == 7 && z 22 1
  let imm := dImm h b 8 (fldN w 0 8)
  let qimm := dImm h b 5 (fldN w 0 5)
  let q := fld w 5 3
  let sb := fld w 2 6
  let at1 (k : Bool → Instr) : Option Instr :=
    if z 0 2 then
      (match fldN w 10 3 with
       | 2 => some (k false)
       | 3 => some (k true)
       | _ => none)
    else none
  let ma := fld w 19 4
  let mc := fld w 16 3
  match fldN w 26 6 with
  | 0x01 => lsz.map fun k => .ld c k o sc chk d6 a imm
  | 0x02 => ssz.map fun k => .st c k o sc d6 a imm
  | 0x03 => guardF vec (.ldv c o sc chk d5 a imm)
  | 0x04 => guardF vec (.stv c o sc d5 a imm)
  | 0x05 => if z 17 6 then lsz.map fun k => .qld c k o sc chk q a qimm else none
  | 0x06 => guardF (z 17 6 && fldN w 10 3 == 7) (.qvld c o sc chk q a qimm)
  | 0x07 => guardF (z 0 13 && (z 13 1 || z 22 1)) (.qpop c (!z 13 1) d6 (fld w 14 3))
  | 0x08 => ssz.map fun k => .qst c k o sc q d6 a qimm
  | 0x09 => guardF vec (.qvst c o sc q d5 a qimm)
  | 0x0A => at1 fun k => .atadd c k o sc d6 a sb
  | 0x0B => at1 fun k => .atand c k o sc d6 a sb
  | 0x0C => at1 fun k => .ator c k o sc d6 a sb
  | 0x0D => at1 fun k => .atxor c k o sc d6 a sb
  | 0x0E => at1 fun k => .atmin c k o sc d6 a sb
  | 0x0F => at1 fun k => .atmax c k o sc d6 a sb
  | 0x10 => at1 fun k => .atswp c k o sc d6 a sb
  | 0x11 => at1 fun k => .atcas c k o sc d6 a sb
  | 0x12 => at1 fun k => .atincw c k o sc d6 a sb
  | 0x13 => at1 fun k => .atbadd c k o sc d6 a sb
  | 0x14 => at1 fun k => .atfadd c k (dRm h b) o sc d6 a sb
  | 0x15 => guardF (z 17 6 && z 10 3 && z 0 2) (.sinit c o sc a sb)
  | 0x16 => guardF (z 10 3 && z 0 2) (.sarv c o sc d6 a sb)
  | 0x17 => guardF (z 0 16) (.bfacq c ma mc)
  | 0x18 => guardF (z 0 16) (.bfrel c ma mc)
  | 0x19 => guardF (z 18 1 && z 6 10) (.gcopy c sc (fld w 16 2) ma (fld w 0 6))
  | 0x1A => guardF (z 0 19) (.mnest c ma)
  | 0x1B => guardF (z 0 14) (.mprec c (fld w 14 3) d6)
  | 0x1C => guardF (z 14 2 && z 8 5) (.mwld c (!z 13 1) mc ma (fld w 0 8))
  | 0x1D => guardF (z 0 10 && z 11 2) (.mma c (!z 13 1) (!z 14 1) (!z 15 1) (!z 10 1) mc ma)
  | 0x1E => guardF (z 6 4 && (!z 10 1 || z 13 3))
      (.mdrn c (!z 12 1) (!z 11 1) (!z 10 1) (fld w 13 3) (dRm h b) (dSat h b) sc mc ma (fld w 0 6))
  | 0x1F => guardF (z 13 3 && z 11 2 && z 6 4) (.mpert c (!z 10 1) mc ma (fld w 0 6))
  | 0x20 =>
    if z 0 11 then
      (match MSel.ofCode (fldN w 11 3) with
       | some k => guardF (!(k == .nest) || z 14 3) (.mstat c k d6 (fld w 14 3))
       | none => none)
    else none
  | 0x21 => guardF (z 10 3 && z 3 5) (.xsend c o sc d6 a (fld w 0 3))
  | 0x22 => ssz.map fun k => .xst c k o sc d6 a (fld w 0 8)
  | 0x23 => lsz.map fun k => .xld c k o sc d6 a (fld w 0 8)
  | 0x24 =>
    if z 3 5 then
      (match RedOp.ofCode (fldN w 10 3), XTy.ofCode (fldN w 0 3) with
       | some k, some t =>
         guardF (!(t.isFloat && !(k == .add || k == .min || k == .max))) (.xred c k t o sc a d6)
       | _, _ => none)
    else none
  | _ => none

/-- Whether the slot's table lists an opcode (R141 to R145). 0x00 is listed for NOP alone. -/
def opListed (slot : Slot) (op : Nat) : Bool :=
  match slot with
  | .c => decide (1 ≤ op ∧ op ≤ 0x18)
  | .s => decide (1 ≤ op ∧ op ≤ 0x30)
  | .v => decide (1 ≤ op ∧ op ≤ 0x27)
  | .m => decide (1 ≤ op ∧ op ≤ 0x24)

/-- One slot word under its header kind and lent byte. Total: a word with no meaning is `reservedOpcode`. -/
def decodeSlot (slot : Slot) (h : Hdr) (b : BitVec 8) (w : BitVec 32) : Instr :=
  if w == 0 then .nop
  else if opListed slot (fldN w 26 6) then
    orField slot w (match slot with
      | .c => decodeC w
      | .s => decodeS h b w
      | .v => decodeV h b w
      | .m => decodeM h b w)
  else .reservedOpcode slot w false

/-! Which lent bits a slot word accepts (R128, R147, R178, R201, R233, R263, R271). -/

/-- The lent bits an instruction accepts beside negate, trap-on-empty and the loop bits. -/
structure Accept where
  rm : Bool := false
  sat : Bool := false
  scope : Bool := false
  chk : Bool := false
  ext : Bool := false
  ext0 : Bool := false
  deriving DecidableEq, Repr

/-- Acceptance by slot and word: it depends on the opcode and, for some, on the type fields. -/
def accepts (slot : Slot) (w : BitVec 32) : Accept :=
  let op := fldN w 26 6
  let ty := VType.ofCode (fldN w 4 4)
  let isF := match ty with | some t => t.isFloat | none => false
  let isI := match ty with | some t => !t.isFloat | none => false
  let srcF := match VType.ofCode (fldN w 0 4) with | some t => t.isFloat | none => false
  match slot with
  | .c => { }
  | .s =>
    if op == 0x17 || op == 0x18 || op == 0x19 || op == 0x1A || op == 0x1E || op == 0x1F || op == 0x25 then { ext := true }
    else if op == 0x22 || op == 0x23 then { ext0 := true }
    else if op == 0x29 || op == 0x2A || op == 0x2B || op == 0x2C then { rm := true }
    else if op == 0x30 then { rm := true, sat := true }
    else { }
  | .v =>
    if decide (1 ≤ op ∧ op ≤ 4) then { rm := isF, sat := true }
    else if op == 0x0D || op == 0x0E then { sat := isI }
    else if op == 0x0F then { rm := isF || srcF, sat := true }
    else if op == 0x12 then { rm := fldN w 0 4 == 0 && ty == some .f32, sat := fldN w 0 4 == 0 && isI }
    else if op == 0x17 || op == 0x18 || op == 0x19 then { rm := true }
    else if op == 0x1F || op == 0x25 then { chk := true, ext := true }
    else if op == 0x20 || op == 0x26 then { ext := true }
    else { }
  | .m =>
    if op == 0x01 || op == 0x03 || op == 0x05 || op == 0x06 then { scope := true, chk := true, ext := true }
    else if op == 0x02 || op == 0x04 || op == 0x08 || op == 0x09 then { scope := true, ext := true }
    else if op == 0x14 then { scope := true, rm := true }
    else if decide (0x0A ≤ op ∧ op ≤ 0x16) then { scope := true }
    else if op == 0x19 then { scope := true }
    else if op == 0x1E then { rm := true, sat := true, scope := true }
    else if decide (0x21 ≤ op ∧ op ≤ 0x24) then { scope := true }
    else { }

/-- Whether a lent byte is an orphan extension (R128). A loop byte with neither flag names no level that counts: one of 6 or 7 there is
accepted and ignored (log entry 104). -/
def orphan (slot : Slot) (h : Hdr) (b : BitVec 8) (w : BitVec 32) : Bool :=
  let x := accepts slot w
  let lo := b.toNat % 64
  if w == 0 then !(b == 0)
  else if !opListed slot (fldN w 26 6) then false
  else match h with
    | .extend => !(x.ext || lo == 0 || (x.ext0 && decide (lo < 2)))
    | .loop => lo % 2 == 1
    | .modifier =>
      !((x.rm || lo / 16 == 0) && (x.sat || lo / 8 % 2 == 0) && (x.scope || lo / 2 % 4 == 0) && (x.chk || lo % 2 == 0))
    | _ => false

/-- Both loop flags of a byte set (R127), which raises cause 0x01; the byte of an unlisted opcode means nothing (R128, R145). -/
def loopBoth (slot : Slot) (h : Hdr) (b : BitVec 8) (w : BitVec 32) : Bool :=
  h == .loop && lbit b 5 && lbit b 4 && opListed slot (fldN w 26 6)

/-! Destinations, for the duplicate check of R117. -/

/-- The registers an instruction names as destination, implicit ones included (R117, R150, R160, R210). -/
def dests : Instr → List RegRef
  | .call _ _ => [.s 62] | .calli _ _ _ => [.s 62]
  | .bsel _ d _ _ => [.s d.toNat] | .wait _ d _ => [.s d.toNat] | .wquiet _ d _ => [.s d.toNat]
  | .spawn _ d _ _ _ => [.s d.toNat] | .svc _ _ => [.s 1, .s 2] | .mfc _ d _ => [.s d.toNat]
  | .add _ d _ _ => [.s d.toNat] | .sub _ d _ _ => [.s d.toNat] | .and _ d _ _ => [.s d.toNat] | .or _ d _ _ => [.s d.toNat]
  | .xor _ d _ _ => [.s d.toNat] | .andn _ d _ _ => [.s d.toNat] | .shl _ d _ _ => [.s d.toNat] | .shr _ d _ _ => [.s d.toNat]
  | .sar _ d _ _ => [.s d.toNat] | .mul _ d _ _ => [.s d.toNat] | .mulh _ d _ _ => [.s d.toNat] | .mulhu _ d _ _ => [.s d.toNat]
  | .div _ d _ _ => [.s d.toNat] | .divu _ d _ _ => [.s d.toNat] | .rem _ d _ _ => [.s d.toNat] | .remu _ d _ _ => [.s d.toNat]
  | .min _ d _ _ => [.s d.toNat] | .max _ d _ _ => [.s d.toNat] | .minu _ d _ _ => [.s d.toNat] | .maxu _ d _ _ => [.s d.toNat]
  | .cmp _ _ d _ _ => [.p d.toNat] | .sel _ d _ _ _ => [.s d.toNat]
  | .addi _ d _ _ => [.s d.toNat] | .andi _ d _ _ => [.s d.toNat] | .ori _ d _ _ => [.s d.toNat] | .xori _ d _ _ => [.s d.toNat]
  | .shli _ d _ _ => [.s d.toNat] | .shri _ d _ _ => [.s d.toNat] | .sari _ d _ _ => [.s d.toNat]
  | .li _ d _ => [.s d.toNat] | .lih _ _ d _ => [.s d.toNat] | .clz _ d _ => [.s d.toNat] | .popc _ d _ => [.s d.toNat]
  | .ext _ d _ _ _ => [.s d.toNat] | .ins _ d _ _ _ => [.s d.toNat] | .lea _ d _ _ _ => [.a d.toNat] | .leai _ d _ _ => [.a d.toNat]
  | .amovSToA _ d _ => [.a d.toNat] | .amovAToS _ d _ => [.s d.toNat] | .plog _ d _ _ _ => [.p d.toNat]
  | .widf _ d _ _ => [.s d.toNat] | .widfTeam _ d _ => [.s d.toNat] | .widfRank _ d _ => [.s d.toNat]
  | .fadd _ _ _ d _ _ => [.s d.toNat] | .fsub _ _ _ d _ _ => [.s d.toNat] | .fmul _ _ _ d _ _ => [.s d.toNat]
  | .ffma _ _ _ d _ _ => [.s d.toNat] | .fmin _ _ d _ _ => [.s d.toNat] | .fmax _ _ d _ _ => [.s d.toNat]
  | .fcmp _ _ _ d _ _ => [.p d.toNat] | .fcvt _ _ _ _ _ d _ => [.s d.toNat]
  | .vadd _ _ _ _ d _ _ => [.v d.toNat] | .vsub _ _ _ _ d _ _ => [.v d.toNat] | .vmul _ _ _ _ d _ _ => [.v d.toNat]
  | .vfma _ _ _ _ d _ _ => [.v d.toNat] | .vmin _ _ d _ _ => [.v d.toNat] | .vmax _ _ d _ _ => [.v d.toNat]
  | .vand _ _ d _ _ => [.v d.toNat] | .vor _ _ d _ _ => [.v d.toNat] | .vxor _ _ d _ _ => [.v d.toNat]
  | .vshl _ _ d _ _ => [.v d.toNat] | .vshr _ _ d _ _ => [.v d.toNat] | .vsar _ _ d _ _ => [.v d.toNat]
  | .vabs _ _ _ d _ => [.v d.toNat] | .vneg _ _ _ d _ => [.v d.toNat] | .vcvt _ _ _ _ _ d _ _ => [.v d.toNat]
  | .vcmp _ _ _ d _ _ => [.v d.toNat] | .vsel _ _ d _ _ => [.v d.toNat] | .vred _ _ _ _ _ d _ => [.v d.toNat]
  | .vbcast _ _ d _ => [.v d.toNat] | .vext _ _ d _ _ => [.s d.toNat] | .vins _ _ d _ _ => [.v d.toNat]
  | .vperm _ d _ _ => [.v d.toNat] | .vexp2 _ _ _ d _ => [.v d.toNat] | .vrcp _ _ _ d _ => [.v d.toNat] | .vrsq _ _ _ d _ => [.v d.toNat]
  | .ktop _ d => [.s d.toNat] | .vld _ _ d _ _ => [.v d.toNat] | .vlds _ d _ _ => [.v d.toNat] | .vgth _ d _ _ => [.v d.toNat]
  | .ldl _ _ _ d _ _ => [.s d.toNat] | .viota _ _ d => [.v d.toNat] | .viotaRank _ _ d => [.v d.toNat]
  | .ld _ _ _ _ _ d _ _ => [.s d.toNat] | .ldv _ _ _ _ d _ _ => [.v d.toNat]
  | .qpop _ k d _ => if k then [.v d.toNat] else [.s d.toNat]
  | .atadd _ _ _ _ d _ _ => [.s d.toNat] | .atand _ _ _ _ d _ _ => [.s d.toNat] | .ator _ _ _ _ d _ _ => [.s d.toNat]
  | .atxor _ _ _ _ d _ _ => [.s d.toNat] | .atmin _ _ _ _ d _ _ => [.s d.toNat] | .atmax _ _ _ _ d _ _ => [.s d.toNat]
  | .atswp _ _ _ _ d _ _ => [.s d.toNat] | .atcas _ _ _ _ d _ _ => [.s d.toNat] | .atincw _ _ _ _ d _ _ => [.s d.toNat]
  | .atbadd _ _ _ _ d _ _ => [.s d.toNat, .p 7] | .atfadd _ _ _ _ _ d _ _ => [.s d.toNat]
  | .sarv _ _ _ d _ _ => [.s d.toNat] | .bfacq _ d _ => [.a d.toNat] | .gcopy _ _ _ _ d => [.s d.toNat]
  | .mstat _ _ d _ => [.s d.toNat] | .xld _ _ _ _ d _ _ => [.s d.toNat]
  | _ => []

/-- The registers that the fields of a listed word name as destination, whatever its other fields hold (R117, R141 to R144). -/
def namedBy (slot : Slot) (w : BitVec 32) : List RegRef :=
  let op := fldN w 26 6
  let s (lo : Nat) : List RegRef := [.s (fldN w lo 6)]
  let v (lo : Nat) : List RegRef := [.v (fldN w lo 5)]
  match slot with
  | .c =>
    if op = 0x03 ∨ op = 0x04 then [.s 62]
    else if op = 0x12 then [.s 1, .s 2]
    else if op = 0x07 ∨ op = 0x0A ∨ op = 0x0B ∨ op = 0x0D ∨ op = 0x15 then s 17
    else []
  | .s =>
    if op = 0x15 ∨ op = 0x27 ∨ op = 0x2F then [.p (fldN w 20 3)]
    else if op = 0x24 ∨ op = 0x25 then [.a (fldN w 19 4)]
    else if op = 0x26 ∧ fldN w 12 1 = 0 then [.a (fldN w 13 4)]
    else s 17
  | .v =>
    if op ≤ 0x19 ∨ op = 0x27 then (if op = 0x14 then s 12 else v 18)
    else if op = 0x1E then s 12
    else if op = 0x1F ∨ op = 0x21 ∨ op = 0x23 then v 17
    else if op = 0x25 then s 17
    else []
  | .m =>
    if op = 0x03 then v 17
    else if op = 0x07 then (if fldN w 13 1 = 1 then v 17 else s 17)
    else if op = 0x13 then s 17 ++ [.p 7]
    else if op = 0x17 then [.a (fldN w 19 4)]
    else if op = 0x19 then s 0
    else if op = 0x01 ∨ (0x0A ≤ op ∧ op ≤ 0x16 ∧ op ≠ 0x15) ∨ op = 0x20 ∨ op = 0x23 then s 17
    else []

/-- The destinations of a decoded slot word: a field fault takes none of them away (R117, R140). -/
def slotDests (slot : Slot) : Instr → List RegRef
  | .reservedOpcode _ w true => namedBy slot w
  | i => dests i

/-- A discarded destination (s0, p0) is still a destination named twice (R117). -/
def clash (xs ys : List RegRef) : Bool := xs.any fun r => ys.any fun q => r == q

/-- Branch-class instructions (R131). -/
def isBranch : Instr → Bool
  | .br _ _ => true | .bri _ _ _ => true | .call _ _ => true | .calli _ _ _ => true
  | .ret _ => true | .bmz _ _ => true | .bsel _ _ _ _ => true | _ => false

def isLoop : Instr → Bool
  | .loop _ _ => true | _ => false

/-- What may not stand in a delay slot: a branch-class instruction or LOOP, also one with a field fault (R131, R140). -/
def notDelayed : Instr → Bool
  | .reservedOpcode .c w true => decide (1 ≤ fldN w 26 6 ∧ fldN w 26 6 ≤ 0x08)
  | i => isBranch i || isLoop i

/-! Bundles (R111, R126, R140 step 2, R200). -/

/-- A decoded bundle: its four words, header kind, lent bytes, instructions and bundle-level faults that the
words decide alone. -/
structure Bundle where
  w0 : BitVec 32
  w1 : BitVec 32
  w2 : BitVec 32
  w3 : BitVec 32
  hdr : Hdr
  c : Instr
  s : Instr
  v : Instr
  m : Instr
  orph : Option Nat
  dup : Option Nat
  both : Bool
  deriving DecidableEq, Repr

def hdrOf (w0 : BitVec 32) : Hdr :=
  if fldN w0 26 6 == 0x3F then
    (match fldN w0 24 2 with
     | 0 => .extend
     | 1 => .loop
     | 2 => .modifier
     | _ => .kind11)
  else .none

/-- Decodes a bundle. -/
def decodeBundle (w0 w1 w2 w3 : BitVec 32) : Bundle :=
  let h := hdrOf w0
  let lent (k : Nat) : BitVec 8 := if h == .none then 0 else fld w0 k 8
  let b1 := lent 0
  let b2 := lent 8
  let b3 := lent 16
  let ic := if h == .none then decodeSlot .c .none 0 w0 else .nop
  let is := decodeSlot .s h b1 w1
  let iv := decodeSlot .v h b2 w2
  let im := decodeSlot .m h b3 w3
  { w0 := w0, w1 := w1, w2 := w2, w3 := w3, hdr := h, c := ic, s := is, v := iv, m := im
    orph := if orphan .s h b1 w1 then some 1 else if orphan .v h b2 w2 then some 2
      else if orphan .m h b3 w3 then some 3 else none
    dup := if clash (slotDests .s is) (slotDests .c ic) then some 1
      else if clash (slotDests .v iv) (slotDests .c ic ++ slotDests .s is) then some 2
      else if clash (slotDests .m im) (slotDests .c ic ++ slotDests .s is ++ slotDests .v iv) then some 3 else none
    both := loopBoth .s h b1 w1 || loopBoth .v h b2 w2 || loopBoth .m h b3 w3 }

/-- Little-endian words of sixteen bytes (R111). -/
def wordAt (bs : List Byte) (k : Nat) : BitVec 32 :=
  BitVec.ofNat 32 ((bs.getD k 0).toNat + (bs.getD (k + 1) 0).toNat * 2 ^ 8 + (bs.getD (k + 2) 0).toNat * 2 ^ 16
    + (bs.getD (k + 3) 0).toNat * 2 ^ 24)

def decodeBytes (bs : List Byte) : Bundle :=
  decodeBundle (wordAt bs 0) (wordAt bs 4) (wordAt bs 8) (wordAt bs 12)

/-! The encoder, from the same tables. -/

/-- What an instruction asks of its lent byte. -/
structure Lend where
  rm : Rm := .rne
  sat : Bool := false
  scope : Scope := .pk
  hasScope : Bool := false
  chk : Bool := false
  ext : Nat := 0
  base : Bool := true
  onlyExt : Bool := false
  noExt : Bool := false
  deriving DecidableEq, Repr

/-- The lent byte under a header kind, or none where that kind cannot carry what the instruction asks. -/
def lentByte (h : Hdr) (c : Cond) (x : Lend) : Option Nat :=
  let plainMods := x.rm == .rne && !x.sat && x.scope == .pk && !x.chk
  let top := b2n c.te * 128 + b2n c.neg * 64
  match h with
  | .none => if !c.te && !c.neg && c.loop == .always && plainMods && x.base && !x.onlyExt then some 0 else none
  | .extend => if c.loop == .always && plainMods && !x.noExt then some (top + x.ext) else none
  | .loop =>
    if plainMods && x.base && !x.onlyExt then
      (match c.loop with
       | .always => some top
       | .first n => some (top + 32 + n.toNat * 2)
       | .last n => some (top + 16 + n.toNat * 2))
    else none
  | .modifier =>
    if c.loop == .always && x.base && !x.onlyExt then
      some (top + x.rm.code * 16 + b2n x.sat * 8 + (if x.hasScope then x.scope.code * 2 else 0) + b2n x.chk)
    else none
  | .kind11 => none

/-- Whether a value of `n + 6` bits is the sign extension of its low `n`. -/
def fits (n : Nat) (v : BitVec (n + 6)) : Bool := BitVec.ofInt (n + 6) (sextN (v.toNat % 2 ^ n) n) == v

def immLend (n : Nat) (v : BitVec (n + 6)) : Lend := { ext := v.toNat / 2 ^ n, base := fits n v }

/-- An encoded slot: which slot, the word and the lent byte. -/
structure Enc where
  slot : Slot
  word : BitVec 32
  byte : BitVec 8
  deriving DecidableEq, Repr

def mk (slot : Slot) (op : Nat) (p : BitVec 3) (rest : Nat) (b : Option Nat) : Option Enc :=
  b.map fun k => ⟨slot, BitVec.ofNat 32 (op * 2 ^ 26 + p.toNat * 2 ^ 23 + rest), BitVec.ofNat 8 k⟩

def encC (h : Hdr) (op : Nat) (p : BitVec 3) (rest : Nat) : Option Enc :=
  if h == .none then mk .c op p rest (some 0) else none
def fCR (sd sa sb : BitVec 6) (aa : BitVec 4) : Nat :=
  sd.toNat * 2 ^ 17 + sa.toNat * 2 ^ 11 + sb.toNat * 2 ^ 5 + aa.toNat * 2
def encSR (h : Hdr) (op : Nat) (c : Cond) (sd sa sb : BitVec 6) (func : Nat) (x : Lend := { }) : Option Enc :=
  mk .s op c.p (sd.toNat * 2 ^ 17 + sa.toNat * 2 ^ 11 + sb.toNat * 2 ^ 5 + func) (lentByte h c x)
def encSC (h : Hdr) (op : Nat) (c : Cond) (pd : BitVec 3) (sa sb : BitVec 6) (cond : Nat) : Option Enc :=
  mk .s op c.p (pd.toNat * 2 ^ 20 + sa.toNat * 2 ^ 11 + sb.toNat * 2 ^ 5 + cond) (lentByte h c { })
def encSI (h : Hdr) (op : Nat) (c : Cond) (sd sa : BitVec 6) (lo : Nat) (x : Lend) : Option Enc :=
  mk .s op c.p (sd.toNat * 2 ^ 17 + sa.toNat * 2 ^ 11 + lo) (lentByte h c x)
def encVR (h : Hdr) (op : Nat) (c : Cond) (vd va vb : BitVec 5) (t func : Nat) (x : Lend := { }) : Option Enc :=
  mk .v op c.p (vd.toNat * 2 ^ 18 + va.toNat * 2 ^ 13 + vb.toNat * 2 ^ 8 + t * 2 ^ 4 + func) (lentByte h c x)
def encVX (h : Hdr) (op : Nat) (c : Cond) (v : BitVec 5) (s : BitVec 6) (t lane : Nat) : Option Enc :=
  mk .v op c.p (v.toNat * 2 ^ 18 + s.toNat * 2 ^ 12 + t * 2 ^ 8 + lane * 2 ^ 3) (lentByte h c { })
def encVM (h : Hdr) (op : Nat) (c : Cond) (data : Nat) (a : BitVec 4) (size : Nat) (imm : BitVec 14) (chk : Bool) : Option Enc :=
  mk .v op c.p (data * 2 ^ 17 + a.toNat * 2 ^ 13 + size * 2 ^ 10 + imm.toNat % 2 ^ 8)
    (lentByte h c { immLend 8 imm with chk := chk })
def encMM (h : Hdr) (op : Nat) (c : Cond) (data : Nat) (a : BitVec 4) (size : Nat) (o : Ord) (imm : BitVec 14) (sc : Scope)
    (chk : Bool) : Option Enc :=
  mk .m op c.p (data * 2 ^ 17 + a.toNat * 2 ^ 13 + size * 2 ^ 10 + o.code * 2 ^ 8 + imm.toNat % 2 ^ 8)
    (lentByte h c { immLend 8 imm with chk := chk, scope := sc, hasScope := true })
def encMQ (h : Hdr) (op : Nat) (c : Cond) (data : Nat) (a : BitVec 4) (size : Nat) (o : Ord) (q : BitVec 3) (imm : BitVec 11)
    (sc : Scope) (chk : Bool) : Option Enc :=
  mk .m op c.p (data * 2 ^ 17 + a.toNat * 2 ^ 13 + size * 2 ^ 10 + o.code * 2 ^ 8 + q.toNat * 2 ^ 5 + imm.toNat % 2 ^ 5)
    (lentByte h c { immLend 5 imm with chk := chk, scope := sc, hasScope := true })
def encMA (h : Hdr) (op : Nat) (c : Cond) (d : BitVec 6) (a : BitVec 4) (size : Nat) (o : Ord) (sb : BitVec 6) (sc : Scope)
    (rm : Rm := .rne) : Option Enc :=
  mk .m op c.p (d.toNat * 2 ^ 17 + a.toNat * 2 ^ 13 + size * 2 ^ 10 + o.code * 2 ^ 8 + sb.toNat * 2 ^ 2)
    (lentByte h c { rm := rm, scope := sc, hasScope := true })
def encME (h : Hdr) (op : Nat) (c : Cond) (a : BitVec 4) (cn : BitVec 3) (x y flags : Nat) (l : Lend := { }) : Option Enc :=
  mk .m op c.p (a.toNat * 2 ^ 19 + cn.toNat * 2 ^ 16 + x * 2 ^ 13 + y * 2 ^ 10 + flags) (lentByte h c l)
def encMX (h : Hdr) (op : Nat) (c : Cond) (s : BitVec 6) (a : BitVec 4) (sel : Nat) (o : Ord) (lo : Nat) (sc : Scope) : Option Enc :=
  mk .m op c.p (s.toNat * 2 ^ 17 + a.toNat * 2 ^ 13 + sel * 2 ^ 10 + o.code * 2 ^ 8 + lo)
    (lentByte h c { scope := sc, hasScope := true })
def w8size (w8 : Bool) : Nat := if w8 then 3 else 2

/-- The word and lent byte of an instruction under a header kind; none for an event, and where that kind of
header cannot carry what the instruction asks. -/
def encodeSlot (h : Hdr) : Instr → Option Enc
  | .nop => if h == .none then some ⟨.c, 0, 0⟩ else none
  | .br p d => encC h 0x01 p d.toNat
  | .bri p sb aa => encC h 0x02 p (fCR 0 sb 0 aa)
  | .call p d => encC h 0x03 p d.toNat
  | .calli p sb aa => encC h 0x04 p (fCR 0 sb 0 aa)
  | .ret p => encC h 0x05 p 0
  | .bmz p d => encC h 0x06 p d.toNat
  | .bsel p sd sa aT => encC h 0x07 p (fCR sd sa 0 aT)
  | .loop p aR => encC h 0x08 p (fCR 0 0 0 aR)
  | .lexit p => encC h 0x09 p 0
  | .wait p sd aB => encC h 0x0A p (fCR sd 0 0 aB)
  | .wquiet p sd sT => encC h 0x0B p (fCR sd sT 0 0)
  | .yield p => encC h 0x0C p 0
  | .spawn p sd sW sP aE => encC h 0x0D p (fCR sd sW sP aE)
  | .done p => encC h 0x0E p 0
  | .pont p d => encC h 0x0F p d.toNat
  | .commit p => encC h 0x10 p 0
  | .abort p => encC h 0x11 p 0
  | .svc p n => encC h 0x12 p n.toNat
  | .trap p n => encC h 0x13 p n.toNat
  | .brk p n => encC h 0x14 p n.toNat
  | .mfc p sd creg => encC h 0x15 p (sd.toNat * 2 ^ 17 + creg.toNat)
  | .mtc p creg sS => encC h 0x16 p (sS.toNat * 2 ^ 17 + creg.toNat)
  | .tbar p => encC h 0x17 p 0
  | .permit p mask => encC h 0x18 p mask.toNat
  | .add c sd sa sb => encSR h 0x01 c sd sa sb 0
  | .sub c sd sa sb => encSR h 0x02 c sd sa sb 0
  | .and c sd sa sb => encSR h 0x03 c sd sa sb 0
  | .or c sd sa sb => encSR h 0x04 c sd sa sb 0
  | .xor c sd sa sb => encSR h 0x05 c sd sa sb 0
  | .andn c sd sa sb => encSR h 0x06 c sd sa sb 0
  | .shl c sd sa sb => encSR h 0x07 c sd sa sb 0
  | .shr c sd sa sb => encSR h 0x08 c sd sa sb 0
  | .sar c sd sa sb => encSR h 0x09 c sd sa sb 0
  | .mul c sd sa sb => encSR h 0x0A c sd sa sb 0
  | .mulh c sd sa sb => encSR h 0x0B c sd sa sb 0
  | .mulhu c sd sa sb => encSR h 0x0C c sd sa sb 0
  | .div c sd sa sb => encSR h 0x0D c sd sa sb 0
  | .divu c sd sa sb => encSR h 0x0E c sd sa sb 0
  | .rem c sd sa sb => encSR h 0x0F c sd sa sb 0
  | .remu c sd sa sb => encSR h 0x10 c sd sa sb 0
  | .min c sd sa sb => encSR h 0x11 c sd sa sb 0
  | .max c sd sa sb => encSR h 0x12 c sd sa sb 0
  | .minu c sd sa sb => encSR h 0x13 c sd sa sb 0
  | .maxu c sd sa sb => encSR h 0x14 c sd sa sb 0
  | .cmp c k pd sa sb => encSC h 0x15 c pd sa sb k.code
  | .sel c sd sa sb pc => encSR h 0x16 c sd sa sb pc.toNat
  | .addi c sd sa imm => encSI h 0x17 c sd sa (imm.toNat % 2 ^ 11) (immLend 11 imm)
  | .andi c sd sa imm => encSI h 0x18 c sd sa (imm.toNat % 2 ^ 11) (immLend 11 imm)
  | .ori c sd sa imm => encSI h 0x19 c sd sa (imm.toNat % 2 ^ 11) (immLend 11 imm)
  | .xori c sd sa imm => encSI h 0x1A c sd sa (imm.toNat % 2 ^ 11) (immLend 11 imm)
  | .shli c sd sa sh => encSI h 0x1B c sd sa sh.toNat { }
  | .shri c sd sa sh => encSI h 0x1C c sd sa sh.toNat { }
  | .sari c sd sa sh => encSI h 0x1D c sd sa sh.toNat { }
  | .li c sd imm => mk .s 0x1E c.p (sd.toNat * 2 ^ 17 + imm.toNat % 2 ^ 16) (lentByte h c (immLend 16 imm))
  | .lih c ext sd imm => mk .s 0x1F c.p (sd.toNat * 2 ^ 17 + imm.toNat % 2 ^ 16)
      (lentByte h c { ext := imm.toNat / 2 ^ 16, base := decide (imm.toNat < 2 ^ 16), onlyExt := ext, noExt := !ext })
  | .clz c sd sa => encSR h 0x20 c sd sa 0 0
  | .popc c sd sa => encSR h 0x21 c sd sa 0 0
  | .ext c sd sa pos len => encSR h 0x22 c sd sa pos (len.toNat % 32) { ext := len.toNat / 32, base := decide (len.toNat < 32) }
  | .ins c sd sa pos len => encSR h 0x23 c sd sa pos (len.toNat % 32) { ext := len.toNat / 32, base := decide (len.toNat < 32) }
  | .lea c ad aa sb sh => mk .s 0x24 c.p (ad.toNat * 2 ^ 19 + aa.toNat * 2 ^ 15 + sb.toNat * 2 ^ 9 + sh.toNat * 2 ^ 6) (lentByte h c { })
  | .leai c ad aa imm => mk .s 0x25 c.p (ad.toNat * 2 ^ 19 + aa.toNat * 2 ^ 15 + imm.toNat % 2 ^ 15) (lentByte h c (immLend 15 imm))
  | .amovSToA c ad sS => mk .s 0x26 c.p (sS.toNat * 2 ^ 17 + ad.toNat * 2 ^ 13) (lentByte h c { })
  | .amovAToS c sd aa => mk .s 0x26 c.p (sd.toNat * 2 ^ 17 + aa.toNat * 2 ^ 13 + 2 ^ 12) (lentByte h c { })
  | .plog c pd pa pb tt => mk .s 0x27 c.p (pd.toNat * 2 ^ 20 + pa.toNat * 2 ^ 17 + pb.toNat * 2 ^ 14 + tt.toNat) (lentByte h c { })
  | .widf c sd sa n => encSI h 0x28 c sd sa n.toNat { }
  | .widfTeam c sd sa => encSI h 0x28 c sd sa 8 { }
  | .widfRank c sd sa => encSI h 0x28 c sd sa 16 { }
  | .fadd c f rm sd sa sb => encSR h 0x29 c sd sa sb f.code { rm := rm }
  | .fsub c f rm sd sa sb => encSR h 0x2A c sd sa sb f.code { rm := rm }
  | .fmul c f rm sd sa sb => encSR h 0x2B c sd sa sb f.code { rm := rm }
  | .ffma c f rm sd sa sb => encSR h 0x2C c sd sa sb f.code { rm := rm }
  | .fmin c f sd sa sb => encSR h 0x2D c sd sa sb f.code
  | .fmax c f sd sa sb => encSR h 0x2E c sd sa sb f.code
  | .fcmp c k f pd sa sb => encSC h 0x2F c pd sa sb (f.code * 8 + k.code)
  | .fcvt c dst src rm sat sd sa => encSI h 0x30 c sd sa (dst.code * 2 ^ 8 + src.code * 2 ^ 5) { rm := rm, sat := sat }
  | .vadd c t rm sat vd va vb => encVR h 0x01 c vd va vb t.code 0 { rm := rm, sat := sat }
  | .vsub c t rm sat vd va vb => encVR h 0x02 c vd va vb t.code 0 { rm := rm, sat := sat }
  | .vmul c t rm sat vd va vb => encVR h 0x03 c vd va vb t.code 0 { rm := rm, sat := sat }
  | .vfma c t rm sat vd va vb => encVR h 0x04 c vd va vb t.code 0 { rm := rm, sat := sat }
  | .vmin c t vd va vb => encVR h 0x05 c vd va vb t.code 0
  | .vmax c t vd va vb => encVR h 0x06 c vd va vb t.code 0
  | .vand c t vd va vb => encVR h 0x07 c vd va vb t.code 0
  | .vor c t vd va vb => encVR h 0x08 c vd va vb t.code 0
  | .vxor c t vd va vb => encVR h 0x09 c vd va vb t.code 0
  | .vshl c t vd va vb => encVR h 0x0A c vd va vb t.code 0
  | .vshr c t vd va vb => encVR h 0x0B c vd va vb t.code 0
  | .vsar c t vd va vb => encVR h 0x0C c vd va vb t.code 0
  | .vabs c t sat vd va => encVR h 0x0D c vd va 0 t.code 0 { sat := sat }
  | .vneg c t sat vd va => encVR h 0x0E c vd va 0 t.code 0 { sat := sat }
  | .vcvt c dst src rm sat vd va hp => encVR h 0x0F c vd va hp dst.code src.code { rm := rm, sat := sat }
  | .vcmp c k t vd va vb => encVR h 0x10 c vd va vb t.code k.code
  | .vsel c t vd va vb => encVR h 0x11 c vd va vb t.code 0
  | .vred c k t rm sat vd va => encVR h 0x12 c vd va 0 t.code k.code { rm := rm, sat := sat }
  | .vbcast c t vd sS => encVX h 0x13 c vd sS t.code 0
  | .vext c t sd va lane => encVX h 0x14 c va sd t.code lane.toNat
  | .vins c t vd sS lane => encVX h 0x15 c vd sS t.code lane.toNat
  | .vperm c vd va vb => encVR h 0x16 c vd va vb 5 0
  | .vexp2 c t rm vd va => encVR h 0x17 c vd va 0 t.code 0 { rm := rm }
  | .vrcp c t rm vd va => encVR h 0x18 c vd va 0 t.code 0 { rm := rm }
  | .vrsq c t rm vd va => encVR h 0x19 c vd va 0 t.code 0 { rm := rm }
  | .vamax c pk va => encVR h 0x1A c (BitVec.ofNat 5 pk.toNat) va 0 8 0
  | .kpush c va => encVR h 0x1B c 0 va 0 0 0
  | .kinv c => encVR h 0x1C c 0 0 0 0 0
  | .kpop c => encVR h 0x1D c 0 0 0 0 0
  | .ktop c sd => encVX h 0x1E c 0 sd 0 0
  | .vld c chk vd a imm => encVM h 0x1F c vd.toNat a 7 imm chk
  | .vst c vs a imm => encVM h 0x20 c vs.toNat a 7 imm false
  | .vlds c vd a sS => mk .v 0x21 c.p (vd.toNat * 2 ^ 17 + a.toNat * 2 ^ 13 + sS.toNat * 2 ^ 7) (lentByte h c { })
  | .vsts c vs a sS => mk .v 0x22 c.p (vs.toNat * 2 ^ 17 + a.toNat * 2 ^ 13 + sS.toNat * 2 ^ 7) (lentByte h c { })
  | .vgth c vd a vb => mk .v 0x23 c.p (vd.toNat * 2 ^ 17 + a.toNat * 2 ^ 13 + vb.toNat * 2 ^ 8) (lentByte h c { })
  | .vsct c vs a vb => mk .v 0x24 c.p (vs.toNat * 2 ^ 17 + a.toNat * 2 ^ 13 + vb.toNat * 2 ^ 8) (lentByte h c { })
  | .ldl c sz chk sd a imm => encVM h 0x25 c sd.toNat a sz.code imm chk
  | .stl c sz sS a imm => encVM h 0x26 c sS.toNat a sz.code imm false
  | .viota c t vd => encVR h 0x27 c vd 0 0 t.code 0
  | .viotaRank c t vd => encVR h 0x27 c vd 0 0 t.code 1
  | .ld c sz o sc chk sd a imm => encMM h 0x01 c sd.toNat a sz.code o imm sc chk
  | .st c sz o sc sS a imm => encMM h 0x02 c sS.toNat a sz.code o imm sc false
  | .ldv c o sc chk vd a imm => encMM h 0x03 c vd.toNat a 7 o imm sc chk
  | .stv c o sc vs a imm => encMM h 0x04 c vs.toNat a 7 o imm sc false
  | .qld c sz o sc chk q a imm => encMQ h 0x05 c 0 a sz.code o q imm sc chk
  | .qvld c o sc chk q a imm => encMQ h 0x06 c 0 a 7 o q imm sc chk
  | .qpop c cls d q => mk .m 0x07 c.p (d.toNat * 2 ^ 17 + q.toNat * 2 ^ 14 + b2n cls * 2 ^ 13) (lentByte h c { })
  | .qst c sz o sc q sS a imm => encMQ h 0x08 c sS.toNat a sz.code o q imm sc false
  | .qvst c o sc q vs a imm => encMQ h 0x09 c vs.toNat a 7 o q imm sc false
  | .atadd c w8 o sc sd a sb => encMA h 0x0A c sd a (w8size w8) o sb sc
  | .atand c w8 o sc sd a sb => encMA h 0x0B c sd a (w8size w8) o sb sc
  | .ator c w8 o sc sd a sb => encMA h 0x0C c sd a (w8size w8) o sb sc
  | .atxor c w8 o sc sd a sb => encMA h 0x0D c sd a (w8size w8) o sb sc
  | .atmin c w8 o sc sd a sb => encMA h 0x0E c sd a (w8size w8) o sb sc
  | .atmax c w8 o sc sd a sb => encMA h 0x0F c sd a (w8size w8) o sb sc
  | .atswp c w8 o sc sd a sb => encMA h 0x10 c sd a (w8size w8) o sb sc
  | .atcas c w8 o sc sd a sb => encMA h 0x11 c sd a (w8size w8) o sb sc
  | .atincw c w8 o sc sd a sb => encMA h 0x12 c sd a (w8size w8) o sb sc
  | .atbadd c w8 o sc sd a sb => encMA h 0x13 c sd a (w8size w8) o sb sc
  | .atfadd c w8 rm o sc sd a sb => encMA h 0x14 c sd a (w8size w8) o sb sc rm
  | .sinit c o sc a sb => encMA h 0x15 c 0 a 0 o sb sc
  | .sarv c o sc sd a sb => encMA h 0x16 c sd a 0 o sb sc
  | .bfacq c a ring => mk .m 0x17 c.p (a.toNat * 2 ^ 19 + ring.toNat * 2 ^ 16) (lentByte h c { })
  | .bfrel c a ring => mk .m 0x18 c.p (a.toNat * 2 ^ 19 + ring.toNat * 2 ^ 16) (lentByte h c { })
  | .gcopy c sc ch a sd => encME h 0x19 c a (BitVec.ofNat 3 ch.toNat) 0 0 sd.toNat { scope := sc, hasScope := true }
  | .mnest c a => encME h 0x1A c a 0 0 0 0
  | .mprec c cn sS => mk .m 0x1B c.p (sS.toNat * 2 ^ 17 + cn.toNat * 2 ^ 14) (lentByte h c { })
  | .mwld c t cn a kvm1 => encME h 0x1C c a cn (b2n t) 0 kvm1.toNat
  | .mma c t nest ovw wrel cn a => encME h 0x1D c a cn (b2n t + b2n nest * 2 + b2n ovw * 4) (b2n wrel) 0
  | .mdrn c t clr pkEn pk rm sat sc cn a sS =>
    encME h 0x1E c a cn pk.toNat (b2n pkEn + b2n clr * 2 + b2n t * 4) sS.toNat { rm := rm, sat := sat, scope := sc, hasScope := true }
  | .mpert c log cn a sV => encME h 0x1F c a cn 0 (b2n log) sV.toNat
  | .mstat c k sd cn => mk .m 0x20 c.p (sd.toNat * 2 ^ 17 + cn.toNat * 2 ^ 14 + k.code * 2 ^ 11) (lentByte h c { })
  | .xsend c o sc sT a nm1 => encMX h 0x21 c sT a 0 o nm1.toNat sc
  | .xst c sz o sc sS a imm => encMX h 0x22 c sS a sz.code o imm.toNat sc
  | .xld c sz o sc sd a imm => encMX h 0x23 c sd a sz.code o imm.toNat sc
  | .xred c op ty o sc a sb => encMX h 0x24 c sb a op.code o ty.code sc
  | _ => none

/-- The four words of a bundle that holds one instruction alone: the first header kind that can carry it. -/
def encodeAlone (i : Instr) : Option (BitVec 32 × BitVec 32 × BitVec 32 × BitVec 32) :=
  let try1 (h : Hdr) (k : Nat) : Option (BitVec 32 × BitVec 32 × BitVec 32 × BitVec 32) :=
    match encodeSlot h i with
    | some e =>
      let sh : Nat := match e.slot with | .c => 0 | .s => 0 | .v => 8 | .m => 16
      let hw : BitVec 32 := if h == .none then 0 else BitVec.ofNat 32 (0x3F * 2 ^ 26 + k * 2 ^ 24 + e.byte.toNat * 2 ^ sh)
      (match e.slot with
       | .c => some (e.word, 0, 0, 0)
       | .s => some (hw, e.word, 0, 0)
       | .v => some (hw, 0, e.word, 0)
       | .m => some (hw, 0, 0, e.word))
    | none => none
  (try1 .none 0).orElse fun _ => (try1 .extend 0).orElse fun _ => (try1 .loop 1).orElse fun _ => try1 .modifier 2

/-- The word of an instruction without a header (R111): the plainest encoding. -/
def encode (i : Instr) : Option (BitVec 32) := (encodeSlot .none i).map fun e => e.word

/-! The host's question about a table row: one slot word with no header. The table gives no slot, and the same
opcode number names different instructions in the four slots, so the most specific reading is taken. -/

/-- How many bits of a decoded word its entry fixes: a word is read in the slot whose entry fixes most. -/
def specificity (slot : Slot) (w : BitVec 32) : Nat :=
  let op := fldN w 26 6
  match slot, decodeSlot slot .none 0 w with
  | _, .reservedOpcode _ _ _ => 0
  | _, .nop => 1
  | .c, .br _ _ => 2 | .c, .call _ _ => 2 | .c, .bmz _ _ => 2 | .c, .pont _ _ => 2
  | .c, .svc _ _ => 8 | .c, .trap _ _ => 8 | .c, .brk _ _ => 8
  | .c, _ => 13
  | .s, _ => if decide (0x17 ≤ op ∧ op ≤ 0x1A) then 2 else if op == 0x28 then 10 else 6
  | .v, _ => if decide (0x1B ≤ op ∧ op ≤ 0x1E) then 14 else 7
  | .m, _ => if op == 1 || op == 2 then 3 else if decide (0x17 ≤ op ∧ op ≤ 0x1B) then 15 else 5

/-- The slot a lone word is read in: the most specific reading, the lower slot among equals. -/
def tableSlot (w : BitVec 32) : Slot :=
  [Slot.s, Slot.v, Slot.m].foldl (fun best k => if specificity best w < specificity k w then k else best) Slot.c

/-- The decoder's reading of a table row's word (R111; the slot as `tableSlot` says). With 128 bits the whole
bundle is decoded and its first instruction is answered. -/
def decodeTableWord (nbits w : Nat) : Option Instr :=
  if nbits == 128 then
    let b := decodeBundle (BitVec.ofNat 32 w) (BitVec.ofNat 32 (w / 2 ^ 32)) (BitVec.ofNat 32 (w / 2 ^ 64)) (BitVec.ofNat 32 (w / 2 ^ 96))
    let pick := if b.c != .nop then b.c else if b.s != .nop then b.s else if b.v != .nop then b.v else b.m
    match pick with
    | .reservedOpcode _ _ _ => none
    | i => some i
  else if nbits == 32 then
    let w32 := BitVec.ofNat 32 w
    match decodeSlot (tableSlot w32) .none 0 w32 with
    | .reservedOpcode _ _ _ => none
    | i => some i
  else none

end Sys2Proof
end

