-- ==== Sys2Proof/Config.lean ====
section
/-! DEFINITION. What one implementation fixes, and the free values: constants without a body, so that nothing
can be proved of the value the spec leaves open. -/

namespace Sys2Proof.Config

/-- The fused DRAM interleave DRAMILV, 0 to 3 (R385, R394). An implementation's constant. -/
opaque dramilv : BitVec 2

/-- Module power with every cluster idle on the low rail, in watts (R376, IDLEFLOOR): an implementation's constant. -/
opaque idleFloor : Nat

/-- What moves next when the agenda is empty: the spec fixes no order among independent agents (R5, R391).
Free value, applied to the free-value counter. -/
opaque arbiter : Nat → Turn

/-- The digest that measurement `index` records (R361): the firmware images are not in the spec. Free value. -/
opaque digest : Nat → Nat → BitVec 256

/-- Bytes of certificates, signatures and key material that an attestation answer carries (R361, R362): the
secret is fused. Free value of the free-value counter. -/
opaque spdmBytes : Nat → List Byte

/-- The number of landed bytes one arrival covers, where R265 leaves it open between 1 and 4,096. Free value. -/
opaque arrivalChunk : Nat → Nat

/-- The base address that a host has assigned to BAR `b` of a logical device (R347, R363). -/
opaque barBase : Nat → Nat → Nat

/-- Which aligned 8-byte parts of an engine's write take effect at once and which later: R59 and R198 leave the order open. Free
value of the free-value counter and the part's number. -/
opaque landsNow : Nat → Nat → Bool

/-- Which translation a full TLB drops for a new one (R332 names no policy). Free value. -/
opaque tlbVictim : Nat → Nat

/-- The channel of its die, 0 to 63, that holds a DRAM address: R394 leaves the spread invisible. An implementation's
constant. -/
opaque channel : Nat → Nat

/-- The dies to which the two I/O dies are joined (R4, R374 name no place). Implementation's constants. -/
opaque ioDie : Nat → Nat

/-- Cores, by cluster * 8 + core, and clusters and channels, by die * 64 + channel, that the fuses retire (R385). Implementation's
constants. -/
opaque fusedCore : Nat → Bool
opaque fusedCluster : Nat → Bool
opaque fusedChannel : Nat → Bool

/-- What bring-up finds: whether the image of a step verifies, how many lanes of which channels fail to train, by die * 64 + channel,
and the ports that train (R384, R386). Free values of the free-value counter. -/
opaque bootPasses : Nat → Nat → Bool
opaque laneFails : Nat → List (Nat × Nat)
opaque portsUp : Nat → List Nat

/-- How many 64-byte parts of a page move are read at its start; the others are read at its end (R343 fixes no time). Free
value. -/
opaque pageMoveSplit : Nat → Nat

/-- What a word that cannot be corrected holds (R365): it is marked, and no read delivers it as good data. Free value. -/
opaque poisonData : Nat → Nat

/-- The Gaffer runtime image: the hand-off block follows it within the first 1 MiB of the reserve (R293, R384, R387). An
implementation's constant. -/
opaque gafferImage : List Byte

/-- The current that the Lehr predicts for a die from the summed costs AW × WS of its matrix commands, and its limit under a cap in
watts (R378 gives neither function). Implementation's constants. -/
opaque dieCurrent : Nat → Nat
opaque currentLimit : Nat → Nat

/-- The row of its die, by die * 2^32 and a number, that holds a DRAM address, and how many spare rows a die's stack has (R365, R372
name no size), and how many of them the fuses retire (R385). Implementation's constants. -/
opaque rowOf : Nat → Nat
opaque spareRows : Nat → Nat
opaque fusedSpares : Nat → Nat

/-- The syndrome an error-log record carries in DETAIL (R368): the spec gives the code's size and no syndrome.
Free value. -/
opaque syndrome : Nat → BitVec 64

/-- The cycles that the event code `code` of a context, or of a cluster, counts at one time in one block, where the model has no step for a
cycle (R381, R382): by the free-value counter, the block, the code and the context. Free value. -/
opaque cycles : Nat → Nat → Nat → Nat → Nat

/-- What a read of the reserved DRAM or of a device region whose contents the spec does not give returns, and other words the spec leaves
open: a lane's spare, a message's code (R371). Free value. -/
opaque freeWord : Nat → BitVec 64

end Sys2Proof.Config
end

