-- ==== Sys2Proof/Machine/Mem.lean ====
section
/-! DEFINITION. Sparse tables in canonical form and little-endian access to memories (R7). -/

namespace Sys2Proof.Machine

/-- What a table reads at a key; `d` is what an absent key reads as. -/
def tget {α : Type} (d : α) : Tab α → Nat → α
  | [], _ => d
  | (j, v) :: t, k => if k = j then v else tget d t k

/-- Whether a table lists a key. -/
def thas {α : Type} (t : Tab α) (k : Nat) : Bool := t.any fun e => e.1 == k

/-- Puts a value at a key, keeping the keys rising. -/
def tput {α : Type} : Tab α → Nat → α → Tab α
  | [], k, v => [(k, v)]
  | (j, w) :: t, k, v =>
    if k < j then (k, v) :: (j, w) :: t
    else if k = j then (k, v) :: t
    else (j, w) :: tput t k v

/-- Drops a key. -/
def terase {α : Type} : Tab α → Nat → Tab α
  | [], _ => []
  | (j, w) :: t, k => if k = j then terase t k else (j, w) :: terase t k

/-- The write of a canonical table: writing what an absent key reads as removes the entry. -/
def tset {α : Type} [DecidableEq α] (d : α) (t : Tab α) (k : Nat) (v : α) : Tab α :=
  if v = d then terase t k else tput t k v

/-- Changes the value at a key of a table whose entries are never dropped. -/
def tmod {α : Type} (d : α) (t : Tab α) (k : Nat) (f : α → α) : Tab α := tput t k (f (tget d t k))

/-- All keys of a table exceed a bound. -/
def keysAbove {α : Type} (b : Nat) (t : Tab α) : Bool := t.all fun e => decide (b < e.1)

/-- The keys of a table rise strictly. -/
def rising {α : Type} : Tab α → Bool
  | [] => true
  | (j, _) :: t => keysAbove j t && rising t

/-- The canonical form: keys strictly rising and no entry that reads as an absent key does. -/
def twf {α : Type} [DecidableEq α] (d : α) (t : Tab α) : Bool :=
  rising t && t.all fun e => decide (¬ e.2 = d)

/-! Memories: tables of bytes. A byte that nothing has written reads 0 (R386 for DRAM and vaults; log entry 3). -/

/-- One memory. -/
abbrev Memory := Tab Byte

/-- The canonical form of a memory. -/
def Memory.wf (m : Memory) : Bool := twf (0 : Byte) m

def rdByte (m : Memory) (a : Nat) : Byte := tget 0 m a
def wrByte (m : Memory) (a : Nat) (b : Byte) : Memory := tset 0 m a b

/-- `n` bytes at `a`, little-endian, as a number. -/
def rdMem (m : Memory) (a : Nat) : Nat → Nat
  | 0 => 0
  | n + 1 => (rdByte m a).toNat + 256 * rdMem m (a + 1) n

/-- Writes the low `n` bytes of `v` at `a`, little-endian. -/
def wrMem (m : Memory) (a : Nat) : Nat → Nat → Memory
  | 0, _ => m
  | n + 1, v => wrMem (wrByte m a (BitVec.ofNat 8 v)) (a + 1) n (v / 256)

/-- `n` bytes at `a` as a list. -/
def rdBytes (m : Memory) (a : Nat) : Nat → List Byte
  | 0 => []
  | n + 1 => rdByte m a :: rdBytes m (a + 1) n

/-- Writes a list of bytes at `a`. -/
def wrBytes (m : Memory) (a : Nat) : List Byte → Memory
  | [] => m
  | b :: bs => wrBytes (wrByte m a b) (a + 1) bs

/-- A list of bytes as a little-endian number. -/
def leNat : List Byte → Nat
  | [] => 0
  | b :: bs => b.toNat + 256 * leNat bs

/-- The low `n` bytes of a number, little-endian. -/
def leBytes : Nat → Nat → List Byte
  | 0, _ => []
  | n + 1, v => BitVec.ofNat 8 v :: leBytes n (v / 256)

/-- Element `k` of a list that has one; `d` otherwise. -/
def listSet {α : Type} : List α → Nat → α → List α
  | [], _, _ => []
  | _ :: t, 0, v => v :: t
  | x :: t, k + 1, v => x :: listSet t k v

/-- A list without its element `k`. -/
def listDrop {α : Type} : List α → Nat → List α
  | [], _ => []
  | _ :: t, 0 => t
  | x :: t, k + 1 => x :: listDrop t k

end Sys2Proof.Machine
end

