-- ==== Sys2Proof/Machine/Num.lean ====
section
/-! DEFINITION. Number formats, exact values, rounding and conversion (R85 to R90), the array's alignment and
products (R92 to R99) and the transcendental algorithms (R107 to R110). -/

namespace Sys2Proof.Machine

/-! ## Exact values -/

/-- The exact real (-1)^neg * m * 2^e; a zero keeps its sign. -/
structure Dy where
  neg : Bool
  m : Nat
  e : Int
  deriving DecidableEq, Repr

/-- A value of a floating-point format: an exact real, an infinity or a NaN. -/
inductive FV where
  | fin (d : Dy)
  | inf (neg : Bool)
  | nan
  deriving DecidableEq, Repr

def FV.zero : FV := .fin ⟨false, 0, 0⟩
def FV.neg : FV → FV
  | .fin d => .fin { d with neg := !d.neg }
  | .inf s => .inf !s
  | .nan => .nan
def FV.abs : FV → FV
  | .fin d => .fin { d with neg := false }
  | .inf _ => .inf false
  | .nan => .nan

/-- The signed integer coefficient. -/
def Dy.int (d : Dy) : Int := if d.neg then -(d.m : Int) else (d.m : Int)

/-- An exact integer as a value. -/
def Dy.ofInt (x : Int) : Dy := ⟨decide (x < 0), x.natAbs, 0⟩

/-- The coefficient of `d` in units of 2^e, for `e` not above `d.e`. -/
def Dy.coef (d : Dy) (e : Int) : Int := d.int * (2 ^ (d.e - e).toNat : Nat)

/-- Exact sum. A sum that is exactly zero is +0, or -0 under RDN, except that (-0) + (-0) is -0 (R173, R183, R211). -/
def Dy.add (rm : Rm) (a b : Dy) : Dy :=
  let e := min a.e b.e
  let s := a.coef e + b.coef e
  if s = 0 then
    ⟨rm == .rdn || (a.m == 0 && b.m == 0 && a.neg && b.neg), 0, 0⟩
  else ⟨decide (s < 0), s.natAbs, e⟩

def Dy.mul (a b : Dy) : Dy := ⟨xor a.neg b.neg, a.m * b.m, a.e + b.e⟩
def Dy.scale (a : Dy) (k : Int) : Dy := { a with e := a.e + k }

/-- `a < b` as reals. -/
def Dy.lt (a b : Dy) : Bool := let e := min a.e b.e; decide (a.coef e < b.coef e)
/-- `a = b` as reals. -/
def Dy.eq (a b : Dy) : Bool := let e := min a.e b.e; decide (a.coef e = b.coef e)

/-- Greatest integer not above `d * 2^k`. -/
def Dy.floorScaled (d : Dy) (k : Int) : Int :=
  let s := d.e + k
  if 0 ≤ s then d.int * (2 ^ s.toNat : Nat) else d.int / ((2 ^ (-s).toNat : Nat) : Int)

/-- floor(log2 |d|) of a value with nonzero coefficient. -/
def Dy.log2 (d : Dy) : Int := (Nat.log2 d.m : Int) + d.e

/-! ## Rounding to an integer multiple (R89) -/

/-- Whether a magnitude with quotient `q` and remainder `r` of `half * 2` rounds up. -/
def roundsUp (rm : Rm) (neg : Bool) (q r half : Nat) : Bool :=
  match rm with
  | .rne => decide (half < r) || (r == half && q % 2 == 1)
  | .rtz => false
  | .rdn => neg && r != 0
  | .rup => !neg && r != 0

/-- The magnitude of `d` in units of 2^q, rounded. -/
def Dy.roundUnits (rm : Rm) (d : Dy) (q : Int) : Nat :=
  if q ≤ d.e then d.m * 2 ^ (d.e - q).toNat
  else
    let s := (q - d.e).toNat
    let n := d.m / 2 ^ s
    let r := d.m % 2 ^ s
    if roundsUp rm d.neg n (2 * r) (2 ^ s) then n + 1 else n

/-! ## Formats (R87) -/

/-- How a format treats the top of its codes. -/
inductive FCls where
  | ieee | e4m3 | finite
  deriving DecidableEq, Repr

/-- A floating-point storage format. -/
structure Fmt where
  ebits : Nat
  fbits : Nat
  bias : Nat
  cls : FCls
  deriving DecidableEq, Repr

def fp64 : Fmt := ⟨11, 52, 1023, .ieee⟩
def fp32 : Fmt := ⟨8, 23, 127, .ieee⟩
def fp16 : Fmt := ⟨5, 10, 15, .ieee⟩
def bf16 : Fmt := ⟨8, 7, 127, .ieee⟩
def fpE4M3 : Fmt := ⟨4, 3, 7, .e4m3⟩
def fpE5M2 : Fmt := ⟨5, 2, 15, .ieee⟩
def fpE3M2 : Fmt := ⟨3, 2, 3, .finite⟩
def fpE2M3 : Fmt := ⟨2, 3, 1, .finite⟩
def fpE2M1 : Fmt := ⟨2, 1, 1, .finite⟩

def Fmt.width (f : Fmt) : Nat := 1 + f.ebits + f.fbits

/-- The bit pattern of the largest finite magnitude. -/
def Fmt.maxBits (f : Fmt) : Nat :=
  match f.cls with
  | .ieee => (2 ^ f.ebits - 1) * 2 ^ f.fbits - 1
  | .e4m3 => 2 ^ (f.ebits + f.fbits) - 2
  | .finite => 2 ^ (f.ebits + f.fbits) - 1

def Fmt.signBit (f : Fmt) (neg : Bool) : Nat := if neg then 2 ^ (f.ebits + f.fbits) else 0

/-- The default NaN (R87). -/
def Fmt.nan (f : Fmt) : Nat :=
  match f.cls with
  | .ieee => (2 ^ f.ebits - 1) * 2 ^ f.fbits + 2 ^ (f.fbits - 1)
  | _ => 2 ^ (f.ebits + f.fbits) - 1

def Fmt.infBits (f : Fmt) : Nat := (2 ^ f.ebits - 1) * 2 ^ f.fbits

/-- The value of a code (R87). -/
def Fmt.val (f : Fmt) (x : Nat) : FV :=
  let mag := x % 2 ^ (f.ebits + f.fbits)
  let neg := x / 2 ^ (f.ebits + f.fbits) % 2 == 1
  let e := mag / 2 ^ f.fbits
  let fr := mag % 2 ^ f.fbits
  let top := e == 2 ^ f.ebits - 1
  if f.cls == .ieee && top then (if fr = 0 then .inf neg else .nan)
  else if f.cls == .e4m3 && top && fr == 2 ^ f.fbits - 1 then .nan
  else if e = 0 then .fin ⟨neg, fr, 1 - (f.bias : Int) - f.fbits⟩
  else .fin ⟨neg, 2 ^ f.fbits + fr, (e : Int) - f.bias - f.fbits⟩

/-- What a conversion gives: the code, and whether it was a saturating conversion (R89). -/
structure Conv where
  bits : Nat
  sat : Bool
  deriving DecidableEq, Repr

/-- The IEEE overflow result goes to the largest finite rather than the infinity (R89). -/
def overflowFinite (rm : Rm) (neg : Bool) : Bool :=
  match rm with
  | .rne => false
  | .rtz => true
  | .rdn => !neg
  | .rup => neg

/-- Rounds the magnitude of a nonzero value to a format's code, exponent range unbounded above: the code counts
on past the largest finite. -/
def Fmt.roundMag (f : Fmt) (rm : Rm) (d : Dy) : Nat :=
  let emin : Int := 1 - (f.bias : Int)
  let q := max d.log2 emin - f.fbits
  let n := d.roundUnits rm q
  (q - (emin - f.fbits)).toNat * 2 ^ f.fbits + n

/-- `round(x, fmt, mode)` of R89 with the `.sat` column; infinities and NaN have the fates of its table. -/
def Fmt.conv (f : Fmt) (rm : Rm) (sat : Bool) : FV → Conv
  | .nan => ⟨f.nan, false⟩
  | .inf s =>
    if sat || f.cls == .finite then ⟨f.signBit s + f.maxBits, true⟩
    else if f.cls == .ieee then ⟨f.signBit s + f.infBits, false⟩
    else ⟨f.nan, false⟩
  | .fin d =>
    if d.m = 0 then ⟨f.signBit d.neg, false⟩
    else
      let mag := f.roundMag rm d
      if mag ≤ f.maxBits then ⟨f.signBit d.neg + mag, false⟩
      else if sat || f.cls == .finite then ⟨f.signBit d.neg + f.maxBits, true⟩
      else if overflowFinite rm d.neg then ⟨f.signBit d.neg + f.maxBits, false⟩
      else if f.cls == .ieee then ⟨f.signBit d.neg + f.infBits, false⟩
      else ⟨f.nan, false⟩

/-- Clamps an exact integer to a two's complement or unsigned range (R86, R89). -/
def clampInt (signed : Bool) (w : Nat) (x : Int) : Int :=
  let lo : Int := if signed then -((2 ^ (w - 1) : Nat) : Int) else 0
  let hi : Int := if signed then (2 ^ (w - 1) : Nat) - 1 else (2 ^ w : Nat) - 1
  if x < lo then lo else if hi < x then hi else x

/-- A value rounded to an integer. -/
def Dy.toInt (rm : Rm) (d : Dy) : Int :=
  let n := d.roundUnits rm 0
  if d.neg then -(n : Int) else (n : Int)

/-- Conversion to SINT or UINT of width `w`: always clamps, NaN to 0 (R89). -/
def convInt (signed : Bool) (w : Nat) (rm : Rm) : FV → Conv
  | .nan => ⟨0, true⟩
  | .inf s => ⟨zextI (clampInt signed w (if s then -((2 ^ 64 : Nat) : Int) else (2 ^ 64 : Nat))) w, true⟩
  | .fin d =>
    let n := d.toInt rm
    let c := clampInt signed w n
    ⟨zextI c w, decide (¬ c = n)⟩

/-! ## Arithmetic on values with the IEEE fates (R173) -/

/-- Exact sum, then nothing rounded: opposite infinities give NaN. -/
def FV.add (rm : Rm) : FV → FV → FV
  | .nan, _ => .nan
  | _, .nan => .nan
  | .inf a, .inf b => if a = b then .inf a else .nan
  | .inf a, _ => .inf a
  | _, .inf b => .inf b
  | .fin a, .fin b => .fin (a.add rm b)

/-- Exact product: an infinity times a zero gives NaN. -/
def FV.mul : FV → FV → FV
  | .nan, _ => .nan
  | _, .nan => .nan
  | .inf a, .inf b => .inf (xor a b)
  | .inf a, .fin d => if d.m = 0 then .nan else .inf (xor a d.neg)
  | .fin d, .inf a => if d.m = 0 then .nan else .inf (xor a d.neg)
  | .fin a, .fin b => .fin (a.mul b)

def FV.isInf : FV → Bool
  | .inf _ => true
  | _ => false

def FV.isNan : FV → Bool
  | .nan => true
  | _ => false

/-- `a < b` with NaN unordered. -/
def FV.lt : FV → FV → Bool
  | .nan, _ => false
  | _, .nan => false
  | .inf a, .inf b => a && !b
  | .inf a, _ => a
  | _, .inf b => !b
  | .fin a, .fin b => a.lt b

/-- `a = b` with NaN unordered; +0 equals -0. -/
def FV.eq : FV → FV → Bool
  | .inf a, .inf b => a == b
  | .fin a, .fin b => a.eq b
  | _, _ => false

def FV.isZero : FV → Bool
  | .fin d => d.m == 0
  | _ => false
def FV.sign : FV → Bool
  | .fin d => d.neg
  | .inf s => s
  | .nan => false

/-! ## Array formats (R85, R88) -/

/-- The formats a PREC field, an MDRN operand or a convert stage names (R85). Integer widths stand beside. -/
inductive AFmt where
  | sint | uint
  | flt (f : Fmt)
  | mx (f : Fmt)
  | e8m0
  deriving DecidableEq, Repr

/-- Format codes of R85; none for the reserved ones. -/
def AFmt.ofCode : Nat → Option AFmt
  | 0x0 => some .sint
  | 0x1 => some .uint
  | 0x2 => some (.flt fp16)
  | 0x3 => some (.flt bf16)
  | 0x4 => some (.flt fp32)
  | 0x5 => some (.flt fp64)
  | 0x6 => some (.flt fpE4M3)
  | 0x7 => some (.flt fpE5M2)
  | 0x8 => some (.mx fpE4M3)
  | 0x9 => some (.mx fpE5M2)
  | 0xA => some (.mx fpE3M2)
  | 0xB => some (.mx fpE2M3)
  | 0xC => some (.mx fpE2M1)
  | 0xD => some .e8m0
  | _ => none

def AFmt.isInt : AFmt → Bool
  | .sint => true
  | .uint => true
  | _ => false
def AFmt.isMx : AFmt → Bool
  | .mx _ => true
  | _ => false

/-- Bits an element takes in storage; `w` is the width field of an integer format (R86, R87). -/
def AFmt.bits (a : AFmt) (w : Nat) : Nat :=
  match a with
  | .sint => w
  | .uint => w
  | .flt f => f.width
  | .mx f => f.width
  | .e8m0 => 8

/-- Legal integer storage widths (R85). -/
def storageWidth (w : Nat) : Bool := w == 1 || w == 2 || w == 4 || w == 8 || w == 16 || w == 32 || w == 64

/-- The exponent of the largest finite value: Etop of R88. -/
def Fmt.etop (f : Fmt) : Int :=
  match f.cls with
  | .ieee => (2 ^ f.ebits - 2 : Int) - f.bias
  | _ => (2 ^ f.ebits - 1 : Int) - f.bias

/-- The magnitude span of R88. -/
def Fmt.span (f : Fmt) : Nat := (f.etop - (1 - (f.bias : Int) - f.fbits) + 1).toNat

/-- The value of one stored element; `scale` is the block's E8M0 code for an MX format (R88). -/
def AFmt.val (a : AFmt) (w scale x : Nat) : FV :=
  match a with
  | .sint => .fin (Dy.ofInt (sextN x w))
  | .uint => .fin (Dy.ofInt (x % 2 ^ w : Nat))
  | .flt f => f.val x
  | .mx f =>
    if scale = 0xFF then .nan
    else match f.val x with
      | .fin d => .fin (d.scale ((scale : Int) - 127))
      | o => o
  | .e8m0 => if x = 0xFF then .nan else .fin ⟨false, 1, (x : Int) - 127⟩

/-- What a block conversion to an MX format gives (R90): the scale code, the element codes and, for each, whether
it was a saturating conversion. -/
structure MxBlock where
  scale : Nat
  elems : List Conv
  deriving DecidableEq, Repr

/-- `a` unless `b` is the larger magnitude. -/
def Dy.maxMag (a b : Dy) : Dy := if ({ a with neg := false } : Dy).lt { b with neg := false } then { b with neg := false } else { a with neg := false }

/-- Whether any value is NaN or infinite. -/
def anySpecial (vs : List FV) : Bool := vs.any fun v => match v with | .fin _ => false | _ => true

/-- The exact largest magnitude of a block (R90 step 2). -/
def amaxOf (vs : List FV) : Dy :=
  vs.foldl (fun acc v => match v with | .fin d => acc.maxMag d | _ => acc) ⟨false, 0, 0⟩

/-- Conversion of one block to an MX element format (R90). -/
def convMx (f : Fmt) (rm : Rm) (vs : List FV) : MxBlock :=
  if anySpecial vs then ⟨0xFF, vs.map fun _ => ⟨0, false⟩⟩
  else
    let a := amaxOf vs
    if a.m = 0 then ⟨0, vs.map fun _ => ⟨0, false⟩⟩
    else
      let e := max (-127) (min 127 (a.log2 - f.etop))
      ⟨(e + 127).toNat, vs.map fun v => match v with
        | .fin d => f.conv rm true (.fin (d.scale (-e)))
        | _ => ⟨0, false⟩⟩

/-! ## The array's slices, alignment and products (R92, R95 to R99) -/

/-- Cells a weight of width `ww` occupies (R92). -/
def sliceCount (ww : Nat) : Nat := (ww + 15) / 16
/-- Bits of one slice (R92). -/
def sliceBits (ww : Nat) : Nat := (ww + sliceCount ww - 1) / sliceCount ww
/-- Effective N-columns (R92). -/
def effN (ww : Nat) : Nat := 256 / sliceCount ww

/-- One bit pair's term of the serial product (R95). -/
def serialTerm (aw ws a b : Nat) (sa sb : Bool) (i j : Nat) : Int :=
  let t : Int := ((a / 2 ^ i % 2) * (b / 2 ^ j % 2) * 2 ^ (i + j) : Nat)
  if xor (sa && i + 1 == aw) (sb && j + 1 == ws) then -t else t

/-- The serial product of R95: every bit pair in turn. -/
def serialProduct (aw ws a b : Nat) (sa sb : Bool) : Int :=
  ((List.range aw).map fun i => ((List.range ws).map fun j => serialTerm aw ws a b sa sb i j).sum).sum

/-- An operand group at the array's edge: signed magnitudes in units of 2^unit, and whether an element was
flushed (R96 to R98). -/
structure AGroup where
  mags : List Int
  unit : Int
  flushed : Bool
  deriving DecidableEq, Repr

/-- The exponent of an element as R96 step 1 takes it: e - bias of a normal, 1 - bias of a subnormal. -/
def elemExp (f : Fmt) (d : Dy) : Int := max d.log2 (1 - (f.bias : Int))

/-- The group's shared exponent, none for a group with no finite nonzero element (R96). -/
def sharedExp (f : Fmt) (vs : List FV) : Option Int :=
  vs.foldl (fun acc v => match v with
    | .fin d => if d.m = 0 then acc else match acc with
      | none => some (elemExp f d)
      | some e => some (max e (elemExp f d))
    | _ => acc) none

/-- One element's magnitude in units of 2^u under truncation or RNE (R96 step 3). -/
def alignMag (rne : Bool) (u : Int) : FV → Nat
  | .fin d => if d.m = 0 then 0 else d.roundUnits (if rne then .rne else .rtz) u
  | _ => 0

def flushedElem (v : FV) (m : Nat) : Bool :=
  match v with
  | .fin d => d.m != 0 && m == 0
  | _ => false

def signedMag (v : FV) (m : Nat) : Int := if v.sign then -(m : Int) else (m : Int)

/-- A group aligned to a given unit. -/
def alignAt (rne : Bool) (u : Int) (vs : List FV) : AGroup :=
  ⟨vs.map fun v => signedMag v (alignMag rne u v), u, vs.any fun v => flushedElem v (alignMag rne u v)⟩

/-- Alignment of a floating-point group at window `w` (R96), with one renormalisation. -/
def alignFloat (f : Fmt) (w : Nat) (rne : Bool) (vs : List FV) : AGroup :=
  match sharedExp f vs with
  | none => ⟨vs.map fun _ => 0, 0, false⟩
  | some emax =>
    let u := emax - w + 1
    if rne && vs.any (fun v => alignMag true u v == 2 ^ w) then alignAt rne (u + 1) vs else alignAt rne u vs

/-- Alignment of an MX group with scale code `c` at window `w` (R97): values already carry the scale. A magnitude that rounding makes
2^W stays 2^W (log entry 90). -/
def alignMx (f : Fmt) (c w : Nat) (rne : Bool) (vs : List FV) : AGroup :=
  alignAt rne ((c : Int) - 127 + f.etop - w + 1) vs

/-- Integer operands are not aligned (R98). -/
def alignInt (vs : List FV) : AGroup :=
  ⟨vs.map fun v => match v with | .fin d => d.int | _ => 0, 0, false⟩

/-- A special outcome of one operand pair (R103). -/
inductive Special where
  | none | nan | pinf | ninf
  deriving DecidableEq, Repr

/-- The outcome of a pair of original operand values (R103); an integer's sign is its value's (log entry 91). -/
def specialOf : FV → FV → Special
  | .nan, _ => .nan
  | _, .nan => .nan
  | .inf a, .inf b => if xor a b then .ninf else .pinf
  | .inf a, .fin d => if d.m = 0 then .nan else if xor a d.neg then .ninf else .pinf
  | .fin d, .inf a => if d.m = 0 then .nan else if xor a d.neg then .ninf else .pinf
  | .fin _, .fin _ => .none

/-! ## Transcendental algorithms (R107 to R110) -/

def exp2Table : List Nat :=
  [4294967296, 4341736423, 4389014833, 4436808071, 4485121744, 4533961517, 4583333121, 4633242347] ++
  [4683695048, 4734697143, 4786254615, 4838373510, 4891059943, 4944320094, 4998160210, 5052586606] ++
  [5107605667, 5163223846, 5219447668, 5276283726, 5333738689, 5391819295, 5450532358, 5509884764] ++
  [5569883475, 5630535530, 5691848042, 5753828203, 5816483285, 5879820635, 5943847684, 6008571941] ++
  [6074001000, 6140142534, 6207004303, 6274594148, 6342919999, 6411989869, 6481811861, 6552394164] ++
  [6623745059, 6695872913, 6768786189, 6842493438, 6917003306, 6992324534, 7068465956, 7145436504] ++
  [7223245206, 7301901189, 7381413680, 7461792005, 7543045592, 7625183973, 7708216783, 7792153760] ++
  [7877004752, 7962779710, 8049488696, 8137141881, 8225749546, 8315322086, 8405870007, 8497403930]

/-- C1, C2 and C3 of R108. -/
def exp2C1 : Nat := 0xB17217F8
def exp2C2 : Nat := 1031764991
def exp2C3 : Nat := 238388332

/-- T[j] of R109: 2^32 / (1 + (2j + 1)/128) to nearest, ties to even. -/
def rcpTable (j : Nat) : Nat :=
  let n := 2 ^ 39
  let q := n / (129 + 2 * j)
  let r := n % (129 + 2 * j)
  if 129 + 2 * j < 2 * r || (129 + 2 * j == 2 * r && q % 2 == 1) then q + 1 else q

def rsqTable : List Nat :=
  [4229391425, 4106774231, 3994238453, 3890474265, 3794398344, 3705105875, 3621834435, 3543936417] ++
  [3470857714, 3402121052, 3337312811, 3276072511, 3218084345, 3163070302, 3110784547, 3061008783] ++
  [3013548408, 2968229309, 2924895168, 2883405191, 2843632180, 2805460890, 2768786621, 2733514014] ++
  [2699556000, 2666832900, 2635271635, 2604805043, 2575371273, 2546913259, 2519378252, 2492717415] ++
  [2466885449, 2441840278, 2417542755, 2393956408, 2371047208, 2348783360, 2327135126, 2306074646] ++
  [2285575798, 2265614055, 2246166364, 2227211035, 2208727636, 2190696905, 2173100661, 2155921730]

/-- 2^x before the final rounding (R108). -/
def exp2 : FV → FV
  | .nan => .nan
  | .inf s => if s then .zero else .inf false
  | .fin d =>
    if !(d.lt ⟨false, 128, 0⟩) then .inf false
    else
      let x : Dy := if d.lt ⟨true, 200, 0⟩ then ⟨true, 200, 0⟩ else d
      let t := x.floorScaled 32
      let k := t / ((2 ^ 32 : Nat) : Int)
      let fr := (t % ((2 ^ 32 : Nat) : Int)).toNat
      let j := fr / 2 ^ 26
      let dd := fr % 2 ^ 26
      let h3 := dd * exp2C3 / 2 ^ 32
      let h2 := dd * (exp2C2 + h3) / 2 ^ 32
      let h1 := dd * (exp2C1 + h2) / 2 ^ 32
      .fin ⟨false, exp2Table.getD j 0 * (2 ^ 32 + h1) / 2 ^ 32, k - 32⟩

/-- One correction step of R109. -/
def rcpStep (mm y : Int) : Int :=
  let z := 2 ^ 32 - mm * y / 2 ^ 32
  y + y * z / 2 ^ 32

/-- 1/x before the final rounding (R109). -/
def rcp : FV → FV
  | .nan => .nan
  | .inf s => .fin ⟨s, 0, 0⟩
  | .fin d =>
    if d.m = 0 then .inf d.neg
    else
      let l := Nat.log2 d.m
      let mm : Nat := d.m * 2 ^ 32 / 2 ^ l
      let j := d.m * 64 / 2 ^ l - 64
      let y := rcpStep mm (rcpStep mm (rcpTable j : Nat))
      .fin ⟨d.neg, y.toNat, -32 - ((l : Int) + d.e)⟩

/-- One correction step of R110. -/
def rsqStep (mm y : Int) : Int :=
  let q := y * y / 2 ^ 32
  let h := mm * q / 2 ^ 32
  y + y * (2 ^ 32 - h) / 2 ^ 33

/-- 1/sqrt(x) before the final rounding (R110). -/
def rsq : FV → FV
  | .nan => .nan
  | .inf s => if s then .nan else .zero
  | .fin d =>
    if d.m = 0 then .inf d.neg
    else if d.neg then .nan
    else
      let l := Nat.log2 d.m
      let e0 : Int := (l : Int) + d.e
      let odd := e0 % 2 == 1
      let mm : Nat := (if odd then 2 else 1) * (d.m * 2 ^ 32 / 2 ^ l)
      let e := if odd then e0 - 1 else e0
      let j := mm / 2 ^ 28 - 16
      let y := rsqStep mm (rsqStep mm (rsqStep mm (rsqTable.getD j 0 : Nat)))
      .fin ⟨false, y.toNat, -32 - e / 2⟩

end Sys2Proof.Machine
end

