-- ==== Sys2Proof/Machine/State.lean ====
section
/-! DEFINITION. The state of one module, as plain data, and its value at reset. Every structure's field defaults are
its reset values: those the spec gives, and 0, clear or empty where it gives none (log entry 3). -/

namespace Sys2Proof.Machine

/-! ## Stops of the model -/

/-- Where the machine stops instead of going on. -/
inductive Fault where
  /-- Raised by no meaning of this model: the spec describes what follows every error it names. Safe: nothing
  is proved of a machine that stops here. -/
  | noSuchMemory (addr : Nat)
  deriving DecidableEq, Repr

/-- Why a turn has no next state. -/
inductive Refusal where
  /-- Raised by an arm of exec whose instruction has no meaning yet. Safe. -/
  | notModelled (mnemonic : String)
  /-- Raised by an event whose conditions do not hold in this state: the spec's machine does not take that step
  there. Safe: the event cannot happen. -/
  | notEnabled (event : String)
  deriving DecidableEq, Repr

/-! ## Registers (R113, R115, R116) -/

/-- A mark on a register: the trap cause that reading it raises, 0 for none, and that record's DETAIL (R203,
R275, R339, R358). -/
structure Mark where
  cause : Nat := 0
  detail : Nat := 0
  deriving DecidableEq, Repr, Inhabited

/-- One register: value, full bit, mark, and the serial number of the long-latency producer it waits for (0: its
newest producer has written it; R116). -/
structure RCell (w : Nat) where
  val : BitVec w := 0
  full : Bool := true
  mark : Mark := { }
  prod : Nat := 0
  deriving DecidableEq, Repr, Inhabited

/-- The registers a region shadows (R113, R219). -/
structure Regs where
  s : Tab (RCell 64) := []
  a : Tab (RCell 64) := []
  v : Tab (RCell 1024) := []
  p : Tab Bool := []
  mask : Tab Nat := []
  depth : Nat := 0
  deriving DecidableEq, Repr, Inhabited

/-! ## Queues, accesses and fills (R63, R73, R115, R207) -/

inductive QKind where
  | ld | vld | st | vst
  deriving DecidableEq, Repr, Inhabited

/-- Where a queue entry stands: held by a region, waiting to be sent, waiting on a translation fault, and landed. -/
inductive QStage where
  | held | waiting | faulted (tag : Nat) | landed
  deriving DecidableEq, Repr, Inhabited

/-- One queue entry (R207). `popped` is the destination of a QPOP that took it before its datum arrived; `rpush` and
`rpop` mark what an open region pushed and popped (R204). `pa` is the resolved address of its one translation, once it has been
sent or compared (R63, R222). `unsent` marks a saved request that waited on a fault (R340), `at_` is the tick of its issue (R352), and
`ovr` what the region's held stores put over a load that had been sent when its region committed (R83). -/
structure QEnt where
  serial : Nat
  kind : QKind
  lsz : LSz
  bytes : Nat
  ea : Nat
  ord : Ord
  sc : Scope
  data : Nat
  chk : Bool := false
  stage : QStage := .waiting
  mark : Mark := { }
  popped : Option (RegRef × Nat) := none
  rpush : Bool := false
  rpop : Bool := false
  compared : Bool := false
  baddr : Nat := 0
  pa : Option Nat := none
  unsent : Bool := false
  at_ : Nat := 0
  ovr : Tab Nat := []
  deriving DecidableEq, Repr

/-- The read-modify-writes of R209 to R213 and R67. -/
inductive AtOp where
  | add | and | or | xor | min | max | swp | cas | incw | badd
  | fadd (f : FFmt) (rm : Rm)
  | sarv
  deriving DecidableEq, Repr

/-- What a direct vault access does when it is performed. A vector access lists its active lanes with their resolved
offsets. -/
inductive PKind where
  | load (sz : LSz)
  | loadV (lanes : List (Nat × Nat)) (old : BitVec 1024)
  | store (n : Nat) (v : Nat)
  | storeV (lanes : List (Nat × Nat)) (v : BitVec 1024)
  | atomic (op : AtOp) (n : Nat) (b d : Nat)
  | sinit (target : Nat)
  /-- A TBAR whose arrival counts once earlier accesses are performed (R158). -/
  | tbar
  /-- A fabric operation before it leaves the context (R276). -/
  | fabric (p : Packet)
  deriving DecidableEq, Repr

/-- A direct access issued and not performed: its place in program order, resolved vault offset and destination. `ovr` is
what the region's held stores put over the bytes read (R83), `ea` the address as the program formed it, `at_` the tick of its issue
(R50), `delay` whether its bundle stood in a delay slot (R297). -/
structure Pend where
  serial : Nat
  kind : PKind
  addr : Nat
  ord : Ord
  sc : Scope
  dst : Option (RegRef × Nat)
  baddr : Nat
  ovr : Tab Nat := []
  ea : Nat := 0
  at_ : Nat := 0
  delay : Bool := false
  deriving DecidableEq, Repr

/-- A datum on its way to a register. `acq` is the serial of the acquire that its landing performs, 0 for none. -/
structure Fill where
  reg : RegRef
  prod : Nat
  val : Nat
  mark : Mark := { }
  acq : Nat := 0
  p7 : Option Bool := none
  deriving DecidableEq, Repr

/-- A fabric access of this context that has left for another module and is not yet answered. -/
structure XWait where
  prod : Nat
  reg : Nat
  serial : Nat
  deriving DecidableEq, Repr

/-! ## Loops, waits, regions (R38 to R46, R216 to R230) -/

inductive LPhase where
  | pro | ker | epi
  deriving DecidableEq, Repr

/-- One enabled stride entry (R38). -/
structure Stride where
  level : Nat
  reg : Nat
  step : Int
  deriving DecidableEq, Repr

/-- The loop sequencer (R38 to R42). `buf` is the loop buffer: the kernel's bundles once fetched. `due` marks a kernel
iteration that has ended and whose end step is still to be taken. -/
structure LoopSt where
  pro : Nat
  ker : Nat
  epi : Nat
  plen : Nat
  klen : Nat
  elen : Nat
  nlev : Nat
  trips : List Nat
  strides : List Stride
  counters : List Nat
  phase : LPhase
  pos : Nat
  lexit : Bool
  due : Bool
  buf : List Nat
  ret : Nat
  deriving DecidableEq, Repr

/-- One armed condition of a wait (R43). `adv` records that the generation or phase has advanced since arming. -/
structure CondSt where
  kind : Nat
  op : Nat
  addr : Nat
  val : Nat
  adv : Bool
  deriving DecidableEq, Repr

/-- What a WQUIET has seen: its job, the waves begun before its issue, the last later wave's (INJ, CONS, LOST) sums, and whether they
have found the job quiet (R278 to R280). -/
structure Quiet where
  job : Nat
  since : Nat
  last : Option (Nat × Nat × Nat)
  found : Bool
  deriving DecidableEq, Repr

/-- A wait in progress (R43 to R46, R156). `met` is the first tick, no later than the deadline, at whose end its test was
satisfied (R45, R47). -/
structure WaitSt where
  conds : List CondSt
  all : Bool
  sc : Scope
  deadline : Option Nat
  wsat : Nat
  sd : Nat
  quiet : Option Quiet
  baddr : Nat
  met : Option Nat := none
  deriving DecidableEq, Repr

/-- What a Parked or Stalled context waits for (R33). -/
inductive Blk where
  | reg (r : RegRef)
  | chan | tracker | mstat | svc | acq | held | ring | table | done
  deriving DecidableEq, Repr

/-- The spaces of an alias entry or footprint (R222, R266). -/
inductive Space where
  | lmem | vault | virt | phys
  deriving DecidableEq, Repr

/-- An alias-table entry (R222): its space, address, size, and for a queue load its virtual address and serial. -/
structure Alias where
  sp : Space
  addr : Nat
  size : Nat
  virt : Option Nat
  serial : Nat := 0
  deriving DecidableEq, Repr

/-- One held store (R221): a scalar write, the active lanes of a vector write with their addresses, or a queue store by
its entry's serial. -/
inductive HeldSt where
  | mem (sp : Space) (addr n v baddr : Nat)
  | vec (sp : Space) (lanes : List (Nat × Nat)) (v : BitVec 1024) (baddr : Nat)
  | queue (q serial : Nat)
  deriving DecidableEq, Repr

/-! ## Matrix and gather commands (R232 to R266) -/

/-- An operand descriptor as captured (R237). -/
structure ODesc where
  sync : Nat
  sbase : Nat
  spitch : Nat
  ncol : Nat
  syncsp : Bool
  syncen : Bool
  wcode : Nat
  fmt : Nat
  ring : Nat
  space : Nat
  pitch : Nat
  base : Nat
  deriving DecidableEq, Repr, Inhabited

/-- One level of a nest (R243). -/
structure NLevel where
  trip : Nat
  tstep : Nat
  sstep : Nat
  kstep : Bool
  swap : Bool
  deriving DecidableEq, Repr, Inhabited

/-- A copy descriptor as captured (R259), with PADV and PADB. -/
structure CDesc where
  raw : Nat
  padv : Nat
  padb : Nat
  deriving DecidableEq, Repr, Inhabited

/-- What an engine command does. -/
inductive CKind where
  /-- MWLD: load number, format, width, rounding, transposed, valid rows, descriptor, ring position. -/
  | mwld (w : Nat) (prec : Nat) (t : Bool) (kv : Nat) (d : ODesc) (slot : Nat)
  /-- MMA: PREC, transposed, overwrite, final release, tile, descriptor, nest, padding, first reserved slot. -/
  | mma (prec : Nat) (t ovw wrel : Bool) (tile : Nat) (d : ODesc) (nest : List NLevel) (padv padb : Nat) (slot : Nat)
  /-- MDRN: PREC, transposed, clear, peak register, rounding, saturation, scope, tile, descriptor, scale, and the issue
  count of the tile's previous drain. -/
  | mdrn (prec : Nat) (t clr : Bool) (pk : Option Nat) (rm : Rm) (sat : Bool) (sc : Scope) (tile : Nat) (d : ODesc) (scale : Option Nat)
      (prev : Option Nat)
  /-- GCOPY: channel, identifier, scope, descriptor. -/
  | gcopy (ch id : Nat) (sc : Scope) (d : CDesc)
  deriving DecidableEq, Repr

/-- A byte range of one space: a footprint (R266). `none` stands for the whole space. -/
structure Foot where
  sp : Space
  range : Option (Nat × Nat)
  deriving DecidableEq, Repr

/-- One container that an engine writes: its address in its space, its first bit, its width and its value; `pa` is the physical
address of a virtual one once translated. -/
structure GPut where
  addr : Nat
  bit : Nat
  cb : Nat
  val : Nat
  pa : Option Nat := none
  deriving DecidableEq, Repr

/-- A request part of which has landed (R59, R198): its number, the elements or bytes it counts, what is still to be written,
the 32-byte codewords that its bytes cover whole (R365), and the tick at which it began to land (R352). -/
structure PartReq where
  req : Nat
  count : Nat
  late : List GPut
  words : List Nat
  at_ : Nat := 0
  deriving DecidableEq, Repr

/-- A command in the dependence tracker (R266). `next` counts passes begun, or elements written by a transfer; `running`
says that a pass or a load is under way; `got` is the ring slot that its destination has acquired; `err` is set once it has
failed; `done` lists a transfer's landed requests, `landed` its landed bytes, `faults` its requests waiting on a fault with
their tags, `kept` containers and scales read and not yet written, `parts` the requests that have landed in part, `bad` the elements
of a drain that an error in its destination path takes, `early` the aligned 8-byte parts of an L-mem source that were read as the
command began (R198; log entry 107), and `aims` the virtual containers of a transfer that are translated and still to be written, by
element with their address and translation (R338). A drain `running` has landed and waits for its arrival (R235). -/
structure Cmd where
  id : Nat
  kind : CKind
  count : Nat
  close : Nat
  ctx : Nat
  baddr : Nat
  crec : Nat
  reads : List Foot
  writes : List Foot
  next : Nat := 0
  running : Bool := false
  got : Option Nat := none
  err : Nat := 0
  done : List Nat := []
  landed : Nat := 0
  faults : List (Nat × Nat) := []
  kept : Tab (Nat × Nat) := []
  parts : List PartReq := []
  bad : List Nat := []
  hold : Bool := false
  serial : Nat := 0
  early : Tab Nat := []
  aims : Tab (Nat × Nat) := []
  deriving DecidableEq, Repr

/-- A command held by a region (R221, R256): the decoded instruction with the register values and descriptor it read; from
COMMIT on, the count and bundle it issues at, the DETAIL of a failure then and whether COMMIT stood in a delay slot. -/
structure HeldCmd where
  instr : Instr
  base : Nat
  sval : Nat
  raw : Nat
  padv : Nat
  padb : Nat
  dst : Option (Nat × Nat)
  baddr : Nat
  region : Bool
  count : Nat := 0
  cbaddr : Nat := 0
  cdetail : Nat := 0
  cdelay : Bool := false
  deriving DecidableEq, Repr

/-- The open region (R216 to R222). -/
structure Region where
  fallback : Nat
  pont : Nat
  rlen : Nat
  ck : Regs
  aliases : List Alias
  qserial : Nat
  deriving DecidableEq, Repr

/-- A trap that an earlier command raised, taken at the next bundle boundary (R248, R256, R275); BADDR is that boundary where no
bundle is named, and `delay` says that the named bundle stood in a delay slot (R297). -/
structure Defer where
  cause : Nat
  slot : Nat
  baddr : Option Nat
  detail : Nat
  delay : Bool := false
  deriving DecidableEq, Repr

/-! ## Contexts -/

inductive CSt where
  | idle | ready | running | stalled | parked
  deriving DecidableEq, Repr, Inhabited

/-- Sources of a pre-emption request (R321). -/
inductive PreSrc where
  | software | cancel | lehr | freeze | isolation
  deriving DecidableEq, Repr

/-- Per-context privileged registers and scheduling state (R33, R287, R288). `overrun` says that BUDGET has run out and cause
0x0B is still to be taken, `goPend` that a GO waits for STOPREQ to be cleared; `fbase` and `flen` are the continuation's frame in L-mem,
wherever LWBASE and LWLIM point (R317). -/
structure Priv where
  st : CSt := .idle
  stopped : Bool := false
  stopreq : Bool := false
  err : Bool := false
  resume : Nat := 0
  mb : Bool := false
  jslot : Nat := 0
  lwbase : Nat := 0
  lwlim : Nat := 0
  budget : Nat := 0
  used : Nat := 0
  qcount : Nat := 0
  rbthresh : Nat := 0
  crec : Nat := 0
  bpaddr : Tab Nat := []
  bpctl : Nat := 0
  nb : Bool := false
  pre : Option PreSrc := none
  blk : Option Blk := none
  parkTick : Nat := 0
  overrun : Bool := false
  goPend : Bool := false
  fbase : Nat := 0
  flen : Nat := 0
  deriving DecidableEq, Repr, Inhabited

/-- What a context has in flight. -/
structure Flight where
  serial : Nat := 0
  pend : List Pend := []
  fills : List Fill := []
  xwaits : List XWait := []
  acq : List Nat := []
  defer : List Defer := []
  spawns : Nat := 0
  deriving DecidableEq, Repr, Inhabited

/-- The continuation's own control state (R163, R160, R113). `core` is the core that a handler starts on (R272). -/
structure Cont where
  wid : Nat := 0
  issued : Nat := 0
  launch : Nat := 0
  rbcause : Nat := 0
  rbcount : Nat := 0
  padv : Nat := 0
  padb : Nat := 0
  svcArgs : Tab Nat := []
  svcOpen : Bool := false
  svcProd1 : Nat := 0
  svcProd2 : Nat := 0
  team : Nat := 0
  prio : Nat := 0
  tag : Option Nat := none
  tarr : Bool := false
  wto : Bool := false
  core : Option Nat := none
  deriving DecidableEq, Repr, Inhabited

/-- One hardware context with the continuation in it. `commitSt` is the queue store of a COMMIT bundle that waits for its
address to be compared, with its queue (R217, R222). `qres` is the bundle address and the result of a WQUIET that has ended and whose bundle is still
to take effect (R9, R280). `vres` is the register that the last vector-unit result was for, until another write takes it, and the serial
of that result's fill (R370). -/
structure Ctx where
  regs : Regs := { }
  pc : Nat := 0
  target : Option Nat := none
  delay : Nat := 0
  dslot : Nat := 0
  queues : Tab (List QEnt) := []
  loop : Option LoopSt := none
  region : Option Region := none
  heldSt : List HeldSt := []
  heldCmd : List HeldCmd := []
  wait : Option WaitSt := none
  doneWait : Bool := false
  commitSt : Option (Nat × QEnt) := none
  qres : Option (Nat × Nat) := none
  vres : Option (RegRef × Nat) := none
  ct : Cont := { }
  fl : Flight := { }
  pr : Priv := { }
  deriving DecidableEq, Repr, Inhabited

/-! ## The core's engines -/

/-- A tile image: elements by row * 256 + column, sticky NAN, PINF, NINF bits (R103), and the uncorrectable elements (R251). -/
structure Img where
  el : Tab Nat := []
  sticky : Tab Nat := []
  bad : List Nat := []
  deriving DecidableEq, Repr, Inhabited

/-- A write to a tile whose window has a close count (R136): the elements of columns below `cols` stand in `img` once
`ready`. -/
structure TWrite where
  cmd : Nat
  opened : Nat
  close : Nat
  cols : Nat
  img : Img
  ready : Bool
  sat : Bool
  flushed : Bool
  deriving DecidableEq, Repr

/-- TSTAT bits on their way: the count at which TSTAT takes them, the drain they come from, and whether it has landed
(R138, R255). -/
structure TsPend where
  at_ : Nat
  bits : Nat
  cmd : Nat
  landed : Bool
  deriving DecidableEq, Repr

/-- A tile: its current image, the writes whose windows are open or not yet made, the statuses of closed writes since
the last drain, and its drain status (R105, R136, R138). -/
structure Tile where
  img : Img := { }
  writes : List TWrite := []
  stats : List (Nat × Bool × Bool) := []
  lastDrain : Option Nat := none
  tstat : Nat := 0
  tspend : List TsPend := []
  deriving DecidableEq, Repr, Inhabited

/-- Who waits to acquire a ring slot (R71). -/
inductive Acq where
  | bfacq (cx reg prod : Nat)
  | cmd (id : Nat)
  | marver (port : Nat)
  deriving DecidableEq, Repr

/-- A ring: descriptor fields (R70), who acquired each slot (1 BFACQ, 2 an engine), waiting acquisitions in issue order,
and the reserved slots from HEAD on, true once no pass will read them again (R247). -/
structure Ring where
  base : Nat := 0
  ssize : Nat := 0
  scount : Nat := 0
  head : Nat := 0
  tail : Nat := 0
  occ : Nat := 0
  pmap : Nat := 0
  owner : Tab Nat := []
  waiting : List Acq := []
  resv : List Bool := []
  consumed : Nat := 0
  deriving DecidableEq, Repr, Inhabited

/-- A weight load in its plane (R241): its number, latched format, width and rounding, valid rows, whether it failed, and
each element with its block's scale code, keyed by column * 256 + row. Alignment and slicing are functions of these, worked
out by the pass that reads them (R92, R96 to R98). -/
structure Load where
  w : Nat
  fmt : Nat
  width : Nat
  rne : Bool
  kv : Nat
  failed : Bool
  vals : Tab (Nat × Nat)
  deriving DecidableEq, Repr

/-- An armed perturbation (R252): row, column, operand, log flag, and the number of the first MMA it may fire in. -/
structure Pert where
  row : Nat
  col : Nat
  val : Nat
  log : Bool
  after : Nat
  deriving DecidableEq, Repr

/-- The matrix-bound context's core state (R114, R232). -/
structure Mx where
  tiles : Tab Tile := []
  prec : Tab Nat := []
  pk : Tab Nat := []
  rings : Tab Ring := []
  shadow : Option (List NLevel) := none
  live : Option (List NLevel) := none
  planes : Tab (Option Load) := []
  wiss : Nat := 0
  wrel : Nat := 0
  pert : Tab (Option Pert) := []
  cmds : List Cmd := []
  nextId : Nat := 0
  nextid : Tab Nat := []
  donebelow : Tab Nat := []
  completed : Tab (List Nat) := []
  stage : Tab Nat := []
  deriving DecidableEq, Repr, Inhabited

/-- One translation in a TLB (R332): job slot, virtual base, log2 of the page size, physical base, permissions. -/
structure TlbEnt where
  jslot : Nat
  vbase : Nat
  log : Nat
  pbase : Nat
  perm : Nat
  deriving DecidableEq, Repr

/-- A core (R4). `last` is the context that last ran, where its rotation starts, and `issuer` the one whose bundle it issued last
(R34). -/
structure Core where
  run : Option Nat := none
  last : Option Nat := none
  issuer : Option Nat := none
  ctxs : Tab Ctx := []
  lmem : Memory := []
  lbad : List Nat := []
  mx : Mx := { }
  tlb : List TlbEnt := []
  evsel : Tab Nat := []
  evcnt : Tab Nat := []
  dbgsel : Nat := 0
  retired : Bool := false
  dpErrs : List Nat := []
  lmErrs : Nat := 0
  deriving DecidableEq, Repr, Inhabited

/-! ## Clusters -/

/-- A trap record before it is written (R297). `after` is the serial of an SVC among its context's accesses: the earlier ones are
performed before the record is written (R160); 0 for none. -/
structure TrapRec where
  seq : Nat
  jslot : Nat
  rb : Bool
  delay : Bool
  flag : Bool
  kind : Nat
  cx : Nat
  core : Nat
  slot : Nat
  cause : Nat
  baddr : Nat
  detail : Nat
  crec : Nat
  after : Nat := 0
  deriving DecidableEq, Repr

/-- A job slot (R291): `teams` counts the teams bound under it, `ix` names the job-table entry it is
a copy of, and `stale` is the tick of the first change of the entry since (R308). -/
structure JobSlot where
  valid : Bool := false
  part : Nat := 0
  jobid : Nat := 0
  troot : Nat := 0
  vwin : Tab (Nat × Nat) := []
  rwbase : Nat := 0
  rwlim : Nat := 0
  teams : Nat := 0
  ix : Option Nat := none
  stale : Option Nat := none
  deriving DecidableEq, Repr, Inhabited

/-- A continuation saved off its context (R318): the context with its wait, its frame's L-mem offset and size, and for a
matrix-bound one the core's engine state. What its save area holds of these is read back from there; `issued` is its count of bundles
when it was saved. `gone` marks a cancelled one
whose issued accesses have still to be performed (R306), `item` a team's item that has never been placed (R22). -/
structure Saved where
  ctx : Ctx
  fresh : Bool
  base : Nat
  size : Nat
  mx : Option Mx
  gone : Bool := false
  item : Bool := false
  issued : Nat := 0
  deriving DecidableEq, Repr

/-- A preload (R325, R326): its record Y, the L-mem range its copy stands in, the record X that the context ran, and whether the
Gaffer has set X ready again since. -/
structure Preload where
  crec : Nat
  base : Nat := 0
  size : Nat := 0
  owner : Nat := 0
  rerun : Bool := false
  deriving DecidableEq, Repr, Inhabited

/-- A spawner: its cluster and its record. -/
structure SpawnBy where
  cl : Nat
  crec : Nat
  deriving DecidableEq, Repr

/-- A continuation asked for and not yet recorded: a SPAWN's or a handler's (R30, R272). `origin` is the register the
SPAWN's status fills, with its spawner and serial; `core` the core that a message names (R272). -/
structure SpawnReq where
  wid : Nat
  prio : Nat
  entry : Nat
  args : List Nat
  tag : Option Nat
  origin : Option (SpawnBy × Nat × Nat)
  core : Option Nat := none
  deriving DecidableEq, Repr

/-- A team bound to the cluster (R22, R23): `bound` and `moved` are the ticks of its binding and last move, `moving` the
cluster a move under way goes to (R379). -/
structure Team where
  launch : Nat
  key : Nat
  live : Nat
  phase : Nat
  arrivals : Nat
  cap : Nat
  vbase : Nat
  jslot : Nat
  nextItem : Nat
  items : Nat
  free : List Nat
  pending : List SpawnReq
  sched : Bool
  moving : Option Nat
  bound : Nat
  moved : Option Nat
  deriving DecidableEq, Repr

/-- A Marver entry under way (R268): its index, its 64 bytes, the slot acquired in each served core, a write back's tile
once read, a code once it has failed, its requests that wait on a fault, and those that have landed with their bytes (R338). -/
structure MEnt where
  ix : Nat
  raw : Nat
  got : List (Nat × Nat)
  tile : Option (List Byte)
  err : Nat
  faults : List (Nat × Nat)
  done : List Nat := []
  landed : Nat := 0
  deriving DecidableEq, Repr

/-- One Marver (R268): its list's vault offset, its entry count, the next entry to start, the entries under way, and the records
saved from the schedule's cores that it pauses for (R270). -/
structure Marver where
  list : Nat := 0
  count : Nat := 0
  pos : Nat := 0
  live : List MEnt := []
  paused : List Nat := []
  deriving DecidableEq, Repr, Inhabited

/-- A fault record (R335): its fields in the order of its doublewords. -/
structure FaultRec where
  seq : Nat
  tag : Nat
  jslot : Nat
  src : Nat
  core : Nat
  cx : Nat
  unit : Nat
  write : Bool
  disc : Bool
  level : Nat
  sub : Nat
  va : Nat
  id : Nat
  crec : Nat
  landed : Nat
  sect : Nat
  sectLanded : Nat
  entry : Nat
  tick : Nat
  deriving DecidableEq, Repr

/-- An invalidation the Gaffer has asked for (R333). -/
structure Tlbi where
  kind : Nat
  va : Nat
  jslot : Nat
  count : Nat
  global : Bool
  deriving DecidableEq, Repr

/-- A Gaffer as it is released: its PC, its registers x10 and x11, and that it stands in machine mode (R387). What its program then does
reaches the model as Gaffer accesses. -/
structure GStart where
  pc : Nat
  x10 : Nat
  x11 : Nat
  machine : Bool := true
  deriving DecidableEq, Repr

/-- A cluster (R4). `schedSlot` and `schedJob` are the job slot and the job that its Marvers' schedule was bound under (R268, R270). -/
structure Cluster where
  cores : Tab Core := []
  saved : Tab (Option Saved) := []
  ready : List Nat := []
  watch : List Nat := []
  teams : Tab (Option Team) := []
  marvers : Tab Marver := []
  schedSlot : Nat := 0
  schedJob : Nat := 0
  jobs : Tab JobSlot := []
  cdir : Tab Nat := []
  code : Memory := []
  gk : Nat := 4
  lk : Nat := 4
  switching : Bool := false
  lforce : Bool := false
  greq : Bool := false
  trqBase : Nat := 0
  trqSize : Nat := 0
  trqHead : Nat := 0
  trqTail : Nat := 0
  trapSeq : Nat := 0
  trapWait : List TrapRec := []
  ansRec : Nat := 0
  ansV1 : Nat := 0
  ansV2 : Nat := 0
  ansStat : Bool := false
  girqLehr : Bool := false
  girqMgmt : Bool := false
  girqen : Nat := 0
  evsel : Tab Nat := []
  evcnt : Tab Nat := []
  plsel : Nat := 0
  preload : Tab Preload := []
  tlbiva : Nat := 0
  tlbiBusy : Option Tlbi := none
  tlbiErr : Bool := false
  walks : List WalkFor := []
  stlb : List TlbEnt := []
  ptab : List TlbEnt := []
  fqBase : Nat := 0
  fqSize : Nat := 0
  fqHead : Nat := 0
  fqTail : Nat := 0
  frErr : Bool := false
  faultSeq : Nat := 0
  faults : Tab (Option FaultRec) := []
  faultWait : List FaultRec := []
  pmSrc : Nat := 0
  pmDst : Nat := 0
  pmBusy : Option Nat := none
  pmSize : Nat := 0
  pmErr : Bool := false
  pmN : Nat := 0
  pmFrom : Nat := 0
  pmTo : Nat := 0
  lmsg : Nat := 0
  step : Nat := 0
  temp : Nat := 0
  fast : Bool := false
  stepTick : Nat := 0
  failed : Bool := false
  retired : Bool := false
  granules : List Nat := []
  vaultErrs : List (Nat × Nat) := []
  codeBad : List Nat := []
  gaffer : Option GStart := none
  deriving DecidableEq, Repr, Inhabited

/-! ## The module -/

/-- States of a launch (R313). A Queued launch is a record in its queue; Checked is passed through within one step. -/
inductive LState where
  | head | running | draining
  | frozen (wasDraining : Bool)
  | ended (status : Nat)
  deriving DecidableEq, Repr

/-- An armed dependence (R307): resolved offset, generation, ERROK, whether the generation has advanced, whether it is met,
and whether its word held an ERR that counts then. -/
structure Dep where
  off : Nat
  gen : Nat
  errok : Bool
  adv : Bool
  met : Bool
  err : Bool := false
  deriving DecidableEq, Repr

/-- A launch the module dispatcher knows (R304 to R313): its record's bytes as one number, its queue, the tick at which it
became Head or started, its dependences, teams created and retired with the dense ordinals of the retired ones, spawns toward
teams not live, and how it will end: incomplete, cancelled or with the status `bad`; `reported` once its completion has been. -/
structure Launch where
  raw : Nat
  queue : Nat
  st : LState
  tick : Nat
  deps : List Dep
  nextTeam : Nat
  retiredTeams : Nat
  liveTeams : Nat
  pendingNew : List SpawnReq
  incomplete : Bool
  cancelled : Bool
  bad : Nat := 0
  retiredOrds : List Nat := []
  reported : Bool := false
  deriving DecidableEq, Repr

/-- A work queue: its descriptor (R309), its ring's and its borrowed slots' records in push order (R312), and the tick since which it
has held an untaken record (R311). -/
structure WQueue where
  valid : Bool := false
  qerr : Bool := false
  resident : Bool := false
  part : Nat := 0
  jobix : Nat := 0
  ceil : Nat := 0
  log2 : Nat := 0
  vqid : Nat := 0
  accepted : Nat := 0
  refused : Nat := 0
  taken : Nat := 0
  rbthresh : Nat := 0
  ring : List Nat := []
  borrowed : List Nat := []
  lastUsed : Nat := 0
  since : Option Nat := none
  deriving DecidableEq, Repr, Inhabited

/-- A job-table entry (R308). -/
structure JobEnt where
  valid : Bool := false
  jobid : Nat := 0
  troot : Nat := 0
  windows : List (Nat × Nat) := []
  red : Nat × Nat := (0, 0)
  part : Nat := 0
  deriving DecidableEq, Repr, Inhabited

/-- Quiescence counters of one job on this module (R276, R280). -/
structure JobCnt where
  inj : Nat := 0
  cons : Nat := 0
  lost : Nat := 0
  reported : Nat := 0
  deriving DecidableEq, Repr, Inhabited

/-- A handler message under way at this module (R272, R277): its job and how many tagged continuations live. -/
structure Msg where
  job : Nat
  live : Nat
  deriving DecidableEq, Repr

/-- An arrival or error arrival on its way to a sync word (R67, R68, R82): in a core's L-mem or the vault, the engine
command that makes it, by core and number, and the tick at which it was made (R50). -/
structure Arrival where
  lmem : Option CoreId
  addr : Nat
  n : Nat
  err : Option Nat
  owner : Option (CoreId × Nat) := none
  at_ : Nat := 0
  deriving DecidableEq, Repr

/-- Why a bundle does not take effect (R9, R33, R224). -/
inductive Stop where
  | trap (cause detail : Nat)
  | block (b : Blk)
  | roll (cause tcause : Nat)
  deriving DecidableEq, Repr

/-- What a bundle's slot 0 does once the whole bundle has read its sources and its other slots have written (R8, R39,
R216, R217). -/
inductive Post where
  | creg (creg : Nat) (v : Word)
  | pont (fallback : Nat)
  | commit
  | loopStart (l : LoopSt)
  | lexit
  | done
  | yield
  | park (w : WaitSt)
  | svc (n : Nat) (args : List Word)
  | spawn (wid prio entry : Nat) (args : List Word) (dst : Option (Nat × Nat))
  deriving DecidableEq, Repr

/-- The bundle being issued: its context as it stood before, its words, and what its slots have met so far. -/
structure Bun where
  x : CtxId
  baddr : Nat
  pre : Ctx
  hdr : BitVec 32
  words : List (BitVec 32)
  br : Bool
  outs : List (Nat × Stop)
  late : Option (Nat × Nat)
  taken : Bool
  posts : List Post
  deriving DecidableEq, Repr

/-! ## Hosts, trust, reliability, power and bring-up (R347 to R390) -/

/-- SPDM of one logical device (R362): how far negotiation has come, a key exchange under way, the session with its number, its
heartbeat period, the tick of its last authenticated message, the sequence numbers its key has used, and whether the interface was
locked under it. -/
structure Spdm where
  version : Bool := false
  caps : Bool := false
  algs : Bool := false
  keyex : Bool := false
  session : Bool := false
  period : Nat := 0
  last : Nat := 0
  lock : Bool := false
  num : Nat := 0
  seq : Nat := 0
  deriving DecidableEq, Repr, Inhabited

/-- A logical device: its descriptor (R350), its host's binding and identity, the certificate of that identity once a session has
existed and the one shown since the last binding (R347, R355), the session at its freeze (R359), completion time-outs in a row
(R353), its park buffer (R354), its error-log count, whether its interface has been locked since VALID (R363), and SPDM. -/
structure Ld where
  valid : Bool := false
  tstate : Nat := 0
  hstate : Nat := 0
  port : Nat := 0
  rstpol : Bool := false
  referr : Bool := false
  clmask : Nat := 0
  drbase0 : Nat := 0
  drlim0 : Nat := 0
  drbase1 : Nat := 0
  drlim1 : Nat := 0
  hmlim : Nat := 0
  floor : Nat := 0
  cquota : Nat := 0
  bound : Option Nat := none
  ident : Option Nat := none
  cert : Option Nat := none
  shown : Option Nat := none
  fsess : Nat := 0
  timeouts : Nat := 0
  park : List (Nat × List Byte) := []
  restart : Bool := false
  errs : Nat := 0
  efloor : Nat := 0
  powerIrq : Bool := false
  locked : Bool := false
  spdm : Spdm := { }
  deriving DecidableEq, Repr, Inhabited

/-- An error-log record (R368). -/
structure LogRec where
  seq : Nat
  kind : Nat
  die : Nat
  unit : Nat
  lane : Nat
  count : Nat
  addr : Nat
  tick : Nat
  detail : Nat
  deriving DecidableEq, Repr

/-- One error log of a die (R367). -/
structure ErrLog where
  recs : List LogRec := []
  next : Nat := 0
  lost : Nat := 0
  deriving DecidableEq, Repr, Inhabited

/-- A DRAM channel (R366, R371): failing lanes swapped to spares, retries of the transfer under way and its address, the group under
diagnosis with the tick of its start, the kind 0x11 records of each group with their ticks, and the groups to be diagnosed at their
next transfer. -/
structure Chan where
  swaps : List (Nat × Nat) := []
  retries : Nat := 0
  addr : Nat := 0
  diag : Option Nat := none
  diagAt : Nat := 0
  due : List Nat := []
  passed : List (Nat × Nat) := []
  retired : Bool := false
  deriving DecidableEq, Repr, Inhabited

/-- HEALTH (R372). -/
structure Health where
  cores : Nat := 1536
  clusters : Nat := 192
  channels : Nat := 0
  isodies : Nat := 0
  st : Nat := 0
  deriving DecidableEq, Repr, Inhabited

/-- The Lehr's registers and the fast throttle (R376 to R378): `alarmEnd` is the tick at which the last alarm ended, `predicted`
the dies over their limit at the last prediction, `predictTick` and `measureTick` the ticks of the last prediction and measurement. -/
structure Power where
  pcap : Nat := 2400
  ecap : Nat := 2400
  clamped : Bool := false
  shrunk : Bool := false
  thot : Nat := 95
  talarm : Nat := 105
  fprio : Nat := 0
  fast : Bool := false
  alarmEnd : Option Nat := none
  droop : Bool := false
  predicted : List Nat := []
  measured : Nat := 0
  predictTick : Nat := 0
  measureTick : Nat := 0
  deriving DecidableEq, Repr, Inhabited

/-- Bring-up (R384, R388, R389): the last step completed, whether it is in recovery and has had its one replacement image there, and
binds that wait for DONE (R390). -/
structure Boot where
  step : Nat := 0
  recovery : Bool := false
  tried : Bool := false
  linkerr : Bool := false
  done : Bool := false
  binds : List (Nat × Nat × Nat) := []
  deriving DecidableEq, Repr, Inhabited

/-- The last answer given to the outside world: data that a read returned, or an answer's bytes and its success. -/
structure Resp where
  ok : Bool := true
  val : Nat := 0
  bytes : List Byte := []
  deriving DecidableEq, Repr, Inhabited

/-- A wave's sums on their way (R278): the wave's number and (job, INJ, CONS, LOST). -/
structure Wave where
  num : Nat
  sums : List (Nat × Nat × Nat × Nat)
  deriving DecidableEq, Repr

/-- The state of one module. `cur` names the context that slot meanings act on and `bun` is the bundle being issued;
`agenda` says what moves next, `req` is the request latch, `resp` the last answer to the outside, and `draws` the
free-value counter: these six are the model's own (log entry 2). A module reads as it does right after reset until its
bring-up steps are done (R384). -/
structure State where
  tick : Nat := 0
  clusters : Tab Cluster := []
  vault : Memory := []
  vbad : List Nat := []
  dram : Memory := []
  dbad : List Nat := []
  hosts : Tab Memory := []
  hbad : Tab (List Nat) := []
  lds : Tab Ld := []
  ports : List Nat := []
  launches : Tab (Option Launch) := []
  jobs : Tab JobEnt := []
  wqs : Tab WQueue := []
  rotLd : Nat := 0
  rotQ : Tab Nat := []
  modId : Nat := 0
  domain : List Nat := [0]
  packets : List Packet := []
  lossRecs : List Packet := []
  counts : Tab JobCnt := []
  msgs : Tab (Option Msg) := []
  waiting : List Packet := []
  arrivals : List Arrival := []
  waves : Nat := 0
  waveTick : Nat := 0
  waveFlight : List Wave := []
  logs : Tab ErrLog := []
  chans : Tab Chan := []
  rowErrs : List (Nat × Nat) := []
  remaps : List Nat := []
  linksDown : List (Nat × Nat) := []
  rerouting : Bool := false
  rerouteTick : Nat := 0
  health : Health := { }
  power : Power := { }
  boot : Boot := { }
  meas : Tab (BitVec 256) := []
  aliasKey : Bool := false
  told : Nat := 0
  cur : CtxId := ⟨0, 0, 0⟩
  bun : Option Bun := none
  agenda : List Turn := []
  req : Request := { }
  resp : Resp := { }
  draws : Nat := 0
  deriving DecidableEq, Repr

/-- The module right after power-on or a module reset: nothing has been brought up, every register reads its reset value
(R384, R386; log entry 3). -/
def State.reset : State := { }

end Sys2Proof.Machine
end

