-- ==== Sys2Proof/Machine/Ops.lean ====
section
/-! DEFINITION. The named operations over the state: reaching clusters, cores, contexts and memories, the address
checks, filling registers, taking a trap, rolling a region back, and resuming a stopped context. -/

namespace Sys2Proof.Machine

/-! ## Reaching the parts of the state -/

def State.cl (s : State) (k : Nat) : Cluster := tget { } s.clusters k
def State.setCl (s : State) (k : Nat) (c : Cluster) : State := { s with clusters := tput s.clusters k c }
def State.modCl (s : State) (k : Nat) (f : Cluster → Cluster) : State := s.setCl k (f (s.cl k))

def Cluster.core (c : Cluster) (k : Nat) : Core := tget { } c.cores k
def Cluster.setCore (c : Cluster) (k : Nat) (o : Core) : Cluster := { c with cores := tput c.cores k o }

def Core.ctx (o : Core) (k : Nat) : Ctx := tget { } o.ctxs k
def Core.setCtx (o : Core) (k : Nat) (x : Ctx) : Core := { o with ctxs := tput o.ctxs k x }

def State.core (s : State) (c : CoreId) : Core := (s.cl c.cl).core c.core
def State.setCore (s : State) (c : CoreId) (o : Core) : State := s.setCl c.cl ((s.cl c.cl).setCore c.core o)
def State.modCore (s : State) (c : CoreId) (f : Core → Core) : State := s.setCore c (f (s.core c))
def State.modMx (s : State) (c : CoreId) (f : Mx → Mx) : State := s.modCore c fun o => { o with mx := f o.mx }

def State.ctx (s : State) (x : CtxId) : Ctx := (s.core x.coreId).ctx x.cx
def State.setCtx (s : State) (x : CtxId) (v : Ctx) : State :=
  s.setCore x.coreId ((s.core x.coreId).setCtx x.cx v)
def State.modCtx (s : State) (x : CtxId) (f : Ctx → Ctx) : State := s.setCtx x (f (s.ctx x))
def State.modPr (s : State) (x : CtxId) (f : Priv → Priv) : State := s.modCtx x fun c => { c with pr := f c.pr }
def State.modFl (s : State) (x : CtxId) (f : Flight → Flight) : State := s.modCtx x fun c => { c with fl := f c.fl }
def State.modCt (s : State) (x : CtxId) (f : Cont → Cont) : State := s.modCtx x fun c => { c with ct := f c.ct }

/-- The saved image of a record, if it has left its context (R26, R318). -/
def State.saved (s : State) (cl crec : Nat) : Option Saved := tget none (s.cl cl).saved crec
def State.setSaved (s : State) (cl crec : Nat) (v : Option Saved) : State :=
  s.modCl cl fun c => { c with saved := match v with | none => terase c.saved crec | some _ => tput c.saved crec v }

/-- The context state a home names: live, or in a saved image (R28). -/
def State.home (s : State) : Home → Option Ctx
  | .live x => some (s.ctx x)
  | .saved cl crec => (s.saved cl crec).map Saved.ctx

def State.setHome (s : State) (h : Home) (v : Ctx) : State :=
  match h with
  | .live x => s.setCtx x v
  | .saved cl crec => match s.saved cl crec with
    | none => s
    | some i => s.setSaved cl crec (some { i with ctx := v })

def State.modHome (s : State) (h : Home) (f : Ctx → Ctx) : State :=
  match s.home h with
  | none => s
  | some c => s.setHome h (f c)

/-- The cluster a home belongs to. -/
def homeCl : Home → Nat
  | .live x => x.cl
  | .saved cl _ => cl

/-! ## Event counters (R303, R381, R382) -/

/-- Counts events in the enabled counters of one block, `events` giving how many an EVSEL selects; a wrap sets OVF. -/
def tallyTabs (sel cnt : Tab Nat) (events : Nat → Nat) : Tab Nat × Tab Nat :=
  sel.foldl (fun (acc : Tab Nat × Tab Nat) e =>
    if e.2 / 2 ^ 16 % 2 = 1 && events e.2 != 0 then
      let v := tget 0 acc.2 e.1 + events e.2
      (if 2 ^ 64 ≤ v then tset 0 acc.1 e.1 (tget 0 acc.1 e.1 ||| 2 ^ 18) else acc.1, tset 0 acc.2 e.1 (v % 2 ^ 64))
    else acc) (sel, cnt)

/-- Events of one context of a core. -/
def State.tally (s : State) (x : CtxId) (code n : Nat) : State :=
  if (s.core x.coreId).evsel.isEmpty then s
  else s.modCore x.coreId fun o =>
    let r := tallyTabs o.evsel o.evcnt fun v => if v % 2 ^ 12 = code ∧ v / 2 ^ (12 + x.cx) % 2 = 1 then n else 0
    { o with evsel := r.1, evcnt := r.2 }

/-- Events of a cluster. -/
def State.tallyCl (s : State) (cl code n : Nat) : State :=
  if (s.cl cl).evsel.isEmpty then s
  else s.modCl cl fun c =>
    let r := tallyTabs c.evsel c.evcnt fun v => if v % 2 ^ 12 = code then n else 0
    { c with evsel := r.1, evcnt := r.2 }

/-! ## Registers of a context (R113, R115, R116) -/

def Regs.sc (r : Regs) (n : Nat) : RCell 64 := tget { } r.s n
def Regs.ac (r : Regs) (n : Nat) : RCell 64 := tget { } r.a n
def Regs.vc (r : Regs) (n : Nat) : RCell 1024 := tget { } r.v n
/-- p0 reads 1 (R113). -/
def Regs.pv (r : Regs) (n : Nat) : Bool := n == 0 || tget false r.p n

/-- A write to s0 is discarded (R113). -/
def Regs.setS (r : Regs) (n : Nat) (c : RCell 64) : Regs := if n = 0 then r else { r with s := tset { } r.s n c }
def Regs.setA (r : Regs) (n : Nat) (c : RCell 64) : Regs := { r with a := tset { } r.a n c }
def Regs.setV (r : Regs) (n : Nat) (c : RCell 1024) : Regs := { r with v := tset { } r.v n c }
/-- A write to p0 is discarded (R113). -/
def Regs.setP (r : Regs) (n : Nat) (b : Bool) : Regs := if n = 0 then r else { r with p := tset false r.p n b }

/-- The top mask: E0 is all ones and is never written (R177). -/
def Regs.top (r : Regs) : Nat := if r.depth = 0 then 2 ^ 32 - 1 else tget 0 r.mask r.depth

/-- `wr` of R9: the value, full, unmarked, with no producer awaited. -/
def Regs.wr (r : Regs) (k : RegRef) (v : Nat) : Regs :=
  match k with
  | .s n => r.setS n { val := BitVec.ofNat 64 v }
  | .a n => r.setA n { val := BitVec.ofNat 64 v }
  | .v n => r.setV n { val := BitVec.ofNat 1024 v }
  | .p n => r.setP n (v % 2 == 1)

/-- `mark_empty` of R9 for the producer with serial `prod`. -/
def Regs.mkEmpty (r : Regs) (k : RegRef) (prod : Nat) : Regs :=
  match k with
  | .s n => r.setS n { r.sc n with full := false, mark := { }, prod := prod }
  | .a n => r.setA n { r.ac n with full := false, mark := { }, prod := prod }
  | .v n => r.setV n { r.vc n with full := false, mark := { }, prod := prod }
  | .p _ => r

/-- The serial of the producer that a register waits for. -/
def Regs.prodOf (r : Regs) : RegRef → Nat
  | .s n => (r.sc n).prod
  | .a n => (r.ac n).prod
  | .v n => (r.vc n).prod
  | .p _ => 0

def Regs.isFull (r : Regs) : RegRef → Bool
  | .s n => (r.sc n).full
  | .a n => (r.ac n).full
  | .v n => (r.vc n).full
  | .p _ => true

/-- A fill lands where its producer is still the register's newest (R116). -/
def Regs.land (r : Regs) (k : RegRef) (prod v : Nat) (m : Mark) : Regs :=
  if prod = 0 ∨ ¬ r.prodOf k = prod then r
  else match k with
    | .s n => r.setS n { val := BitVec.ofNat 64 v, mark := m }
    | .a n => r.setA n { val := BitVec.ofNat 64 v, mark := m }
    | .v n => r.setV n { val := BitVec.ofNat 1024 v, mark := m }
    | .p _ => r

/-- p7 of an ATBADD lands with its register (R210). -/
def Regs.landP7 (r : Regs) : Option Bool → Regs
  | some b => r.setP 7 b
  | none => r

/-- A result is written to the live register and, for a producer at or before PONT, to the checkpoint (R220): an ATBADD whose
result is awaited while a region is open stands in PONT's bundle, since it holds every later one. -/
def Ctx.land (c : Ctx) (f : Fill) : Ctx :=
  { c with
    regs := (c.regs.land f.reg f.prod f.val f.mark).landP7 f.p7
    region := c.region.map fun g => { g with ck := (g.ck.land f.reg f.prod f.val f.mark).landP7 f.p7 }
    fl := { c.fl with acq := c.fl.acq.filter fun a => a != f.acq } }

def Ctx.wr (c : Ctx) (k : RegRef) (v : Nat) : Ctx := { c with regs := c.regs.wr k v }

def State.wrReg (s : State) (x : CtxId) (k : RegRef) (v : Nat) : State := s.modCtx x fun c => c.wr k v

/-- Marks a destination empty under a fresh serial and answers that serial; s0 takes no fill (R9, R135). -/
def Ctx.newProd (c : Ctx) (k : RegRef) : Ctx × Nat :=
  let n := c.fl.serial + 1
  ({ c with fl := { c.fl with serial := n }, regs := c.regs.mkEmpty k n }, n)

def regZero : RegRef → Bool
  | .s n => n == 0
  | _ => false

/-- A long-latency result whose value is already decided: it lands with a later REGISTER_FILL (R135). -/
def Ctx.later (c : Ctx) (k : RegRef) (v : Nat) : Ctx :=
  if regZero k then c
  else
    let r := c.newProd k
    { r.1 with fl := { r.1.fl with fills := r.1.fl.fills ++ [({ reg := k, prod := r.2, val := v } : Fill)] } }

/-! ## Waking (R33) -/

/-- Any event that may remove a block makes a Stalled context Running and one Parked from Stalled Ready. A stopped one that is
Stalled keeps its state until it is resumed (R288). -/
def Priv.wake (p : Priv) : Priv :=
  match p.blk with
  | none => p
  | some _ => match p.st with
    | .stalled => if p.stopped then p else { p with st := .running, blk := none }
    | .parked => { p with st := .ready, blk := none }
    | _ => p

def Ctx.wake (c : Ctx) : Ctx := { c with pr := c.pr.wake }
def State.wake (s : State) (x : CtxId) : State := s.modCtx x Ctx.wake

/-- Wakes every blocked context of a core. -/
def State.wakeCore (s : State) (c : CoreId) : State :=
  ((s.wake ⟨c.cl, c.core, 0⟩).wake ⟨c.cl, c.core, 1⟩ |>.wake ⟨c.cl, c.core, 2⟩).wake ⟨c.cl, c.core, 3⟩

/-! ## The vault space (R24, R55, R56, R290 to R293) -/

/-- The resolved offset at which a cluster's vault begins. -/
def vaultBase (cl : Nat) : Nat := cl / 12 * 2 ^ 30 + cl % 12 * 2 ^ 26

/-- The cluster whose vault holds a resolved offset. -/
def vaultCl (off : Nat) : Nat := off / 2 ^ 30 % 16 * 12 + off / 2 ^ 26 % 16

/-- Resolves an offset for a cluster: none where bits 63 to 34 are set, VAULT is 12 to 14, or a home alias has die
bits (R24, R55, R56). -/
def resolve (cl off : Nat) : Option Nat :=
  if 2 ^ 34 ≤ off then none
  else if off / 2 ^ 26 % 16 = 15 then
    (if off / 2 ^ 30 = 0 then some (vaultBase cl + off % 2 ^ 26) else none)
  else if 12 ≤ off / 2 ^ 26 % 16 then none
  else some off

/-- No byte of a range has a VAULT of 12 or above (R291). -/
def realVaults (lo n : Nat) : Bool :=
  (List.range ((lo + n - 1) / 2 ^ 26 - lo / 2 ^ 26 + 1)).all fun i => decide ((lo / 2 ^ 26 + i) % 16 < 12)

/-- Whether windows cover every byte of a range: each step moves to the limit of a window that holds the next byte. -/
def covered (ws : List (Nat × Nat)) : Nat → Nat → Nat → Bool
  | 0, lo, hi => decide (hi ≤ lo)
  | k + 1, lo, hi =>
    if hi ≤ lo then true
    else match ws.find? fun w => decide (w.1 ≤ lo ∧ lo < w.2) with
      | none => false
      | some w => covered ws k w.2 hi

def State.jobSlot (s : State) (x : CtxId) : JobSlot := tget { } (s.cl x.cl).jobs (s.ctx x).pr.jslot
def JobSlot.wins (j : JobSlot) : List (Nat × Nat) := (List.range 4).map fun w => tget (0, 0) j.vwin w

/-- The window check of R56 and R291 on a resolved range. -/
def JobSlot.covers (j : JobSlot) (off n : Nat) : Bool :=
  j.valid && realVaults off n && covered j.wins 5 off (off + n)

/-- The whole check of R55 and R56: the resolved offset, or none for cause 0x05. -/
def State.vaultCheck (s : State) (x : CtxId) (ea n : Nat) : Option Nat :=
  match resolve x.cl ea with
  | none => none
  | some off => if (s.jobSlot x).covers off n then some off else none

/-- The L-mem check of R54: bits 63 to 20 zero and every byte in the context's window. -/
def Priv.lmemOk (p : Priv) (addr n : Nat) : Bool :=
  decide (addr + n ≤ 2 ^ 20) && decide (p.lwbase ≤ addr) && decide (addr + n ≤ p.lwlim)

/-- Whether a die is isolated (R374). -/
def State.isolated (s : State) (die : Nat) : Bool := s.health.isodies != 0 && s.health.isodies / 2 ^ die % 2 == 1

/-- Whether an aligned 8-byte word of the vault is marked uncorrectable, or lies on an isolated die (R365, R374). -/
def State.vaultBad (s : State) (off n : Nat) : Bool :=
  (s.vbad.any fun w => decide (w * 8 < off + n ∧ off < w * 8 + 8)) || s.isolated (off / 2 ^ 30)

def Core.lmemBad (o : Core) (addr n : Nat) : Bool :=
  o.lbad.any fun w => decide (w * 8 < addr + n ∧ addr < w * 8 + 8)

def State.rdVault (s : State) (off n : Nat) : Nat := rdMem s.vault off n
/-- A write of an aligned word clears its poison where it covers the word (R365); nothing is written on an isolated die
(R374). -/
def State.wrVault (s : State) (off n v : Nat) : State :=
  { s with vault := if s.isolated (off / 2 ^ 30) then s.vault else wrMem s.vault off n v
           vbad := s.vbad.filter fun w => !decide (off ≤ w * 8 ∧ w * 8 + 8 ≤ off + n) }
/-- Whether the 4-byte lanes of a vector write cover the whole word `w` of `k` bytes. -/
def lanesCover (lanes : List (Nat × Nat)) (k w : Nat) : Bool :=
  (List.range (k / 4)).all fun i => lanes.any fun l => l.2 == w * k + 4 * i

/-- The active lanes of a vector store, as the single write of R365. -/
def State.wrVaultLanes (s : State) (lanes : List (Nat × Nat)) (v : BitVec 1024) : State :=
  let s := lanes.foldl (fun s l => s.wrVault l.2 4 (v.toNat / 2 ^ (32 * l.1) % 2 ^ 32)) s
  { s with vbad := s.vbad.filter fun w => !lanesCover lanes 8 w }
def State.rdLmem (s : State) (c : CoreId) (addr n : Nat) : Nat := rdMem (s.core c).lmem addr n
def State.wrLmem (s : State) (c : CoreId) (addr n v : Nat) : State :=
  s.modCore c fun o => { o with
    lmem := wrMem o.lmem addr n v
    lbad := o.lbad.filter fun w => !decide (addr ≤ w * 8 ∧ w * 8 + 8 ≤ addr + n) }

def State.wrLmemLanes (s : State) (c : CoreId) (lanes : List (Nat × Nat)) (v : BitVec 1024) : State :=
  let s := lanes.foldl (fun s l => s.wrLmem c l.2 4 (v.toNat / 2 ^ (32 * l.1) % 2 ^ 32)) s
  s.modCore c fun o => { o with lbad := o.lbad.filter fun w => !lanesCover lanes 8 w }

/-- Adds an entry under the next free-value number. -/
def State.draw (s : State) : State := { s with draws := s.draws + 1 }

/-! ## Continuation records in the vault (R26) -/

/-- Byte offsets of the record's fields. -/
def recPC : Nat := 0
def recWID : Nat := 8
def recSAVE : Nat := 16
def recDEADLINE : Nat := 24
def recSTATUS : Nat := 36
def recPRIO : Nat := 37
def recCAUSE : Nat := 38
def recLAUNCH : Nat := 40
def recREADYTICK : Nat := 44
def recLINK : Nat := 48

def State.recRd (s : State) (crec fld n : Nat) : Nat := s.rdVault (crec + fld) n
def State.recWr (s : State) (crec fld n v : Nat) : State := s.wrVault (crec + fld) n v

/-- STATUS values of R26; any other value is treated as faulted. -/
def stFree : Nat := 0
def stReady : Nat := 1
def stRunning : Nat := 2
def stParked : Nat := 3
def stFaulted : Nat := 4
def stDone : Nat := 5
def stFrozen : Nat := 6

/-! ## Trap records and taking a trap (R9, R288, R297 to R299) -/

/-- A ring of 2^n records, n 4 to 12, has room for one more: it holds 2^n - 1 at most, and none while disabled (R299, R337). -/
def ringRoom (n head tail : Nat) : Bool :=
  decide (4 ≤ n ∧ n ≤ 12) && (tail % 2 ^ n + 2 ^ n - head % 2 ^ n) % 2 ^ n != 2 ^ n - 1

/-- Room in the trap queue. -/
def Cluster.trqRoom (c : Cluster) : Bool := ringRoom c.trqSize c.trqHead c.trqTail

/-- A record joins the cluster's waiting records under the next SEQ (R299). -/
def State.addRecord (s : State) (cl : Nat) (r : TrapRec) : State :=
  s.modCl cl fun c => { c with
    trapWait := c.trapWait ++ [{ r with seq := c.trapSeq }]
    trapSeq := (c.trapSeq + 1) % 65536 }

/-- The record of a context, with the fields of R297 that its state gives. -/
def recordOf (x : CtxId) (c : Ctx) (kind cause slot baddr detail : Nat) (flag rb delay : Bool) : TrapRec :=
  { seq := 0, jslot := c.pr.jslot, rb := rb, delay := delay, flag := flag, kind := kind, cx := x.cx, core := x.core
    slot := slot, cause := cause, baddr := baddr, detail := detail, crec := c.pr.crec }

/-- A stopped context keeps its R33 state and gives up its core's issue (R288). -/
def State.stop (s : State) (x : CtxId) : State :=
  (s.modPr x fun p => { p with stopped := true }).modCore x.coreId fun o =>
    { o with run := if o.run = some x.cx then none else o.run }

/-- Whether a ring has room for one more record behind `n` that wait for it (R299). -/
def roomFor (size head tail n : Nat) : Bool :=
  decide (4 ≤ size ∧ size ≤ 12) && decide ((tail % 2 ^ size + 2 ^ size - head % 2 ^ size) % 2 ^ size + n < 2 ^ size - 1)

/-- The trap queue has a place for an SVC's record, whatever waits before it: else the SVC stalls at its bundle (R299). -/
def Cluster.svcRoom (c : Cluster) : Bool := roomFor c.trqSize c.trqHead c.trqTail c.trapWait.length

/-- Whether a context's next bundle stands in a delay slot. -/
def Ctx.delayed (c : Ctx) : Bool := decide (0 < c.dslot)

/-- TAKING A TRAP: the stopping record is sent and the context stops. PC, BRSTATE and the registers stand as before the
bundle; `delay` says that BADDR is a delay-slot bundle (R9, R288, R297, R298). -/
def State.takeTrap (s : State) (x : CtxId) (cause slot baddr detail : Nat) (flag rb delay : Bool) : State :=
  let c := s.ctx x
  let s := if cause = 0x07 then s.tallyCl x.cl 0x10B 1 else s
  (s.addRecord x.cl (recordOf x c 0 cause slot baddr detail flag rb delay)).stop x

/-! ## Rolling a region back (R224 to R229) -/

/-- The layout of RBCAUSE (R225). -/
def rbcauseOf (baddr slot cause tcause : Nat) : Nat :=
  baddr / 16 % 2 ^ 53 * 2 ^ 11 + slot * 2 ^ 9 + cause * 2 ^ 4 + tcause

/-- A queue without what an open region pushed, its pops undone (R204). -/
def unpushed (q : List QEnt) : List QEnt :=
  (q.filter fun e => !e.rpush).map fun e => if e.rpop then { e with popped := none, rpop := false } else e

/-- The checkpoint becomes the live state and everything the region held goes (R226 steps 2 to 5). -/
def Ctx.rolled (c : Ctx) (g : Region) (rbc : Nat) : Ctx :=
  { c with
    regs := g.ck
    pc := g.fallback
    target := none
    delay := 0
    dslot := 0
    queues := c.queues.map fun e => (e.1, unpushed e.2)
    region := none
    heldSt := []
    heldCmd := []
    commitSt := none
    qres := none
    vres := none
    ct := { c.ct with rbcause := rbc, rbcount := (c.ct.rbcount + 1) % 2 ^ 64 }
    pr := { c.pr with nb := false } }

/-- Sends the rollback notice where RBCOUNT has become a nonzero multiple of the threshold (R229). -/
def State.rbNotice (s : State) (x : CtxId) (slot pont : Nat) : State :=
  let c := s.ctx x
  if c.pr.rbthresh = 0 ∨ c.ct.rbcount = 0 ∨ ¬ c.ct.rbcount % c.pr.rbthresh = 0 then s
  else s.addRecord x.cl (recordOf x c 2 0 slot pont c.ct.rbcause false false false)

/-- ROLLING BACK with a cause of R224; nothing where no region is open. -/
def State.rollback (s : State) (x : CtxId) (baddr slot cause tcause : Nat) : State :=
  match (s.ctx x).region with
  | none => s
  | some g => (((s.modCtx x fun c => c.rolled g (rbcauseOf baddr slot cause tcause)).rbNotice x slot g.pont).wake x).tally x 0x008 1

/-! ## The loop sequencer (R39) -/

/-- Where the sequencer goes once the kernel phase is over. -/
def LoopSt.enterEpi (l : LoopSt) : Option LoopSt :=
  if l.elen = 0 then none else some { l with phase := .epi, pos := 0, due := false }

/-- Where the sequencer goes after the prologue: no kernel iteration runs if some trip count is 0 (R39). -/
def LoopSt.enterKer (l : LoopSt) : Option LoopSt :=
  if (l.trips.take l.nlev).all (fun t => t != 0) then some { l with phase := .ker, pos := 0 } else l.enterEpi

def LoopSt.start (l : LoopSt) : Option LoopSt :=
  if l.plen = 0 then l.enterKer else some { l with phase := .pro, pos := 0 }

/-- The sequencer after one of its bundles has issued. -/
def LoopSt.next (l : LoopSt) : Option LoopSt :=
  match l.phase with
  | .pro => if l.pos + 1 < l.plen then some { l with pos := l.pos + 1 } else l.enterKer
  | .ker => if l.pos + 1 < l.klen then some { l with pos := l.pos + 1 } else some { l with pos := 0, due := true }
  | .epi => if l.pos + 1 < l.elen then some { l with pos := l.pos + 1 } else none

/-- The address of the sequencer's next bundle. -/
def LoopSt.addr (l : LoopSt) : Nat :=
  (match l.phase with
   | .pro => l.pro
   | .ker => l.ker
   | .epi => l.epi) + 16 * l.pos

/-- The loop state of a context and the PC that goes with it; a finished loop goes on after LOOP (R39). -/
def Ctx.setLoop (c : Ctx) (ret : Nat) (l : Option LoopSt) : Ctx :=
  match l with
  | none => { c with loop := none, pc := ret }
  | some l => { c with loop := some l, pc := l.addr % 2 ^ 64 }

/-! ## Resuming a stopped context (R289) -/

/-- The delay count falls as R149 states and the next bundle is named, without counting in ISSUED. -/
def Ctx.passBundle (c : Ctx) : Ctx :=
  let c := { c with dslot := c.dslot - 1 }
  match c.delay with
  | 0 => { c with pc := (c.pc + 16) % 2 ^ 64 }
  | 1 => { c with pc := c.target.getD ((c.pc + 16) % 2 ^ 64), target := none, delay := 0 }
  | n + 2 => { c with pc := (c.pc + 16) % 2 ^ 64, delay := n + 1 }

/-- The bundle at PC counts as issued with no effect: inside a loop the sequencer goes on (R42, R289). -/
def Ctx.skipBundle (c : Ctx) : Ctx :=
  match c.loop with
  | none => c.passBundle
  | some l => c.setLoop l.ret l.next

/-- A context takes its core's issue slot: the rotation starts behind it from now on, and a switch from the context whose bundle the core
issued last is counted (R34, R381). -/
def State.takeSlot (s : State) (x : CtxId) : State :=
  (s.modCore x.coreId fun o => { o with run := some x.cx, last := some x.cx }).tally x 0x003
    (b2n ((s.core x.coreId).issuer.any fun k => k != x.cx))

/-- A resumed context that was Running or Stalled waits for its core's selection unless the issue slot is free. With STOPREQ
set it stays stopped in the state it has (R288). -/
def State.unstop (s : State) (x : CtxId) : State :=
  let o := s.core x.coreId
  let c := o.ctx x.cx
  let st := match c.pr.st with
    | .running => if o.run.isNone then .running else .ready
    | .stalled => if o.run.isNone then .running else .ready
    | o => o
  if c.pr.stopreq then s
  else
    let s := s.modPr x fun p => { p with stopped := false, st := st, blk := if p.st = .parked then p.blk else none }
    if st = .running then s.takeSlot x else s

/-- The four ways of R289: only REPLAYNB holds BRK and breakpoints back. NEXT and REDIRECT count in no ISSUED. -/
def State.breaks (s : State) (x : CtxId) (nb : Bool) : State := s.modPr x fun p => { p with nb := nb }
def State.resumeReplay (s : State) (x : CtxId) : State := (s.breaks x false).unstop x
def State.resumeNext (s : State) (x : CtxId) : State := ((s.breaks x false).modCtx x Ctx.skipBundle).unstop x
def State.resumeReplaynb (s : State) (x : CtxId) : State := (s.breaks x true).unstop x
def State.resumeRedirect (s : State) (x : CtxId) : State :=
  ((s.breaks x false).modCtx x fun c => { c with target := none, delay := 0, dslot := 0 }).unstop x

/-! ## Sync words (R66 to R69) -/

/-- The arrival of `n` at a 16-byte sync word held as a number (R67). -/
def arrive (w n : Nat) : Nat :=
  let target := w % 2 ^ 32
  let c := w / 2 ^ 32 % 2 ^ 32 + n
  let gen := w / 2 ^ 64 % 2 ^ 16
  let status := w / 2 ^ 80 % 2 ^ 8
  let err := w / 2 ^ 88 % 2
  let ovf := w / 2 ^ 89 % 2
  let k := if target ≠ 0 ∧ target ≤ c then c / target else 0
  let gen' := (gen + k) % 65536
  let count := if target ≠ 0 ∧ target ≤ c then c - k * target else c % 2 ^ 32
  let ovf' := if ¬ (target ≠ 0 ∧ target ≤ c) ∧ 2 ^ 32 ≤ c then 1 else ovf
  target + count * 2 ^ 32 + gen' * 2 ^ 64 + status * 2 ^ 80 + err * 2 ^ 88 + ovf' * 2 ^ 89

/-- An error arrival with code `e` (R68): STATUS, ERR and GEN; reserved bits are written zero. -/
def arriveErr (w e : Nat) : Nat :=
  let target := w % 2 ^ 32
  let count := w / 2 ^ 32 % 2 ^ 32
  let gen := (w / 2 ^ 64 % 2 ^ 16 + 1) % 65536
  let ovf := w / 2 ^ 89 % 2
  target + count * 2 ^ 32 + gen * 2 ^ 64 + e % 256 * 2 ^ 80 + 2 ^ 88 + ovf * 2 ^ 89

/-- Whether an arrival of `n` advances the word's generation, also where it comes back to the same number (R43, R67). -/
def arriveAdv (w n : Nat) : Bool := decide (w % 2 ^ 32 ≠ 0 ∧ w % 2 ^ 32 ≤ w / 2 ^ 32 % 2 ^ 32 + n)

/-- What SINIT writes (R212). -/
def sinitWord (target : Nat) : Nat := target % 2 ^ 32

def genOf (w : Nat) : Nat := w / 2 ^ 64 % 2 ^ 16

/-- A condition armed on a word notes that the word's generation has advanced (R43, R44). `lmem` names the core of an
L-mem word. -/
def CondSt.noteGen (core : Option CoreId) (mine : CoreId) (addr : Nat) (cnd : CondSt) : CondSt :=
  if cnd.kind = 1 ∧ (if cnd.op % 2 = 1 then core = none ∧ resolve mine.cl cnd.addr = some addr
      else core = some mine ∧ cnd.addr = addr) then { cnd with adv := true }
  else cnd

def WaitSt.noteGen (core : Option CoreId) (mine : CoreId) (addr : Nat) (w : WaitSt) : WaitSt :=
  { w with conds := w.conds.map fun k => k.noteGen core mine addr }

def Ctx.noteGen (core : Option CoreId) (mine : CoreId) (addr : Nat) (c : Ctx) : Ctx :=
  { c with wait := c.wait.map fun w => w.noteGen core mine addr }

/-- A wait armed on a team's barrier phase notes its advance (R43 kind 5). -/
def Ctx.notePhase (team : Nat) (c : Ctx) : Ctx :=
  if c.ct.team = team then
    { c with wait := c.wait.map fun w =>
        { w with conds := w.conds.map fun k => if k.kind = 5 then { k with adv := true } else k } }
  else c

/-- Applies a change to every context of a cluster, live or saved. -/
def Cluster.mapCtxs (cl : Nat) (f : CoreId → Ctx → Ctx) (c : Cluster) : Cluster :=
  { c with
    cores := c.cores.map fun e => (e.1, { e.2 with ctxs := e.2.ctxs.map fun y => (y.1, f ⟨cl, e.1⟩ y.2) })
    saved := c.saved.map fun e => (e.1, e.2.map fun i => { i with ctx := f ⟨cl, 8⟩ i.ctx }) }

/-- Every armed wait on a sync word learns of its advance. -/
def State.noteGen (s : State) (core : Option CoreId) (addr : Nat) : State :=
  { s with clusters := s.clusters.map fun e => (e.1, e.2.mapCtxs e.1 fun m c => c.noteGen core m addr)
           launches := s.launches.map fun e => (e.1, e.2.map fun l => { l with
             deps := l.deps.map fun d => if core = none ∧ d.off = addr then { d with adv := true } else d }) }

/-- Writes a sync word in the vault, and tells armed waits when its generation has advanced: `adv` says so of an arrival, a number that
differs of any write. -/
def State.syncVault (s : State) (off w : Nat) (adv : Bool) : State :=
  let old := s.rdVault off 16
  let s := s.wrVault off 16 w
  if adv || genOf old != genOf w then s.noteGen none off else s

def State.syncLmem (s : State) (c : CoreId) (addr w : Nat) (adv : Bool) : State :=
  let old := s.rdLmem c addr 16
  let s := s.wrLmem c addr 16 w
  if adv || genOf old != genOf w then s.noteGen (some c) addr else s

/-! ## Fabric counters (R276) -/

def State.cnt (s : State) (job : Nat) : JobCnt := tget { } s.counts job
def State.modCnt (s : State) (job : Nat) (f : JobCnt → JobCnt) : State :=
  { s with counts := tmod { } s.counts job f }
def State.addInj (s : State) (job n : Nat) : State := s.modCnt job fun c => { c with inj := (c.inj + n) % 2 ^ 64 }
def State.addCons (s : State) (job n : Nat) : State := s.modCnt job fun c => { c with cons := (c.cons + n) % 2 ^ 64 }
def State.addLost (s : State) (job n : Nat) : State := s.modCnt job fun c => { c with lost := (c.lost + n) % 2 ^ 64 }

/-! ## Translations held (R327, R332) -/

/-- The first address above module DRAM (R331). -/
def dramTop : Nat := 768 * 2 ^ 30

/-- The bits of a table entry. -/
def ptPA (t : Nat) : Nat := t / 2 ^ 12 % 2 ^ 40 * 4096
def ptBit (t i : Nat) : Bool := t / 2 ^ i % 2 == 1
/-- A root that permits translation (R327). -/
def rootOk (troot : Nat) : Bool := ptBit troot 63 && troot / 2 ^ 52 % 2 ^ 11 == 0 && troot % 2 ^ 12 == 0 && decide (ptPA troot < dramTop)

/-- Whether a job slot lets virtual addresses be translated (R291, R327). -/
def JobSlot.maps (j : JobSlot) : Bool := j.valid && rootOk j.troot

def TlbEnt.hits (e : TlbEnt) (jslot va : Nat) : Bool := e.jslot == jslot && e.vbase == va / 2 ^ e.log * 2 ^ e.log

/-- The physical address of a translation that permits the access. -/
def tlbFind (l : List TlbEnt) (jslot va : Nat) (write : Bool) : Option Nat :=
  (l.find? fun e => e.hits jslot va && (!write || e.perm == 1)).map fun e => e.pbase + va % 2 ^ e.log

/-- A core's TLB, then the cluster's. -/
def State.tlbLook (s : State) (cl : Nat) (core : Option Nat) (jslot va : Nat) (write : Bool) : Option Nat :=
  match core with
  | none => tlbFind (s.cl cl).stlb jslot va write
  | some k => match tlbFind ((s.cl cl).core k).tlb jslot va write with
    | some pa => some pa
    | none => tlbFind (s.cl cl).stlb jslot va write

/-- The translation of an access that has issued: that its job slot goes out of use afterwards leaves it as it is (R292, R327). -/
def State.issuedXl (s : State) (cl : Nat) (core : Option Nat) (jslot va : Nat) (write : Bool) : Option Nat :=
  if rootOk (tget ({ } : JobSlot) (s.cl cl).jobs jslot).troot then s.tlbLook cl core jslot va write else none

/-- The translation of an access; a job slot that permits none has none (R291, R327). -/
def State.translate (s : State) (cl : Nat) (core : Option Nat) (jslot va : Nat) (write : Bool) : Option Nat :=
  if (tget ({ } : JobSlot) (s.cl cl).jobs jslot).maps then s.tlbLook cl core jslot va write else none

/-- A cluster runs: neither failed nor on an isolated die (R371, R374). What a retired one holds runs on. -/
def State.clusterRuns (s : State) (cl : Nat) : Bool := !(s.cl cl).failed && !s.isolated (cl / 12)

/-- Bring-up has released a cluster's Gaffer: before that it makes no access (R384, R387). -/
def State.released (s : State) (cl : Nat) : Bool := (s.cl cl).gaffer.isSome

end Sys2Proof.Machine
end

