-- ==== Sys2Proof/Machine/Operands.lean ====
section
/-! DEFINITION. Every operand form: registers read for a slot, vector elements, immediate and indexed addresses with
their checks, and a region's view of memory (R9, R53 to R59, R83, R115, R129, R176, R193). -/

namespace Sys2Proof.Machine

/-- What a slot sees of its bundle: the context as it stood before the bundle, and its lent trap-on-empty (R8, R127). `lax` is set where
only the empty registers among a slot's sources are asked for (R140). -/
structure Env where
  x : CtxId
  pre : Ctx
  baddr : Nat
  te : Bool
  lax : Bool := false
  deriving DecidableEq, Repr

abbrev Rd (α : Type) := Except Stop α

def trap {α : Type} (cause detail : Nat) : Rd α := .error (.trap cause detail)
def block {α : Type} (b : Blk) : Rd α := .error (.block b)
def roll {α : Type} (cause : Nat) : Rd α := .error (.roll cause 0)

/-- Passes where a condition holds; stops otherwise. -/
def need (ok : Bool) (st : Stop) : Rd Unit := if ok then .ok () else .error st

/-- The class and number of a register as DETAIL of cause 0x03 names it (R298). -/
def regDetail : RegRef → Nat
  | .s n => n
  | .a n => 64 + n
  | .v n => 128 + n
  | .p n => n

/-- Reading a register of given state (R9, R115, R203): an empty one blocks or traps, a marked one raises its cause. -/
def rdCell (e : Env) {w : Nat} (r : RegRef) (c : RCell w) : Rd (BitVec w) :=
  if !c.full then (if e.te then trap 0x03 (regDetail r) else block (.reg r))
  else if c.mark.cause ≠ 0 ∧ e.lax = false then trap c.mark.cause c.mark.detail
  else .ok c.val

/-- `rd(sN)`: s0 reads 0. -/
def rdS (e : Env) (n : BitVec 6) : Rd Word :=
  if n = 0 then .ok 0 else rdCell e (.s n.toNat) (e.pre.regs.sc n.toNat)
def rdA (e : Env) (n : BitVec 4) : Rd Word := rdCell e (.a n.toNat) (e.pre.regs.ac n.toNat)
def rdV (e : Env) (n : BitVec 5) : Rd (BitVec 1024) := rdCell e (.v n.toNat) (e.pre.regs.vc n.toNat)
/-- Predicates never block (R167). -/
def rdP (e : Env) (n : BitVec 3) : Bool := e.pre.regs.pv n.toNat

def Env.top (e : Env) : Nat := e.pre.regs.top
def Env.inRegion (e : Env) : Bool := e.pre.region.isSome
def Env.mb (e : Env) : Bool := e.pre.pr.mb

/-- Instructions that roll an open region back as illegal operations (R148, R204, R223), before whatever else they would raise there: a full
queue, a ring that is off, a misaligned address (log entry 96). -/
def noRegion (e : Env) : Rd Unit := need (!e.inRegion) (.roll 0x07 0)

/-- A core-owned resource asks for the core's matrix-bound context (R37, R162, R232). -/
def needMb (e : Env) : Rd Unit := need e.mb (.trap 0x01 0)

/-- A bundle with a memory access waits behind an acquire not yet performed (R202). -/
def holdAcq (e : Env) : Rd Unit := need e.pre.fl.acq.isEmpty (.block .acq)

/-! ## Vector elements (R176, R177) -/

/-- Element `i` of width `w`; elements are packed upward, so element e stands at bit w * e. -/
def vget (v : BitVec 1024) (w i : Nat) : Nat := v.toNat / 2 ^ (w * i) % 2 ^ w

/-- A value whose element `i` of `n` is `f i`. -/
def vbuild (w n : Nat) (f : Nat → Nat) : Nat :=
  (List.range n).foldr (fun i acc => f i % 2 ^ w + 2 ^ w * acc) 0

/-- Whether lane `i` is active under a mask. -/
def active (top i : Nat) : Bool := top / 2 ^ i % 2 == 1

/-- Elements of active lanes take `f`; the others keep the old value (R177). -/
def vmasked (t : VType) (top : Nat) (old : BitVec 1024) (f : Nat → Nat) : Nat :=
  vbuild t.width (32 * t.perLane) fun i => if active top (i / t.perLane) then f i else vget old t.width i

/-- The old destination of a masked instruction is a source unless every lane is active (R177). -/
def rdOld (e : Env) (vd : BitVec 5) (always : Bool) : Rd (BitVec 1024) :=
  if always || e.top ≠ 2 ^ 32 - 1 then rdV e vd else .ok 0

/-! ## Addresses (R129, R193, R205) -/

/-- base + sext(imm, k) * n, modulo 2^64. -/
def eaImm (base : Word) {k : Nat} (imm : BitVec k) (n : Nat) : Nat :=
  zextI ((base.toNat : Int) + imm.toInt * n) 64

/-- base + i * stride, the stride read as two's complement (R195). -/
def eaStride (base stride : Word) (i : Nat) : Nat := zextI ((base.toNat : Int) + (i : Int) * stride.toInt) 64

/-- base + zext(lane, 32) (R196). -/
def eaIndex (base : Word) (lane : Nat) : Nat := (base.toNat + lane) % 2 ^ 64

/-- The checks of R193 on one access: alignment, then the window. -/
def lmemAcc (e : Env) (addr n align : Nat) : Rd Unit :=
  if addr % align ≠ 0 then trap 0x04 addr
  else need (e.pre.pr.lmemOk addr n) (.trap 0x05 addr)

/-- The first lane, in lane order, that fails a check, over active lanes only (R193). -/
def lanesOk (top : Nat) (f : Nat → Nat) (ok : Nat → Bool) : Option Nat :=
  ((List.range 32).find? fun i => active top i && !ok (f i)).map f

/-- Alignment of every active lane, then the window of every active lane (R193). -/
def lanesAcc (e : Env) (f : Nat → Nat) : Rd Unit :=
  match lanesOk e.top f fun a => a % 4 == 0 with
  | some a => trap 0x04 a
  | none => match lanesOk e.top f fun a => e.pre.pr.lmemOk a 4 with
    | some a => trap 0x05 a
    | none => .ok ()

/-- The checks of R205 on one direct vault access: alignment, then R55 and R56. Answers the resolved offset. -/
def vaultAcc (s : State) (e : Env) (ea n align : Nat) : Rd Nat :=
  if ea % align ≠ 0 then trap 0x04 ea
  else match s.vaultCheck e.x ea n with
    | none => trap 0x05 ea
    | some off => .ok off

/-- The lane checks of R206: alignment of the base to 8, then every active lane. Answers the active lanes with their
resolved offsets. -/
def vaultLanes (s : State) (e : Env) (ea : Nat) : Rd (List (Nat × Nat)) :=
  if ea % 8 ≠ 0 then trap 0x04 ea
  else (List.range 32).filterMapM fun i =>
    if active e.top i then
      match s.vaultCheck e.x ((ea + 4 * i) % 2 ^ 64) 4 with
      | none => trap 0x05 ((ea + 4 * i) % 2 ^ 64)
      | some off => .ok (some (i, off))
    else .ok none

/-- With no lane active the address is checked as if lane 0 alone were active (R206). -/
def vaultVec (s : State) (e : Env) (ea : Nat) : Rd (List (Nat × Nat)) :=
  if e.top = 0 then (vaultAcc s e ea 4 8).bind fun _ => .ok [] else vaultLanes s e ea

/-- A virtual address must have bits 63 to 57 zero (R58). -/
def virtAcc (ea align : Nat) : Rd Unit :=
  if ea % align ≠ 0 then trap 0x04 ea
  else need (decide (ea < 2 ^ 57)) (.trap 0x06 ea)

/-- An access needs its context's job slot to be in use (R291). -/
def slotAcc (s : State) (x : CtxId) (ea : Nat) : Rd Unit := need (s.jobSlot x).valid (.trap 0x05 ea)

/-! ## A region's view (R83, R221) -/

/-- Byte `a` as a lane-wise store writes it, if it does: the highest lane stands (R195). -/
def laneByte (lanes : List (Nat × Nat)) (v : BitVec 1024) (a : Nat) : Option Nat :=
  lanes.foldl (fun acc l => if l.2 ≤ a ∧ a < l.2 + 4 then some (vget v 8 (4 * l.1 + (a - l.2))) else acc) none

/-- Byte `a` of a space as one held store writes it. -/
def HeldSt.byte (sp : Space) (a : Nat) : HeldSt → Option Nat
  | .mem sp' b n v _ => if sp' = sp ∧ b ≤ a ∧ a < b + n then some (v / 256 ^ (a - b) % 256) else none
  | .vec sp' lanes v _ => if sp' = sp then laneByte lanes v a else none
  | .queue _ _ => none

/-- The newest held byte (R83). -/
def heldByte (sp : Space) (a : Nat) (hs : List HeldSt) : Option Nat :=
  hs.foldl (fun acc h => match h.byte sp a with | some b => some b | none => acc) none

/-- `n` bytes at `a` with the newest held byte in place of memory's. -/
def viewBytes (sp : Space) (hs : List HeldSt) (m : Nat → Nat) (a : Nat) : Nat → Nat
  | 0 => 0
  | n + 1 => (heldByte sp a hs).getD (m a) + 256 * viewBytes sp hs m (a + 1) n

/-- L-mem as the context reads it: its own held stores over the core's bytes, those of a lower slot of the bundle among them
(R62, R83, R197). -/
def viewLmem (s : State) (e : Env) (a n : Nat) : Nat :=
  let o := s.core e.x.coreId
  let hs := (s.ctx e.x).heldSt
  if hs.isEmpty then rdMem o.lmem a n
  else viewBytes .lmem hs (fun b => (rdByte o.lmem b).toNat) a n

/-- The held bytes that a load of the region will take in place of memory's (R83): index to value. -/
def heldOver (sp : Space) (hs : List HeldSt) (off n : Nat) : Tab Nat :=
  if hs.isEmpty then []
  else (List.range n).filterMap fun i => (heldByte sp (off + i) hs).map fun b => (i, b)

/-- Bytes with some of them replaced: the load of a region. -/
def overlay (ovr : Tab Nat) (v n : Nat) : Nat :=
  if ovr.isEmpty then v else vbuild 8 n fun i => tget (v / 256 ^ i % 256) ovr i

/-! ## The alias table (R222) -/

/-- Entries of one space, address and size (R222). -/
def Alias.same (a b : Alias) : Bool := a.sp == b.sp && a.addr == b.addr && a.size == b.size

/-- Whether a byte range of a space overlaps an entry. -/
def Alias.hits (al : Alias) (sp : Space) (addr n : Nat) : Bool :=
  al.sp == sp && decide (addr < al.addr + al.size ∧ al.addr < addr + n)

/-- Whether a range hits the region's table as it stands: the entries of a lower slot of the bundle count (R222). -/
def aliasHit (s : State) (e : Env) (sp : Space) (addr n : Nat) : Bool :=
  match (s.ctx e.x).region with
  | none => false
  | some g => g.aliases.any fun al => al.hits sp addr n

/-- The same for vault bytes as the program names them; bytes that resolve to no vault hit nothing. -/
def vaultHit (s : State) (e : Env) (ea n : Nat) : Bool :=
  match resolve e.x.cl ea with
  | none => false
  | some off => aliasHit s e .vault off n

/-- The alias comparison comes before every other trigger (R224). -/
def noAlias (hit : Bool) : Rd Unit := need (!hit) (.roll 0x02 0)

/-- A check of a store or command: where it also hits an alias entry, the hit is what rolls the region back (R224). A source that is empty
still blocks, or traps where trap-on-empty is lent, since the instruction has not issued (R139, R140; log entry 121). -/
def aliasFirst {α : Type} (hit : Bool) (r : Rd α) : Rd α :=
  match r with
  | .ok v => .ok v
  | .error (.block b) => .error (.block b)
  | .error (.trap 0x03 d) => .error (.trap 0x03 d)
  | .error st => if hit then roll 0x02 else .error st

/-- A store of a region finds free held-store entries, or rolls back (R221). -/
def heldRoom (s : State) (e : Env) (n : Nat) : Rd Unit :=
  need (decide ((s.ctx e.x).heldSt.length + n ≤ 64)) (.roll 0x03 0)

/-- A checked load of a region takes an entry unless an identical one stands; a 33rd rolls back (R222). -/
def State.takeAlias (s : State) (e : Env) (chk : Bool) (al : Alias) : Rd State :=
  match (s.ctx e.x).region with
  | none => .ok s
  | some g =>
    if !chk || g.aliases.any (fun b => b.same al) then .ok s
    else if 32 ≤ g.aliases.length then roll 0x05
    else .ok (s.modCtx e.x fun c => { c with region := c.region.map fun g => { g with aliases := g.aliases ++ [al] } })

/-- Holds a store of the region (R221). -/
def State.hold (s : State) (e : Env) (h : HeldSt) : State :=
  s.modCtx e.x fun c => { c with heldSt := c.heldSt ++ [h] }

/-! ## Extension of loaded data (R120, R205) -/

/-- A loaded datum as its size code extends it to 64 bits. -/
def extend (sz : LSz) (x : Nat) : Nat :=
  if sz.signed then zextI (sextN x (8 * sz.bytes)) 64 else x % 2 ^ (8 * sz.bytes)

end Sys2Proof.Machine
end

