-- ==== Sys2Proof/Machine/Flags.lean ====
section
/-! DEFINITION. Conditions and element arithmetic: the machine keeps no flag register, so these are the computations of
predicates, compare masks and drain status bits (R167, R173, R174, R182 to R187, R105). -/

namespace Sys2Proof.Machine

/-- The truth of a CMP condition (R167). -/
def cmpEval (k : CmpCond) (x y : Word) : Bool :=
  match k with
  | .eq => x == y
  | .ne => !(x == y)
  | .lt => decide (x.toInt < y.toInt)
  | .ge => decide (y.toInt ≤ x.toInt)
  | .ltu => decide (x.toNat < y.toNat)
  | .geu => decide (y.toNat ≤ x.toNat)
  | .tst => !(x &&& y == 0)
  | .ntst => x &&& y == 0

/-- The truth of an FCMP condition (R174). -/
def fcmpEval (k : FCond) (a b : FV) : Bool :=
  match k with
  | .eq => a.eq b
  | .lt => a.lt b
  | .le => a.lt b || a.eq b
  | .un => a.isNan || b.isNan
  | .ne => !a.eq b

/-- The truth of a VCMP condition on float elements (R184). -/
def vcmpF (k : VCond) (a b : FV) : Bool :=
  match k with
  | .eq => a.eq b
  | .ne => !a.eq b
  | .lt => a.lt b
  | .le => a.lt b || a.eq b
  | .gt => b.lt a
  | .ge => b.lt a || a.eq b
  | .un => a.isNan || b.isNan

/-- The truth of a VCMP condition on integer elements (R184). -/
def vcmpI (k : VCond) (a b : Int) : Bool :=
  match k with
  | .eq => decide (a = b)
  | .ne => decide (¬ a = b)
  | .lt => decide (a < b)
  | .le => decide (a ≤ b)
  | .gt => decide (b < a)
  | .ge => decide (b ≤ a)
  | .un => false

/-- PLOG's table look-up (R170). -/
def plogEval (tt : BitVec 4) (a b : Bool) : Bool := tt.toNat / 2 ^ (2 * b2n a + b2n b) % 2 == 1

/-- FMIN and FMAX: -0 below +0, a lone NaN gives the other operand (R173). -/
def fminV (a b : FV) : FV :=
  match a, b with
  | .nan, o => o
  | o, .nan => o
  | a, b => if a.isZero && b.isZero then (if a.sign then a else b) else if b.lt a then b else a
def fmaxV (a b : FV) : FV :=
  match a, b with
  | .nan, o => o
  | o, .nan => o
  | a, b => if a.isZero && b.isZero then (if a.sign then b else a) else if a.lt b then b else a

def fmtOf : FFmt → Fmt
  | .f32 => fp32
  | .f64 => fp64

/-- The operand of a scalar float instruction: bits 31 to 0 for f32 (R172). -/
def fval (f : FFmt) (x : Word) : FV := (fmtOf f).val (x.toNat % 2 ^ (fmtOf f).width)

/-- A scalar float result: rounded, with the upper bits zero (R172). -/
def fput (f : FFmt) (rm : Rm) (v : FV) : Nat := ((fmtOf f).conv rm false v).bits

/-! ## Vector elements -/

/-- The format of a float element type. -/
def vfmt : VType → Fmt
  | .f16 => fp16
  | .bf16 => bf16
  | _ => fp32

/-- An integer element by its type's signedness (R182). -/
def vint (t : VType) (x : Nat) : Int := if t.isSigned then sextN x t.width else (x : Int)
def vfloat (t : VType) (x : Nat) : FV := (vfmt t).val x

/-- The exact value of any element. -/
def vval (t : VType) (x : Nat) : FV := if t.isFloat then vfloat t x else .fin (Dy.ofInt (vint t x))

/-- An integer result: wrapped, or clamped under `.sat` (R182). -/
def vputI (t : VType) (sat : Bool) (x : Int) : Nat :=
  zextI (if sat then clampInt t.isSigned t.width x else x) t.width

/-- A float result (R183): under `.sat` an overflow gives the largest finite and an infinite value stays infinite. -/
def vputF (t : VType) (rm : Rm) (sat : Bool) (v : FV) : Nat :=
  match v with
  | .inf s => (vfmt t).signBit s + (vfmt t).infBits
  | _ => ((vfmt t).conv rm sat v).bits

/-- An arithmetic element operation given on integers and on float values. -/
def velem (t : VType) (rm : Rm) (sat : Bool) (fi : Int → Int → Int) (ff : FV → FV → FV) (a b : Nat) : Nat :=
  if t.isFloat then vputF t rm sat (ff (vfloat t a) (vfloat t b)) else vputI t sat (fi (vint t a) (vint t b))

def fsub (rm : Rm) (a b : FV) : FV := FV.add rm a b.neg

/-- a * b + c, exact, rounded once by the caller (R173, R181). -/
def ffmaV (rm : Rm) (a b c : FV) : FV := FV.add rm (FV.mul a b) c

/-- VMIN and VMAX of one element (R182, R183). -/
def vminE (t : VType) (a b : Nat) : Nat :=
  if t.isFloat then vputF t .rne false (fminV (vfloat t a) (vfloat t b))
  else if vint t b < vint t a then b else a
def vmaxE (t : VType) (a b : Nat) : Nat :=
  if t.isFloat then vputF t .rne false (fmaxV (vfloat t a) (vfloat t b))
  else if vint t a < vint t b then b else a

/-- VABS and VNEG of one element (R182, R183). -/
def vabsE (t : VType) (sat : Bool) (a : Nat) : Nat :=
  if t.isFloat then vputF t .rne false (vfloat t a).abs else vputI t sat (vint t a).natAbs
def vnegE (t : VType) (sat : Bool) (a : Nat) : Nat :=
  if t.isFloat then vputF t .rne false (vfloat t a).neg else vputI t sat (-vint t a)

/-- The shifts of R181 and R182. -/
def vshlE (t : VType) (a b : Nat) : Nat := a * 2 ^ (b % t.width) % 2 ^ t.width
def vshrE (t : VType) (a b : Nat) : Nat := a / 2 ^ (b % t.width)
def vsarE (t : VType) (a b : Nat) : Nat := zextI (sextN a t.width / ((2 ^ (b % t.width) : Nat) : Int)) t.width

/-- Compare mask of one element (R184). -/
def vcmpE (k : VCond) (t : VType) (a b : Nat) : Nat :=
  if (if t.isFloat then vcmpF k (vfloat t a) (vfloat t b) else vcmpI k (vint t a) (vint t b)) then 2 ^ t.width - 1 else 0

/-- One element conversion (R186, R89). -/
def vcvtE (dst src : VType) (rm : Rm) (sat : Bool) (x : Nat) : Nat :=
  if dst.isFloat then ((vfmt dst).conv rm sat (vval src x)).bits
  else (convInt dst.isSigned dst.width rm (vval src x)).bits

/-- The value an inactive lane contributes to a reduction (R187). -/
def redIdentity (k : RedOp) (t : VType) : Nat :=
  if t.isFloat then
    (match k with
     | .add => 0x80000000
     | .min => 0x7F800000
     | .max => 0xFF800000
     | _ => 0)
  else
    (match k with
     | .add => 0
     | .min => if t.isSigned then 0x7FFFFFFF else 0xFFFFFFFF
     | .max => if t.isSigned then 0x80000000 else 0
     | .and => 0xFFFFFFFF
     | .or => 0
     | .xor => 0)

/-- One level of the fixed tree: adjacent results combine, low with high (R187). -/
def pairUp (f : Nat → Nat → Nat) : List Nat → List Nat
  | a :: b :: t => f a b :: pairUp f t
  | l => l

def treeFold (f : Nat → Nat → Nat) : Nat → List Nat → List Nat
  | 0, l => l
  | n + 1, l => treeFold f n (pairUp f l)

/-- One node of a float reduction. -/
def redNodeF (k : RedOp) (rm : Rm) (a b : Nat) : Nat :=
  match k with
  | .add => vputF .f32 rm false (FV.add rm (vfloat .f32 a) (vfloat .f32 b))
  | .min => vputF .f32 .rne false (fminV (vfloat .f32 a) (vfloat .f32 b))
  | _ => vputF .f32 .rne false (fmaxV (vfloat .f32 a) (vfloat .f32 b))

/-- An integer reduction over the lanes' values. -/
def redInt (k : RedOp) (t : VType) (sat : Bool) (xs : List Nat) : Nat :=
  match k with
  | .add => vputI t sat ((xs.map (vint t)).sum)
  | .min => xs.foldl (vminE t) (redIdentity .min t)
  | .max => xs.foldl (vmaxE t) (redIdentity .max t)
  | .and => xs.foldl (· &&& ·) 0xFFFFFFFF
  | .or => xs.foldl (· ||| ·) 0
  | .xor => xs.foldl (· ^^^ ·) 0

/-- VRED's one value from the 32 lanes, the inactive ones already at the identity (R187). -/
def vredE (k : RedOp) (t : VType) (rm : Rm) (sat : Bool) (xs : List Nat) : Nat :=
  if t.isFloat then (treeFold (redNodeF k rm) 5 xs).headD 0 else redInt k t sat xs

/-! ## Peak registers (R106) -/

/-- `max(pk, round(|v|, FP32, RUP))`; a NaN offers nothing. -/
def pkOffer (pk : Nat) (v : FV) : Nat :=
  match v.abs with
  | .nan => pk
  | a => Nat.max pk (fp32.conv .rup false a).bits

end Sys2Proof.Machine
end

