-- ==== Sys2Proof/Machine/Save.lean ====
section
/-! DEFINITION. Save areas: what a continuation's state looks like as the bytes of R318, and the state that bytes give back. The
rule gives each part its offset and what it holds; the order and the widths within a part are the model's (log entry 83). -/

namespace Sys2Proof.Machine

/-! ## Areas of bytes -/

/-- Where a save area holds its parts (R318). -/
def saveS : Nat := 0x400
def saveA : Nat := 0x600
def saveP : Nat := 0x680
def saveV : Nat := 0x1000
def saveQ : Nat := 0x2000
def saveFrame : Nat := 0x7000

/-- The low `n` bytes of a value into a memory, those that are not 0. -/
def putBytes (m : Memory) (a : Nat) : Nat → Nat → Memory
  | 0, _ => m
  | n + 1, v => putBytes (if v % 256 = 0 then m else wrByte m a (BitVec.ofNat 8 v)) (a + 1) n (v / 256)

/-- An area that holds fields, each an address, a size and a value; the last of a list goes in first. -/
def areaMem (fs : List (Nat × Nat × Nat)) : Memory := fs.foldr (fun f m => putBytes m f.1 f.2.1 f.2.2) []

/-- The entries of a memory within a range, moved from `lo` to `dst`. -/
def slice (m : Memory) (lo n dst : Nat) : Memory :=
  (m.filter fun e => decide (lo ≤ e.1 ∧ e.1 < lo + n)).map fun e => (e.1 - lo + dst, e.2)

/-- A memory with a range taken over from another memory's bytes of it. -/
def splice (m : Memory) (lo n : Nat) (new : Memory) : Memory :=
  (m.filter fun e => decide (e.1 < lo)) ++ (new.filter fun e => decide (lo ≤ e.1 ∧ e.1 < lo + n)) ++ m.filter fun e => decide (lo + n ≤ e.1)

/-- Poisoned 8-byte words within a range, moved likewise. -/
def sliceBad (bad : List Nat) (lo n dst : Nat) : List Nat :=
  (bad.filter fun w => decide (lo ≤ w * 8 ∧ w * 8 < lo + n)).map fun w => w - lo / 8 + dst / 8
def spliceBad (bad : List Nat) (lo n : Nat) (new : List Nat) : List Nat :=
  (bad.filter fun w => !decide (lo ≤ w * 8 ∧ w * 8 < lo + n)) ++ new

/-- A range of the vault becomes an area of fields. -/
def State.putArea (s : State) (lo n : Nat) (fs : List (Nat × Nat × Nat)) : State :=
  { s with vault := splice s.vault lo n (areaMem fs), vbad := spliceBad s.vbad lo n [] }

/-- The words of `k` bytes that an area holds, by their number from `lo`: those that are not 0. -/
def areaWords (m : Memory) (lo n k : Nat) : Tab Nat :=
  (slice m lo n 0).foldr (fun e acc =>
    let i := e.1 / k
    let v := e.2.toNat * 256 ^ (e.1 % k)
    match acc with
    | (j, w) :: t => if i = j then (j, w + v) :: t else (i, v) :: acc
    | [] => [(i, v)]) []

/-! ## A context -/

/-- BRSTATE (R287). -/
def Ctx.brstate (c : Ctx) : Nat := (c.target.getD 0) / 16 * 16 + c.delay % 4
def Ctx.setBrstate (c : Ctx) (v : Nat) : Ctx :=
  let t := v / 16 * 16
  { c with target := if t = 0 ∧ v % 4 = 0 then none else some t, delay := v % 4 }

def lphaseCode : LPhase → Nat
  | .pro => 0
  | .ker => 1
  | .epi => 2
def lphaseOf (n : Nat) : LPhase := if n = 0 then .pro else if n = 1 then .ker else .epi

/-- The loop sequencer's fields from offset `o` on; an idle one is all zero. -/
def loopFields (o : Nat) : Option LoopSt → List (Nat × Nat × Nat)
  | none => []
  | some l =>
    [(o, 8, l.pro), (o + 8, 8, l.ker), (o + 16, 8, l.epi), (o + 24, 1, l.plen), (o + 25, 1, l.klen), (o + 26, 1, l.elen), (o + 27, 1, l.nlev)
     , (o + 28, 1, lphaseCode l.phase), (o + 29, 1, l.pos), (o + 30, 1, b2n l.lexit + 2 * b2n l.due + 4), (o + 32, 8, l.ret)]
      ++ ((List.range 6).map fun i => (o + 40 + 4 * i, 4, l.trips.getD i 0))
      ++ ((List.range 6).map fun i => (o + 64 + 4 * i, 4, l.counters.getD i 0))
      ++ ((List.range l.strides.length).map fun i =>
        let e := l.strides.getD i ⟨0, 0, 0⟩
        (o + 88 + 8 * i, 8, zextI e.step 48 + e.reg * 2 ^ 48 + e.level * 2 ^ 56))

/-- The loop sequencer that an area's bytes give, by `rd offset size`. -/
def loopBack (rd : Nat → Nat → Nat) (o : Nat) (l : LoopSt) : LoopSt :=
  { l with
    pro := rd o 8, ker := rd (o + 8) 8, epi := rd (o + 16) 8, plen := rd (o + 24) 1, klen := rd (o + 25) 1, elen := rd (o + 26) 1
    nlev := rd (o + 27) 1, phase := lphaseOf (rd (o + 28) 1), pos := rd (o + 29) 1, lexit := rd (o + 30) 1 % 2 == 1
    due := rd (o + 30) 1 / 2 % 2 == 1, ret := rd (o + 32) 8
    trips := (List.range 6).map fun i => rd (o + 40 + 4 * i) 4
    counters := (List.range 6).map fun i => rd (o + 64 + 4 * i) 4
    strides := (List.range l.strides.length).map fun i =>
      let w := rd (o + 88 + 8 * i) 8
      { level := w / 2 ^ 56 % 8, reg := w / 2 ^ 48 % 16, step := sextN w 48 } }

/-- One bit for each register of the s, a and v files. -/
def regBits (f : RegRef → Bool) : Nat :=
  (List.range 112).foldl (fun acc k =>
    acc + b2n (f (if k < 64 then .s k else if k < 80 then .a (k - 64) else .v (k - 80))) * 2 ^ k) 0

def Regs.markOf (r : Regs) : RegRef → Mark
  | .s n => (r.sc n).mark
  | .a n => (r.ac n).mark
  | .v n => (r.vc n).mark
  | .p _ => { }

/-- The control block (R318). -/
def ctlFields (c : Ctx) : List (Nat × Nat × Nat) :=
  [(0, 8, c.pc), (8, 8, c.brstate), (0x10, 8, c.ct.issued), (0x18, 8, c.pr.budget), (0x20, 8, c.ct.padv), (0x28, 8, c.ct.padb)
   , (0x30, 8, c.ct.rbcause), (0x38, 8, c.ct.rbcount)]
    ++ ((List.range 15).map fun i => (0x40 + 4 * i, 4, tget 0 c.regs.mask (i + 1))) ++ [(0x7C, 4, c.regs.depth)]
    ++ ((List.range 8).map fun i => (0x80 + 8 * i, 8, tget 0 c.ct.svcArgs i))
    ++ [(0xC0, 8, b2n c.ct.svcOpen), (0xC8, 16, regBits fun k => c.regs.isFull k)
        , (0xD8, 16, regBits fun k => (c.regs.markOf k).cause != 0)] ++ loopFields 0xE8 c.loop

/-- The registers, s, a and p in one part and v in another. -/
def regFields (r : Regs) : List (Nat × Nat × Nat) :=
  (r.s.map fun e => (saveS + 8 * e.1, 8, e.2.val.toNat)) ++ (r.a.map fun e => (saveA + 8 * e.1, 8, e.2.val.toNat))
    ++ ((List.range 8).map fun k => (saveP + 8 * k, 8, b2n (r.pv k))) ++ (r.v.map fun e => (saveV + 128 * e.1, 128, e.2.val.toNat))

/-- An entry that QPOP has not taken. -/
def QEnt.here (e : QEnt) : Bool := e.popped.isNone && !e.rpop

/-- Where an entry stands; 3 is a request saved as not sent (R340). -/
def QEnt.stateCode (e : QEnt) : Nat :=
  match e.stage with
  | .held => 1
  | .waiting => if e.unsent then 3 else 2
  | .faulted _ => 3
  | .landed => 4
def qkindCode : QKind → Nat
  | .ld => 0
  | .vld => 1
  | .st => 2
  | .vst => 3

/-- A queue: head, tail, and its entries with their addresses and data. One that a QPOP has taken is no entry any more (R63). -/
def queueFields (c : Ctx) : List (Nat × Nat × Nat) :=
  c.queues.flatMap fun q =>
    let o := saveQ + 0xA00 * q.1
    let l := q.2.filter QEnt.here
    [(o, 8, 0), (o + 8, 8, l.length)] ++ (List.range (min 16 l.length)).flatMap fun i =>
      match l[i]? with
      | none => []
      | some e => [(o + 16 + 144 * i, 8, e.ea), (o + 24 + 144 * i, 8, e.stateCode + 16 * qkindCode e.kind + 256 * e.bytes)
                   , (o + 32 + 144 * i, 128, e.data)]

/-- Every part of a save area below its frame. -/
def ctxFields (c : Ctx) : List (Nat × Nat × Nat) := ctlFields c ++ regFields c.regs ++ queueFields c

def qstageOf (n : Nat) (old : QStage) : QStage := if n = 2 ∨ n = 3 then .waiting else if n = 4 then .landed else old
def qkindOf (n : Nat) : QKind := if n = 0 then .ld else if n = 1 then .vld else if n = 2 then .st else .vst

/-- A saved register with the full and poison bits of its control block: a poison bit of its own reads as uncorrectable data (R203). -/
def bitsBack {w : Nat} (full bad k : Nat) (c : RCell w) : RCell w :=
  { c with
    full := full / 2 ^ k % 2 == 1
    mark := if bad / 2 ^ k % 2 = 0 then { } else if c.mark.cause = 0 then ⟨0x0C, 0⟩ else c.mark }

/-- A saved register with the value that its save area holds; an uncorrectable word marks it (R203, R365). -/
def importCell {w : Nat} (s : State) (m : Memory) (at_ n : Nat) (c : RCell w) : RCell w :=
  if s.vaultBad at_ n then { c with mark := ⟨0x0C, at_⟩ } else { c with val := BitVec.ofNat w (rdMem m at_ n) }

/-- Registers with the values of a save area. -/
def importRegs (s : State) (save : Nat) (r : Regs) : Regs :=
  let m := slice s.vault (save + saveS) 0x1C00 (save + saveS)
  let ctl := slice s.vault save 0x100 save
  let full := rdMem ctl (save + 0xC8) 16
  let bad := rdMem ctl (save + 0xD8) 16
  let r := (List.range 64).foldl (fun r n => r.setS n (importCell s m (save + saveS + 8 * n) 8 (bitsBack full bad n (r.sc n)))) r
  let r := (List.range 16).foldl (fun r n => r.setA n (importCell s m (save + saveA + 8 * n) 8 (bitsBack full bad (64 + n) (r.ac n)))) r
  let r := (List.range 8).foldl (fun r n => r.setP n (rdMem m (save + saveP + 8 * n) 8 % 2 == 1)) r
  let r := (List.range 32).foldl (fun r n => r.setV n (importCell s m (save + saveV + 128 * n) 128 (bitsBack full bad (80 + n) (r.vc n)))) r
  { r with
    mask := (List.range 15).foldl (fun t i => tset 0 t (i + 1) (rdMem ctl (save + 0x40 + 4 * i) 4)) []
    depth := rdMem ctl (save + 0x7C) 4 % 16 }

/-- An entry with the address, state, kind and datum that slot `i` of a queue's area holds. -/
def importEnt (m : Memory) (o i : Nat) (e : QEnt) : QEnt :=
  let w := rdMem m (o + 24 + 144 * i) 8
  { e with ea := rdMem m (o + 16 + 144 * i) 8, stage := qstageOf (w % 16) e.stage, unsent := w % 16 == 3, kind := qkindOf (w / 16 % 16)
           bytes := w / 256, data := rdMem m (o + 32 + 144 * i) 128 }

/-- An entry of which its save area alone tells. -/
def blankEnt (serial : Nat) : QEnt :=
  { serial := serial, kind := .ld, lsz := .z8, bytes := 0, ea := 0, ord := .plain, sc := .pk, data := 0 }

/-- The slots from a queue's head to its tail in its save area. -/
def areaSlots (m : Memory) (o : Nat) : List Nat :=
  let h := rdMem m o 8
  (List.range (min 16 (rdMem m (o + 8) 8 - h))).map fun i => (h + i) % 16

/-- A queue's entries as its save area holds them, from its head to its tail; what QPOP has taken waits for its datum before them. An entry
that the area has added takes a serial behind `n`. -/
def importQueue (m : Memory) (o n : Nat) (l : List QEnt) : List QEnt :=
  let ks := areaSlots m o
  let hs := l.filter QEnt.here
  if ks = List.range hs.length then
    l.map fun e => if e.here then importEnt m o ((hs.takeWhile fun t => t.serial != e.serial).length) e else e
  else (l.filter fun e => !e.here) ++ ks.map fun k => importEnt m o k ((hs[k]?).getD (blankEnt (n + k + 1)))

/-- Whether a save area gives some queue more entries than its image has. -/
def areaAdds (q : Memory) (save : Nat) (c : Ctx) : Bool :=
  (List.range 8).any fun i => decide (((tget [] c.queues i).filter QEnt.here).length < (areaSlots q (save + saveQ + 0xA00 * i)).length)

/-- A saved context with what its save area holds; its PC stands in the record (R26). -/
def importCtx (s : State) (save : Nat) (c : Ctx) : Ctx :=
  let m := slice s.vault save 0x400 save
  let q := slice s.vault (save + saveQ) 0x5000 (save + saveQ)
  let rd (o n : Nat) : Nat := rdMem m (save + o) n
  let c := c.setBrstate (rd 8 8)
  { c with
    regs := importRegs s save c.regs
    queues := (List.range 8).foldl (fun t i =>
      tset [] t i (importQueue q (save + saveQ + 0xA00 * i) (c.fl.serial + 16 * i) (tget [] c.queues i))) c.queues
    fl := { c.fl with serial := c.fl.serial + if areaAdds q save c then 128 else 0 }
    loop := c.loop.map fun l => loopBack rd 0xE8 l
    ct := { c.ct with
      issued := rd 0x10 8, padv := rd 0x20 8 % 2 ^ 32, padb := rd 0x28 8 % 2 ^ 32, rbcause := rd 0x30 8, rbcount := rd 0x38 8
      svcOpen := rd 0xC0 8 % 2 == 1
      svcArgs := (List.range 8).foldl (fun t i => tset 0 t i (rd (0x80 + 8 * i) 8)) [] }
    pr := { c.pr with budget := rd 0x18 8 } }

/-! ## A core's engine state -/

/-- An operand descriptor from its 32 bytes (R237). -/
def ODesc.of (r : Nat) : ODesc :=
  let f (lo n : Nat) : Nat := r / 2 ^ lo % 2 ^ n
  { sync := f 192 64, sbase := f 128 64, spitch := f 112 16, ncol := f 103 9, syncsp := f 102 1 == 1, syncen := f 101 1 == 1
    wcode := f 98 3, fmt := f 94 4, ring := f 91 3, space := f 89 2, pitch := f 64 25, base := f 0 64 }

/-- The 32 bytes that give a descriptor (R237). -/
def ODesc.word (d : ODesc) : Nat :=
  d.base + d.pitch * 2 ^ 64 + d.space * 2 ^ 89 + d.ring * 2 ^ 91 + d.fmt * 2 ^ 94 + d.wcode * 2 ^ 98 + b2n d.syncen * 2 ^ 101
    + b2n d.syncsp * 2 ^ 102 + d.ncol * 2 ^ 103 + d.spitch * 2 ^ 112 + d.sbase * 2 ^ 128 + d.sync * 2 ^ 192

/-- An MX format code (R85). -/
def fmtMx (fmt : Nat) : Bool := decide (8 ≤ fmt ∧ fmt ≤ 12)

def ringFields (o : Nat) (r : Ring) : List (Nat × Nat × Nat) :=
  [(o, 8, r.base + r.ssize * 2 ^ 20 + r.scount * 2 ^ 38 + r.occ * 2 ^ 45 + r.tail * 2 ^ 52 + r.head * 2 ^ 58), (o + 8, 8, r.pmap)]

def nestFields (o : Nat) : Option (List NLevel) → List (Nat × Nat × Nat)
  | none => []
  | some ls => (o, 4, ls.length + 1) :: (List.range ls.length).flatMap fun i =>
      let n := ls.getD i default
      [(o + 4 + 24 * i, 4, n.trip), (o + 8 + 24 * i, 8, n.tstep), (o + 16 + 24 * i, 8, n.sstep), (o + 24 + 24 * i, 4, b2n n.kstep + 2 * b2n n.swap)]

def nestBack (rd : Nat → Nat → Nat) (o : Nat) : Option (List NLevel) :=
  match rd o 4 with
  | 0 => none
  | n + 1 => some ((List.range (min n 6)).map fun i =>
      { trip := rd (o + 4 + 24 * i) 4, tstep := rd (o + 8 + 24 * i) 8, sstep := rd (o + 16 + 24 * i) 8
        kstep := rd (o + 24 + 24 * i) 4 % 2 == 1, swap := rd (o + 24 + 24 * i) 4 / 2 % 2 == 1 })

def pertFields (i : Nat) : Option Pert → List (Nat × Nat × Nat)
  | none => []
  | some p => [(0x400 + 24 * i, 8, p.row + p.col * 2 ^ 16 + b2n p.log * 2 ^ 32 + 2 ^ 33), (0x408 + 24 * i, 8, p.val), (0x410 + 24 * i, 8, p.after)]
def pertBack (rd : Nat → Nat → Nat) (i : Nat) : Option Pert :=
  let v := rd (0x400 + 24 * i) 8
  if v / 2 ^ 33 % 2 = 1 then some ⟨v % 2 ^ 16, v / 2 ^ 16 % 2 ^ 16, rd (0x408 + 24 * i) 8, v / 2 ^ 32 % 2 == 1, rd (0x410 + 24 * i) 8⟩ else none

/-- The remainder of an MMA (R249): the passes that it has done, what it captured, its slots, its window and its nest. -/
def mmaFields (k : Cmd) : List (Nat × Nat × Nat) :=
  match k.kind with
  | .mma prec t ovw wrel tile d nest padv padb slot =>
    [(0x500, 4, k.next), (0x504, 1, b2n t + 2 * b2n ovw + 4 * b2n wrel), (0x505, 1, tile), (0x508, 8, prec), (0x510, 32, d.word), (0x530, 4, padv)
     , (0x534, 4, padb), (0x538, 8, slot), (0x540, 8, k.count), (0x548, 8, k.close), (0x550, 8, k.baddr)] ++ nestFields 0x800 (some nest)
  | _ => []
def mmaBack (rd : Nat → Nat → Nat) (k : Cmd) : Cmd :=
  match k.kind with
  | .mma _ _ _ _ _ _ nest _ _ _ =>
    let f := rd 0x504 1
    { k with
      next := rd 0x500 4, count := rd 0x540 8, close := rd 0x548 8, baddr := rd 0x550 8
      kind := .mma (rd 0x508 8) (f % 2 == 1) (f / 2 % 2 == 1) (f / 4 % 2 == 1) (rd 0x505 1 % 8) (ODesc.of (rd 0x510 32))
        ((nestBack rd 0x800).getD nest) (rd 0x530 4) (rd 0x534 4) (rd 0x538 8) }
  | _ => k

/-- The latched format of plane `i` and its load: number, format, width, flags and valid rows. -/
def planeLatch (i : Nat) (l : Load) : List (Nat × Nat × Nat) :=
  let o := 0x700 + 32 * (i % 2)
  [(o, 8, l.w), (o + 8, 1, l.fmt), (o + 9, 1, l.width), (o + 10, 1, b2n l.rne + 2 * b2n l.failed), (o + 12, 4, l.kv)]

/-- The pass-side status of a tile: saturation, then flushed groups. -/
def Tile.status (t : Tile) : Nat := b2n (t.stats.any fun e => e.2.1) + 2 * b2n (t.stats.any fun e => e.2.2)

/-- The writes whose windows are open at a count (R136), the oldest first: two at most (R319). -/
def Tile.openWrites (issued : Nat) (t : Tile) : List TWrite := t.writes.filter fun w => decide (issued < w.close)

/-- The remaining count of a tile's open windows and its pass-side status. -/
def tileCtl (o issued : Nat) (t : Tile) : List (Nat × Nat × Nat) :=
  let ws := t.openWrites issued
  [(o, 4, ((ws[0]?).map fun w => w.close - issued).getD 0), (o + 4, 4, ((ws[1]?).map fun w => w.close - issued).getD 0), (o + 8, 1, t.status)]

/-- The core block (R318): PREC, TSTAT and peak registers, rings, weight counters, gather channels, stage counters, nests,
perturbations, the MMA remainder (R249), windows and pass-side status, and the planes' latched formats, for which their 256 KiB have no
room. -/
def coreFields (issued : Nat) (m : Mx) : List (Nat × Nat × Nat) :=
  ((List.range 8).map fun i => (8 * i, 8, tget 0 m.prec i)) ++ ((List.range 8).map fun i => (0x40 + 8 * i, 8, (tget { } m.tiles i).tstat))
    ++ ((List.range 8).map fun i => (0x80 + 8 * i, 8, tget 0 m.pk i))
    ++ ((List.range 8).flatMap fun i => ringFields (0xC0 + 16 * i) (tget { } m.rings i)) ++ [(0x140, 8, m.wiss), (0x148, 8, m.wrel)]
    ++ ((List.range 4).map fun i => (0x150 + 8 * i, 8, tget 0 m.nextid i * 2 ^ 32 + tget 0 m.donebelow i))
    ++ ((List.range 4).map fun i => (0x170 + 8 * i, 8, tget 0 m.stage i))
    ++ nestFields 0x200 m.shadow ++ nestFields 0x300 m.live
    ++ ((List.range 8).flatMap fun i => pertFields i (tget none m.pert i))
    ++ ((m.cmds.head?).map mmaFields).getD []
    ++ ((List.range 8).flatMap fun i => tileCtl (0x600 + 16 * i) issued (tget { } m.tiles i))
    ++ m.planes.flatMap fun e => (e.2.map (planeLatch e.1)).getD []

/-- The 16-bit columns that an element of a plane takes (R92), and where word `j` of the element of a key stands. -/
def Load.cols (l : Load) : Nat := sliceCount l.width
def Load.wordAt (l : Load) (key j : Nat) : Nat := (key / 256 * l.cols + j) * 256 + key % 256

/-- The weight planes: an element's code in the words of its columns, and for an MX format its block's scale above it. -/
def planeFields (m : Mx) : List (Nat × Nat × Nat) :=
  m.planes.flatMap fun e => match e.2 with
    | none => []
    | some l => l.vals.flatMap fun v =>
      let code := if fmtMx l.fmt then v.2.1 % 2 ^ 8 + v.2.2 * 2 ^ 8 else v.2.1
      (List.range l.cols).map fun j => (0x1000 + 0x20000 * (e.1 % 2) + 2 * l.wordAt v.1 j, 2, code / 2 ^ (16 * j))

/-- A tile's three images: the current one, then those that writes beside it have made, in order. -/
def imgFields (o : Nat) (i : Img) : List (Nat × Nat × Nat) := i.el.map fun e => (o + 8 * e.1, 8, e.2)
def Tile.made (t : Tile) : List TWrite := t.writes.filter fun w => w.cols != 0
def tileFields (o : Nat) (t : Tile) : List (Nat × Nat × Nat) :=
  imgFields o t.img ++ (List.range (min 2 t.made.length)).flatMap fun i => imgFields (o + 0x10000 * (i + 1)) (((t.made[i]?).map TWrite.img).getD { })

def mxFields (issued tiles : Nat) (m : Mx) : List (Nat × Nat × Nat) :=
  coreFields issued m ++ planeFields m ++ (List.range tiles).flatMap fun k => tileFields (0x41000 + 0x30000 * k) (tget { } m.tiles k)

/-- A plane's elements from the words that its area holds. Bits of a code beyond its columns have no place there. -/
def planeBack (ws : Tab Nat) (l : Load) : Tab (Nat × Nat) :=
  let c := l.cols
  let lo : Tab Nat := ws.foldl (fun t e => tmod 0 t (e.1 / 256 / c * 256 + e.1 % 256) fun x => x + e.2 * 2 ^ (16 * (e.1 / 256 % c))) []
  if fmtMx l.fmt then lo.map fun e => (e.1, (e.2 % 2 ^ 8, e.2 / 2 ^ 8 % 2 ^ 8))
  else (l.vals.foldl (fun t v =>
    let hi := v.2.1 / 2 ^ (16 * c) * 2 ^ (16 * c)
    if hi = 0 then t else tmod 0 t v.1 fun x => x + hi) lo).map fun e => (e.1, (e.2, 0))

/-- A plane with what the save area holds: its latched format, and its elements from the words at `at_`. An uncorrectable word fails the
load (R241, R365). -/
def importPlane (s : State) (rd : Nat → Nat → Nat) (at_ i : Nat) (l : Load) : Load :=
  let o := 0x700 + 32 * (i % 2)
  let l : Load := { l with
    w := rd o 8, fmt := rd (o + 8) 1, width := rd (o + 9) 1, rne := rd (o + 10) 1 % 2 == 1, kv := rd (o + 12) 4
    failed := rd (o + 10) 1 / 2 % 2 == 1 || s.vbad.any fun w => decide (at_ ≤ w * 8 ∧ w * 8 < at_ + 0x20000) }
  { l with vals := planeBack (areaWords s.vault at_ 0x20000 2) l }

/-- An image with an area's elements; a word that cannot be corrected is a bad element (R251, R365). -/
def importImg (s : State) (o : Nat) (i : Img) : Img :=
  { i with el := areaWords s.vault o 0x10000 8
           bad := i.bad ++ ((s.vbad.filter fun w => decide (o ≤ w * 8 ∧ w * 8 < o + 0x10000)).map fun w => w - o / 8) }

/-- A tile with its area's images. -/
def importTile (s : State) (o : Nat) (t : Tile) : Tile :=
  let place (w : TWrite) : Nat := (t.made.takeWhile fun m => m.cmd != w.cmd).length
  { t with
    img := importImg s o t.img
    writes := t.writes.map fun w =>
      if w.cols ≠ 0 ∧ place w < 2 then { w with img := importImg s (o + 0x10000 * (place w + 1)) w.img } else w }

/-- A tile with the remaining counts of the windows that were open when it was saved, at the count `was`, and its pass-side status. A window
that had closed stays closed where it was, also while its command has still to run. -/
def windowsBack (rd : Nat → Nat → Nat) (o was issued : Nat) (t : Tile) : Tile :=
  let ws := t.openWrites was
  { t with
    writes := t.writes.map fun w =>
      let i := (ws.takeWhile fun u => u.cmd != w.cmd).length
      if was < w.close ∧ i < 2 then { w with close := issued + rd (o + 4 * i) 4 } else w
    stats := if rd (o + 8) 1 = t.status then t.stats else [(issued, rd (o + 8) 1 % 2 == 1, rd (o + 8) 1 / 2 % 2 == 1)] }

def importRing (rd : Nat → Nat → Nat) (o : Nat) (r : Ring) : Ring :=
  let v := rd o 8
  { r with base := v % 2 ^ 20, ssize := v / 2 ^ 20 % 2 ^ 12, scount := v / 2 ^ 38 % 2 ^ 7, occ := v / 2 ^ 45 % 2 ^ 7, tail := v / 2 ^ 52 % 2 ^ 6
           head := v / 2 ^ 58, pmap := rd (o + 8) 8 }

/-- A core's engine state with what the save area holds from its frame's end on; `issued` is the count in its control block, `was` the count
at which it was saved. -/
def importMx (s : State) (f was issued tiles : Nat) (m : Mx) : Mx :=
  let a := slice s.vault f 0x1000 f
  let rd (o n : Nat) : Nat := rdMem a (f + o) n
  let tab (n o : Nat) : Tab Nat := (List.range n).foldl (fun t i => tset 0 t i (rd (o + 8 * i) 8)) []
  { m with
    prec := tab 8 0
    pk := tab 8 0x80
    rings := m.rings.map fun e => (e.1, importRing rd (0xC0 + 16 * e.1) e.2)
    wiss := rd 0x140 8
    wrel := rd 0x148 8
    nextid := (List.range 4).foldl (fun t i => tset 0 t i (rd (0x154 + 8 * i) 4)) []
    donebelow := (List.range 4).foldl (fun t i => tset 0 t i (rd (0x150 + 8 * i) 4)) []
    stage := tab 4 0x170
    shadow := nestBack rd 0x200
    live := nestBack rd 0x300
    pert := (List.range 8).foldl (fun t i => match pertBack rd i with | some p => tput t i (some p) | none => t) []
    cmds := match m.cmds with
      | [] => []
      | k :: t => mmaBack rd k :: t
    planes := m.planes.map fun e => (e.1, e.2.map (importPlane s rd (f + 0x1000 + 0x20000 * (e.1 % 2)) e.1))
    tiles := m.tiles.map fun e =>
      let t := windowsBack rd (0x600 + 16 * e.1) was issued { e.2 with tstat := rd (0x40 + 8 * e.1) 8 }
      (e.1, if e.1 < tiles then importTile s (f + 0x41000 + 0x30000 * e.1) t else t) }

end Sys2Proof.Machine
end

