-- ==== Sys2Proof/Machine/Order.lean ====
section
/-! DEFINITION. Order among a context's own accesses, when a queue's requests are sent, and what a region's stores and its queue loads mean
to each other (R63 to R65, R73, R83, R84, R202, R207, R222, R332, R340). -/

namespace Sys2Proof.Machine

/-! ## Packets on their way (R65, R73, R271) -/

/-- Whether a packet, or a contribution merged into it, is an earlier operation of a record (R73, R271). -/
def pktMine (k : Packet) (crec serial : Nat) : Bool :=
  (k.crec == crec && decide (k.prod < serial)) || k.also.any fun a => a.crec == crec && decide (a.prod < serial)

/-- The vault bytes that a fabric operation names in the module that issued it (R65, R81). -/
def pktFoot (k : Packet) : List (Nat × Nat) :=
  if k.dst = k.src then (match k.kind with
    | .xst => [(k.voff, k.size)]
    | .xldReq => [(k.voff, k.size)]
    | .xred => [(k.voff, k.size)]
    | _ => [])
  else []

/-- Whether a fabric operation writes the vault. -/
def pktStores (k : Packet) : Bool := k.kind == .xst || k.kind == .xred

/-! ## Accesses of a context (R65, R78, R202) -/

/-- The vault bytes of its module that a pending access touches. -/
def Pend.foot (p : Pend) : List (Nat × Nat) :=
  match p.kind with
  | .load sz => [(p.addr, sz.bytes)]
  | .loadV ls _ => ls.map fun l => (l.2, 4)
  | .store n _ => [(p.addr, n)]
  | .storeV ls _ => ls.map fun l => (l.2, 4)
  | .atomic _ n _ _ => [(p.addr, n)]
  | .sinit _ => [(p.addr, 16)]
  | .fabric k => pktFoot k
  | _ => []

def overlaps (a b : List (Nat × Nat)) : Bool := a.any fun x => b.any fun y => decide (x.1 < y.1 + y.2 ∧ y.1 < x.1 + x.2)

/-- A queue request that has not been performed. -/
def QEnt.open_ (e : QEnt) : Bool := e.stage != .landed

/-- Scopes that reach beyond the module (R74). -/
def wideScope : Scope → Bool
  | .fb => true
  | .sy => true
  | _ => false

/-- Every access of the context before a serial has been performed at a scope, for a release (R202): at `.fb` and `.sy` those to
other modules too (R73, R273). -/
def State.olderDone (s : State) (c : Ctx) (serial : Nat) (sc : Scope) : Bool :=
  c.fl.pend.all (fun p => decide (serial ≤ p.serial)) && c.fl.xwaits.all (fun w => decide (serial ≤ w.serial))
    && c.queues.all (fun q => q.2.all fun e => !e.open_ || decide (serial ≤ e.serial))
    && s.packets.all fun p => !(p.src == s.modId && p.kind != .xldRep && (wideScope sc || p.dst == s.modId) && pktMine p c.pr.crec serial)

/-! ## Engine commands -/

def CKind.isDrain : CKind → Bool
  | .mdrn _ _ _ _ _ _ _ _ _ _ _ => true
  | _ => false

def CKind.isCopy : CKind → Bool
  | .gcopy _ _ _ _ => true
  | _ => false

/-- A drain that has still to read its tile: none of its bytes have been formed. -/
def Cmd.toDrain (k : Cmd) : Bool := k.kind.isDrain && !k.running && k.parts.isEmpty

/-! ## Queues (R63, R64, R207, R208) -/

def Ctx.queue (c : Ctx) (q : Nat) : List QEnt := tget [] c.queues q
def Ctx.setQueue (c : Ctx) (q : Nat) (l : List QEnt) : Ctx := { c with queues := tset [] c.queues q l }

def QKind.isLoad : QKind → Bool
  | .ld => true
  | .vld => true
  | _ => false

/-- The occupancy of a queue (R63). -/
def occupancy (l : List QEnt) : Nat := (l.filter QEnt.here).length

/-- Where a home issues its requests: a resident context's core, whose TLB is asked first (R332). -/
def homeCore : Home → Option Nat
  | .live x => some x.core
  | .saved _ _ => none

/-- The physical address of a queue entry: the one it was sent or compared with, or what the TLBs give now, the shared one alone for a
saved image's; a request that was saved as not sent translates again when it is restored (R63, R332, R340; log entry 120). -/
def State.entPa (s : State) (h : Home) (c : Ctx) (e : QEnt) : Option Nat :=
  match e.pa, h with
  | some pa, _ => some pa
  | none, .live x => s.issuedXl x.cl (some x.core) c.pr.jslot e.ea (!e.kind.isLoad)
  | none, .saved cl _ => if e.unsent then none else s.issuedXl cl none c.pr.jslot e.ea (!e.kind.isLoad)

/-- Whether an older entry of the context may name the same location and has still to be performed (R65). Held stores of an
open region are looked through once their address is known (R83). -/
def State.olderClash (s : State) (h : Home) (c : Ctx) (e o : QEnt) (pa : Nat) : Bool :=
  o.serial < e.serial && o.open_ && decide (o.ea % 4096 < e.ea % 4096 + e.bytes ∧ e.ea % 4096 < o.ea % 4096 + o.bytes)
    && (match if o.stage == .held then o.pa else s.entPa h c o with
      | none => true
      | some po => po / 4096 == pa / 4096 && o.stage != .held)

/-- Whether a queue request may leave at an address: no older request may name the same bytes, and a release stands behind
everything earlier. So whatever has been sent can be performed without a further translation (R63, R65, R202, R334). -/
def State.sendsAt (s : State) (h : Home) (c : Ctx) (e : QEnt) (pa : Nat) : Bool :=
  c.queues.all (fun q => q.2.all fun o => !s.olderClash h c e o pa) && (e.ord != .rel || s.olderDone c e.serial e.sc)

/-- The requests of a queue that are sent by now, in push order: each whose translation is held and that may leave (R63, R332). -/
def sendPrefix (tr : QEnt → Option Nat) (ok : QEnt → Nat → Bool) : List QEnt → List QEnt
  | [] => []
  | e :: t => match e.stage with
    | .landed => e :: sendPrefix tr ok t
    | .waiting => match e.pa, tr e with
      | some _, _ => e :: sendPrefix tr ok t
      | none, some pa => if ok e pa then { e with pa := some pa } :: sendPrefix tr ok t else e :: t
      | none, none => e :: t
    | _ => e :: t

def State.sendQueue (s : State) (h : Home) (c : Ctx) (l : List QEnt) : List QEnt := sendPrefix (s.entPa h c) (s.sendsAt h c) l

/-- Requests sent that their core's TLB does not translate: each is a miss there (R332, R381). -/
def State.coreMisses (s : State) (x : CtxId) (c : Ctx) (was now : List QEnt) : Nat :=
  ((was.zip now).filter fun e => e.1.pa.isNone && e.2.pa.isSome
    && (tlbFind (s.core x.coreId).tlb c.pr.jslot e.1.ea (!e.1.kind.isLoad)).isNone).length

/-- A queue with requests sent. -/
def State.sent (s : State) (h : Home) (q : Nat) (l : List QEnt) : State :=
  match h with
  | .live x => (s.tally x 0x00D (s.coreMisses x (s.ctx x) ((s.ctx x).queue q) l)).modCtx x fun c => c.setQueue q l
  | .saved _ _ => s.modHome h fun c => c.setQueue q l

/-! ## What a region's stores and its queue loads mean to each other (R83, R222) -/

/-- The held queue stores of the region that lie over a load's bytes, oldest first (R83). -/
def heldQueue (c : Ctx) (e : QEnt) (pa : Nat) : List HeldSt :=
  ((c.queues.flatMap fun q => q.2).filter fun o => o.stage == .held && o.serial < e.serial).mergeSort (fun a b => a.serial ≤ b.serial)
    |>.filterMap fun o => o.pa.bind fun po => if pa / 4096 = po / 4096 then some (.mem .phys po o.bytes o.data o.baddr) else none

/-- What a load reads over memory's bytes: the held stores that stand before it, and those that its region committed while it was under
way (R65, R83). -/
def QEnt.over (c : Ctx) (e : QEnt) (pa : Nat) : Tab Nat := e.ovr ++ heldOver .phys (heldQueue c e pa) pa e.bytes

/-- Whether a queue store of the region that follows a checked queue load names its bytes, that of a waiting COMMIT bundle among them; a
command that follows it has been compared by virtual addresses (R217, R222). -/
def laterHit (c : Ctx) (e : QEnt) (pa : Nat) : Option QEnt :=
  ((c.queues.flatMap fun q => q.2) ++ (c.commitSt.map Prod.snd).toList).find? fun o => o.stage == .held && o.compared && decide (e.serial < o.serial)
    && (match o.pa with
      | none => false
      | some po => decide (po < pa + e.bytes ∧ pa < po + o.bytes))

/-- A region's rollback for something found after its bundle issued. -/
def State.rollLate (s : State) (h : Home) (baddr cause tcause : Nat) : State :=
  match h with
  | .live x => s.rollback x baddr 3 cause tcause
  | .saved _ _ => s

/-- A checked queue load of an open region whose address has still to be compared. -/
def QEnt.unchecked (c : Ctx) (e : QEnt) : Bool := e.chk && e.rpush && c.region.isSome && !e.compared

/-- The alias table with a queue load's entry: one that stands for the same bytes is of the earlier load. -/
def withAlias (l : List Alias) (a : Alias) : List Alias :=
  if l.any (fun b => b.same a) then l.map fun b => if b.same a then { b with serial := min b.serial a.serial } else b else l ++ [a]

/-- A checked queue load's address becomes known, unless it was before: the comparison and the alias entry of R222, also while its
context is stopped in its region (log entry 110). -/
def State.checkLoad (s : State) (h : Home) (c : Ctx) (e : QEnt) (pa : Nat) : Except State State :=
  if !e.unchecked c then .ok s
  else match laterHit c e pa, c.region with
    | some o, _ => .error (s.rollLate h o.baddr 0x02 0)
    | none, none => .ok s
    | none, some g =>
      let l := withAlias g.aliases ⟨.phys, pa, e.bytes, some e.ea, e.serial⟩
      if 32 < l.length then .error (s.rollLate h e.baddr 0x05 0)
      else .ok (s.modHome h fun c => { c with region := some { g with aliases := l } })

/-- The requests that leave now, each as it waited with its address. -/
def leaving (was now : List QEnt) : List (QEnt × Nat) :=
  (was.zip now).filterMap fun e => if e.1.pa.isNone then e.2.pa.map fun pa => (e.1, pa) else none

/-- Checked loads that leave are compared, in push order, up to one that rolls the region back. -/
def State.checkLoads (s : State) (h : Home) : List (QEnt × Nat) → Except State State
  | [] => .ok s
  | e :: t => match s.home h with
    | none => .ok s
    | some c => match s.checkLoad h c e.1 e.2 with
      | .error s => .error s
      | .ok s => s.checkLoads h t

/-- What may leave of the first `n` entries of a queue is sent, and its checked loads are compared as they leave; an error is the state in
which one of them has rolled the region back (R63, R222). -/
def State.sentUpTo (s : State) (h : Home) (q n : Nat) : Except State State :=
  match s.home h with
  | none => .ok s
  | some c =>
    let l := c.queue q
    let now := (s.sendQueue h c l).take n ++ l.drop n
    (s.sent h q (now.map fun e => { e with compared := e.compared || (e.chk && e.pa.isSome) })).checkLoads h (leaving l now)

/-- What may leave of a queue is sent. -/
def State.sentQ (s : State) (h : Home) (q : Nat) : State :=
  match s.sentUpTo h q (((s.home h).map fun c => (c.queue q).length).getD 0) with
  | .error s => s
  | .ok s => s

end Sys2Proof.Machine
end

