-- ==== Sys2Proof/Machine/Tiles.lean ====
section
/-! DEFINITION. Nests and tiles: the passes that a nest names, and the writes of a tile whose windows close (R136, R137, R243 to R245,
R319). -/

namespace Sys2Proof.Machine

/-! ## Nests (R243 to R245) -/

/-- The passes of a nest. -/
def nestPasses (l : List NLevel) : Nat := l.foldl (fun a v => a * v.trip) 1

/-- The counters of pass `p`, innermost first. -/
def nestCounters : List NLevel → Nat → List Nat
  | [], _ => []
  | v :: t, p => p % v.trip :: nestCounters t (p / v.trip)

/-- The tile of pass `p` (R245). -/
def passTile (n : Nat) (l : List NLevel) (p : Nat) : Nat :=
  (n + ((l.zip (nestCounters l p)).map fun v => v.2 * v.1.tstep).sum) % 8

/-- The tiles that a nest names from tile `n`. -/
def nestTiles (n : Nat) (l : List NLevel) : List Nat :=
  (List.range 8).filter fun t => (List.range (nestPasses l)).any fun p => passTile n l p == t

/-! ## Tiles and their windows (R136, R137) -/

def Mx.tile (m : Mx) (t : Nat) : Tile := tget { } m.tiles t
def Mx.modTile (m : Mx) (t : Nat) (f : Tile → Tile) : Mx := { m with tiles := tmod { } m.tiles t f }

/-- Entries of a tile's table whose column is below `cols`, or not. -/
def colsBelow (cols : Nat) (below : Bool) (l : Tab Nat) : Tab Nat := l.filter fun e => decide (e.1 % 256 < cols) == below
def mergeTab (a b : Tab Nat) : Tab Nat := b.foldl (fun t e => tput t e.1 e.2) a

/-- One write takes effect: its columns replace the tile's (R137). -/
def TWrite.onto (w : TWrite) (i : Img) : Img :=
  if w.cols = 0 then i
  else { el := mergeTab (colsBelow w.cols false i.el) (colsBelow w.cols true w.img.el)
         sticky := mergeTab (colsBelow w.cols false i.sticky) (colsBelow w.cols true w.img.sticky)
         bad := (i.bad.filter fun k => decide (w.cols ≤ k % 256)) ++ w.img.bad.filter fun k => decide (k % 256 < w.cols) }

/-- Whether a command still has to read tile `t` as it stood at its issue. -/
def Cmd.awaits (k : Cmd) (t : Nat) : Bool :=
  match k.kind with
  | .mma _ _ _ _ n _ l _ _ _ => decide (k.next = 0) && !k.running && (nestTiles n l).contains t
  | .mdrn _ _ _ _ _ _ _ tile _ _ _ => tile == t && k.toDrain
  | _ => false

/-- The write of a tile whose window closes first. -/
def Tile.first (t : Tile) : Option TWrite :=
  t.writes.foldl (fun acc w => match acc with
    | none => some w
    | some b => if w.close < b.close then some w else acc) none

/-- The first write's effect becomes the tile's current contents; its pass-side status waits for a drain (R105). -/
def Tile.close (t : Tile) (w : TWrite) : Tile :=
  { t with img := w.onto t.img
           writes := t.writes.filter fun o => !(o.cmd == w.cmd)
           stats := t.stats ++ [(w.close, w.sat, w.flushed)] }

/-- The write of a tile that can take effect at a count: its window is the first to close and has closed, its engine has made it, and no
command still has to look past it. -/
def Mx.closable (m : Mx) (t count : Nat) : Option TWrite :=
  (m.tile t).first.filter fun w => w.ready && decide (w.close ≤ count) && m.cmds.all fun k => !k.awaits t || decide (w.close ≤ k.count)

/-- Writes of a tile that can take effect do, `n` at most. -/
def Mx.fold (m : Mx) (t count : Nat) : Nat → Mx
  | 0 => m
  | n + 1 => match m.closable t count with
    | none => m
    | some w => (m.modTile t fun v => v.close w).fold t count n

/-- The engine state of a core as it is saved: each tile as its current contents beside its open windows (R319). -/
def Mx.folded (m : Mx) (count : Nat) : Mx :=
  (List.range 8).foldl (fun m t => m.fold t count (m.tile t).writes.length) m

end Sys2Proof.Machine
end

