-- ==== Sys2Proof/Machine/Work.lean ====
section
/-! DEFINITION. Work: launch records, work identifiers, continuation records and their lists, leaving a context, the
team barrier, and retiring continuations, teams and messages (R20 to R36, R304, R316 to R320). -/

namespace Sys2Proof.Machine

/-! ## Launch records (R304) -/

/-- Bits `lo` upward, `n` of them, of the field at byte offset `off` of a launch record. -/
def lrec (raw off lo n : Nat) : Nat := raw / 2 ^ (8 * off + lo) % 2 ^ n

def lNF (raw : Nat) : Nat := lrec raw 0 0 3
def lT (raw : Nat) : Nat := lrec raw 0 4 3
def lMB (raw : Nat) : Bool := lrec raw 0 8 1 == 1
def lPinned (raw : Nat) : Bool := lrec raw 0 9 1 == 1
def lHtabv (raw : Nat) : Bool := lrec raw 0 10 1 == 1
def lSchedv (raw : Nat) : Bool := lrec raw 0 11 1 == 1
def lPrio (raw : Nat) : Nat := lrec raw 0 12 3
def lNdep (raw : Nat) : Nat := lrec raw 0 16 3
def lVersion (raw : Nat) : Nat := lrec raw 0 20 4
def lTiles (raw : Nat) : Nat := lrec raw 0 28 4
def lCap (raw : Nat) : Nat := lrec raw 0 32 32
def lWidth (raw i : Nat) : Nat := lrec raw 0x08 (7 * i) 7
def lExtent (raw i : Nat) : Nat := lrec raw (0x10 + 8 * i) 0 64
def lEntry (raw : Nat) : Nat := lrec raw 0x40 0 64
def lArgp (raw : Nat) : Nat := lrec raw 0x48 0 64
def lLmemb (raw : Nat) : Nat := lrec raw 0x50 0 32
def lVaultb (raw : Nat) : Nat := lrec raw 0x50 32 32
def lBudget (raw : Nat) : Nat := lrec raw 0x58 0 64
def lSched (raw : Nat) : Nat := lrec raw 0x60 0 64
def lHtab (raw : Nat) : Nat := lrec raw 0x68 0 64
def lHcount (raw : Nat) : Nat := lrec raw 0x70 0 64
def lCompl (raw : Nat) : Nat := lrec raw 0x78 0 64
def lDep (raw d : Nat) : Nat := lrec raw (0x80 + 16 * d) 0 64
def lDepGen (raw d : Nat) : Nat := lrec raw (0x80 + 16 * d) 64 16
def lDepErrok (raw d : Nat) : Bool := lrec raw (0x80 + 16 * d) 96 1 == 1
def lCsync (raw : Nat) : Nat := lrec raw 0xC0 0 64

/-! ## Work identifiers (R20, R21, R171) -/

/-- Total width of fields `i` to F - 1. -/
def widthFrom (raw i : Nat) : Nat := ((List.range (lNF raw - i)).map fun k => lWidth raw (i + k)).sum

/-- Field `i` of an identifier: bits above field 0 do not enter. -/
def widField (raw wid i : Nat) : Nat := wid / 2 ^ widthFrom raw (i + 1) % 2 ^ lWidth raw i

/-- The mixed-radix value of fields `i` to `j - 1`, the first the most significant (R21). -/
def mixed (raw wid i j : Nat) : Nat :=
  (List.range (j - i)).foldl (fun acc k => acc * lExtent raw (i + k) + widField raw wid (i + k)) 0

def teamOrdinal (raw wid : Nat) : Nat := mixed raw wid 0 (lT raw)
def teamRank (raw wid : Nat) : Nat := mixed raw wid (lT raw) (lNF raw)

/-- The product of the extents of fields `i` to `j - 1`. -/
def extProd (raw i j : Nat) : Nat := (List.range (j - i)).foldl (fun acc k => acc * lExtent raw (i + k)) 1

def teamSize (raw : Nat) : Nat := extProd raw (lT raw) (lNF raw)
def teamCount (raw : Nat) : Nat := extProd raw 0 (lT raw)

/-- Fields 0 to T - 1 name the team; an identifier's member part lies below (R30). -/
def teamKey (raw wid : Nat) : Nat := wid % 2 ^ widthFrom raw 0 / 2 ^ widthFrom raw (lT raw)

/-- The identifier of the element with a dense number over fields `i` to `j - 1`, last field fastest. -/
def widOfDense (raw i j n : Nat) : Nat :=
  ((List.range (j - i)).foldr (fun k (acc : Nat × Nat) =>
    (acc.1 + acc.2 % lExtent raw (i + k) * 2 ^ widthFrom raw (i + k + 1), acc.2 / lExtent raw (i + k))) (0, n)).1

/-- The identifier of item `rank` of a team (R22). -/
def itemWid (raw key rank : Nat) : Nat :=
  key * 2 ^ widthFrom raw (lT raw) + widOfDense raw (lT raw) (lNF raw) rank

/-- The team key of dense ordinal `n` (R22). -/
def ordinalKey (raw n : Nat) : Nat := widOfDense raw 0 (lT raw) n / 2 ^ widthFrom raw (lT raw)

/-- The dense ordinal of a team key, and whether its fields lie within their extents (R21, R30). -/
def keyOrdinal (raw key : Nat) : Nat := teamOrdinal raw (key * 2 ^ widthFrom raw (lT raw))
def keyInside (raw key : Nat) : Bool :=
  (List.range (lT raw)).all fun i => decide (widField raw (key * 2 ^ widthFrom raw (lT raw)) i < lExtent raw i)

/-! ## Vault allocation of a team (R316, R320) -/

/-- The size of one save area (R320). -/
def saveSize (raw : Nat) : Nat :=
  0x7000 + roundUp (lLmemb raw) 4096 + (if lMB raw then 0x41000 + lTiles raw * 0x30000 else 0)

/-- Where the save areas begin within an allocation at `base` (R316, R318). -/
def saveStart (raw base : Nat) : Nat := roundUp (base + lVaultb raw + 64 * lCap raw) 4096

/-- Bytes of a team's whole allocation, from its 64 KiB aligned base (R316). -/
def allocSize (raw : Nat) : Nat := saveStart raw 0 + lCap raw * saveSize raw

def recAddr (raw vbase i : Nat) : Nat := vbase + lVaultb raw + 64 * i

/-! ## Launches and teams -/

/-- A launch that has started and not ended, and one whose partition is frozen (R313). -/
def LState.started : LState → Bool
  | .running => true
  | .draining => true
  | .frozen _ => true
  | _ => false

def LState.isFrozen : LState → Bool
  | .frozen _ => true
  | _ => false


def State.launch (s : State) (l : Nat) : Option Launch := tget none s.launches l
def State.setLaunch (s : State) (l : Nat) (v : Launch) : State := { s with launches := tput s.launches l (some v) }
def State.modLaunch (s : State) (l : Nat) (f : Launch → Launch) : State :=
  match s.launch l with
  | none => s
  | some v => s.setLaunch l (f v)
/-- The launch record of a slot; 0 where none stands. -/
def State.lraw (s : State) (l : Nat) : Nat := ((s.launch l).map Launch.raw).getD 0

def State.team (s : State) (cl t : Nat) : Option Team := tget none (s.cl cl).teams t
def State.setTeam (s : State) (cl t : Nat) (v : Team) : State :=
  s.modCl cl fun c => { c with teams := tput c.teams t (some v) }
def State.modTeam (s : State) (cl t : Nat) (f : Team → Team) : State :=
  match s.team cl t with
  | none => s
  | some v => s.setTeam cl t (f v)

/-! ## Ready list and watch list (R26) -/

/-- Writes LINK of every record of a list: each names the next, the last 0. -/
def relink (s : State) : List Nat → State
  | [] => s
  | [a] => s.recWr a recLINK 8 0
  | a :: b :: t => relink (s.recWr a recLINK 8 b) (b :: t)

/-- The records that LINK leads to from one, at most `n` of them. LINK 0 ends them, unless a record at vault offset 0 is `zero`, one of the
list's own (log entry 119). -/
def State.follow (s : State) (zero : Bool) : Nat → Nat → List Nat
  | 0, _ => []
  | n + 1, r => if r = 0 ∧ zero = false then [] else r :: s.follow zero n (s.recRd r recLINK 8)

/-- A list as its records stand in the vault: what a program wrote into LINK counts (R26). -/
def State.chain (s : State) (cl : Nat) (l : List Nat) : List Nat :=
  (s.follow (l.contains 0) ((s.cl cl).saved.length + 1) (l.headD 0)).eraseDups
def State.readyList (s : State) (cl : Nat) : List Nat := s.chain cl (s.cl cl).ready
def State.watchList (s : State) (cl : Nat) : List Nat := s.chain cl (s.cl cl).watch

/-- The ready records of a cluster: those on either list whose STATUS says so (R26; log entry 51). -/
def State.readyOf (s : State) (cl : Nat) : List Nat :=
  (s.readyList cl ++ s.watchList cl).eraseDups.filter fun r => s.recRd r recSTATUS 1 == stReady

def State.setReady (s : State) (cl : Nat) (l : List Nat) : State :=
  relink (s.modCl cl fun c => { c with ready := l }) l
def State.setWatch (s : State) (cl : Nat) (l : List Nat) : State :=
  relink (s.modCl cl fun c => { c with watch := l }) l
def State.addReady (s : State) (cl crec : Nat) : State := s.setReady cl (s.readyList cl ++ [crec])
def State.addWatch (s : State) (cl crec : Nat) : State := s.setWatch cl (s.watchList cl ++ [crec])
def State.dropReady (s : State) (cl crec : Nat) : State :=
  (s.setReady cl ((s.readyList cl).filter fun r => r != crec)).recWr crec recLINK 8 0
def State.dropWatch (s : State) (cl crec : Nat) : State :=
  (s.setWatch cl ((s.watchList cl).filter fun r => r != crec)).recWr crec recLINK 8 0

/-- A record becomes ready: STATUS, READYTICK and its place on the ready list (R26). A frozen one stays frozen. -/
def State.makeReady (s : State) (cl crec : Nat) : State :=
  if s.recRd crec recSTATUS 1 = stFrozen then s.dropWatch cl crec
  else
    let s := s.dropWatch cl crec
    ((s.recWr crec recSTATUS 1 stReady).recWr crec recREADYTICK 4 (s.tick % 2 ^ 32)).addReady cl crec

/-- How long a record has been ready. -/
def State.readyAge (s : State) (crec : Nat) : Nat := (s.tick + 2 ^ 32 - s.recRd crec recREADYTICK 4) % 2 ^ 32

/-- Effective priority after a time: PRIO and one for each full 10,000 ticks, at most 8 (R51). -/
def aged (prio age : Nat) : Nat := Nat.min 8 (prio + age / 10000)

/-- Effective priority of a ready record (R51). -/
def State.effPrio (s : State) (crec : Nat) : Nat := aged (s.recRd crec recPRIO 1 % 8) (s.readyAge crec)

/-- What the dispatcher orders by: effective priority, and how long the record has been ready (R51). -/
def State.recKey (s : State) (crec : Nat) : Nat × Nat := (s.effPrio crec, s.readyAge crec)

/-- The higher effective priority is served first, and among equals the older READYTICK (R51). -/
def keyFirst (a b : Nat × Nat) : Bool := decide (b.1 < a.1) || (a.1 == b.1 && decide (b.2 < a.2))

/-! ## Creating a record (R26, R27, R30) -/

/-- The register state a continuation begins with (R27); a15 is set at placement. -/
def startRegs (argp a14 : Nat) (args : List Nat) : Regs :=
  let r : Regs := { a := [], p := [] }
  let r := (r.wr (.a 13) argp).wr (.a 14) a14
  (List.range args.length).foldl (fun r i => r.wr (.s (i + 1)) (args.getD i 0)) r

/-- Creates a continuation in a team that has a free record: the record, ready, and the image it starts from. -/
def State.newRecord (s : State) (cl t : Nat) (q : SpawnReq) : State :=
  match s.team cl t with
  | none => s
  | some tm => match tm.free with
    | [] => s
    | i :: rest =>
      let raw := s.lraw tm.launch
      let crec := recAddr raw tm.vbase i
      let save := saveStart raw tm.vbase + i * saveSize raw
      let s := s.setTeam cl t { tm with free := rest }
      let s := s.wrVault crec 64 0
      let s := ((((s.recWr crec recPC 8 q.entry).recWr crec recWID 8 q.wid).recWr crec recSAVE 8 save).recWr crec recDEADLINE 8
        (2 ^ 64 - 1)).recWr crec recLAUNCH 4 tm.launch
      let s := ((s.recWr crec recSTATUS 1 stReady).recWr crec recPRIO 1 q.prio).recWr crec recREADYTICK 4 (s.tick % 2 ^ 32)
      let rel := 15 * 2 ^ 26 + tm.vbase % 2 ^ 26
      let c : Ctx := { regs := startRegs (lArgp raw) rel q.args, pc := q.entry
                       ct := { wid := q.wid, launch := tm.launch, team := t, prio := q.prio, tag := q.tag, core := q.core }
                       pr := { budget := lBudget raw, crec := crec, mb := lMB raw } }
      let s := s.setSaved cl crec (some { ctx := c, fresh := true, base := 0, size := roundUp (lLmemb raw) 64, mx := none })
      s.addReady cl crec

/-- Where the continuation of a record is: resident, or saved. -/
def State.homeOf (s : State) (cl crec : Nat) : Option Home :=
  match (List.range 32).find? fun k => (s.ctx ⟨cl, k / 4, k % 4⟩).pr.st != .idle && (s.ctx ⟨cl, k / 4, k % 4⟩).pr.crec == crec with
  | some k => some (.live ⟨cl, k / 4, k % 4⟩)
  | none => if (s.saved cl crec).isSome then some (.saved cl crec) else none

/-- The status of a SPAWN, or of a spawn whose team has since been created, fills the spawner's register, wherever the spawner is
(R30, R157). -/
def State.spawnStatus (s : State) (o : Option (SpawnBy × Nat × Nat)) (v : Nat) : State :=
  match o with
  | none => s
  | some (b, reg, prod) => match s.homeOf b.cl b.crec with
    | none => s
    | some h => s.modHome h fun c => { c with
        fl := { c.fl with spawns := c.fl.spawns - 1, fills := c.fl.fills ++ [({ reg := .s reg, prod := prod, val := v } : Fill)] } }

/-! ## Leaving a context (R26, R28, R318, R322) -/

/-- Writes what a save area holds of a context below its frame (R318). -/
def State.exportCtx (s : State) (save : Nat) (c : Ctx) : State :=
  s.putArea save saveFrame ((ctxFields c).map fun f => (save + f.1, f.2))

/-- Writes a core's engine state behind the frame. -/
def State.exportMx (s : State) (f issued tiles : Nat) (m : Mx) : State :=
  s.putArea f (0x41000 + 0x30000 * tiles) ((mxFields issued tiles m).map fun e => (f + e.1, e.2))

/-- Writes a frame's bytes into a save area. -/
def State.exportFrame (s : State) (c : CoreId) (save base n : Nat) : State :=
  let o := s.core c
  { s with vault := splice s.vault (save + saveFrame) n (slice o.lmem base n (save + saveFrame))
           vbad := spliceBad s.vbad (save + saveFrame) n (sliceBad o.lbad base n (save + saveFrame)) }

/-- The save area of a record. -/
def State.saveOf (s : State) (crec : Nat) : Nat := s.recRd crec recSAVE 8

/-- A saved image reaches its save area after it has changed. -/
def State.syncSaved (s : State) (h : Home) : State :=
  match h with
  | .live _ => s
  | .saved cl crec => match s.saved cl crec with
    | none => s
    | some i => if i.fresh then s else s.exportCtx (s.saveOf crec) i.ctx

/-- A saved image with what its save area holds now, before something lands in it. -/
def State.refresh (s : State) (h : Home) : State :=
  match h with
  | .live _ => s
  | .saved cl crec => match s.saved cl crec with
    | none => s
    | some i => if i.fresh then s else s.setSaved cl crec (some { i with ctx := importCtx s (s.saveOf crec) i.ctx })

/-- Where a saved frame ends: the matrix-bound part of the save area begins there (R318). -/
def saveEnd (save raw : Nat) : Nat := save + saveFrame + roundUp (lLmemb raw) 4096

/-- What stays in a context's privileged block when its continuation has left (R287, R288). -/
def emptiedPriv (p : Priv) : Priv :=
  { stopreq := p.stopreq, err := p.err, resume := p.resume, bpaddr := p.bpaddr, bpctl := p.bpctl, jslot := p.jslot
    lwbase := p.lwbase, lwlim := p.lwlim, rbthresh := p.rbthresh }

def emptied (c : Ctx) : Ctx := { pr := emptiedPriv c.pr }

def Acq.isMarver : Acq → Bool
  | .marver _ => true
  | _ => false

/-- What stays in a core when its matrix-bound context has gone: the program fields of its ring descriptors and the stage counters, which
belong to the core, and the slots that Marver entries wait for (R70, R268, R269). -/
def Mx.left (m : Mx) : Mx :=
  { rings := m.rings.map fun e => (e.1, ({ base := e.2.base, ssize := e.2.ssize, scount := e.2.scount
                                           waiting := e.2.waiting.filter Acq.isMarver } : Ring))
    stage := m.stage }

/-- A cluster's Marvers stop with their schedule: what they wait for goes. -/
def Cluster.stopMarvers (c : Cluster) : Cluster :=
  { c with
    marvers := []
    cores := c.cores.map fun e => (e.1, { e.2 with mx := { e.2.mx with
      rings := e.2.mx.rings.map fun r => (r.1, { r.2 with waiting := r.2.waiting.filter fun a => !a.isMarver }) } }) }

/-- A matrix-bound context takes its core's engine state with it (R37, R232, R257, R318). -/
def State.leaveMx (s : State) (x : CtxId) : State :=
  if (s.ctx x).pr.mb then s.modCore x.coreId fun o => { o with mx := o.mx.left } else s

/-- The wait description in the record (R26, R36). -/
def State.recWait (s : State) (crec : Nat) (w : WaitSt) (wto : Bool) : State :=
  let b := b2n w.all + (w.conds.length - 1) % 4 * 2 + w.wsat % 16 * 16
  ((s.recWr crec 32 1 b).recWr crec 33 1 (b2n wto)).recWr crec recDEADLINE 8 (w.deadline.getD (2 ^ 64 - 1))

/-- A request that waits on a fault leaves its waiting set and is saved as not sent (R340). -/
def QEnt.unfault (e : QEnt) : QEnt :=
  match e.stage with
  | .faulted _ => { e with stage := .waiting, unsent := true }
  | _ => e

/-- A context's queues as they leave with it: what is in flight stays in flight, and the rest is saved as not sent (R28, R340). -/
def State.leftQueues (s : State) (x : CtxId) (c : Ctx) : Tab (List QEnt) :=
  c.queues.map fun q => (q.1, (s.sendQueue (.live x) c q.2).map QEnt.unfault)

/-- Whether the team of a context carries a Marver schedule (R270). -/
def State.scheduled (s : State) (x : CtxId) : Bool :=
  match s.team x.cl (s.ctx x).ct.team with
  | none => false
  | some t => t.sched

/-- A cluster's Marvers pause for an item of the schedule that is saved, and go on once it is back (R270). -/
def State.pauseMarvers (s : State) (x : CtxId) : State :=
  if s.scheduled x then
    s.modCl x.cl fun l => { l with marvers := l.marvers.map fun e => (e.1, { e.2 with paused := e.2.paused ++ [(s.ctx x).pr.crec] }) }
  else s

/-- LEAVING A CONTEXT: the state is saved, the record written with STATUS, CAUSE and PC, and the context is Idle (R28,
R36, R318, R322). A parked continuation goes to the watch list, a ready one to the ready list. -/
def State.leave (s : State) (x : CtxId) (status cause : Nat) : State :=
  let c := s.ctx x
  let o := s.core x.coreId
  let crec := c.pr.crec
  let c' : Ctx := { c with queues := s.leftQueues x c, pr := { c.pr with st := .idle, stopped := false, stopreq := false, pre := none, qcount := 0 } }
  let mx := o.mx.folded c.ct.issued
  let img : Saved := { ctx := c', fresh := false, base := c.pr.fbase, size := c.pr.flen, mx := if c.pr.mb then some mx else none
                       issued := c.ct.issued }
  let save := s.saveOf crec
  let raw := s.lraw c.ct.launch
  let s := ((s.pauseMarvers x).exportCtx save c').exportFrame x.coreId save c.pr.fbase c.pr.flen
  let s := if c.pr.mb then s.exportMx (saveEnd save raw) c.ct.issued (lTiles raw) mx else s
  let s := (s.setSaved x.cl crec (some img)).leaveMx x
  let s := s.modCore x.coreId fun o => { o with run := if o.run = some x.cx then none else o.run }
  let s := s.setCtx x (emptied c)
  let s := ((s.recWr crec recPC 8 c.pc).recWr crec recCAUSE 2 cause).recWr crec recSTATUS 1 status
  let s := match c.wait with | some w => s.recWait crec w c.ct.wto | none => s.recWr crec 33 1 (b2n c.ct.wto)
  if status = stReady then (s.recWr crec recREADYTICK 4 (s.tick % 2 ^ 32)).addReady x.cl crec
  else if status = stParked then s.addWatch x.cl crec
  else s

/-- No acquisition of a ring waits while a slot is free: it is served before the ring's owner leaves (R71). -/
def ringsSettled (m : Mx) : Bool := m.rings.all fun r => r.2.waiting.isEmpty || decide (r.2.scount ≤ r.2.occ)

/-- A core's engine commands have completed and every arrival they made has been applied (R257, R266). -/
def State.engineQuiet (s : State) (c : CoreId) : Bool :=
  (s.core c).mx.cmds.isEmpty && s.arrivals.all fun a => match a.owner with | some o => o.1 != c | none => true

def CKind.isMma : CKind → Bool
  | .mma _ _ _ _ _ _ _ _ _ _ => true
  | _ => false

/-- The engine commands that a continuation leaves with are done: every one but MMAs whose pass in progress has finished. Such an
MMA is split: what is left of it is saved and is not outstanding (R249). -/
def State.enginesHalt (s : State) (x : CtxId) : Bool :=
  let m := (s.core x.coreId).mx
  !(s.ctx x).pr.mb || (m.cmds.all (fun k => k.kind.isMma && !k.running) && ringsSettled m
    && s.arrivals.all fun a => match a.owner with | some o => o.1 != x.coreId | none => true)

/-- The Marvers of a scheduled team stand at an entry boundary (R270). -/
def State.marversHalt (s : State) (x : CtxId) : Bool :=
  !s.scheduled x || (s.cl x.cl).marvers.all fun e => e.2.live.isEmpty

/-- No kernel iteration is under way (R42). -/
def Ctx.between (c : Ctx) : Bool :=
  match c.loop with
  | none => true
  | some l => !(l.phase == .ker && (l.due || decide (0 < l.pos)))

/-- Whether R28 allows a continuation to leave: no gather or matrix command of its own outstanding, no open region, no
kernel iteration under way. -/
def State.mayLeave (s : State) (x : CtxId) : Bool :=
  let c := s.ctx x
  s.enginesHalt x && s.marversHalt x && c.region.isNone && c.heldCmd.isEmpty && c.between

/-! ## The team barrier (R23, R158) -/

/-- The phase completes when the arrivals equal the live count. -/
def State.barrierCheck (s : State) (cl t : Nat) : State :=
  match s.team cl t with
  | none => s
  | some tm =>
    if tm.live ≠ 0 ∧ tm.arrivals = tm.live then
      let s := s.setTeam cl t { tm with phase := (tm.phase + 1) % 65536, arrivals := 0 }
      s.modCl cl fun c => c.mapCtxs cl fun _ y =>
        if y.ct.team = t then { (y.notePhase t) with ct := { y.ct with tarr := false } } else y
    else s

/-- TBAR's arrival: a second one in the same phase changes nothing (R158). -/
def State.barrierArrive (s : State) (h : Home) : State :=
  match s.home h with
  | none => s
  | some c =>
    if c.ct.tarr then s
    else
      let s := s.modHome h fun c => { c with ct := { c.ct with tarr := true } }
      (s.modTeam (homeCl h) c.ct.team fun t => { t with arrivals := t.arrivals + 1 }).barrierCheck (homeCl h) c.ct.team

/-! ## Retiring (R31, R277, R308) -/

/-- A tagged continuation retires: the message is consumed when its last one has (R277). -/
def State.msgRetire (s : State) (tag : Option Nat) : State :=
  match tag with
  | none => s
  | some m => match tget none s.msgs m with
    | none => s
    | some g =>
      if g.live ≤ 1 then ({ s with msgs := terase s.msgs m }).addCons g.job 1
      else { s with msgs := tput s.msgs m (some { g with live := g.live - 1 }) }

/-- A tagged continuation's child carries the tag (R277). -/
def State.msgSpawn (s : State) (tag : Option Nat) : State :=
  match tag with
  | none => s
  | some m => match tget none s.msgs m with
    | none => s
    | some g => { s with msgs := tput s.msgs m (some { g with live := g.live + 1 }) }

/-- A launch has been cancelled. -/
def State.cancelled (s : State) (l : Nat) : Bool := (s.launch l).any fun v => v.cancelled

/-- A team with no live continuation and no pending spawn retires: its barrier, allocation and job-slot use end (R31, R308). The entries of
its schedule that stage counters have let go run on, unless the launch has been cancelled (R268). -/
def State.teamRetire (s : State) (cl t : Nat) : State :=
  match s.team cl t with
  | none => s
  | some tm =>
    if tm.live = 0 ∧ tm.pending.isEmpty then
      let s := s.modCl cl fun c => { c with
        teams := terase c.teams t
        jobs := tmod { } c.jobs tm.jslot fun j => { j with teams := j.teams - 1, valid := j.valid && decide (1 < j.teams) } }
      let s := if tm.sched && s.cancelled tm.launch then s.modCl cl Cluster.stopMarvers else s
      s.modLaunch tm.launch fun l => { l with
        liveTeams := l.liveTeams - 1
        retiredTeams := l.retiredTeams + 1
        retiredOrds := if keyInside l.raw tm.key then (l.retiredOrds ++ [keyOrdinal l.raw tm.key]).eraseDups else l.retiredOrds }
    else s

/-- The record of a retired continuation is free again: STATUS 0x05, then 0x00 (R31). -/
def State.freeRecord (s : State) (cl t crec : Nat) : State :=
  match s.team cl t with
  | none => s.recWr crec recSTATUS 1 stFree
  | some tm =>
    let raw := s.lraw tm.launch
    let i := (crec - tm.vbase - lVaultb raw) / 64
    ((s.recWr crec recSTATUS 1 stDone).recWr crec recSTATUS 1 stFree).setTeam cl t { tm with free := tm.free ++ [i] }

/-- A freed record serves the oldest continuation that waits for one (R272). -/
def State.servePending (s : State) (cl t : Nat) : State :=
  match s.team cl t with
  | none => s
  | some tm => match tm.pending, tm.free with
    | q :: rest, _ :: _ =>
      (((s.setTeam cl t { tm with pending := rest, live := tm.live + 1 }).newRecord cl t q).spawnStatus q.origin 0)
    | _, _ => s

/-- Steps 2 to 4 of R31 for the continuation `c` of team `t`: its record, the live count with the barrier adjustment of
R23, its message, and the team. -/
def State.retireCont (s : State) (cl : Nat) (c : Ctx) : State :=
  let t := c.ct.team
  let s := s.freeRecord cl t c.pr.crec
  let s := s.modTeam cl t fun tm => { tm with live := tm.live - 1, arrivals := if c.ct.tarr then tm.arrivals - 1 else tm.arrivals }
  let s := s.barrierCheck cl t
  let s := s.msgRetire c.ct.tag
  (s.servePending cl t).teamRetire cl t

/-- Whether everything the continuation issued has completed (R31 step 1, R277): engine commands, queue requests, register
fills and fabric operations that have still to leave. -/
def State.quietCtx (s : State) (x : CtxId) : Bool :=
  let c := s.ctx x
  c.fl.pend.isEmpty && c.fl.fills.isEmpty && c.fl.xwaits.isEmpty && c.heldSt.isEmpty && c.heldCmd.isEmpty
    && decide (c.fl.spawns = 0) && !c.ct.svcOpen
    && c.queues.all (fun q => q.2.all fun e => e.stage == .landed)
    && (!c.pr.mb || s.engineQuiet x.coreId)

/-- DONE completes: the continuation retires and its context is Idle; a pending target is discarded (R31, R149). -/
def State.completeDone (s : State) (x : CtxId) : State :=
  let c := s.ctx x
  let s := (s.leaveMx x).modCore x.coreId fun o => { o with run := if o.run = some x.cx then none else o.run }
  let s := s.setCtx x (emptied c)
  s.retireCont x.cl c

/-! ## Quantum (R34, R35) -/

/-- Whether another resident context of the core is Ready and not stopped. -/
def State.otherReady (s : State) (x : CtxId) : Bool :=
  (List.range 4).any fun k =>
    k != x.cx && (((s.core x.coreId).ctx k).pr.st == .ready) && !((s.core x.coreId).ctx k).pr.stopped

/-- Whether some context of the cluster is Idle. -/
def State.anyIdle (s : State) (cl : Nat) : Bool :=
  (List.range 8).any fun k => !((s.cl cl).core k).retired && (List.range 4).any fun j =>
    (((s.cl cl).core k).ctx j).pr.st == .idle

/-- A launch's priority everywhere: min(PRIO, CEIL) (R314). -/
def State.launchPrio (s : State) (l : Nat) : Nat :=
  match s.launch l with
  | none => 0
  | some v => Nat.min (lPrio v.raw) (tget { } s.wqs v.queue).ceil

/-- An item not yet created counts as a ready record of its launch's priority, which has aged since its team was bound (R36, R51, R52; log
entry 84). -/
def State.itemKey (s : State) (t : Team) : Nat × Nat := (aged (s.launchPrio t.launch) (s.tick - t.bound), s.tick - t.bound)

/-- The cluster's teams with an item not yet created. -/
def State.itemsLeft (s : State) (cl : Nat) : List (Nat × Team) :=
  (s.cl cl).teams.filterMap fun e => match e.2 with
    | none => none
    | some t => if t.nextItem < t.items then some (e.1, t) else none

/-- Whether the cluster dispatcher holds a ready record, or an item not yet created, of at least a priority (R35, R36). -/
def State.workWaits (s : State) (cl prio : Nat) : Bool :=
  (s.readyOf cl).any (fun r => decide (prio ≤ s.effPrio r)) || (s.itemsLeft cl).any fun t => decide (prio ≤ (s.itemKey t.2).1)

/-- QUANTUM EXPIRY and YIELD (R35): another Ready context takes the core; else the continuation suspends for a ready record
that deserves it; else it runs on with a fresh quantum. -/
def State.quantum (s : State) (x : CtxId) (cause : Nat) : State :=
  let c := s.ctx x
  if s.otherReady x then
    (s.modPr x fun p => { p with st := .ready, qcount := 0 }).modCore x.coreId fun o => { o with run := none }
  else if s.workWaits x.cl c.ct.prio && !s.anyIdle x.cl && s.mayLeave x && !s.scheduled x then s.leave x stReady cause
  else s.modPr x fun p => { p with qcount := 0 }

end Sys2Proof.Machine
end

