-- ==== Sys2Proof/Machine/Bundle.lean ====
section
/-! DEFINITION. A bundle as a whole: opening it, running one slot, what its slot 0 leaves for the end, choosing the stop
that counts, and passing to the next bundle (R8, R9, R39, R40, R118, R139, R140, R149, R217, R230). A slot's meaning run
by itself is the meaning of a bundle that holds it alone. -/

namespace Sys2Proof.Machine

/-! ## Fetch (R111, R295) -/

/-- The code-store page that holds a bundle address for a job slot: the lowest-numbered valid entry (R295). -/
def Cluster.codePage (c : Cluster) (jslot addr : Nat) : Option Nat :=
  (c.cdir.find? fun e => e.2 / 2 ^ 63 == 1 && e.2 / 2 ^ 48 % 16 == jslot && e.2 % 2 ^ 45 == addr / 2 ^ 12 % 2 ^ 45).map
    fun e => e.1

/-- A write of the code store: one that covers a whole protected word clears its mark (R365). -/
def Cluster.wrCode (c : Cluster) (a n v : Nat) : Cluster :=
  { c with code := wrMem c.code a n v, codeBad := c.codeBad.filter fun w => !decide (a ≤ w * 8 ∧ w * 8 + 8 ≤ a + n) }

/-- Whether a read of the code store meets a marked word. -/
def Cluster.codeErr (c : Cluster) (a n : Nat) : Bool := c.codeBad.any fun w => decide (w * 8 < a + n ∧ a < w * 8 + 8)

/-- The 128 bits of the bundle at an address, none where no resident page holds it. -/
def State.fetch (s : State) (cl jslot addr : Nat) : Option Nat :=
  ((s.cl cl).codePage jslot addr).map fun p => rdMem (s.cl cl).code (p * 4096 + addr % 4096 / 16 * 16) 16

/-- Whether the fetch of a bundle meets an uncorrectable word of the code store (R364; log entry 100). -/
def State.fetchBad (s : State) (cl jslot addr : Nat) : Bool :=
  match (s.cl cl).codePage jslot addr with
  | some p => (s.cl cl).codeErr (p * 4096 + addr % 4096 / 16 * 16) 16
  | none => false

def bundleWords (n : Nat) : List (BitVec 32) :=
  [BitVec.ofNat 32 n, BitVec.ofNat 32 (n / 2 ^ 32), BitVec.ofNat 32 (n / 2 ^ 64), BitVec.ofNat 32 (n / 2 ^ 96)]

/-! ## Opening a bundle and running a slot -/

/-- The bundle at a context's PC: from the loop buffer once a kernel iteration has fetched it, otherwise from the code store
(R41, R295). A PC that the Gaffer has written names its bundle itself (R289; log entry 85). -/
def State.bundleAt (s : State) (x : CtxId) : Option Nat :=
  let c := s.ctx x
  match c.loop with
  | some l => if l.phase = .ker ∧ l.pos < l.buf.length ∧ l.addr % 2 ^ 64 = c.pc then l.buf[l.pos]? else s.fetch x.cl c.pr.jslot c.pc
  | none => s.fetch x.cl c.pr.jslot c.pc

/-- A context's bundle in flight, as it is opened: nothing has happened in it. -/
def openedBun (x : CtxId) (c : Ctx) (words : Nat) (br : Bool) : Bun :=
  let ws := bundleWords words
  { x := x, baddr := c.pc, pre := c, hdr := if hdrOf (ws.getD 0 0) = .none then 0 else ws.getD 0 0, words := ws, br := br
    outs := [], late := none, taken := false, posts := [] }

/-- Opens a bundle of a context: the sources of every slot are read from the context as it stands now (R8, R139). -/
def State.openBundle (s : State) (x : CtxId) (words : Nat) (br : Bool) : State :=
  { s with bun := some (openedBun x (s.ctx x) words br) }

/-- The bundle that a slot meaning run by itself belongs to: the one at the current context's PC. -/
def State.openAlone (s : State) (br : Bool) : State := s.openBundle s.cur ((s.bundleAt s.cur).getD 0) br

/-- Whether a loop flag lets a slot issue in this kernel iteration (R40). -/
def loopRuns (l : Option LoopSt) : LoopFlag → Bool
  | .always => true
  | .first n => match l with
    | none => true
    | some st => st.counters.getD n.toNat 0 == 0
  | .last n => match l with
    | none => true
    | some st => st.counters.getD n.toNat 0 + 1 == st.trips.getD n.toNat 0

/-- The condition a C-slot instruction carries: its predicate alone (R146). -/
def cCond (p : BitVec 3) : Cond := ⟨p, false, false, .always⟩

/-- A slot issues when its predicate, negated by its lent bit, is true and its loop flag holds (R40, R118, R127). -/
def condRuns (c : Cond) (pre : Ctx) : Bool := xor (pre.regs.pv c.p.toNat) c.neg && loopRuns pre.loop c.loop

/-- The stop of a slot: an empty register among its sources comes before a mark of another one, which the slot's entry would have read
first (R140). -/
def slotStop (body : Env → State → Rd State) (e : Env) (s : State) (st : Stop) : Stop :=
  match st, body { e with lax := true } s with
  | .trap _ _, .error (.trap 0x03 d) => .trap 0x03 d
  | .trap _ _, .error (.block (.reg r)) => .block (.reg r)
  | _, _ => st

/-- Runs one slot in the open bundle. A stop is noted and the slot writes nothing. -/
def State.slot (s : State) (k : Slot) (c : Cond) (body : Env → State → Rd State) : State :=
  match s.bun with
  | none => s
  | some b =>
    if condRuns c b.pre then
      let e : Env := { x := b.x, pre := b.pre, baddr := b.baddr, te := c.te }
      match body e s with
      | .ok s' => s'
      | .error st => { s with bun := some { b with outs := b.outs ++ [(k.num, slotStop body e s st)] } }
    else s

/-- Leaves something for the end of the bundle. -/
def State.post (s : State) (p : Post) : State :=
  { s with bun := s.bun.map fun b => { b with posts := b.posts ++ [p] } }

/-- A branch is taken: target pending, delay count 2 (R149). -/
def State.branch (s : State) (x : CtxId) (t : Nat) : State :=
  { s.modCtx x fun c => { c with target := some t, delay := 2 } with bun := s.bun.map fun b => { b with taken := true } }

/-- TRAP and BRK count only when nothing else in the bundle does (R140, R161). -/
def State.lateTrap (s : State) (cause n : Nat) : State :=
  { s with bun := s.bun.map fun b => { b with late := some (cause, n) } }

/-! ## Passing to the next bundle (R39, R149) -/

/-- The registers that slot `k` of a bundle writes: its destinations, where it issues. -/
def Bun.writesOf (b : Bun) (k : Slot) : List RegRef :=
  let w0 := b.words.getD 0 0
  let h := hdrOf w0
  let w := b.words.getD k.num 0
  let byte := if h = .none then 0 else fld w0 (8 * (k.num - 1)) 8
  let c := match k with | .c => cCond (fld w 23 3) | _ => dCond h byte w
  if (k = .c ∧ h ≠ .none) ∨ condRuns c b.pre = false then [] else dests (decodeSlot k h byte w)

/-- The register that a bundle's vector-unit result is for: that of its V-slot arithmetic, where the slot issues (R370). -/
def Bun.vectorDest (b : Bun) : Option RegRef :=
  let w := b.words.getD 2 0
  if 1 ≤ fldN w 26 6 ∧ fldN w 26 6 ≤ 0x19 then (b.writesOf .v).head? else none

/-- The register of the last vector-unit result after a bundle: the bundle's own, or the one before it unless a slot writes that register
anew (R370). -/
def Ctx.vresAfter (c : Ctx) (b : Bun) : Option (RegRef × Nat) :=
  match b.vectorDest, c.vres with
  | some r, _ => some (r, c.regs.prodOf r)
  | none, none => none
  | none, some v => if [Slot.c, .s, .v, .m].any fun k => (b.writesOf k).contains v.1 then none else some v

/-- The counts of an issued bundle, then the next bundle's address: through the sequencer, the delay count, or the next
one in order (R35, R39, R149, R163, R224); the last vector result is noted (R370). -/
def Ctx.advance (c : Ctx) (b : Bun) : Ctx :=
  let c : Ctx := { c with
    ct := { c.ct with issued := (c.ct.issued + 1) % 2 ^ 64 }
    pr := { c.pr with qcount := c.pr.qcount + 1, nb := false }
    vres := c.vresAfter b
    qres := none
    region := c.region.map fun g => ({ g with rlen := g.rlen + b2n b.pre.region.isSome } : Region) }
  match b.pre.loop with
  | some _ => match c.loop with
    | none => c
    | some l => c.setLoop l.ret l.next
  | none =>
    if b.taken then { c with pc := (c.pc + 16) % 2 ^ 64, dslot := 2 }
    else
      let c := c.passBundle
      if b.br then { c with dslot := 2 } else c

/-- The effective K of a cluster (R301). -/
def Cluster.ek (c : Cluster) : Nat := Nat.min c.gk c.lk

/-- The sub-bundles of a bundle's slots 1 to 3 beyond the first, under an effective K (R139, R381). -/
def Bun.splits (b : Bun) (k : Nat) : Nat := (((b.words.drop 1).filter fun w => w != 0).length + k - 1) / k - 1

/-- A bundle has issued: its context passes to the next one, and its core knows whose bundle it issued last (R34). -/
def State.issued (s : State) (b : Bun) : State :=
  (((s.modCtx b.x fun c => c.advance b).modCore b.x.coreId fun o => { o with issuer := some b.x.cx }).tally b.x 0x001 1).tally b.x 0x006
    (b.splits (s.cl b.x.cl).ek)

/-! ## COMMIT (R217, R230) -/

/-- An entry of a committed region, which is an ordinary one now: a store is issued, to be translated again as it is sent (R222, R230); a load
that has been sent takes the held stores that stand before it along (R65, R83). -/
def QEnt.commit (tick : Nat) (c : Ctx) (e : QEnt) : QEnt :=
  let e := { e with rpush := false, rpop := false }
  if e.stage == .held then { e with stage := .waiting, pa := none, at_ := tick }
  else match e.pa with
    | some pa => if e.kind.isLoad then { e with ovr := e.over c pa } else e
    | none => e

/-- The queue of a committed region: what it popped with a landed datum is gone. -/
def committed (tick : Nat) (c : Ctx) (q : List QEnt) : List QEnt :=
  (q.filter fun e => !(e.rpop && e.stage == .landed)).map (QEnt.commit tick c)

/-- One held store enters the context's memory paths, in program order (R230). -/
def State.drainHeld (s : State) (x : CtxId) (h : HeldSt) : State :=
  let addPend (s : State) (k : PKind) (addr baddr : Nat) : State :=
    s.modFl x fun f => { f with
      serial := f.serial + 1
      pend := f.pend ++ [({ serial := f.serial + 1, kind := k, addr := addr, ord := .plain, sc := .pk, dst := none, baddr := baddr, at_ := s.tick } : Pend)] }
  match h with
  | .mem .lmem a n v _ => s.wrLmem x.coreId a n v
  | .mem _ a n v b => addPend s (.store n v) a b
  | .vec .lmem ls v _ => s.wrLmemLanes x.coreId ls v
  | .vec _ ls v b => addPend s (.storeV ls v) ((ls.head?.map fun l => l.2).getD 0) b
  | .queue _ _ => s

/-- COMMIT: the region closes, its stores drain in program order, its commands wait to issue (R217, R230). -/
def State.commitRegion (s : State) (x : CtxId) (baddr detail : Nat) : State :=
  let c := s.ctx x
  let s := (c.heldSt.foldl (fun s h => s.drainHeld x h) s).tally x 0x009 1
  s.modCtx x fun c => { c with
    region := none
    heldSt := []
    commitSt := none
    queues := c.queues.map fun e => (e.1, committed s.tick c e.2)
    heldCmd := c.heldCmd.map fun h => { h with region := false, count := c.ct.issued, cbaddr := baddr, cdetail := detail, cdelay := c.delayed } }

/-! ## SPAWN (R30, R157) -/

/-- The live team of a cluster and index that holds a launch's key. -/
def State.findTeam (s : State) (l key : Nat) : Option (Nat × Nat) :=
  s.clusters.findSome? fun e => e.2.teams.findSome? fun t => match t.2 with
    | some tm => if tm.launch = l ∧ tm.key = key then some (e.1, t.1) else none
    | none => none

/-- A spawn joins its team: live, full, or at the module dispatcher until the team is created (R30). Any free record serves it,
also one that an item not yet created will then have to wait for (log entry 86). -/
def State.spawnInto (s : State) (l : Nat) (q : SpawnReq) : State :=
  match s.findTeam l (teamKey (s.lraw l) q.wid) with
  | none => (s.modLaunch l fun v => { v with pendingNew := v.pendingNew ++ [q] }).msgSpawn q.tag
  | some (cl, t) => match s.team cl t with
    | none => s
    | some tm =>
      if tm.free.isEmpty then s.spawnStatus q.origin 1
      else
        let s := (s.setTeam cl t { tm with live := tm.live + 1 }).msgSpawn q.tag
        (s.newRecord cl t q).spawnStatus q.origin 0

/-! ## The end of a bundle -/

/-- What a write of a control register does (R163, R70), at the end of its bundle: a peak register that a VAMAX of the same bundle updates
holds the value written, an order that the spec does not give (R192; log entry 124). A ring's acquisition by another slot of the bundle
still waits. -/
def State.writeCreg (s : State) (x : CtxId) (creg : Nat) (v : Word) : State :=
  if creg = 0x006 then s.modCt x fun c => { c with padv := v.toNat % 2 ^ 32 }
  else if creg = 0x007 then s.modCt x fun c => { c with padb := v.toNat % 2 ^ 32 }
  else if 0x010 ≤ creg ∧ creg ≤ 0x017 then
    s.modMx x.coreId fun m => { m with pk := tset 0 m.pk (creg - 0x010) (v.toNat % 2 ^ 31) }
  else if 0x020 ≤ creg ∧ creg ≤ 0x02F ∧ creg % 2 = 0 then
    s.modMx x.coreId fun m =>
      let old := tget { } m.rings ((creg - 0x020) / 2)
      let r : Ring := { base := v.toNat % 2 ^ 20, ssize := v.toNat / 2 ^ 20 % 2 ^ 12, scount := v.toNat / 2 ^ 38 % 2 ^ 7,
                        waiting := old.waiting, resv := old.resv }
      { m with rings := tset { } m.rings ((creg - 0x020) / 2) r }
  else s

/-- DETAIL of a record as its cause gives it (R298). -/
def trapDetail (b : Bun) (slot cause detail : Nat) : Nat :=
  if cause = 0x01 then b.hdr.toNat * 2 ^ 32 + (b.words.getD slot 0).toNat
  else if cause = 0x02 then (b.words.getD slot 0).toNat
  else detail

/-- Effects that precede the passage to the next bundle. -/
def State.early (s : State) (b : Bun) (p : Post) : State :=
  match p with
  | .creg k v => s.writeCreg b.x k v
  | .pont fb => s.modCtx b.x fun c =>
      let g : Region := { fallback := fb, pont := b.baddr, rlen := 0, ck := c.regs, aliases := [], qserial := c.fl.serial }
      { c with region := some g }
  | .commit => s.commitRegion b.x b.baddr (trapDetail b 0 0x01 0)
  | .lexit => s.modCtx b.x fun c => { c with loop := c.loop.map fun l => { l with lexit := true } }
  | .svc n args =>
    let n0 := (s.ctx b.x).fl.serial
    let r := recordOf b.x (s.ctx b.x) 1 0x0A 0 b.baddr n false false b.pre.delayed
    (s.modCtx b.x fun c => { c with
      regs := (c.regs.mkEmpty (.s 1) (n0 + 1)).mkEmpty (.s 2) (n0 + 2)
      fl := { c.fl with serial := n0 + 2 }
      ct := { c.ct with
        svcOpen := true, svcProd1 := n0 + 1, svcProd2 := n0 + 2
        svcArgs := (List.range 8).foldl (fun t i => tset 0 t i ((args.getD i 0).toNat)) c.ct.svcArgs } }).addRecord b.x.cl { r with after := b.pre.fl.serial + 1 }
  | .spawn wid prio entry args dst =>
    let c := s.ctx b.x
    let r := match dst with
      | some d => some (SpawnBy.mk b.x.cl c.pr.crec, d.1, d.2)
      | none => none
    let s := s.modFl b.x fun f => { f with spawns := f.spawns + b2n dst.isSome }
    s.spawnInto c.ct.launch { wid := wid, prio := prio, entry := entry, args := args.map fun a => a.toNat, tag := c.ct.tag, origin := r }
  | _ => s

/-- A context that is blocked holds the issue slot, Stalled: at a bundle that has not issued, or at a DONE that waits (R33, R345). -/
def State.stall (s : State) (x : CtxId) (k : Blk) : State :=
  s.modPr x fun p => { p with st := .stalled, blk := some k, parkTick := s.tick }

/-- A quantum expiry that falls on a boundary at which something else is taken lapses (R323). -/
def State.lapse (s : State) (x : CtxId) : State :=
  let c := s.ctx x
  if c.region.isNone && c.between && decide (4096 ≤ c.pr.qcount) then s.modPr x fun p => { p with qcount := 0 } else s

/-- A context parks in a wait and gives up its core's issue (R33, R44). -/
def State.park (s : State) (x : CtxId) (w : WaitSt) : State :=
  (s.modCtx x fun c => { c with wait := some w, pr := { c.pr with st := .parked, parkTick := s.tick } }).modCore
    x.coreId fun o => { o with run := if o.run = some x.cx then none else o.run }

/-- Effects that follow it: they act on the context whose PC names the next bundle. -/
def State.lateEffect (s : State) (b : Bun) (p : Post) : State :=
  match p with
  | .loopStart l => s.modCtx b.x fun c => c.setLoop l.ret l.start
  | .done => if s.quietCtx b.x then s.completeDone b.x
      else (s.modCtx b.x fun c => { c with doneWait := true }).stall b.x .done
  | .yield => s.quantum b.x 2
  | .park w => s.park b.x w
  | _ => s

/-- Whether a stop is a block. -/
def Stop.isBlock : Stop → Bool
  | .block _ => true
  | _ => false

/-- The stop that a bundle takes: sources are all read before anything issues, so a block of any slot comes before
issue-time causes; where a trap found at decode or on an empty source in a lower slot comes before it, the stop is the first of all in
slot order (R139, R140; log entry 5). -/
def pickStop (outs : List (Nat × Stop)) : Option (Nat × Stop) :=
  match outs.find? fun o => o.2.isBlock with
  | none => outs.head?
  | some blk =>
    if outs.any fun o => decide (o.1 < blk.1)
        && (match o.2 with | .trap 0x01 _ => true | .trap 0x02 _ => true | .trap 0x03 _ => true | _ => false) then outs.head? else some blk

/-- A bundle that stops, from the state before it. Inside a region every trap cause rolls back (R224, R227). -/
def State.stopBundle (s : State) (b : Bun) (slot : Nat) (st : Stop) : State :=
  match st with
  | .block k => s.stall b.x k
  | .roll cause tc => s.rollback b.x b.baddr slot cause tc
  | .trap cause d =>
    if b.pre.region.isSome then s.rollback b.x b.baddr slot 0x09 cause
    else s.takeTrap b.x cause slot b.baddr (trapDetail b slot cause d) false false b.pre.delayed

/-- TRAP or BRK (R161, R227): inside a region the rollback comes first and the record carries RB. -/
def State.lateStop (s : State) (b : Bun) (cause n : Nat) : State :=
  let flag := cause == 0x0A
  if b.pre.region.isSome then
    ((s.rollback b.x b.baddr 0 0x08 cause).lapse b.x).takeTrap b.x cause 0 b.baddr n flag true b.pre.delayed
  else s.takeTrap b.x cause 0 b.baddr n flag false b.pre.delayed

/-- An ATBADD holds every later bundle until it has written p7 and its register (R210). -/
def Flight.holdsAll (f : Flight) : Bool :=
  f.pend.any (fun p => match p.kind with | .atomic .badd _ _ _ => true | _ => false) || f.fills.any fun l => l.p7.isSome

/-- A held queue store of a context whose address is still to be compared with the alias table, with its queue (R222). -/
def Ctx.uncompared (c : Ctx) : Option (Nat × QEnt) :=
  c.queues.findSome? fun q => (q.2.find? fun e => e.stage == .held && !e.compared).map fun e => (q.1, e)

/-- Whether a COMMIT bundle must wait: its own queue store is compared with the table before the region closes (R217, R222). -/
def Bun.waitsToCommit (b : Bun) (c : Ctx) : Option (Nat × QEnt) :=
  if b.posts.contains .commit then
    c.uncompared.filter fun u => !(b.pre.commitSt.any fun o => o.2.compared && o.1 == u.1 && o.2.ea == u.2.ea && o.2.bytes == u.2.bytes)
  else none

/-- A WQUIET that has to wait, whose bundle takes no effect before the wait has ended: its loss trap finds nothing of the bundle done
(R9, R280; log entry 106). -/
def Bun.quietWait (b : Bun) : Option WaitSt :=
  b.posts.findSome? fun p => match p with
    | .park w => if w.quiet.isSome then some w else none
    | _ => none

/-- Ends a bundle: `s0` is the state before it, `s1` the state its slots have made. -/
def closeBundle (s0 s1 : State) : State :=
  match s1.bun with
  | none => s1
  | some b =>
    if b.pre.fl.holdsAll then s0.stall b.x .acq
    else match pickStop b.outs with
    | some (slot, st) => s0.stopBundle b slot st
    | none => match b.late with
      | some (cause, n) => s0.lateStop b cause n
      | none =>
        let s := { s1 with bun := none }
        match b.waitsToCommit (s.ctx b.x) with
        | some u => (s0.modCtx b.x fun c => { c with commitSt := some u }).stall b.x .held
        | none => match b.quietWait with
        | some w => s0.park b.x w
        | none =>
          let s := b.posts.foldl (fun s p => s.early b p) s
          let s := s.issued b
          b.posts.foldl (fun s p => s.lateEffect b p) s

/-- A slot instruction's meaning: its part of the bundle in flight, or a bundle that holds it alone. -/
def runSlot (k : Slot) (c : Cond) (br : Bool) (body : Env → State → Rd State) (s : State) : Host.Outcome State Fault Refusal :=
  match s.bun with
  | some _ => .next (s.slot k c body)
  | none => .next (closeBundle s ((s.openAlone br).slot k c body))

/-- An event: it happens where its conditions hold. -/
def event (name : String) (ok : Bool) (s : State) : Host.Outcome State Fault Refusal :=
  if ok then .next s else .refused (.notEnabled name)

end Sys2Proof.Machine
end

