-- ==== Sys2Proof/Machine/Scalar.lean ====
section
/-! DEFINITION. The S-slot: integer, address, predicate, identifier and scalar floating-point instructions (R147,
R164 to R175). -/

namespace Sys2Proof.Machine

/-- The outcome type of every meaning. -/
abbrev Out := Host.Outcome State Fault Refusal

/-- An S-slot instruction. -/
def sSlot (c : Cond) (body : Env → State → Rd State) (s : State) : Out := runSlot .s c false body s

/-- Two sources, one destination. -/
def sBin (c : Cond) (sd sa sb : BitVec 6) (f : Word → Word → Word) : State → Out :=
  sSlot c fun e s => do
    let x ← rdS e sa
    let y ← rdS e sb
    .ok (s.wrReg e.x (.s sd.toNat) (f x y).toNat)

/-- One source, one destination. -/
def sUn (c : Cond) (sd sa : BitVec 6) (f : Word → Word) : State → Out :=
  sSlot c fun e s => do
    let x ← rdS e sa
    .ok (s.wrReg e.x (.s sd.toNat) (f x).toNat)

/-- A division's result fills its destination later (R135, R165). -/
def sDiv (c : Cond) (sd sa sb : BitVec 6) (f : Word → Word → Word) : State → Out :=
  sSlot c fun e s => do
    let x ← rdS e sa
    let y ← rdS e sb
    .ok (s.modCtx e.x fun k => k.later (.s sd.toNat) (f x y).toNat)

/-! ## Integer arithmetic (R164) -/

def execAdd (c : Cond) (sd sa sb : BitVec 6) (s : State) : Out := sBin c sd sa sb (fun x y => x + y) s
def execSub (c : Cond) (sd sa sb : BitVec 6) (s : State) : Out := sBin c sd sa sb (fun x y => x - y) s
def execAnd (c : Cond) (sd sa sb : BitVec 6) (s : State) : Out := sBin c sd sa sb (fun x y => x &&& y) s
def execOr (c : Cond) (sd sa sb : BitVec 6) (s : State) : Out := sBin c sd sa sb (fun x y => x ||| y) s
def execXor (c : Cond) (sd sa sb : BitVec 6) (s : State) : Out := sBin c sd sa sb (fun x y => x ^^^ y) s
def execAndn (c : Cond) (sd sa sb : BitVec 6) (s : State) : Out := sBin c sd sa sb (fun x y => x &&& ~~~y) s
def execShl (c : Cond) (sd sa sb : BitVec 6) (s : State) : Out := sBin c sd sa sb (fun x y => x <<< (y.toNat % 64)) s
def execShr (c : Cond) (sd sa sb : BitVec 6) (s : State) : Out := sBin c sd sa sb (fun x y => x >>> (y.toNat % 64)) s
def execSar (c : Cond) (sd sa sb : BitVec 6) (s : State) : Out := sBin c sd sa sb (fun x y => x.sshiftRight (y.toNat % 64)) s
def execMul (c : Cond) (sd sa sb : BitVec 6) (s : State) : Out := sBin c sd sa sb (fun x y => x * y) s

/-- floor(sx * sy / 2^64). -/
def mulhVal (x y : Word) : Word := BitVec.ofInt 64 (x.toInt * y.toInt / 2 ^ 64)
def execMulh (c : Cond) (sd sa sb : BitVec 6) (s : State) : Out := sBin c sd sa sb mulhVal s

/-- floor(x * y / 2^64). -/
def mulhuVal (x y : Word) : Word := BitVec.ofNat 64 (x.toNat * y.toNat / 2 ^ 64)
def execMulhu (c : Cond) (sd sa sb : BitVec 6) (s : State) : Out := sBin c sd sa sb mulhuVal s

def execMin (c : Cond) (sd sa sb : BitVec 6) (s : State) : Out :=
  sBin c sd sa sb (fun x y => if x.toInt ≤ y.toInt then x else y) s
def execMax (c : Cond) (sd sa sb : BitVec 6) (s : State) : Out :=
  sBin c sd sa sb (fun x y => if y.toInt ≤ x.toInt then x else y) s
def execMinu (c : Cond) (sd sa sb : BitVec 6) (s : State) : Out :=
  sBin c sd sa sb (fun x y => if x.toNat ≤ y.toNat then x else y) s
def execMaxu (c : Cond) (sd sa sb : BitVec 6) (s : State) : Out :=
  sBin c sd sa sb (fun x y => if y.toNat ≤ x.toNat then x else y) s

/-- Number of leading zero bits; 64 for 0. -/
def clzVal (x : Word) : Word := BitVec.ofNat 64 (if x = 0 then 64 else 63 - Nat.log2 x.toNat)
def execClz (c : Cond) (sd sa : BitVec 6) (s : State) : Out := sUn c sd sa clzVal s

/-- Number of one bits. -/
def popcVal (x : Word) : Word := BitVec.ofNat 64 ((List.range 64).map fun i => x.toNat / 2 ^ i % 2).sum
def execPopc (c : Cond) (sd sa : BitVec 6) (s : State) : Out := sUn c sd sa popcVal s

/-! ## Division (R165) -/

def divVal (x y : Word) : Word :=
  if y = 0 then BitVec.ofInt 64 (-1)
  else if x.toInt = -(2 ^ 63) ∧ y.toInt = -1 then x
  else BitVec.ofInt 64 (Int.tdiv x.toInt y.toInt)
def remVal (x y : Word) : Word :=
  if y = 0 then x
  else if x.toInt = -(2 ^ 63) ∧ y.toInt = -1 then 0
  else BitVec.ofInt 64 (Int.tmod x.toInt y.toInt)
def divuVal (x y : Word) : Word := if y = 0 then BitVec.ofNat 64 (2 ^ 64 - 1) else BitVec.ofNat 64 (x.toNat / y.toNat)
def remuVal (x y : Word) : Word := if y = 0 then x else BitVec.ofNat 64 (x.toNat % y.toNat)

def execDiv (c : Cond) (sd sa sb : BitVec 6) (s : State) : Out := sDiv c sd sa sb divVal s
def execDivu (c : Cond) (sd sa sb : BitVec 6) (s : State) : Out := sDiv c sd sa sb divuVal s
def execRem (c : Cond) (sd sa sb : BitVec 6) (s : State) : Out := sDiv c sd sa sb remVal s
def execRemu (c : Cond) (sd sa sb : BitVec 6) (s : State) : Out := sDiv c sd sa sb remuVal s

/-! ## Comparison and selection (R167, R170) -/

def execCmp (c : Cond) (cond : CmpCond) (pd : BitVec 3) (sa sb : BitVec 6) (s : State) : Out :=
  sSlot c (fun e s => do
    let x ← rdS e sa
    let y ← rdS e sb
    .ok (s.wrReg e.x (.p pd.toNat) (b2n (cmpEval cond x y)))) s

def execSel (c : Cond) (sd sa sb : BitVec 6) (pc : BitVec 3) (s : State) : Out :=
  sSlot c (fun e s => do
    let x ← rdS e sa
    let y ← rdS e sb
    .ok (s.wrReg e.x (.s sd.toNat) (if rdP e pc then x else y).toNat)) s

def execPlog (c : Cond) (pd pa pb : BitVec 3) (tt : BitVec 4) (s : State) : Out :=
  sSlot c (fun e s => .ok (s.wrReg e.x (.p pd.toNat) (b2n (plogEval tt (rdP e pa) (rdP e pb))))) s

/-! ## Immediates (R166, R168) -/

def execAddi (c : Cond) (sd sa : BitVec 6) (imm : BitVec 17) (s : State) : Out := sUn c sd sa (fun x => x + imm.signExtend 64) s
def execAndi (c : Cond) (sd sa : BitVec 6) (imm : BitVec 17) (s : State) : Out := sUn c sd sa (fun x => x &&& imm.signExtend 64) s
def execOri (c : Cond) (sd sa : BitVec 6) (imm : BitVec 17) (s : State) : Out := sUn c sd sa (fun x => x ||| imm.signExtend 64) s
def execXori (c : Cond) (sd sa : BitVec 6) (imm : BitVec 17) (s : State) : Out := sUn c sd sa (fun x => x ^^^ imm.signExtend 64) s
def execShli (c : Cond) (sd sa sh : BitVec 6) (s : State) : Out := sUn c sd sa (fun x => x <<< sh.toNat) s
def execShri (c : Cond) (sd sa sh : BitVec 6) (s : State) : Out := sUn c sd sa (fun x => x >>> sh.toNat) s
def execSari (c : Cond) (sd sa sh : BitVec 6) (s : State) : Out := sUn c sd sa (fun x => x.sshiftRight sh.toNat) s

def execLi (c : Cond) (sd : BitVec 6) (imm : BitVec 22) (s : State) : Out :=
  sSlot c (fun e s => .ok (s.wrReg e.x (.s sd.toNat) (imm.signExtend 64).toNat)) s

/-- LIH shifts by 16, or by 22 under an extend header. -/
def lihVal (ext : Bool) (imm : BitVec 22) (x : Word) : Word :=
  if ext then (x <<< 22) ||| imm.zeroExtend 64 else (x <<< 16) ||| (imm.zeroExtend 64 &&& 0xFFFF)
def execLih (c : Cond) (ext : Bool) (sd : BitVec 6) (imm : BitVec 22) (s : State) : Out := sUn c sd sd (lihVal ext imm) s

def extVal (pos len : Nat) (x : Word) : Word := BitVec.ofNat 64 (x.toNat / 2 ^ pos % 2 ^ len)
def execExt (c : Cond) (sd sa pos lenm1 : BitVec 6) (s : State) : Out := sUn c sd sa (extVal pos.toNat (lenm1.toNat + 1)) s

/-- Bits pos + len - 1 to pos of `d` replaced by the low bits of `x`. -/
def insVal (pos len : Nat) (d x : Word) : Word :=
  let mask := BitVec.ofNat 64 ((2 ^ len - 1) * 2 ^ pos)
  (d &&& ~~~mask) ||| ((x <<< pos) &&& mask)
def execIns (c : Cond) (sd sa pos lenm1 : BitVec 6) (s : State) : Out :=
  sBin c sd sd sa (insVal pos.toNat (lenm1.toNat + 1)) s

/-! ## Address registers (R169) -/

def execLea (c : Cond) (ad aa : BitVec 4) (sb : BitVec 6) (sh : BitVec 3) (s : State) : Out :=
  sSlot c (fun e s => do
    let a ← rdA e aa
    let y ← rdS e sb
    .ok (s.wrReg e.x (.a ad.toNat) (a + (y <<< sh.toNat)).toNat)) s

def execLeai (c : Cond) (ad aa : BitVec 4) (imm : BitVec 21) (s : State) : Out :=
  sSlot c (fun e s => do
    let a ← rdA e aa
    .ok (s.wrReg e.x (.a ad.toNat) (a + imm.signExtend 64).toNat)) s

def execAmovSToA (c : Cond) (ad : BitVec 4) (sS : BitVec 6) (s : State) : Out :=
  sSlot c (fun e s => do
    let x ← rdS e sS
    .ok (s.wrReg e.x (.a ad.toNat) x.toNat)) s

def execAmovAToS (c : Cond) (sd : BitVec 6) (aa : BitVec 4) (s : State) : Out :=
  sSlot c (fun e s => do
    let x ← rdA e aa
    .ok (s.wrReg e.x (.s sd.toNat) x.toNat)) s

/-! ## Work identifiers (R171) -/

/-- The identifier WIDF decodes: rd(sA), or the context's own for s0. -/
def widSource (e : Env) (sa : BitVec 6) : Rd Nat :=
  if sa = 0 then .ok e.pre.ct.wid else (rdS e sa).map fun x => x.toNat

/-- WIDF under the launch's layout. -/
def widf (c : Cond) (sd sa : BitVec 6) (ok : Nat → Bool) (f : Nat → Nat → Nat) : State → Out :=
  sSlot c fun e s => do
    let raw := s.lraw e.pre.ct.launch
    need (ok raw) (.trap 0x01 0)
    let w ← widSource e sa
    .ok (s.wrReg e.x (.s sd.toNat) (f raw w))

def execWidf (c : Cond) (sd sa : BitVec 6) (n : BitVec 3) (s : State) : Out :=
  widf c sd sa (fun raw => decide (n.toNat < lNF raw)) (fun raw w => widField raw w n.toNat) s
def execWidfTeam (c : Cond) (sd sa : BitVec 6) (s : State) : Out := widf c sd sa (fun _ => true) teamOrdinal s
def execWidfRank (c : Cond) (sd sa : BitVec 6) (s : State) : Out := widf c sd sa (fun _ => true) teamRank s

/-! ## Scalar floating point (R172 to R175) -/

/-- A float result of two sources. -/
def sFlt (c : Cond) (f : FFmt) (rm : Rm) (sd sa sb : BitVec 6) (g : FV → FV → FV) : State → Out :=
  sBin c sd sa sb fun x y => BitVec.ofNat 64 (fput f rm (g (fval f x) (fval f y)))

def execFadd (c : Cond) (f : FFmt) (rm : Rm) (sd sa sb : BitVec 6) (s : State) : Out := sFlt c f rm sd sa sb (FV.add rm) s
def execFsub (c : Cond) (f : FFmt) (rm : Rm) (sd sa sb : BitVec 6) (s : State) : Out := sFlt c f rm sd sa sb (fsub rm) s
def execFmul (c : Cond) (f : FFmt) (rm : Rm) (sd sa sb : BitVec 6) (s : State) : Out := sFlt c f rm sd sa sb FV.mul s
def execFmin (c : Cond) (f : FFmt) (sd sa sb : BitVec 6) (s : State) : Out := sFlt c f .rne sd sa sb fminV s
def execFmax (c : Cond) (f : FFmt) (sd sa sb : BitVec 6) (s : State) : Out := sFlt c f .rne sd sa sb fmaxV s

def execFfma (c : Cond) (f : FFmt) (rm : Rm) (sd sa sb : BitVec 6) (s : State) : Out :=
  sSlot c (fun e s => do
    let x ← rdS e sa
    let y ← rdS e sb
    let z ← rdS e sd
    .ok (s.wrReg e.x (.s sd.toNat) (fput f rm (ffmaV rm (fval f x) (fval f y) (fval f z))))) s

def execFcmp (c : Cond) (cond : FCond) (f : FFmt) (pd : BitVec 3) (sa sb : BitVec 6) (s : State) : Out :=
  sSlot c (fun e s => do
    let x ← rdS e sa
    let y ← rdS e sb
    .ok (s.wrReg e.x (.p pd.toNat) (b2n (fcmpEval cond (fval f x) (fval f y))))) s

/-- The exact value of an FCVT source (R175). -/
def cvtSource (t : CvtTy) (x : Word) : FV :=
  match t with
  | .s32 => .fin (Dy.ofInt (sextN x.toNat 32))
  | .z32 => .fin (Dy.ofInt (x.toNat % 2 ^ 32 : Nat))
  | .s64 => .fin (Dy.ofInt x.toInt)
  | .z64 => .fin (Dy.ofInt (x.toNat : Int))
  | .f16 => fp16.val (x.toNat % 2 ^ 16)
  | .bf16 => bf16.val (x.toNat % 2 ^ 16)
  | .f32 => fp32.val (x.toNat % 2 ^ 32)
  | .f64 => fp64.val x.toNat

/-- The 64-bit result of FCVT: an s32 result sign-extended, every other zero-extended (R172, R175). -/
def cvtResult (t : CvtTy) (rm : Rm) (sat : Bool) (v : FV) : Nat :=
  match t with
  | .s32 => zextI (sextN (convInt true 32 rm v).bits 32) 64
  | .z32 => (convInt false 32 rm v).bits
  | .s64 => (convInt true 64 rm v).bits
  | .z64 => (convInt false 64 rm v).bits
  | .f16 => (fp16.conv rm sat v).bits
  | .bf16 => (bf16.conv rm sat v).bits
  | .f32 => (fp32.conv rm sat v).bits
  | .f64 => (fp64.conv rm sat v).bits

def execFcvt (c : Cond) (dst src : CvtTy) (rm : Rm) (sat : Bool) (sd sa : BitVec 6) (s : State) : Out :=
  sUn c sd sa (fun x => BitVec.ofNat 64 (cvtResult dst rm sat (cvtSource src x))) s

end Sys2Proof.Machine
end

