-- ==== Sys2Proof/Machine/Control.lean ====
section
/-! DEFINITION. The C-slot: branches, bucket select, loops, waits, continuations, service calls, control registers and
the region instructions (R146 to R163, R216 to R218). -/

namespace Sys2Proof.Machine

/-- A C-slot instruction. -/
def cSlot (p : BitVec 3) (body : Env → State → Rd State) (s : State) : Out := runSlot .c (cCond p) false body s
/-- One with a check that is made whether or not its predicate is true (R118, R131). -/
def dSlot (p : BitVec 3) (br : Bool) (chk : Env → Bool) (body : Env → State → Rd State) (s : State) : Out :=
  runSlot .c (cCond 0) br (fun e s => do
    need (chk e) (.trap 0x01 0)
    if e.pre.regs.pv p.toNat then body e s else .ok s) s
/-- A branch-class instruction: the two bundles after it are its delay slots (R131). -/
def bSlot (p : BitVec 3) (body : Env → State → Rd State) (s : State) : Out := dSlot p true (fun e => e.pre.dslot == 0) body s

def execNop (s : State) : Out := cSlot 0 (fun _ s => .ok s) s

/-- A word with no meaning: cause 0x02, or 0x01 for a field, whatever its predicate (R119, R140, R145). -/
def execReservedOpcode (slot : Slot) (_word : BitVec 32) (field : Bool) (s : State) : Out :=
  runSlot slot (cCond 0) false (fun _ _ => trap (if field then 0x01 else 0x02) 0) s

/-! ## Branches (R149 to R152) -/

def relTarget (e : Env) (disp : BitVec 23) : Nat := zextI ((e.baddr : Int) + 16 * disp.toInt) 64
def linkValue (e : Env) : Nat := (e.baddr + 48) % 2 ^ 64

def execBr (p : BitVec 3) (disp : BitVec 23) (s : State) : Out :=
  bSlot p (fun e s => .ok (s.branch e.x (relTarget e disp))) s

def execCall (p : BitVec 3) (disp : BitVec 23) (s : State) : Out :=
  bSlot p (fun e s => .ok ((s.wrReg e.x (.s 62) (linkValue e)).branch e.x (relTarget e disp))) s

def execBmz (p : BitVec 3) (disp : BitVec 23) (s : State) : Out :=
  bSlot p (fun e s => .ok (if e.top = 0 then s.branch e.x (relTarget e disp) else s)) s

/-- An indirect target must be a bundle address (R132). -/
def bundleAddr (t : Nat) : Rd Nat := if t % 16 = 0 then .ok t else trap 0x04 t

def regTarget (e : Env) (sb : BitVec 6) (aa : BitVec 4) : Rd Nat := do
  let a ← rdA e aa
  let b ← rdS e sb
  bundleAddr (a + b).toNat

def execBri (p : BitVec 3) (sb : BitVec 6) (aa : BitVec 4) (s : State) : Out :=
  bSlot p (fun e s => do
    let t ← regTarget e sb aa
    .ok (s.branch e.x t)) s

def execCalli (p : BitVec 3) (sb : BitVec 6) (aa : BitVec 4) (s : State) : Out :=
  bSlot p (fun e s => do
    let t ← regTarget e sb aa
    .ok ((s.wrReg e.x (.s 62) (linkValue e)).branch e.x t)) s

def execRet (p : BitVec 3) (s : State) : Out :=
  bSlot p (fun e s => do
    let x ← rdS e 62
    let t ← bundleAddr x.toNat
    .ok (s.branch e.x t)) s

/-! ## Bucket select (R48, R153, R154) -/

/-- An earlier fabric write of the context to a vault range of its own module is still on its way (R65). -/
def State.onItsWay (s : State) (crec serial off n : Nat) : Bool :=
  s.packets.any fun k => k.src == s.modId && pktStores k && pktMine k crec serial
    && (pktFoot k).any fun f => decide (f.1 < off + n ∧ off < f.1 + f.2)

/-- Whether a pending access of the context writes some byte of a vault range (R65). -/
def Pend.writes (p : Pend) (off n : Nat) : Bool :=
  let hit (a k : Nat) : Bool := decide (a < off + n ∧ off < a + k)
  match p.kind with
  | .store k _ => hit p.addr k
  | .storeV ls _ => ls.any fun l => hit l.2 4
  | .atomic _ k _ _ => hit p.addr k
  | .sinit _ => hit p.addr 16
  | .fabric k => pktStores k && (pktFoot k).any fun f => hit f.1 f.2
  | _ => false

/-- Whether the context's own earlier writes of a vault range have all been performed (R65). -/
def ownWritten (s : State) (c : Ctx) (off n : Nat) : Bool :=
  !(c.fl.pend.any fun p => p.writes off n) && !s.onItsWay c.pr.crec (c.fl.serial + 1) off n

/-- Reads vault bytes as plain loads issued by the bundle: the bundle waits for the context's own earlier writes of them and, by
R73, for an acquire not yet performed, though R202's list of held bundles does not name BSEL (log entry 87); uncorrectable data
raises cause 0x0C (R65, R73, R153, R203). -/
def rdTable (s : State) (e : Env) (ea n : Nat) : Rd Nat :=
  match s.vaultCheck e.x ea n with
  | none => trap 0x05 ea
  | some off =>
    if !e.pre.fl.acq.isEmpty then block .acq
    else if !ownWritten s e.pre off n then block .table
    else if s.vaultBad off n then trap 0x0C ea
    else .ok (s.rdVault off n)

/-- The first entry with b >= d, and the largest b, of the `n` entries in the bits of a table. -/
def bselFind (tbl d : Nat) : Nat → Nat → Option Nat
  | 0, _ => none
  | n + 1, i => if d ≤ tbl / 2 ^ (128 * (i + 1)) % 2 ^ 32 then some i else bselFind tbl d n (i + 1)

def execBsel (p : BitVec 3) (sd sa : BitVec 6) (aT : BitVec 4) (s : State) : Out :=
  bSlot p (fun e s => do
    noRegion e
    let d ← rdS e sa
    let t ← rdA e aT
    need (t.toNat % 16 == 0) (.trap 0x04 t.toNat)
    let h ← rdTable s e t.toNat 16
    let n := h % 2 ^ 7
    need (n != 0 && decide (n ≤ 64) && h / 2 ^ 7 % 2 ^ 57 == 0) (.trap 0x01 0)
    let tbl ← rdTable s e t.toNat (16 + 16 * n)
    need ((List.range n).all fun i => tbl / 2 ^ (128 * (i + 1) + 32) % 2 ^ 32 == 0) (.trap 0x01 0)
    match bselFind tbl d.toNat n 0 with
    | some i => do
      let b := tbl / 2 ^ (128 * (i + 1)) % 2 ^ 32
      let tgt ← bundleAddr (tbl / 2 ^ (128 * (i + 1) + 64) % 2 ^ 64)
      let s := s.modCt e.x fun c => { c with padv := d.toNat % 2 ^ 32, padb := b }
      .ok ((s.wrReg e.x (.s sd.toNat) (b - d.toNat)).branch e.x tgt)
    | none => do
      let big := (List.range n).foldl (fun acc i => Nat.max acc (tbl / 2 ^ (128 * (i + 1)) % 2 ^ 32)) 0
      let tgt ← bundleAddr (h / 2 ^ 64)
      .ok ((s.wrReg e.x (.s sd.toNat) (d.toNat - big)).branch e.x tgt)) s

/-! ## Loops (R38 to R42, R155) -/

/-- The loop record's fields, from its 256 bytes as a number (R38). -/
def loopOf (r ret : Nat) : LoopSt :=
  let fld (lo n : Nat) : Nat := r / 2 ^ lo % 2 ^ n
  { pro := fld 0 64, ker := fld 64 64, epi := fld 128 64, klen := fld 192 8, nlev := fld 200 8, plen := fld 208 8, elen := fld 216 8
    trips := (List.range 6).map fun n => fld (256 + 32 * n) 32
    strides := (List.range 24).filterMap fun k =>
      let w := fld (512 + 64 * k) 64
      if w / 2 ^ 52 % 2 = 1 then some { level := k / 4, reg := w / 2 ^ 48 % 16, step := sextN w 48 } else none
    counters := [0, 0, 0, 0, 0, 0], phase := .pro, pos := 0, lexit := false, due := false, buf := [], ret := ret }

/-- The reserved bits of a loop record are zero (R38, R41). -/
def loopReserved (r : Nat) : Bool :=
  r / 2 ^ 448 % 2 ^ 64 == 0 && r / 2 ^ 224 % 2 ^ 32 == 0
    && (List.range 24).all fun k => r / 2 ^ (512 + 64 * k + 53) % 2 ^ 11 == 0

/-- LOOP takes its record's bytes as they stand, also those of a word that cannot be corrected, for which no rule gives a fate here (R155;
log entry 128). -/
def execLoop (p : BitVec 3) (aR : BitVec 4) (s : State) : Out :=
  dSlot p false (fun e => e.pre.dslot == 0) (fun e s => do
    noRegion e
    need e.pre.loop.isNone (.trap 0x01 0)
    let a ← rdA e aR
    lmemAcc e a.toNat 256 64
    let r := viewLmem s e a.toNat 256
    let l := loopOf r ((e.baddr + 16) % 2 ^ 64)
    need (decide (1 ≤ l.nlev ∧ l.nlev ≤ 6 ∧ 1 ≤ l.klen ∧ l.klen ≤ 64) && loopReserved r) (.trap 0x01 0)
    need (l.ker % 16 == 0) (.trap 0x04 l.ker)
    need (l.plen == 0 || l.pro % 16 == 0) (.trap 0x04 l.pro)
    need (l.elen == 0 || l.epi % 16 == 0) (.trap 0x04 l.epi)
    .ok (s.post (.loopStart l))) s

def execLexit (p : BitVec 3) (s : State) : Out :=
  cSlot p (fun e s => do
    need (match e.pre.loop with | some l => l.phase == .ker | none => false) (.trap 0x01 0)
    .ok (s.post .lexit)) s

/-! ## Waits (R43 to R47, R156) -/

/-- Condition `i` of a wait block's 80 bytes. -/
def condOfBlock (blk i : Nat) : CondSt :=
  let c := blk / 2 ^ (128 * (i + 1)) % 2 ^ 128
  { kind := c % 256, op := c / 256 % 256, addr := c / 2 ^ 16 % 2 ^ 48, val := c / 2 ^ 64, adv := false }

/-- The checks of R43 and R66 on one condition. -/
def condCheck (s : State) (e : Env) (k : CondSt) : Rd Unit :=
  match k.kind with
  | 1 => do
    need (k.addr % 16 == 0) (.trap 0x04 k.addr)
    if k.op % 2 = 1 then need (s.vaultCheck e.x k.addr 16).isSome (.trap 0x05 k.addr)
    else need (e.pre.pr.lmemOk k.addr 16) (.trap 0x05 k.addr)
  | 2 => needMb e
  | 3 => need (match k.addr / 64 % 4 with
      | 0 => true
      | 1 => decide (k.addr % 64 < 16)
      | 2 => decide (k.addr % 64 < 32)
      | _ => false) (.trap 0x01 0)
  | 4 => do
    let n := if k.op / 8 % 2 = 1 then 8 else 4
    need (decide (k.op % 8 ≤ 5)) (.trap 0x01 0)
    need (k.addr % n == 0) (.trap 0x04 k.addr)
    need (s.vaultCheck e.x k.addr n).isSome (.trap 0x05 k.addr)
  | 5 => .ok ()
  | _ => trap 0x01 0

/-- The comparisons of a kind 4 condition (R43). -/
def condCompare (op : Nat) (w v : Nat) : Bool :=
  let n := if op / 8 % 2 = 1 then 64 else 32
  let b := v % 2 ^ n
  match op % 8 with
  | 0 => w == b
  | 1 => w != b
  | 2 => decide (w < b)
  | 3 => decide (b ≤ w)
  | 4 => decide (sextN w n < sextN b n)
  | _ => decide (sextN b n ≤ sextN w n)

/-- A generation as a condition reads it: in the vault, in a live core's L-mem, or in a saved frame. -/
def condGen (s : State) (h : Home) (k : CondSt) : Nat :=
  if k.op % 2 = 1 then genOf (s.rdVault ((resolve (homeCl h) k.addr).getD 0) 16)
  else match h with
    | .live x => genOf (s.rdLmem x.coreId k.addr 16)
    | .saved cl crec => match s.saved cl crec with
      | none => 0
      | some i => genOf (s.rdVault (s.saveOf crec + saveFrame + k.addr - i.base) 16)

def condDonebelow (s : State) (h : Home) (ch : Nat) : Nat :=
  match h with
  | .live x => tget 0 (s.core x.coreId).mx.donebelow ch
  | .saved cl crec => match s.saved cl crec with
    | none => 0
    | some i => tget 0 ((i.mx.map fun m => m.donebelow).getD []) ch

/-- One condition's truth (R43). -/
def testCond (s : State) (h : Home) (c : Ctx) (k : CondSt) : Bool :=
  match k.kind with
  | 1 => k.adv || condGen s h k != k.val % 2 ^ 16
  | 2 => decide ((condDonebelow s h (k.addr % 4) + 2 ^ 32 - k.val % 2 ^ 32) % 2 ^ 32 < 2 ^ 31)
  | 3 => match k.addr / 64 % 4 with
    | 0 => c.regs.isFull (.s (k.addr % 64))
    | 1 => c.regs.isFull (.a (k.addr % 64))
    | _ => c.regs.isFull (.v (k.addr % 64))
  | 4 =>
    let n := if k.op / 8 % 2 = 1 then 8 else 4
    let off := (resolve (homeCl h) k.addr).getD 0
    condCompare k.op (s.rdVault off n) k.val
  | 5 => k.adv || (match s.team (homeCl h) c.ct.team with
    | none => false
    | some t => t.phase != k.val % 2 ^ 16)
  | _ => false

/-- WSAT after a test: a bit for each condition, latched (R44). -/
def testAll (s : State) (h : Home) (c : Ctx) (ks : List CondSt) (wsat : Nat) : Nat :=
  (List.range ks.length).foldl (fun acc i =>
    match ks[i]? with
    | none => acc
    | some k => if testCond s h c k then acc ||| 2 ^ i else acc) wsat

/-- Whether the mode is satisfied (R44). -/
def modeMet (all : Bool) (n wsat : Nat) : Bool := if all then wsat == 2 ^ n - 1 else wsat != 0

/-- A test sees the context's own earlier writes of the vault words it tests (R43, R65). -/
def condSettled (s : State) (e : Env) (k : CondSt) : Bool :=
  match k.kind with
  | 1 => k.op % 2 == 0 || ownWritten s e.pre ((resolve e.x.cl k.addr).getD 0) 16
  | 4 => ownWritten s e.pre ((resolve e.x.cl k.addr).getD 0) (if k.op / 8 % 2 = 1 then 8 else 4)
  | _ => true

def waitOf (s : State) (blk : Nat) (sd : Nat) (baddr : Nat) : WaitSt :=
  let n := blk % 4 + 1
  let t := blk / 2 ^ 32 % 2 ^ 32
  { conds := (List.range n).map fun i => condOfBlock blk i, all := blk / 4 % 2 == 1, sc := Scope.ofCode (blk / 8 % 4)
    deadline := if t = 2 ^ 32 - 1 then none else some (s.tick + t), wsat := 0, sd := sd, quiet := none, baddr := baddr }

/-- WAIT: its block is taken as its bytes stand, also those of a word that cannot be corrected (R156; log entry 129). A test of a vault word
is not held behind an acquire of its context that is not yet performed: R202's list of held bundles names no WAIT (R78; log entry 125). -/
def execWait (p : BitVec 3) (sd : BitVec 6) (aB : BitVec 4) (s : State) : Out :=
  cSlot p (fun e s => do
    noRegion e
    let a ← rdA e aB
    lmemAcc e a.toNat 80 16
    let blk := viewLmem s e a.toNat 80
    need (blk / 2 ^ 5 % 2 ^ 27 == 0 && blk / 2 ^ 64 % 2 ^ 64 == 0) (.trap 0x01 0)
    let w := waitOf s blk sd.toNat e.baddr
    w.conds.forM (condCheck s e)
    need (w.conds.all (condSettled s e)) (.block .table)
    let sat := testAll s (.live e.x) e.pre w.conds 0
    if modeMet w.all w.conds.length sat then
      .ok ((s.modCt e.x fun c => { c with wto := false }).wrReg e.x (.s sd.toNat) sat)
    else if w.deadline = some s.tick then
      .ok ((s.modCt e.x fun c => { c with wto := true }).wrReg e.x (.s sd.toNat) (sat + 16))
    else .ok (s.post (.park { w with wsat := sat }))) s

/-- A WQUIET's result: its register, and WTO where it timed out (R45, R279). -/
def State.quietResult (s : State) (x : CtxId) (sd : BitVec 6) (v : Nat) : State :=
  (s.modCt x fun c => { c with wto := decide (16 ≤ v) }).wrReg x (.s sd.toNat) v

/-- The result of the WQUIET at a bundle address, once its wait has ended. -/
def Ctx.quietEnd (c : Ctx) (baddr : Nat) : Option Nat := (c.qres.filter fun q => q.1 == baddr).map fun q => q.2

/-- WQUIET issues once every fabric operation of its context has left it and counts in INJ (R282). -/
def Flight.fabricLeft (f : Flight) : Bool := f.pend.all fun p => match p.kind with | .fabric _ => false | _ => true

/-- WQUIET: a tagged continuation's cause 0x01 comes before an empty source (log entry 127). -/
def execWquiet (p : BitVec 3) (sd sT : BitVec 6) (s : State) : Out :=
  cSlot p (fun e s => do
    noRegion e
    need e.pre.ct.tag.isNone (.trap 0x01 0)
    let x ← rdS e sT
    need e.pre.fl.fabricLeft (.block .table)
    let t := Nat.min x.toNat (2 ^ 32 - 1)
    match e.pre.quietEnd e.baddr with
    | some v => .ok (s.quietResult e.x sd v)
    | none =>
    if t = 0 then .ok (s.quietResult e.x sd 16)
    else
      let q : Quiet := { job := (s.jobSlot e.x).jobid, since := s.waves, last := none, found := false }
      .ok (s.post (.park { conds := [], all := false, sc := .fb, deadline := if t = 2 ^ 32 - 1 then none else some (s.tick + t)
                           wsat := 0, sd := sd.toNat, quiet := some q, baddr := e.baddr }))) s

/-! ## Continuations and teams (R157 to R159) -/

def execYield (p : BitVec 3) (s : State) : Out :=
  cSlot p (fun e s => do
    noRegion e
    .ok (s.post .yield)) s

def execSpawn (p : BitVec 3) (sd sW sP : BitVec 6) (aE : BitVec 4) (s : State) : Out :=
  cSlot p (fun e s => do
    noRegion e
    let w ← rdS e sW
    let pr ← rdS e sP
    let en ← rdA e aE
    let s1 ← rdS e 1
    let s2 ← rdS e 2
    let s3 ← rdS e 3
    let s4 ← rdS e 4
    let _ ← bundleAddr en.toNat
    let wid := w.toNat % 2 ^ widthFrom (s.lraw e.pre.ct.launch) 0
    let prio := Nat.min pr.toNat e.pre.ct.prio
    if sd = 0 then .ok (s.post (.spawn wid prio en.toNat [s1, s2, s3, s4] none))
    else
      let r := (s.ctx e.x).newProd (.s sd.toNat)
      .ok ((s.setCtx e.x r.1).post (.spawn wid prio en.toNat [s1, s2, s3, s4] (some (sd.toNat, r.2))))) s

def execDone (p : BitVec 3) (s : State) : Out :=
  cSlot p (fun e s => do
    noRegion e
    .ok (s.post .done)) s

/-- A direct access joins the context's pending accesses under a fresh serial. -/
def State.addPend (s : State) (x : CtxId) (k : PKind) (addr : Nat) (o : Ord) (sc : Scope) (dst : Option (RegRef × Nat)) (baddr : Nat)
    (ovr : Tab Nat) (ea : Nat) : State :=
  let c := s.ctx x
  let p : Pend := { serial := c.fl.serial + 1, kind := k, addr := addr, ord := o, sc := sc, dst := dst, baddr := baddr, ovr := ovr, ea := ea
                    at_ := s.tick, delay := c.delayed }
  s.modFl x fun f => { f with serial := f.serial + 1, pend := f.pend ++ [p] }

/-- TBAR's arrival counts once every earlier access has been performed (R158). -/
def execTbar (p : BitVec 3) (s : State) : Out :=
  cSlot p (fun e s => do
    noRegion e
    holdAcq e
    .ok (s.addPend e.x .tbar 0 .rel .cl none e.baddr [] 0)) s

/-- Stage counters of the core advance, modulo 2^32 (R159, R268). -/
def execPermit (p : BitVec 3) (mask : BitVec 4) (s : State) : Out :=
  cSlot p (fun e s => do
    noRegion e
    needMb e
    holdAcq e
    .ok (s.modMx e.x.coreId fun m => { m with
      stage := (List.range 4).foldl (fun t i =>
        if mask.toNat / 2 ^ i % 2 = 1 then tset 0 t i ((tget 0 t i + 1) % 2 ^ 32) else t) m.stage })) s

/-! ## Service calls, traps and breakpoints (R160, R161) -/

def execSvc (p : BitVec 3) (n : BitVec 16) (s : State) : Out :=
  cSlot p (fun e s => do
    noRegion e
    let a ← [1, 2, 3, 4, 5, 6, 7, 8].mapM fun k => rdS e (BitVec.ofNat 6 k)
    holdAcq e
    need (!e.pre.ct.svcOpen && (s.cl e.x.cl).svcRoom) (.block .svc)
    .ok (s.post (.svc n.toNat a))) s

def execTrap (p : BitVec 3) (n : BitVec 16) (s : State) : Out :=
  cSlot p (fun _ s => .ok (s.lateTrap 0x0A n.toNat)) s

/-- BRK is suppressed once after REPLAYNB (R161, R289). -/
def execBrk (p : BitVec 3) (n : BitVec 16) (s : State) : Out :=
  cSlot p (fun e s => .ok (if e.pre.pr.nb then s else s.lateTrap 0x09 n.toNat)) s

/-! ## Control registers (R162, R163) -/

/-- The low half of a ring descriptor (R70). -/
def Ring.lo (r : Ring) : Nat :=
  r.base + r.ssize * 2 ^ 20 + r.scount * 2 ^ 38 + r.occ * 2 ^ 45 + r.tail * 2 ^ 52 + r.head * 2 ^ 58

/-- Whether a listed control register is core-owned, and whether it may be written. -/
def cregCore (k : Nat) : Bool := decide (0x010 ≤ k ∧ k ≤ 0x02F)
def cregListed (k : Nat) : Bool := decide (k ≤ 0x009) || decide (0x010 ≤ k ∧ k ≤ 0x01B) || decide (0x020 ≤ k ∧ k ≤ 0x02F)
def cregWritable (k : Nat) : Bool :=
  k == 0x006 || k == 0x007 || decide (0x010 ≤ k ∧ k ≤ 0x017) || (decide (0x020 ≤ k ∧ k ≤ 0x02F) && k % 2 == 0)

/-- What MFC and the Gaffer read (R163, R287). -/
def readCreg (s : State) (x : CtxId) (c : Ctx) (k : Nat) : Nat :=
  let m := (s.core x.coreId).mx
  if k = 0x000 then c.ct.wid
  else if k = 0x001 then s.tick
  else if k = 0x002 then c.ct.issued
  else if k = 0x003 then x.cl / 12 * 2 ^ 10 + x.cl % 12 * 2 ^ 6 + x.core * 2 ^ 3 + x.cx
  else if k = 0x004 then c.ct.launch
  else if k = 0x005 then (match s.team x.cl c.ct.team with | none => 0 | some t => t.phase)
  else if k = 0x006 then c.ct.padv
  else if k = 0x007 then c.ct.padb
  else if k = 0x008 then c.ct.rbcause
  else if k = 0x009 then c.ct.rbcount
  else if k < 0x018 then tget 0 m.pk (k - 0x010)
  else if k < 0x020 then tget 0 m.donebelow (k - 0x018)
  else if k % 2 = 0 then (tget { } m.rings ((k - 0x020) / 2)).lo
  else (tget { } m.rings ((k - 0x020) / 2)).pmap

/-- The fates of a control register's number: whether the words alone allow it, and whether its core is the context's (R118,
R162). -/
def cregKnown (k : Nat) (write : Bool) : Bool := decide (0x800 ≤ k) || (cregListed k && (!write || cregWritable k))
def cregOwned (e : Env) (k : Nat) : Rd Unit := need (decide (0x800 ≤ k) || !cregCore k || e.mb) (.trap 0x01 0)

/-- A command of the context that is held until its region's COMMIT has let it issue stands before a later read or write of core
state in program order (R230); inside the region nothing waits (R221). -/
def heldIssued (s : State) (e : Env) : Bool := e.inRegion || (s.ctx e.x).heldCmd.isEmpty

/-- No drain whose window has closed has still to offer its peaks to a peak register (R106, R136). -/
def peakSettled (m : Mx) (n count : Nat) : Bool :=
  m.cmds.all fun k => match k.kind with
    | .mdrn _ _ _ pk _ _ _ _ _ _ _ => pk != some n || decide (count < k.close)
    | _ => true

def execMfc (p : BitVec 3) (sd : BitVec 6) (creg : BitVec 12) (s : State) : Out :=
  dSlot p false (fun _ => cregKnown creg.toNat false) (fun e s => do
    cregOwned e creg.toNat
    need (decide (creg.toNat < 0x800)) (.trap 0x08 creg.toNat)
    if 0x010 ≤ creg.toNat ∧ creg.toNat ≤ 0x017 then
      need (heldIssued s e) (.block .held)
      need (peakSettled (s.core e.x.coreId).mx (creg.toNat - 0x010) e.pre.ct.issued) (.block .mstat)
    .ok (s.wrReg e.x (.s sd.toNat) (readCreg s e.x e.pre creg.toNat))) s

/-- The values an MTC may carry (R70, R163). -/
def mtcValue (k v : Nat) : Bool :=
  if 0x010 ≤ k ∧ k ≤ 0x017 then v / 2 ^ 32 == 0 && (v == 0x80000000 || decide (v ≤ 0x7F800000))
  else if 0x020 ≤ k then
    let ssize := v / 2 ^ 20 % 2 ^ 12
    let scount := v / 2 ^ 38 % 2 ^ 7
    v % 2 ^ 6 == 0 && ssize != 0 && decide (scount ≤ 64) && decide (v % 2 ^ 20 + scount * ssize * 64 ≤ 2 ^ 20) && v / 2 ^ 32 % 2 ^ 6 == 0
  else true

/-- The ring that a command reads or writes slots of, if any. -/
def CKind.rings : CKind → List Nat
  | .mwld _ _ _ _ d _ => if d.space = 2 then [d.ring] else []
  | .mma _ _ _ _ _ d _ _ _ _ => [d.ring]
  | .mdrn _ _ _ _ _ _ _ _ d _ _ => if d.space = 2 then [d.ring] else []
  | .gcopy _ _ _ d => if d.raw / 2 ^ 195 % 8 = 3 then [d.raw / 2 ^ 198 % 8] else []

/-- No issued command, reservation or acquisition names the ring (R163, R214, R247). -/
def ringFree (m : Mx) (n : Nat) : Bool :=
  let r := tget { } m.rings n
  r.waiting.isEmpty && r.resv.isEmpty && m.cmds.all fun k => !(k.kind.rings.contains n)

/-- MTC: of a context that is not matrix-bound a core-owned register's cause 0x01 comes before an empty source (log entry 127). A write of a
peak register comes after the updates of drains whose window has closed (R106). -/
def execMtc (p : BitVec 3) (creg : BitVec 12) (sS : BitVec 6) (s : State) : Out :=
  dSlot p false (fun _ => cregKnown creg.toNat true) (fun e s => do
    noRegion e
    cregOwned e creg.toNat
    let v ← rdS e sS
    need (decide (creg.toNat < 0x800)) (.trap 0x08 creg.toNat)
    need (mtcValue creg.toNat v.toNat) (.trap 0x01 0)
    need (!cregCore creg.toNat || heldIssued s e) (.block .held)
    if 0x010 ≤ creg.toNat ∧ creg.toNat ≤ 0x017 then
      need (peakSettled (s.core e.x.coreId).mx (creg.toNat - 0x010) e.pre.ct.issued) (.block .mstat)
    need (decide (creg.toNat < 0x020) || ringFree (s.core e.x.coreId).mx ((creg.toNat - 0x020) / 2)) (.block .ring)
    .ok (s.post (.creg creg.toNat v))) s

/-! ## Regions (R216 to R218) -/

def execPont (p : BitVec 3) (disp : BitVec 23) (s : State) : Out :=
  cSlot p (fun e s => do
    noRegion e
    need (e.pre.dslot == 0) (.trap 0x01 0)
    need (e.pre.heldSt.isEmpty && e.pre.heldCmd.isEmpty) (.block .held)
    .ok (s.post (.pont (relTarget e disp)))) s

/-- Every held queue store of the region has been translated and compared (R222). -/
def allCompared (c : Ctx) : Bool := c.queues.all fun q => q.2.all fun e => !(e.stage == .held) || e.compared

def execCommit (p : BitVec 3) (s : State) : Out :=
  cSlot p (fun e s => do
    need e.inRegion (.trap 0x01 0)
    need (allCompared e.pre) (.block .held)
    .ok (s.post .commit)) s

def execAbort (p : BitVec 3) (_s : State) : Out :=
  cSlot p (fun e _ => do
    need e.inRegion (.trap 0x01 0)
    roll 0x01) _s

end Sys2Proof.Machine
end

