-- ==== Sys2Proof/Machine/Vector.lean ====
section
/-! DEFINITION. The V-slot's vector arithmetic, lane moves, transcendentals, peak updates and mask stack (R176 to R192). -/

namespace Sys2Proof.Machine

def vSlot (c : Cond) (body : Env → State → Rd State) (s : State) : Out := runSlot .v c false body s

/-- A masked element-wise instruction of two sources (R177, R181). -/
def vBin (c : Cond) (t : VType) (vd va vb : BitVec 5) (f : Nat → Nat → Nat) : State → Out :=
  vSlot c fun e s => do
    let a ← rdV e va
    let b ← rdV e vb
    let o ← rdOld e vd false
    .ok (s.wrReg e.x (.v vd.toNat) (vmasked t e.top o fun i => f (vget a t.width i) (vget b t.width i)))

/-- A masked element-wise instruction of one source. -/
def vUn (c : Cond) (t : VType) (vd va : BitVec 5) (f : Nat → Nat) : State → Out :=
  vSlot c fun e s => do
    let a ← rdV e va
    let o ← rdOld e vd false
    .ok (s.wrReg e.x (.v vd.toNat) (vmasked t e.top o fun i => f (vget a t.width i)))

/-- A transcendental fills its destination later; inactive elements keep what was read (R191). -/
def vTrans (c : Cond) (t : VType) (rm : Rm) (vd va : BitVec 5) (f : FV → FV) : State → Out :=
  vSlot c fun e s => do
    let a ← rdV e va
    let o ← rdOld e vd false
    .ok (s.modCtx e.x fun k => k.later (.v vd.toNat)
      (vmasked t e.top o fun i => vputF t rm false (f (vfloat t (vget a t.width i)))))

def execVadd (c : Cond) (t : VType) (rm : Rm) (sat : Bool) (vd va vb : BitVec 5) (s : State) : Out :=
  vBin c t vd va vb (velem t rm sat (· + ·) (FV.add rm)) s
def execVsub (c : Cond) (t : VType) (rm : Rm) (sat : Bool) (vd va vb : BitVec 5) (s : State) : Out :=
  vBin c t vd va vb (velem t rm sat (· - ·) (fsub rm)) s
def execVmul (c : Cond) (t : VType) (rm : Rm) (sat : Bool) (vd va vb : BitVec 5) (s : State) : Out :=
  vBin c t vd va vb (velem t rm sat (· * ·) FV.mul) s

/-- a * b + d of one element, rounded once (R181 to R183). -/
def vfmaE (t : VType) (rm : Rm) (sat : Bool) (a b d : Nat) : Nat :=
  if t.isFloat then vputF t rm sat (ffmaV rm (vfloat t a) (vfloat t b) (vfloat t d))
  else vputI t sat (vint t a * vint t b + vint t d)

/-- VFMA always reads its destination (R181). -/
def execVfma (c : Cond) (t : VType) (rm : Rm) (sat : Bool) (vd va vb : BitVec 5) (s : State) : Out :=
  vSlot c (fun e s => do
    let a ← rdV e va
    let b ← rdV e vb
    let o ← rdV e vd
    .ok (s.wrReg e.x (.v vd.toNat) (vmasked t e.top o fun i =>
      vfmaE t rm sat (vget a t.width i) (vget b t.width i) (vget o t.width i)))) s

def execVmin (c : Cond) (t : VType) (vd va vb : BitVec 5) (s : State) : Out := vBin c t vd va vb (vminE t) s
def execVmax (c : Cond) (t : VType) (vd va vb : BitVec 5) (s : State) : Out := vBin c t vd va vb (vmaxE t) s
def execVand (c : Cond) (t : VType) (vd va vb : BitVec 5) (s : State) : Out := vBin c t vd va vb (· &&& ·) s
def execVor (c : Cond) (t : VType) (vd va vb : BitVec 5) (s : State) : Out := vBin c t vd va vb (· ||| ·) s
def execVxor (c : Cond) (t : VType) (vd va vb : BitVec 5) (s : State) : Out := vBin c t vd va vb (· ^^^ ·) s
def execVshl (c : Cond) (t : VType) (vd va vb : BitVec 5) (s : State) : Out := vBin c t vd va vb (vshlE t) s
def execVshr (c : Cond) (t : VType) (vd va vb : BitVec 5) (s : State) : Out := vBin c t vd va vb (vshrE t) s
def execVsar (c : Cond) (t : VType) (vd va vb : BitVec 5) (s : State) : Out := vBin c t vd va vb (vsarE t) s
def execVabs (c : Cond) (t : VType) (sat : Bool) (vd va : BitVec 5) (s : State) : Out := vUn c t vd va (vabsE t sat) s
def execVneg (c : Cond) (t : VType) (sat : Bool) (vd va : BitVec 5) (s : State) : Out := vUn c t vd va (vnegE t sat) s

def execVcmp (c : Cond) (cond : VCond) (t : VType) (vd va vb : BitVec 5) (s : State) : Out :=
  vBin c t vd va vb (vcmpE cond t) s

/-- The old destination selects: any bit set takes a (R185). -/
def execVsel (c : Cond) (t : VType) (vd va vb : BitVec 5) (s : State) : Out :=
  vSlot c (fun e s => do
    let a ← rdV e va
    let b ← rdV e vb
    let o ← rdV e vd
    .ok (s.wrReg e.x (.v vd.toNat) (vmasked t e.top o fun i =>
      if vget o t.width i ≠ 0 then vget a t.width i else vget b t.width i))) s

/-- The value of a VCVT destination (R186): element `de` takes a converted source element where it lies in the part
that is written and its mask bit is set, and keeps its value elsewhere. -/
def vcvtVal (dst src : VType) (rm : Rm) (sat : Bool) (top h : Nat) (a o : BitVec 1024) : Nat :=
  let kd := dst.perLane
  let ks := src.perLane
  let kmin := Nat.min kd ks
  let n := 32 * kmin
  vbuild dst.width (32 * kd) fun de =>
    let lo := if ks < kd then n * h else 0
    if lo ≤ de ∧ de < lo + n then
      let k := de - lo
      if active top (k / kmin) then
        vcvtE dst src rm sat (vget a src.width (if ks < kd then k else n * h + k))
      else vget o dst.width de
    else vget o dst.width de

def execVcvt (c : Cond) (dst src : VType) (rm : Rm) (sat : Bool) (vd va h : BitVec 5) (s : State) : Out :=
  vSlot c (fun e s => do
    let a ← rdV e va
    let o ← rdOld e vd (decide (1 < vcvtParts dst src))
    .ok (s.wrReg e.x (.v vd.toNat) (vcvtVal dst src rm sat e.top h.toNat a o))) s

/-- The lanes' values of a reduction, the identity in inactive lanes (R187). -/
def redLanes (op : RedOp) (t : VType) (top : Nat) (a : BitVec 1024) : List Nat :=
  (List.range 32).map fun i => if active top i then vget a 32 i else redIdentity op t

def execVred (c : Cond) (op : RedOp) (t : VType) (rm : Rm) (sat : Bool) (vd va : BitVec 5) (s : State) : Out :=
  vSlot c (fun e s => do
    let a ← rdV e va
    let r := vredE op t rm sat (redLanes op t e.top a)
    .ok (s.wrReg e.x (.v vd.toNat) (vbuild 32 32 fun _ => r))) s

def execVbcast (c : Cond) (t : VType) (vd : BitVec 5) (sS : BitVec 6) (s : State) : Out :=
  vSlot c (fun e s => do
    let x ← rdS e sS
    let o ← rdOld e vd false
    .ok (s.wrReg e.x (.v vd.toNat) (vmasked t e.top o fun _ => x.toNat % 2 ^ t.width))) s

def execVext (c : Cond) (t : VType) (sd : BitVec 6) (va lane : BitVec 5) (s : State) : Out :=
  vSlot c (fun e s => do
    let a ← rdV e va
    let x := vget a 32 lane.toNat
    .ok (s.wrReg e.x (.s sd.toNat) (if t.isSigned then zextI (sextN x 32) 64 else x))) s

def execVins (c : Cond) (_t : VType) (vd : BitVec 5) (sS : BitVec 6) (lane : BitVec 5) (s : State) : Out :=
  vSlot c (fun e s => do
    let x ← rdS e sS
    let o ← rdV e vd
    .ok (s.wrReg e.x (.v vd.toNat) (vbuild 32 32 fun i => if i = lane.toNat then x.toNat else vget o 32 i))) s

def execVperm (c : Cond) (vd va vb : BitVec 5) (s : State) : Out :=
  vSlot c (fun e s => do
    let a ← rdV e va
    let b ← rdV e vb
    let o ← rdOld e vd false
    .ok (s.wrReg e.x (.v vd.toNat) (vmasked .z32 e.top o fun i => vget a 32 (vget b 32 i % 32)))) s

def execVexp2 (c : Cond) (t : VType) (rm : Rm) (vd va : BitVec 5) (s : State) : Out := vTrans c t rm vd va exp2 s
def execVrcp (c : Cond) (t : VType) (rm : Rm) (vd va : BitVec 5) (s : State) : Out := vTrans c t rm vd va rcp s
def execVrsq (c : Cond) (t : VType) (rm : Rm) (vd va : BitVec 5) (s : State) : Out := vTrans c t rm vd va rsq s

/-- VIOTA's element indices (R190). -/
def execViota (c : Cond) (t : VType) (vd : BitVec 5) (s : State) : Out :=
  vSlot c (fun e s => do
    let o ← rdOld e vd false
    .ok (s.wrReg e.x (.v vd.toNat) (vmasked t e.top o fun i => i))) s

/-- The number of set bits of a mask below bit `i` (R190). -/
def rankBelow (top i : Nat) : Nat := ((List.range i).map fun k => top / 2 ^ k % 2).sum

def execViotaRank (c : Cond) (t : VType) (vd : BitVec 5) (s : State) : Out :=
  vSlot c (fun e s => do
    let o ← rdOld e vd false
    .ok (s.wrReg e.x (.v vd.toNat) (vmasked t e.top o fun i => rankBelow e.top i))) s

/-- VAMAX offers each active f32 lane's magnitude (R106, R192). In a region it is an illegal operation whatever the context (log entry
96); the cause 0x01 of a context that is not matrix-bound comes before an empty source (log entry 127). -/
def execVamax (c : Cond) (pk : BitVec 3) (va : BitVec 5) (s : State) : Out :=
  vSlot c (fun e s => do
    noRegion e
    needMb e
    let a ← rdV e va
    .ok (s.modMx e.x.coreId fun m => { m with
      pk := tset 0 m.pk pk.toNat ((List.range 32).foldl (fun acc i =>
        if active e.top i then pkOffer acc (vfloat .f32 (vget a 32 i)) else acc) (tget 0 m.pk pk.toNat)) })) s

/-! ## The mask stack (R177, R180) -/

/-- Lanes of a register that are not zero, as a mask (R180). -/
def laneMask (a : BitVec 1024) : Nat := vbuild 1 32 fun i => if vget a 32 i ≠ 0 then 1 else 0

/-- The entry below depth `d`; E0 is all ones. -/
def Regs.entry (r : Regs) (d : Nat) : Nat := if d = 0 then 2 ^ 32 - 1 else tget 0 r.mask d

def execKpush (c : Cond) (va : BitVec 5) (s : State) : Out :=
  vSlot c (fun e s => do
    need (e.pre.regs.depth != 15) (.trap 0x01 0)
    let a ← rdV e va
    let d := e.pre.regs.depth
    .ok (s.modCtx e.x fun k => { k with regs := { k.regs with
      mask := tset 0 k.regs.mask (d + 1) (e.pre.regs.entry d &&& laneMask a), depth := d + 1 } })) s

def execKinv (c : Cond) (s : State) : Out :=
  vSlot c (fun e s => do
    need (e.pre.regs.depth != 0) (.trap 0x01 0)
    let d := e.pre.regs.depth
    .ok (s.modCtx e.x fun k => { k with regs := { k.regs with
      mask := tset 0 k.regs.mask d (e.pre.regs.entry (d - 1) &&& ((2 ^ 32 - 1) ^^^ e.pre.regs.entry d)) } })) s

def execKpop (c : Cond) (s : State) : Out :=
  vSlot c (fun e s => do
    need (e.pre.regs.depth != 0) (.trap 0x01 0)
    .ok (s.modCtx e.x fun k => { k with regs := { k.regs with depth := e.pre.regs.depth - 1 } })) s

def execKtop (c : Cond) (sd : BitVec 6) (s : State) : Out :=
  vSlot c (fun e s => .ok (s.wrReg e.x (.s sd.toNat) e.top)) s

end Sys2Proof.Machine
end

