-- ==== Sys2Proof/Machine/VMem.lean ====
section
/-! DEFINITION. The V-slot's L-mem loads and stores (R193 to R199). -/

namespace Sys2Proof.Machine

/-- A V-slot access: held behind an unperformed acquire (R202). -/
def vmSlot (c : Cond) (body : Env → State → Rd State) (s : State) : Out :=
  runSlot .v c false (fun e s => do
    holdAcq e
    body e s) s

/-- Uncorrectable data poisons the register it is loaded into (R203, R365). -/
def poisonMark (bad : Bool) (addr : Nat) : Mark := if bad then ⟨0x0C, addr⟩ else { }

/-- Writes a loaded value with its mark. -/
def State.wrMarked (s : State) (x : CtxId) (k : RegRef) (v : Nat) (m : Mark) : State :=
  s.modCtx x fun c => { c with regs :=
    match k with
    | .s n => c.regs.setS n { val := BitVec.ofNat 64 v, mark := m }
    | .a n => c.regs.setA n { val := BitVec.ofNat 64 v, mark := m }
    | .v n => c.regs.setV n { val := BitVec.ofNat 1024 v, mark := m }
    | .p n => c.regs.setP n (v % 2 == 1) }

/-- The value that lanes load from L-mem: active lanes from their addresses, the others from the old register. -/
def laneLoad (s : State) (e : Env) (o : BitVec 1024) (f : Nat → Nat) : Nat :=
  vbuild 32 32 fun i => if active e.top i then viewLmem s e (f i) 4 else vget o 32 i

def lanesBad (s : State) (e : Env) (f : Nat → Nat) : Option Nat :=
  ((List.range 32).find? fun i => active e.top i && (s.core e.x.coreId).lmemBad (f i) 4).map f

/-- A lane-wise store outside a region: active lanes in ascending order (R195). -/
def activeLanes (e : Env) (f : Nat → Nat) : List (Nat × Nat) :=
  (List.range 32).filterMap fun i => if active e.top i then some (i, f i) else none
def storeLanes (s : State) (e : Env) (v : BitVec 1024) (f : Nat → Nat) : State := s.wrLmemLanes e.x.coreId (activeLanes e f) v

/-- The conflict cost of the lines that an access touches: the most in one bank, less one (R61). -/
def bankCost (ls : List (Nat × Nat)) : Nat :=
  let lines := (ls.map fun l => l.2 / 64).eraseDups
  ((List.range 16).map fun b => (lines.filter fun l => l % 16 == b).length).foldl Nat.max 0 - 1

/-- The cycles that an access's lanes cost are counted (R61, R381). A scalar access touches one line and costs none. -/
def State.conflicts (s : State) (e : Env) (f : Nat → Nat) : State := s.tally e.x 0x005 (bankCost (activeLanes e f))

/-- A lane-wise load (VLD, VLDS, VGTH). -/
def vLoad (c : Cond) (vd : BitVec 5) (addrs : Env → Rd (Nat → Nat)) (chk : Env → State → (Nat → Nat) → Rd State) : State → Out :=
  vmSlot c fun e s => do
    let f ← addrs e
    let o ← rdOld e vd false
    lanesAcc e f
    let s' ← chk e s f
    let bad := lanesBad s e f
    .ok ((s'.conflicts e f).wrMarked e.x (.v vd.toNat) (laneLoad s e o f) (poisonMark bad.isSome (bad.getD 0)))

/-- Whether an active lane's bytes hit the region's table (R222). -/
def lanesHit (s : State) (e : Env) (f : Nat → Nat) : Bool := (activeLanes e f).any fun l => aliasHit s e .lmem l.2 4

/-- A lane-wise store. Inside a region VST takes one entry, VSTS and VSCT one for each active lane (R199, R221). The checks of R193 come
before the room that it needs there: R224 orders the alias comparison alone (log entry 122). -/
def vStore (c : Cond) (vs : BitVec 5) (one : Bool) (addrs : Env → Rd (Nat → Nat)) : State → Out :=
  vmSlot c fun e s => do
    let f ← addrs e
    let v ← aliasFirst (lanesHit s e f) (rdV e vs)
    noAlias (lanesHit s e f)
    lanesAcc e f
    let s := s.conflicts e f
    if e.inRegion then do
      let ls := activeLanes e f
      heldRoom s e (if one then 1 else ls.length)
      if one then .ok (s.hold e (.vec .lmem ls v e.baddr))
      else .ok (ls.foldl (fun s l => s.hold e (.mem .lmem l.2 4 (vget v 32 l.1) e.baddr)) s)
    else .ok (storeLanes s e v f)

/-- Lane addresses of VLD and VST: consecutive 4-byte words (R194). -/
def consecutive (a : BitVec 4) (imm : BitVec 14) (e : Env) : Rd (Nat → Nat) := do
  let b ← rdA e a
  .ok fun i => (eaImm b imm 128 + 4 * i) % 2 ^ 64

def strided (a : BitVec 4) (sS : BitVec 6) (e : Env) : Rd (Nat → Nat) := do
  let b ← rdA e a
  let st ← rdS e sS
  .ok (eaStride b st)

def indexed (a : BitVec 4) (vb : BitVec 5) (e : Env) : Rd (Nat → Nat) := do
  let b ← rdA e a
  let ix ← rdV e vb
  .ok fun i => eaIndex b (vget ix 32 i)

def noCheck (_e : Env) (s : State) (_f : Nat → Nat) : Rd State := .ok s

/-- The 128 bytes that VLD records: from its first lane whose address lies in L-mem, where the address of lane 0 has wrapped (R194,
R222). -/
def vldAlias (f : Nat → Nat) : Alias :=
  let i := ((List.range 32).find? fun i => decide (f i < 2 ^ 20)).getD 0
  ⟨.lmem, f i - 4 * i, 128 - (4 * i - f i), none, 0⟩

def execVld (c : Cond) (chk : Bool) (vd : BitVec 5) (a : BitVec 4) (imm : BitVec 14) (s : State) : Out :=
  vLoad c vd (consecutive a imm) (fun e s f => s.takeAlias e chk (vldAlias f)) s
def execVst (c : Cond) (vs : BitVec 5) (a : BitVec 4) (imm : BitVec 14) (s : State) : Out :=
  vStore c vs true (consecutive a imm) s
def execVlds (c : Cond) (vd : BitVec 5) (a : BitVec 4) (sS : BitVec 6) (s : State) : Out := vLoad c vd (strided a sS) noCheck s
def execVsts (c : Cond) (vs : BitVec 5) (a : BitVec 4) (sS : BitVec 6) (s : State) : Out := vStore c vs false (strided a sS) s
def execVgth (c : Cond) (vd : BitVec 5) (a : BitVec 4) (vb : BitVec 5) (s : State) : Out := vLoad c vd (indexed a vb) noCheck s
def execVsct (c : Cond) (vs : BitVec 5) (a : BitVec 4) (vb : BitVec 5) (s : State) : Out := vStore c vs false (indexed a vb) s

def execLdl (c : Cond) (sz : LSz) (chk : Bool) (sd : BitVec 6) (a : BitVec 4) (imm : BitVec 14) (s : State) : Out :=
  vmSlot c (fun e s => do
    let b ← rdA e a
    let n := sz.bytes
    let ea := eaImm b imm n
    lmemAcc e ea n n
    let s' ← s.takeAlias e chk ⟨.lmem, ea, n, none, 0⟩
    .ok (s'.wrMarked e.x (.s sd.toNat) (extend sz (viewLmem s e ea n)) (poisonMark ((s.core e.x.coreId).lmemBad ea n) ea))) s

def execStl (c : Cond) (sz : SSz) (sS : BitVec 6) (a : BitVec 4) (imm : BitVec 14) (s : State) : Out :=
  vmSlot c (fun e s => do
    let b ← rdA e a
    let n := sz.bytes
    let ea := eaImm b imm n
    let v ← aliasFirst (aliasHit s e .lmem ea n) (rdS e sS)
    noAlias (aliasHit s e .lmem ea n)
    lmemAcc e ea n n
    if e.inRegion then do
      heldRoom s e 1
      .ok (s.hold e (.mem .lmem ea n v.toNat e.baddr))
    else .ok (s.wrLmem e.x.coreId ea n v.toNat)) s

end Sys2Proof.Machine
end

