-- ==== Sys2Proof/Machine/MemoryM.lean ====
section
/-! DEFINITION. The M-slot's vault accesses, queue operations, atomics, sync words and tile-ring stages as they issue (R201
to R214). Accesses are performed later, by the steps of Access.lean. -/

namespace Sys2Proof.Machine

/-- An M-slot access: held behind an unperformed acquire (R202). -/
def mSlot (c : Cond) (body : Env → State → Rd State) (s : State) : Out :=
  runSlot .m c false (fun e s => do
    holdAcq e
    body e s) s

/-- What an annotation does to a load, and to a store (R73). -/
def loadOrd : Ord → Ord
  | .acq => .acq
  | .ar => .acq
  | _ => .plain
def storeOrd : Ord → Ord
  | .rel => .rel
  | .ar => .rel
  | _ => .plain

/-- An annotated access rolls an open region back (R204). -/
def plainInRegion (e : Env) (o : Ord) : Rd Unit := if o = .plain then .ok () else noRegion e

/-- Marks a destination empty and answers what the access will fill; s0 takes nothing (R205). -/
def State.newDst (s : State) (x : CtxId) (r : RegRef) : State × Option (RegRef × Nat) :=
  if regZero r then (s, none)
  else
    let k := (s.ctx x).newProd r
    (s.setCtx x k.1, some (r, k.2))

/-- An access that has issued: it joins the pending accesses, and an acquire holds later memory bundles (R202). -/
def State.issueAcc (s : State) (e : Env) (k : PKind) (off ea : Nat) (o : Ord) (sc : Scope) (dst : Option (RegRef × Nat))
    (ovr : Tab Nat) : State :=
  let s := s.addPend e.x k off o sc dst e.baddr ovr ea
  match o with
  | .acq => s.modFl e.x fun f => { f with acq := f.acq ++ [f.serial] }
  | .ar => s.modFl e.x fun f => { f with acq := f.acq ++ [f.serial] }
  | _ => s

/-! ## LD, ST, LDV, STV (R205, R206) -/

def execLd (c : Cond) (sz : LSz) (o : Ord) (sc : Scope) (chk : Bool) (sd : BitVec 6) (a : BitVec 4) (imm : BitVec 14) (s : State) : Out :=
  mSlot c (fun e s => do
    plainInRegion e o
    let b ← rdA e a
    let n := sz.bytes
    let ea := eaImm b imm n
    let off ← vaultAcc s e ea n n
    let s ← s.takeAlias e chk ⟨.vault, off, n, none, 0⟩
    let r := s.newDst e.x (.s sd.toNat)
    .ok (r.1.issueAcc e (.load sz) off ea (loadOrd o) sc r.2 (heldOver .vault (s.ctx e.x).heldSt off n))) s

/-- Whether a store hits the region's table, once its address register can be read (R224). -/
def storeHits (e : Env) (a : BitVec 4) (f : Word → Bool) : Bool :=
  match rdA e a with
  | .ok b => f b
  | .error _ => false

def execSt (c : Cond) (sz : SSz) (o : Ord) (sc : Scope) (sS : BitVec 6) (a : BitVec 4) (imm : BitVec 14) (s : State) : Out :=
  mSlot c (fun e s => do
    let n := sz.bytes
    let hit := storeHits e a fun b => vaultHit s e (eaImm b imm n) n
    aliasFirst hit (plainInRegion e o)
    let b ← rdA e a
    let v ← aliasFirst hit (rdS e sS)
    noAlias hit
    let ea := eaImm b imm n
    let off ← vaultAcc s e ea n n
    if e.inRegion then do
      heldRoom s e 1
      .ok (s.hold e (.mem .vault off n v.toNat e.baddr))
    else .ok (s.issueAcc e (.store n v.toNat) off ea (storeOrd o) sc none [])) s

/-- The 128 bytes that LDV records in the alias table, from its first active lane (R206, R222). -/
def ldvAlias (s : State) (e : Env) (ea : Nat) (ls : List (Nat × Nat)) : Alias :=
  let i := (ls.head?.map fun l => l.1).getD 0
  let off := match ls.head? with
    | some l => l.2
    | none => (s.vaultCheck e.x ea 4).getD 0
  ⟨.vault, off - 4 * i, 128 - (4 * i - off), none, 0⟩

/-- With no lane active LDV leaves its register full and unchanged (R206). -/
def execLdv (c : Cond) (o : Ord) (sc : Scope) (chk : Bool) (vd : BitVec 5) (a : BitVec 4) (imm : BitVec 14) (s : State) : Out :=
  mSlot c (fun e s => do
    plainInRegion e o
    let b ← rdA e a
    let old ← rdOld e vd false
    let ea := eaImm b imm 128
    let ls ← vaultVec s e ea
    let s ← s.takeAlias e chk (ldvAlias s e ea ls)
    if ls.isEmpty then .ok s
    else
      let r := s.newDst e.x (.v vd.toNat)
      let ovr := ls.flatMap fun l => (heldOver .vault (s.ctx e.x).heldSt l.2 4).map fun b => (4 * l.1 + b.1, b.2)
      .ok (r.1.issueAcc e (.loadV ls old) ((ls.head?.map fun l => l.2).getD 0) ea (loadOrd o) sc r.2 ovr)) s

def execStv (c : Cond) (o : Ord) (sc : Scope) (vs : BitVec 5) (a : BitVec 4) (imm : BitVec 14) (s : State) : Out :=
  mSlot c (fun e s => do
    let hit := storeHits e a fun b => (List.range 32).any fun i => active e.top i && vaultHit s e ((eaImm b imm 128 + 4 * i) % 2 ^ 64) 4
    aliasFirst hit (plainInRegion e o)
    let b ← rdA e a
    let v ← aliasFirst hit (rdV e vs)
    noAlias hit
    let ea := eaImm b imm 128
    let ls ← vaultVec s e ea
    if e.inRegion then do
      heldRoom s e 1
      .ok (s.hold e (.vec .vault ls v e.baddr))
    else if ls.isEmpty then .ok s
    else .ok (s.issueAcc e (.storeV ls v) ((ls.head?.map fun l => l.2).getD 0) ea (storeOrd o) sc none [])) s

/-! ## Queues (R63, R64, R207, R208) -/

/-- A push, after its checks: at the tail, under a fresh serial (R207). A region's entry is provisional, and its store
held (R204). -/
def State.pushQ (s : State) (e : Env) (q : Nat) (k : QKind) (lsz : LSz) (n ea data : Nat) (o : Ord) (sc : Scope) (chk : Bool) : State :=
  let hold := e.inRegion && !k.isLoad
  let s := s.modCtx e.x fun c =>
    let n1 := c.fl.serial + 1
    let ent : QEnt := { serial := n1, kind := k, lsz := lsz, bytes := n, ea := ea, ord := o, sc := sc, data := data, chk := chk
                        stage := if hold then .held else .waiting, rpush := e.inRegion, baddr := e.baddr, at_ := s.tick }
    let c := { c with fl := { c.fl with serial := n1, acq := if o = Ord.acq then c.fl.acq ++ [n1] else c.fl.acq } }
    c.setQueue q (c.queue q ++ [ent])
  if hold then s.hold e (.queue q (s.ctx e.x).fl.serial) else s

/-- Requests are translated in push order: every earlier entry of the queue has its translation, and none is held or waits on a fault
(R63, R64, R340). A load behind a held store of its own queue waits for COMMIT: R63 and R230 leave it so (log entry 82). -/
def State.maySend (s : State) (h : Home) (c : Ctx) (l : List QEnt) (i : Nat) : Bool :=
  (l.take i).all fun o => match o.stage with
    | .landed => true
    | .waiting => (s.entPa h c o).isSome
    | _ => false

/-- A checked queue load whose translation a TLB holds takes its alias entry as it issues, unless one before it in its queue has still to be
compared (R222). -/
def State.pushChecked (s : State) (e : Env) (q n ea : Nat) (chk : Bool) : Rd State :=
  let c := s.ctx e.x
  let l := c.queue q
  if !chk || !e.inRegion || !s.maySend (.live e.x) c l (l.length - 1) || l.dropLast.any (fun o => o.unchecked c) then .ok s
  else match s.translate e.x.cl (some e.x.core) c.pr.jslot ea false with
    | none => .ok s
    | some pa =>
      let s := s.modCtx e.x fun c => c.setQueue q ((c.queue q).map fun t => if t.serial = c.fl.serial then { t with compared := true } else t)
      (s.sentQ (.live e.x) q).takeAlias e true ⟨.phys, pa, n, some ea, c.fl.serial⟩

/-- The checks of a push: a full queue before any other (R140, R207), then the job slot before the address's alignment and its high bits,
an order that no rule gives (log entry 108). The registers of a push are read before them, as its pseudocode has it: an empty or marked one
comes before a full queue (log entry 123). -/
def queueAcc (s : State) (e : Env) (q : Nat) (base : Word) {k : Nat} (imm : BitVec k) (n align : Nat) : Rd Nat := do
  need (decide (occupancy (e.pre.queue q) < 16)) (.trap 0x01 0)
  let ea := eaImm base imm n
  slotAcc s e.x ea
  virtAcc ea align
  .ok ea

def execQld (c : Cond) (sz : LSz) (o : Ord) (sc : Scope) (chk : Bool) (q : BitVec 3) (a : BitVec 4) (imm : BitVec 11) (s : State) : Out :=
  mSlot c (fun e s => do
    plainInRegion e o
    let b ← rdA e a
    let ea ← queueAcc s e q.toNat b imm sz.bytes sz.bytes
    (s.pushQ e q.toNat .ld sz sz.bytes ea 0 (loadOrd o) sc chk).pushChecked e q.toNat sz.bytes ea chk) s

def execQvld (c : Cond) (o : Ord) (sc : Scope) (chk : Bool) (q : BitVec 3) (a : BitVec 4) (imm : BitVec 11) (s : State) : Out :=
  mSlot c (fun e s => do
    plainInRegion e o
    let b ← rdA e a
    let ea ← queueAcc s e q.toNat b imm 128 128
    (s.pushQ e q.toNat .vld .z8 128 ea 0 (loadOrd o) sc chk).pushChecked e q.toNat 128 ea chk) s

def execQst (c : Cond) (sz : SSz) (o : Ord) (sc : Scope) (q : BitVec 3) (sS : BitVec 6) (a : BitVec 4) (imm : BitVec 11) (s : State) : Out :=
  mSlot c (fun e s => do
    plainInRegion e o
    let b ← rdA e a
    let v ← rdS e sS
    let ea ← queueAcc s e q.toNat b imm sz.bytes sz.bytes
    if e.inRegion then heldRoom s e 1
    .ok (s.pushQ e q.toNat .st .z8 sz.bytes ea (v.toNat % 256 ^ sz.bytes) (storeOrd o) sc false)) s

def execQvst (c : Cond) (o : Ord) (sc : Scope) (q : BitVec 3) (vs : BitVec 5) (a : BitVec 4) (imm : BitVec 11) (s : State) : Out :=
  mSlot c (fun e s => do
    plainInRegion e o
    let b ← rdA e a
    let v ← rdV e vs
    let ea ← queueAcc s e q.toNat b imm 128 128
    if e.inRegion then heldRoom s e 1
    .ok (s.pushQ e q.toNat .vst .z8 128 ea v.toNat (storeOrd o) sc false)) s

/-- Replaces the entry of a given serial. -/
def replaceEnt (l : List QEnt) (serial : Nat) (f : QEnt → Option QEnt) : List QEnt :=
  l.filterMap fun e => if e.serial = serial then f e else some e

/-- QPOP (R208): a landed datum is delivered at once; otherwise the entry remembers whom it will fill. -/
def execQpop (c : Cond) (cls : Bool) (d : BitVec 6) (q : BitVec 3) (s : State) : Out :=
  mSlot c (fun e s => do
    let r : RegRef := if cls then .v d.toNat else .s d.toNat
    match (e.pre.queue q.toNat).find? fun t => t.kind.isLoad && t.here with
    | none => trap 0x01 0
    | some t => do
      need (t.kind == (if cls then .vld else .ld)) (.trap 0x01 0)
      if t.stage = .landed then
        let s := s.modCtx e.x fun c => c.setQueue q.toNat (replaceEnt (c.queue q.toNat) t.serial fun t =>
          if e.inRegion then some { t with rpop := true } else none)
        .ok (s.wrMarked e.x r t.data t.mark)
      else
        let k := s.newDst e.x r
        .ok (k.1.modCtx e.x fun c => c.setQueue q.toNat (replaceEnt (c.queue q.toNat) t.serial fun t =>
          some { t with popped := some (k.2.getD (r, 0)), rpop := e.inRegion }))) s

/-! ## Atomics (R209 to R213) -/

/-- An atomic of `n` bytes: its address is the register's, aligned to its size; `rdD` says that it also reads sD. -/
def atomic (c : Cond) (op : AtOp) (n : Nat) (o : Ord) (sc : Scope) (rdD : Bool) (sd : BitVec 6) (a : BitVec 4) (sb : BitVec 6) : State → Out :=
  mSlot c fun e s => do
    noRegion e
    let b ← rdA e a
    let v ← rdS e sb
    let d ← (if rdD then rdS e sd else .ok 0)
    let off ← vaultAcc s e b.toNat n n
    let r := s.newDst e.x (.s sd.toNat)
    let w := if n = 16 then 2 ^ 32 else 256 ^ n
    .ok (r.1.issueAcc e (.atomic op n (v.toNat % w) (d.toNat % w)) off b.toNat o sc r.2 [])

/-- The size of an atomic. -/
def atSize (w8 : Bool) : Nat := if w8 then 8 else 4

def execAtadd (c : Cond) (w8 : Bool) (o : Ord) (sc : Scope) (sd : BitVec 6) (a : BitVec 4) (sb : BitVec 6) (s : State) : Out :=
  atomic c .add (atSize w8) o sc false sd a sb s
def execAtand (c : Cond) (w8 : Bool) (o : Ord) (sc : Scope) (sd : BitVec 6) (a : BitVec 4) (sb : BitVec 6) (s : State) : Out :=
  atomic c .and (atSize w8) o sc false sd a sb s
def execAtor (c : Cond) (w8 : Bool) (o : Ord) (sc : Scope) (sd : BitVec 6) (a : BitVec 4) (sb : BitVec 6) (s : State) : Out :=
  atomic c .or (atSize w8) o sc false sd a sb s
def execAtxor (c : Cond) (w8 : Bool) (o : Ord) (sc : Scope) (sd : BitVec 6) (a : BitVec 4) (sb : BitVec 6) (s : State) : Out :=
  atomic c .xor (atSize w8) o sc false sd a sb s
def execAtmin (c : Cond) (w8 : Bool) (o : Ord) (sc : Scope) (sd : BitVec 6) (a : BitVec 4) (sb : BitVec 6) (s : State) : Out :=
  atomic c .min (atSize w8) o sc false sd a sb s
def execAtmax (c : Cond) (w8 : Bool) (o : Ord) (sc : Scope) (sd : BitVec 6) (a : BitVec 4) (sb : BitVec 6) (s : State) : Out :=
  atomic c .max (atSize w8) o sc false sd a sb s
def execAtswp (c : Cond) (w8 : Bool) (o : Ord) (sc : Scope) (sd : BitVec 6) (a : BitVec 4) (sb : BitVec 6) (s : State) : Out :=
  atomic c .swp (atSize w8) o sc false sd a sb s
def execAtcas (c : Cond) (w8 : Bool) (o : Ord) (sc : Scope) (sd : BitVec 6) (a : BitVec 4) (sb : BitVec 6) (s : State) : Out :=
  atomic c .cas (atSize w8) o sc true sd a sb s
def execAtincw (c : Cond) (w8 : Bool) (o : Ord) (sc : Scope) (sd : BitVec 6) (a : BitVec 4) (sb : BitVec 6) (s : State) : Out :=
  atomic c .incw (atSize w8) o sc false sd a sb s
def execAtbadd (c : Cond) (w8 : Bool) (o : Ord) (sc : Scope) (sd : BitVec 6) (a : BitVec 4) (sb : BitVec 6) (s : State) : Out :=
  atomic c .badd (atSize w8) o sc true sd a sb s
def execAtfadd (c : Cond) (w8 : Bool) (rm : Rm) (o : Ord) (sc : Scope) (sd : BitVec 6) (a : BitVec 4) (sb : BitVec 6) (s : State) : Out :=
  atomic c (.fadd (if w8 then .f64 else .f32) rm) (atSize w8) o sc false sd a sb s

/-- SARV: the arrival of the low 32 bits of sB (R213). -/
def execSarv (c : Cond) (o : Ord) (sc : Scope) (sd : BitVec 6) (a : BitVec 4) (sb : BitVec 6) (s : State) : Out :=
  atomic c .sarv 16 o sc false sd a sb s

/-- SINIT is a store of 16 bytes (R212). -/
def execSinit (c : Cond) (o : Ord) (sc : Scope) (a : BitVec 4) (sb : BitVec 6) (s : State) : Out :=
  mSlot c (fun e s => do
    noRegion e
    let b ← rdA e a
    let v ← rdS e sb
    let off ← vaultAcc s e b.toNat 16 16
    .ok (s.issueAcc e (.sinit (v.toNat % 2 ^ 32)) off b.toNat (storeOrd o) sc none [])) s

/-! ## Tile-ring stages (R71, R214) -/

def Mx.ring (m : Mx) (n : Nat) : Ring := tget { } m.rings n
def Mx.modRing (m : Mx) (n : Nat) (f : Ring → Ring) : Mx := { m with rings := tmod { } m.rings n f }

/-- The slot whose base an address is, if it is one (R71). -/
def Ring.slotOf (r : Ring) (x : Nat) : Option Nat :=
  if r.base ≤ x ∧ (x - r.base) % (r.ssize * 64) = 0 ∧ (x - r.base) / (r.ssize * 64) < r.scount then
    some ((x - r.base) / (r.ssize * 64))
  else none

/-- Publication of a slot: its PMAP bit, and no acquirer (R71). -/
def Ring.publish (r : Ring) (i : Nat) : Ring := { r with pmap := r.pmap ||| 2 ^ i, owner := terase r.owner i }

/-- Reserved slots leave the ring in order, each once published and read for the last time (R247). `n` bounds the slots. -/
def Ring.settle : Nat → Ring → Ring
  | 0, r => r
  | n + 1, r =>
    match r.resv with
    | true :: rest =>
      if r.pmap / 2 ^ r.head % 2 = 1 then
        Ring.settle n { r with pmap := r.pmap - 2 ^ r.head, head := (r.head + 1) % r.scount, occ := r.occ - 1
                               resv := rest, consumed := r.consumed + 1 }
      else r
    | _ => r

/-- BFACQ joins the ring's acquisitions in issue order; RING_SLOT_ACQUIRE takes the slot (R71, R214). It waits for no command that a
COMMIT has let go and that has not issued (log entry 109). -/
def execBfacq (c : Cond) (a : BitVec 4) (ring : BitVec 3) (s : State) : Out :=
  mSlot c (fun e s => do
    noRegion e
    needMb e
    need (((s.core e.x.coreId).mx.ring ring.toNat).scount != 0) (.trap 0x01 0)
    let k := (s.ctx e.x).newProd (.a a.toNat)
    .ok ((s.setCtx e.x k.1).modMx e.x.coreId fun m => m.modRing ring.toNat fun r =>
      { r with waiting := r.waiting ++ [.bfacq e.x.cx a.toNat k.2] })) s

/-- BFREL publishes a slot that a BFACQ acquired (R71, R72, R214). -/
def execBfrel (c : Cond) (a : BitVec 4) (ring : BitVec 3) (s : State) : Out :=
  mSlot c (fun e s => do
    noRegion e
    needMb e
    let r := (s.core e.x.coreId).mx.ring ring.toNat
    need (r.scount != 0) (.trap 0x01 0)
    let x ← rdA e a
    match r.slotOf x.toNat with
    | none => trap 0x01 0
    | some i => do
      need (tget 0 r.owner i == 1) (.trap 0x01 0)
      .ok (s.modMx e.x.coreId fun m => m.modRing ring.toNat fun r => (r.publish i).settle 64)) s

end Sys2Proof.Machine
end

