-- ==== Sys2Proof/Machine/Phys.lean ====
section
/-! DEFINITION. Physical memory behind translation: module DRAM, host memory and its park buffer, the page walk, the TLBs,
and translation faults (R327 to R341, R349, R354, R365, R371, R374, R394). -/

namespace Sys2Proof.Machine

/-! ## Logical devices and backing (R331, R349) -/

def State.ld (s : State) (k : Nat) : Ld := tget { } s.lds k
def State.modLd (s : State) (k : Nat) (f : Ld → Ld) : State := { s with lds := tmod { } s.lds k f }

/-- The first address of the host window (R331). -/
def hostBase : Nat := 2 ^ 51

/-- An address lies in one of the device's two DRAM ranges (R349, R350). -/
def Ld.owns (l : Ld) (pa : Nat) : Bool :=
  decide (l.drbase0 ≤ pa ∧ pa < l.drlim0) || decide (l.drbase1 ≤ pa ∧ pa < l.drlim1)

/-- Whether a physical address is backed for a job of a logical device (R331, R349). -/
def State.backed (s : State) (ld pa : Nat) : Bool :=
  if pa < dramTop then (s.ld ld).owns pa else decide (hostBase ≤ pa ∧ pa - hostBase < (s.ld ld).hmlim)

/-! ## Module DRAM (R365, R371, R374, R394) -/

/-- The die that holds a DRAM address. -/
def dieOf (pa : Nat) : Nat :=
  if Config.dramilv = 0 then pa / (48 * 2 ^ 30) % 16
  else if Config.dramilv = 1 then pa / 2 ^ 12 % 16
  else if Config.dramilv = 2 then pa / 2 ^ 21 % 16
  else pa / 2 ^ 30 % 16

/-- The channel that holds a DRAM address: die * 64 + its number. The 64 bytes of one vertical-bus transfer lie in one channel (R366). -/
def chanKey (pa : Nat) : Nat := dieOf pa * 64 + Config.channel (pa / 64) % 64

/-- The 64-byte blocks that a range touches, by their addresses. -/
def dramBlocks (pa n : Nat) : List Nat := (List.range ((pa + n + 63) / 64 - pa / 64)).map fun i => (pa / 64 + i) * 64

/-- Whether a block's channel is retired or its die isolated. -/
def State.blockGone (s : State) (pa : Nat) : Bool := (tget { } s.chans (chanKey pa)).retired || s.isolated (dieOf pa)

/-- Whether some byte of a range is in a retired channel or on an isolated die: its loads are uncorrectable and its stores are
discarded. -/
def State.dramGone (s : State) (pa n : Nat) : Bool := (dramBlocks pa n).any s.blockGone

/-- Whether some byte of a range reads as uncorrectable: a poisoned 32-byte codeword (R365), a retired channel, a lost die. -/
def State.dramBad (s : State) (pa n : Nat) : Bool :=
  s.dbad.any (fun w => decide (w * 32 < pa + n ∧ pa < w * 32 + 32)) || s.dramGone pa n

/-- Bytes reach the DRAM: the poison of the codewords that they cover whole goes (R365). -/
def State.putDram (s : State) (pa : Nat) (bs : List Byte) : State :=
  { s with dram := wrBytes s.dram pa bs
           dbad := s.dbad.filter fun w => !decide (pa ≤ w * 32 ∧ w * 32 + 32 ≤ pa + bs.length) }

/-- A write of the DRAM: the bytes for a retired channel or an isolated die are discarded (R371, R374). -/
def State.wrDram (s : State) (pa : Nat) (bs : List Byte) : State :=
  if !s.dramGone pa bs.length then s.putDram pa bs
  else (dramBlocks pa bs.length).foldl (fun s b =>
    let lo := Nat.max b pa
    if s.blockGone b then s else s.putDram lo ((bs.drop (lo - pa)).take (b + 64 - lo))) s

/-! ## Host memory (R349, R352, R354) -/

def State.host (s : State) (ld : Nat) : Memory := tget [] s.hosts ld
/-- 64 MiB of park buffer (R354). -/
def parkBytes (l : Ld) : Nat := (l.park.map fun p => p.2.length).sum
def parkRoom (l : Ld) (n : Nat) : Bool := decide (parkBytes l + n ≤ 64 * 2 ^ 20)

/-- Whether a host-bound write can be taken now: by the host, or by the park buffer while LOST (R354). -/
def State.hostTakes (s : State) (ld n : Nat) : Bool :=
  (s.ld ld).hstate == 0 || ((s.ld ld).hstate == 1 && parkRoom (s.ld ld) n)

/-- Whether a range of a host's memory was written poisoned (R343); an entry names 32 bytes. -/
def State.hostBad (s : State) (ld a n : Nat) : Bool :=
  (tget [] s.hbad ld).any fun w => decide (w * 32 < a + n ∧ a < w * 32 + 32)

/-- Bytes reach a host's memory. -/
def State.putHost (s : State) (ld a : Nat) (bs : List Byte) : State :=
  { s with hosts := tset [] s.hosts ld (wrBytes (s.host ld) a bs)
           hbad := tset [] s.hbad ld ((tget [] s.hbad ld).filter fun w => !decide (a ≤ w * 32 ∧ w * 32 + 32 ≤ a + bs.length)) }

/-- A host-bound write: performed at the host, parked while LOST, discarded once frozen (R354, R358). -/
def State.wrHost (s : State) (ld a : Nat) (bs : List Byte) : State :=
  match (s.ld ld).hstate with
  | 0 => s.putHost ld a bs
  | 1 => s.modLd ld fun l => { l with park := l.park ++ [(a, bs)] }
  | _ => s

/-! ## Physical accesses -/

def State.rdPhys (s : State) (ld pa n : Nat) : Nat :=
  if pa < dramTop then rdMem s.dram pa n else rdMem (s.host ld) (pa - hostBase) n
def State.physBad (s : State) (ld pa n : Nat) : Bool :=
  if pa < dramTop then s.dramBad pa n else s.hostBad ld (pa - hostBase) n
def State.wrPhys (s : State) (ld pa : Nat) (bs : List Byte) : State :=
  if pa < dramTop then s.wrDram pa bs else s.wrHost ld (pa - hostBase) bs
/-- A channel under diagnosis, or with a diagnosis due at its next transfer, holds every request to it (R366). -/
def State.chanFree (s : State) (pa n : Nat) : Bool :=
  (dramBlocks pa n).all fun b => let c : Chan := tget { } s.chans (chanKey b); c.diag.isNone && c.due.isEmpty
/-- Whether a read can be made now: a host read waits while LOST (R354); a frozen partition's fails instead (R358). -/
def State.physReads (s : State) (ld pa n : Nat) : Bool := if pa < dramTop then s.chanFree pa n else (s.ld ld).hstate != 1
def State.physTakes (s : State) (ld pa n : Nat) : Bool := if pa < dramTop then s.chanFree pa n else s.hostTakes ld n

/-- Whether the host, or its park buffer, takes all of some physical writes of one step (R354). -/
def State.hostRoom (s : State) (ld : Nat) (ws : List (Nat × Nat)) : Bool :=
  let n := ((ws.filter fun w => decide (dramTop ≤ w.1)).map fun w => w.2).sum
  n == 0 || s.hostTakes ld n

/-- Whether byte ranges cover all of word `w` of `k` bytes. -/
def rangesCover (rs : List (Nat × Nat)) (k w : Nat) : Bool :=
  (List.range k).all fun i => rs.any fun r => decide (r.1 ≤ w * k + i ∧ w * k + i < r.1 + r.2)

/-- Codewords of physical memory that a write of several pieces has covered whole lose their mark (R365). -/
def State.clearPhys (s : State) (ld : Nat) (ws : List Nat) : State :=
  { s with dbad := s.dbad.filter fun w => !ws.contains w
           hbad := tset [] s.hbad ld ((tget [] s.hbad ld).filter fun w => !ws.contains (w + hostBase / 32)) }

/-! ## The walk (R327 to R330) -/

def ptV (t : Nat) : Bool := ptBit t 0
def ptW (t : Nat) : Bool := ptBit t 1
def ptLeaf (t : Nat) : Bool := ptBit t 2
def ptC (t : Nat) : Bool := ptBit t 3
def ptReserved (t : Nat) : Bool := t / 2 ^ 52 != 0 || t / 2 ^ 4 % 2 ^ 8 != 0

def ptIndex (va lvl : Nat) : Nat := va / 2 ^ (12 + 9 * lvl) % 512

/-- How a walk ends: a translation with the table entries it passed, or a fault's subcode, level and entry; `busy` while a channel that
holds a table entry is under diagnosis, so that the walk goes on later (R366). -/
inductive WalkRes where
  | busy
  | ok (leaf : TlbEnt) (tables : List TlbEnt)
  | fault (sub level entry : Nat)
  deriving DecidableEq, Repr

/-- Whether a leaf's address is misaligned for its size, and whether LEAF is wrong for the level (R328). -/
def ptMalformed (t lvl : Nat) : Bool :=
  ptReserved t || (ptLeaf t && decide (3 ≤ lvl)) || (!ptLeaf t && lvl == 0) || (ptLeaf t && ptPA t % 2 ^ (12 + 9 * lvl) != 0)

/-- The contiguous group that a leaf entry belongs to: the address of its first table entry and how many it has (R330). -/
def leafGroup (table lvl va : Nat) : Nat × Nat :=
  let n := if lvl = 0 then 16 else 4
  (table + 8 * (ptIndex va lvl / n * n), n)

/-- Whether a leaf says that it belongs to a contiguous group, which the walk then reads (R330). -/
def inGroup (t lvl : Nat) : Bool := ptC t && (lvl == 0 || lvl == 2)

/-- The translation of a leaf, by itself or for its contiguous group (R330). -/
def State.leafEnt (s : State) (jslot table t lvl va : Nat) : TlbEnt :=
  let one (log base : Nat) : TlbEnt := { jslot := jslot, vbase := va / 2 ^ log * 2 ^ log, log := log, pbase := base, perm := b2n (ptW t) }
  let g0 := (leafGroup table lvl va).1
  let n := (leafGroup table lvl va).2
  let size := 2 ^ (12 + 9 * lvl)
  let grp := (List.range n).map fun k => rdMem s.dram (g0 + 8 * k) 8
  let base := ptPA (grp.getD 0 0)
  if inGroup t lvl && !s.dramBad g0 (8 * n) && base % (n * size) == 0
      && (List.range n).all fun k =>
        let g := grp.getD k 0
        ptV g && ptC g && !ptMalformed g lvl && ptLeaf g && ptW g == ptW t && ptPA g == base + k * size then
    one (12 + 9 * lvl + (if lvl = 0 then 4 else 2)) base
  else one (12 + 9 * lvl) (ptPA t)

/-- A table entry that a TLB holds from an earlier walk (R332): `pbase` is the entry itself. -/
def tableHeld (l : List TlbEnt) (jslot va log : Nat) : Option Nat :=
  (l.find? fun e => e.jslot == jslot && e.log == log && e.vbase == va / 2 ^ log * 2 ^ log).map TlbEnt.pbase

/-- The walk below a table entry `e`, from level `lvl - 1` down (R329). -/
def State.walkFrom (s : State) (ld jslot : Nat) (write : Bool) (va : Nat) (held : List TlbEnt) : Nat → Nat → List TlbEnt → WalkRes
  | 0, e, _ => .fault 0x04 0 e
  | lvl + 1, e, tables =>
    let a := ptPA e + 8 * ptIndex va lvl
    let log := 12 + 9 * lvl
    match tableHeld held jslot va log with
    | some t => s.walkFrom ld jslot write va held lvl t tables
    | none =>
      if !s.chanFree a 8 then .busy
      else if s.dramBad a 8 then .fault 0x06 lvl e
      else
        let t := rdMem s.dram a 8
        if !ptV t then .fault 0x02 lvl t
        else if ptMalformed t lvl then .fault 0x04 lvl t
        else if ptLeaf t then
          if write && !ptW t then .fault 0x03 lvl t
          else if !s.backed ld (ptPA t + va % 2 ^ log) then .fault 0x05 lvl t
          else
            let g := leafGroup (ptPA e) lvl va
            if inGroup t lvl && !s.chanFree g.1 (8 * g.2) then .busy else .ok (s.leafEnt jslot (ptPA e) t lvl va) tables
        else if ¬ ptPA t < dramTop then .fault 0x04 lvl t
        else s.walkFrom ld jslot write va held lvl t
          (tables ++ [{ jslot := jslot, vbase := va / 2 ^ log * 2 ^ log, log := log, pbase := t, perm := 0 }])

def State.walk (s : State) (cl jslot : Nat) (write : Bool) (va : Nat) : WalkRes :=
  let j : JobSlot := tget { } (s.cl cl).jobs jslot
  if rootOk j.troot then s.walkFrom j.part jslot write va (s.cl cl).ptab 5 j.troot [] else .fault 0x01 7 0

/-! ## TLBs (R332) -/

/-- A new translation enters a TLB of `cap` entries; a full one drops the entry that a free value names. -/
def tlbAdd (cap draw : Nat) (l : List TlbEnt) (e : TlbEnt) : List TlbEnt :=
  let l := l.filter fun f => !(f.jslot == e.jslot && f.vbase == e.vbase && f.log == e.log)
  (if l.length < cap then l else listDrop l (Config.tlbVictim draw % cap)) ++ [e]

def State.tlbInstall (s : State) (cl : Nat) (core : Option Nat) (leaf : TlbEnt) (tables : List TlbEnt) : State :=
  let d := s.draws
  let s := s.draw.modCl cl fun c => { c with stlb := tlbAdd 4096 d c.stlb leaf, ptab := tables.foldl (tlbAdd 4096 d) c.ptab }
  match core with
  | none => s
  | some k => s.modCore ⟨cl, k⟩ fun o => { o with tlb := tlbAdd 64 d o.tlb leaf }

/-- Drops translations from every TLB of a cluster. -/
def State.tlbDrop (s : State) (cl : Nat) (p : TlbEnt → Bool) : State :=
  s.modCl cl fun c => { c with
    stlb := c.stlb.filter fun e => !p e
    ptab := c.ptab.filter fun e => !p e
    cores := c.cores.map fun e => (e.1, { e.2 with tlb := e.2.tlb.filter fun t => !p t }) }

/-! ## Faults and their waiting sets (R335, R336, R340) -/

def State.fault (s : State) (cl tag : Nat) : Option FaultRec := tget none (s.cl cl).faults tag

/-- The outstanding fault of a key (R336). -/
def State.faultTag (s : State) (cl jslot va : Nat) (write : Bool) : Option Nat :=
  (s.cl cl).faults.findSome? fun e => match e.2 with
    | some f => if f.jslot = jslot ∧ f.va / 4096 = va / 4096 ∧ f.write = write then some e.1 else none
    | none => none

/-- The lowest tag that is free. -/
def State.freeTag (s : State) (cl : Nat) : Option Nat :=
  (List.range 256).find? fun t => (s.fault cl t).isNone

/-- A detected fault joins its key's fault, or takes a tag and the next SEQ; none while every tag is taken (R336). -/
def State.raiseFault (s : State) (cl : Nat) (f : FaultRec) : Option (State × Nat) :=
  match s.faultTag cl f.jslot f.va f.write with
  | some t => some (s, t)
  | none => match s.freeTag cl with
    | none => none
    | some t =>
      let f := { f with tag := t, seq := (s.cl cl).faultSeq, tick := s.tick }
      some (s.modCl cl fun c => { c with
        faults := tput c.faults t (some f), faultWait := c.faultWait ++ [f], faultSeq := (c.faultSeq + 1) % 65536 }, t)

/-! ## Deferred traps (R248, R275, R339) -/

/-- A trap that waits for its context's next bundle boundary. -/
def State.deferTrap (s : State) (h : Home) (cause slot : Nat) (baddr : Option Nat) (detail : Nat) (delay : Bool := false) : State :=
  s.modHome h fun c => { c with fl := { c.fl with defer := c.fl.defer ++ [⟨cause, slot, baddr, detail, delay⟩] } }

/-- A deferred trap for the continuation that a record names, wherever it is. -/
def State.deferFor (s : State) (cl crec cause slot : Nat) (baddr : Option Nat) (detail : Nat) (delay : Bool := false) : State :=
  match s.homeOf cl crec with
  | none => s
  | some h => s.deferTrap h cause slot baddr detail delay

/-- DETAIL of cause 0x0D (R298). -/
def engineDetail (baddr code : Nat) : Nat := baddr / 16 % 2 ^ 56 * 256 + code

/-- The context a home lives in, woken by an event that may remove its block. -/
def State.wakeHome (s : State) (h : Home) : State :=
  match h with
  | .live x => s.wake x
  | .saved _ _ => s

end Sys2Proof.Machine
end

