-- ==== Sys2Proof/Machine/Access.lean ====
section
/-! DEFINITION. Accesses being performed: direct vault accesses, queue requests, register fills, arrivals at sync words and
ring acquisitions (R63 to R71, R73, R78, R115, R116, R202, R203, R209 to R213, R222). -/

namespace Sys2Proof.Machine

/-! ## Order among a context's own accesses (R65, R78, R202) -/

/-- Whether an access is a release in its context's order. -/
def Pend.releases (p : Pend) : Bool := p.ord == .rel || p.ord == .ar

/-- The virtual channel of a packet (R271). -/
def pktVc : PktKind → Nat
  | .xsend => 0
  | .xst => 1
  | .xldReq => 1
  | .xldRep => 2
  | .xred => 3

/-- A fabric operation leaves after the context's earlier ones to the same module on its channel (R84, R271). -/
def Pend.sends (p : Pend) : Option (Nat × Nat) :=
  match p.kind with
  | .fabric k => some (k.dst, pktVc k.kind)
  | _ => none

/-- The context's earlier fabric operations that are on their way to its own module stand before an access of the same bytes; one
that follows on their channel keeps its order anyway (R65, R76, R84). -/
def State.packetsClear (s : State) (c : Ctx) (p : Pend) : Bool :=
  p.foot.isEmpty || s.packets.all fun k => !(k.src == s.modId && k.dst == s.modId && pktMine k c.pr.crec p.serial
    && overlaps (pktFoot k) p.foot && !(p.sends == some (k.dst, pktVc k.kind)))

/-- Whether a pending access can be performed now. -/
def State.canPerform (s : State) (c : Ctx) (p : Pend) : Bool :=
  (c.fl.pend.all fun o => decide (p.serial ≤ o.serial)
      || (!overlaps o.foot p.foot && (p.sends.isNone || o.sends != p.sends)))
    && s.packetsClear c p && (!p.releases || s.olderDone c p.serial p.sc)

/-! ## Performing a direct access (R205, R206, R209 to R213) -/

/-- What an atomic writes, if it writes, from the old value and its operands (R209 to R211). -/
def atNew (op : AtOp) (n old b d : Nat) : Option Nat :=
  let w := 8 * n
  match op with
  | .add => some ((old + b) % 2 ^ w)
  | .and => some (old &&& b)
  | .or => some (old ||| b)
  | .xor => some (old ^^^ b)
  | .min => some (if sextN b w < sextN old w then b else old)
  | .max => some (if sextN old w < sextN b w then b else old)
  | .swp => some b
  | .cas => if old = d then some b else none
  | .incw => some (if b ≤ old then 0 else old + 1)
  | .badd => if old + b ≤ d then some (old + b) else none
  | .fadd f rm => some (fput f rm (FV.add rm ((fmtOf f).val old) ((fmtOf f).val b)))
  | .sarv => some (arrive old b)

/-- A datum goes to its register, if it has one; an acquire with no register is performed at once. -/
def Ctx.deliver (c : Ctx) (dst : Option (RegRef × Nat)) (v : Nat) (m : Mark) (acq : Nat) (p7 : Option Bool) : Ctx :=
  match dst, p7 with
  | none, none => { c with fl := { c.fl with acq := c.fl.acq.filter fun a => a != acq } }
  | none, some _ => { c with fl := { c.fl with fills := c.fl.fills ++ [({ reg := .s 0, prod := 0, val := v, mark := m, acq := acq, p7 := p7 } : Fill)] } }
  | some d, _ => { c with fl := { c.fl with fills := c.fl.fills ++ [({ reg := d.1, prod := d.2, val := v, mark := m, acq := acq, p7 := p7 } : Fill)] } }

/-- A write to a vault on an isolated die fails: cause 0x0C at the context's next boundary (R374). -/
def State.vaultLost (s : State) (h : Home) (p : Pend) (off : Nat) : State :=
  if s.isolated (off / 2 ^ 30) then s.deferTrap h 0x0C 0 none p.ea else s

/-- The value that LDV's lanes give: memory with the region's held bytes over it, the old register elsewhere (R206). -/
def laneVals (s : State) (p : Pend) (ls : List (Nat × Nat)) (old : BitVec 1024) : Nat :=
  let v := vbuild 32 32 fun i => match ls.find? fun l => l.1 == i with
    | some l => s.rdVault l.2 4
    | none => vget old 32 i
  overlay p.ovr v 128

/-- The mark of a load: uncorrectable memory under any of its bytes, also where a held store of the region supplies them all (R83, R203,
R221; log entry 105). -/
def loadMark (s : State) (p : Pend) : Mark :=
  match p.foot.find? fun f => s.vaultBad f.1 f.2 with
  | some f => ⟨0x0C, (p.ea + (match p.kind with | .loadV ls _ => 4 * ((ls.find? fun l => l.2 == f.1).map fun l => l.1).getD 0 | _ => 0)) % 2 ^ 64⟩
  | none => { }

/-- An atomic at its location, indivisibly (R203, R209, R210, R213). -/
def State.doAtomic (s : State) (h : Home) (p : Pend) (op : AtOp) (n b d : Nat) : State :=
  let bad := s.vaultBad p.addr n
  let old := s.rdVault p.addr n
  let new := if bad then none else atNew op n old b d
  let p7 := if op = AtOp.badd then some new.isNone else none
  let res := if op = AtOp.sarv then genOf (new.getD 0) else old
  let s := match new with
    | none => if bad then s.vaultLost h p p.addr else s
    | some v => if op = AtOp.sarv then s.syncVault p.addr v (arriveAdv old b) else s.wrVault p.addr n v
  s.modHome h fun c =>
    let c := { c with fl := { c.fl with acq := c.fl.acq.filter fun a => a != p.serial } }
    c.deliver p.dst res (if bad then ⟨0x0C, p.ea⟩ else { }) 0 p7

/-- Performs one pending access of a home (R73, R158, R276). -/
def State.perform (s : State) (h : Home) (p : Pend) : State :=
  let acq := if p.ord = .acq ∨ p.ord = .ar then p.serial else 0
  match p.kind with
  | .load sz =>
    let v := overlay p.ovr (s.rdVault p.addr sz.bytes) sz.bytes
    s.modHome h fun c => c.deliver p.dst (extend sz v) (loadMark s p) acq none
  | .loadV ls old => s.modHome h fun c => c.deliver p.dst (laneVals s p ls old) (loadMark s p) acq none
  | .store n v => (s.wrVault p.addr n v).vaultLost h p p.addr
  | .storeV ls v => (s.wrVaultLanes ls v).vaultLost h p p.addr
  | .atomic op n b d => s.doAtomic h p op n b d
  | .sinit t => (s.syncVault p.addr (sinitWord t) false).vaultLost h p p.addr
  | .tbar => s.barrierArrive h
  | .fabric k =>
    let s := { s with packets := s.packets ++ [{ k with prod := (match p.dst with | some d => d.2 | none => p.serial), delay := p.delay }] }
    let s := s.addInj k.job.toNat 1
    match p.dst with
    | some d => s.modHome h fun c => { c with fl := { c.fl with
        xwaits := c.fl.xwaits ++ [({ prod := d.2, reg := k.reg, serial := p.serial } : XWait)] } }
    | none => if k.kind = .xldReq then
        s.modHome h fun c => { c with fl := { c.fl with xwaits := c.fl.xwaits ++ [({ prod := 0, reg := 0, serial := p.serial } : XWait)] } }
      else s

/-- An access that a vault serves is counted where its first byte lies (R382; log entry 49). -/
def State.served (s : State) (off : Nat) : State := s.tallyCl (vaultCl off) 0x100 1

/-- ACCESS_PERFORM: the `i`-th pending access of a home, once R65 and R202 let it. -/
def execAccessPerform (h : Home) (i : Nat) (s : State) : Out :=
  match s.home h with
  | none => .refused (.notEnabled "ACCESS_PERFORM")
  | some c => match c.fl.pend[i]? with
    | none => .refused (.notEnabled "ACCESS_PERFORM")
    | some p =>
      event "ACCESS_PERFORM" (s.clusterRuns (homeCl h) && s.canPerform c p)
        (((((match p.kind, p.foot with
            | .fabric _, _ => s
            | _, f :: _ => s.served f.1
            | _, [] => s).modHome h fun c => { c with fl := { c.fl with pend := listDrop c.fl.pend i } }).perform h p)).wakeHome h)

/-! ## Queue requests (R63 to R65, R207, R208, R222, R340) -/

/-- Whether entry `i` of a queue can be performed at a physical address: it has been sent there, or is sent now, in push order and in the
context's own order, and data are delivered in push order. -/
def State.queueReady (s : State) (h : Home) (c : Ctx) (l : List QEnt) (i : Nat) (e : QEnt) (pa : Nat) : Bool :=
  e.stage == .waiting
    && ((s.sendQueue h c l)[i]?).any (fun o => o.pa == some pa)
    && (l.take i).all (fun o => !(e.kind.isLoad && o.kind.isLoad && o.open_))

/-- A landed datum: in its entry, or on its way to the register of the QPOP that took the entry (R208). -/
def Ctx.landEnt (c : Ctx) (q : Nat) (e : QEnt) (v : Nat) (m : Mark) : Ctx :=
  let c := { c with fl := { c.fl with acq := c.fl.acq.filter fun a => a != e.serial } }
  match e.popped with
  | none => c.setQueue q (replaceEnt (c.queue q) e.serial fun t => some { t with stage := .landed, data := v, mark := m })
  | some d =>
    let c := c.setQueue q (replaceEnt (c.queue q) e.serial fun t =>
      if t.rpop then some { t with stage := .landed, data := v, mark := m } else none)
    c.deliver (some d) v m 0 none

/-- A queue load's datum arrives, or a queue store is performed and leaves. A store that a frozen partition discards gives its
continuation cause 0x0F when it resumes; one still resident is given it then (R358, R359). -/
def State.performQ (s : State) (h : Home) (c : Ctx) (q : Nat) (e : QEnt) (pa : Nat) : State :=
  let ld := (tget ({ } : JobSlot) (s.cl (homeCl h)).jobs c.pr.jslot).part
  if e.kind.isLoad then
    let raw := overlay (e.over c pa) (s.rdPhys ld pa e.bytes) e.bytes
    let v := if e.kind = .ld then extend e.lsz raw else raw
    let m : Mark := if dramTop ≤ pa ∧ (s.ld ld).hstate = 2 then ⟨0x0F, ld⟩ else poisonMark (s.physBad ld pa e.bytes) e.ea
    s.modHome h fun c => c.landEnt q e v m
  else
    let s := s.modHome h fun c => c.setQueue q (replaceEnt (c.queue q) e.serial fun _ => none)
    let s := s.wrPhys ld pa (leBytes e.bytes e.data)
    if pa < dramTop then (if s.isolated (dieOf pa) then s.deferTrap h 0x0C 0 none e.ea else s)
    else match h with
      | .saved _ _ => if (s.ld ld).hstate = 2 then s.deferTrap h 0x0F 0 none ld else s
      | .live _ => s

/-- QUEUE_DATA_ARRIVAL: entry `i` of queue `q` of a home. What stands before it in its queue has been sent, at the latest now (R63); a checked
load found wrong as it leaves rolls its region back instead (R222). -/
def execQueueDataArrival (h : Home) (q i : Nat) (s : State) : Out :=
  match s.home h with
  | none => .refused (.notEnabled "QUEUE_DATA_ARRIVAL")
  | some c => match (c.queue q)[i]? with
    | none => .refused (.notEnabled "QUEUE_DATA_ARRIVAL")
    | some e => match s.entPa h c e with
      | none => .refused (.notEnabled "QUEUE_DATA_ARRIVAL")
      | some pa =>
        let ld := (tget ({ } : JobSlot) (s.cl (homeCl h)).jobs c.pr.jslot).part
        event "QUEUE_DATA_ARRIVAL"
          (s.clusterRuns (homeCl h) && s.queueReady h c (c.queue q) i e pa && (if e.kind.isLoad then s.physReads ld pa e.bytes else s.physTakes ld pa e.bytes))
          ((((match (s.refresh h).sentUpTo h q (i + 1) with
            | .error s => s
            | .ok s => s.performQ h c q e pa).syncSaved h)).wakeHome h)

/-! ## Fills (R115, R116, R203, R220) -/

/-- REGISTER_FILL: the `i`-th fill of a home lands, in its context or its saved image. -/
def execRegisterFill (h : Home) (i : Nat) (s : State) : Out :=
  match s.home h with
  | none => .refused (.notEnabled "REGISTER_FILL")
  | some c => match c.fl.fills[i]? with
    | none => .refused (.notEnabled "REGISTER_FILL")
    | some f => .next (((s.refresh h).modHome h fun c => ({ c with fl := { c.fl with fills := listDrop c.fl.fills i } } : Ctx).land f).syncSaved h |>.wakeHome h)

/-! ## Arrivals (R67 to R69, R82) -/

/-- Applies an arrival to its sync word. -/
def State.applyArrival (s : State) (a : Arrival) : State :=
  let f (w : Nat) : Nat := match a.err with | some e => arriveErr w e | none => arrive w a.n
  let adv (w : Nat) : Bool := a.err.isSome || arriveAdv w a.n
  match a.lmem with
  | some c => s.syncLmem c a.addr (f (s.rdLmem c a.addr 16)) (adv (s.rdLmem c a.addr 16))
  | none => (s.served a.addr).syncVault a.addr (f (s.rdVault a.addr 16)) (adv (s.rdVault a.addr 16))

/-- A drain that has landed leaves the tracker with its arrival (R235, R266). -/
def Mx.arrived (m : Mx) (id : Nat) : Mx := { m with cmds := m.cmds.filter fun k => !(k.id == id && k.kind.isDrain && k.running) }

/-- The end of a command's arrival may remove the block of a context of its core: an MSTAT waits for it (R33, R255). -/
def State.wakeOwner (s : State) (a : Arrival) : State :=
  match a.owner with
  | some o => (s.modMx o.1 fun m => m.arrived o.2).wakeCore o.1
  | none => s

def syncEvent (name : String) (err : Bool) (i : Nat) (s : State) : Out :=
  match s.arrivals[i]? with
  | none => .refused (.notEnabled name)
  | some a => event name (a.err.isSome == err) ((({ s with arrivals := listDrop s.arrivals i } : State).applyArrival a).wakeOwner a)

def execSyncArrival (i : Nat) (s : State) : Out := syncEvent "SYNC_ARRIVAL" false i s
def execSyncErrorArrival (i : Nat) (s : State) : Out := syncEvent "SYNC_ERROR_ARRIVAL" true i s

/-! ## Ring acquisitions (R71, R214) -/

def clearBit (x i : Nat) : Nat := if x / 2 ^ i % 2 = 1 then x - 2 ^ i else x

/-- The slot that an acquisition takes: PMAP cleared, TAIL and OCC advanced. -/
def Ring.take (r : Ring) (owner : Nat) : Ring :=
  { r with
    pmap := clearBit r.pmap r.tail
    owner := tput r.owner r.tail owner
    tail := (r.tail + 1) % r.scount
    occ := r.occ + 1
    waiting := r.waiting.tail }

def Mx.modCmd (m : Mx) (id : Nat) (f : Cmd → Cmd) : Mx := { m with cmds := m.cmds.map fun k => if k.id = id then f k else k }

/-- The first Marver entry of a port that still lacks a slot of a core takes it. -/
def giveSlot (core slot : Nat) : List MEnt → List MEnt
  | [] => []
  | e :: t =>
    if e.raw / 2 ^ 148 % 2 = 0 ∧ e.raw / 2 ^ 152 / 2 ^ core % 2 = 1 ∧ ¬ (e.got.any fun g => g.1 == core) then
      { e with got := e.got ++ [(core, slot)] } :: t
    else e :: giveSlot core slot t

/-- RING_SLOT_ACQUIRE: the oldest acquisition of a ring takes its TAIL slot once one is free. -/
def execRingSlotAcquire (c : CoreId) (ring : Nat) (s : State) : Out :=
  let r := (s.core c).mx.ring ring
  match r.waiting with
  | [] => .refused (.notEnabled "RING_SLOT_ACQUIRE")
  | a :: _ =>
    let i := r.tail
    let s' := s.modMx c fun m => m.modRing ring fun r => r.take (match a with | .bfacq _ _ _ => 1 | _ => 2)
    let s' := match a with
      | .bfacq cx reg prod => s'.modCtx ⟨c.cl, c.core, cx⟩ fun x =>
          x.deliver (some (.a reg, prod)) (r.base + i * r.ssize * 64) { } 0 none
      | .cmd id => s'.modMx c fun m => m.modCmd id fun k => { k with got := some i }
      | .marver port => s'.modCl c.cl fun l => { l with marvers := tmod { } l.marvers port fun v => { v with live := giveSlot c.core i v.live } }
    event "RING_SLOT_ACQUIRE" (s.clusterRuns c.cl && decide (r.occ < r.scount)) s'

end Sys2Proof.Machine
end

