-- ==== Sys2Proof/Machine/Engine.lean ====
section
/-! DEFINITION. What the gather and matrix engines share: operand layout, descriptors, windows and footprints of commands, the
dependence tracker, issuing a command directly or from the held-command queue (R221, R222, R230, R234 to R238, R256, R266). -/

namespace Sys2Proof.Machine

/-! ## Descriptors and layout (R236 to R238) -/

/-- The container of an array operand of a format and width (R236). -/
def containerBits (fmt w : Nat) : Nat :=
  if fmt ≤ 1 then (if w ≤ 1 then 1 else if w ≤ 2 then 2 else if w ≤ 4 then 4 else if w ≤ 8 then 8 else 16)
  else if fmt = 2 ∨ fmt = 3 then 16
  else if fmt = 4 then 32
  else if fmt = 5 then 64
  else if fmt = 12 then 4
  else 8

/-- Storage of a drain or convert destination (R236, R237, R259). -/
def storeBits (fmt wcode : Nat) : Nat := if fmt ≤ 1 then 2 ^ wcode else containerBits fmt 0

/-- Bytes of one row of elements (R238). -/
def rowBytes (inner cb : Nat) : Nat := (inner * cb + 7) / 8

/-- The byte ranges that a stored matrix's elements take, in its descriptor's space. -/
def elemRanges (d : ODesc) (outer inner cb : Nat) : List (Nat × Nat) :=
  (List.range outer).map fun i => (d.base + i * d.pitch, rowBytes inner cb)

/-- The byte ranges of its MX scales; `onInner` says that the block axis is the inner index (R238). -/
def scaleRanges (d : ODesc) (outer inner : Nat) (onInner : Bool) : List (Nat × Nat) :=
  if onInner then (List.range outer).map fun i => (d.sbase + i * d.spitch, (inner + 31) / 32)
  else (List.range ((outer + 31) / 32)).map fun i => (d.sbase + i * d.spitch, inner)

/-- Where the scale of element (i, j) stands. -/
def scaleAddr (d : ODesc) (onInner : Bool) (i j : Nat) : Nat :=
  if onInner then d.sbase + i * d.spitch + j / 32 else d.sbase + i / 32 * d.spitch + j

/-- The container of element (i, j) through a byte reader. -/
def readElem (rd : Nat → Nat) (d : ODesc) (cb i j : Nat) : Nat :=
  let a := d.base + i * d.pitch + j * cb / 8
  if cb < 8 then rd a / 2 ^ (j * cb % 8) % 2 ^ cb
  else (List.range (cb / 8)).foldr (fun k acc => rd (a + k) + 256 * acc) 0

/-! ## Checks at issue (R234) -/

/-- The descriptor at an address: alignment, then window, then its bytes through the region's view (R81, R256). -/
def readDesc (s : State) (e : Env) (a n align : Nat) : Rd Nat := do
  if a % align ≠ 0 then trap 0x04 a
  else do
    need (e.pre.pr.lmemOk a n) (.trap 0x05 a)
    .ok (viewLmem s e a n)

/-- The tiles that the context's launch declares (R232). -/
def State.tilesOf (s : State) (c : Ctx) : Nat := lTiles (s.lraw c.ct.launch)
def tileOk (s : State) (c : Ctx) (n : Nat) : Rd Unit := need (decide (n < s.tilesOf c)) (.trap 0x01 0)

/-- Every range lies in the context's L-mem window, or in its job's vault windows (R54, R56). -/
def lmemRanges (c : Ctx) (rs : List (Nat × Nat)) : Rd Unit :=
  match rs.find? fun r => !c.pr.lmemOk r.1 r.2 with
  | some r => trap 0x05 r.1
  | none => .ok ()
/-- Vault ranges as the accesses will form them, from a resolved base; a failing one is named as the program formed it. -/
def vaultRanges (s : State) (x : CtxId) (named rs : List (Nat × Nat)) : Rd Unit :=
  match (named.zip rs).find? fun r => !(s.jobSlot x).covers r.2.1 r.2.2 with
  | some r => trap 0x05 r.1.1
  | none => .ok ()

/-- A vault base resolves to a vault, or raises cause 0x05. -/
def vaultRoot (x : CtxId) (a : Nat) : Rd Nat :=
  match resolve x.cl a with
  | none => trap 0x05 a
  | some off => .ok off

/-- Every range lies in a ring's slot, whose ring is enabled (R238). -/
def slotRanges (r : Ring) (rs : List (Nat × Nat)) : Rd Unit :=
  need (r.scount != 0 && rs.all fun b => decide (b.1 + b.2 ≤ r.ssize * 64)) (.trap 0x01 0)

/-- The bounding range of ranges, and its footprint (R266). -/
def footOf (sp : Space) (rs : List (Nat × Nat)) : List Foot :=
  match rs with
  | [] => []
  | r :: _ =>
    let lo := rs.foldl (fun a b => Nat.min a b.1) r.1
    let hi := rs.foldl (fun a b => Nat.max a (b.1 + b.2)) 0
    [⟨sp, some (lo, hi - lo)⟩]

/-- The footprints of one stored matrix in its space; a ring slot has none (R235). -/
def opFeet (d : ODesc) (outer inner cb : Nat) (mx onInner : Bool) : List Foot :=
  let sp := if d.space = 0 then Space.lmem else .vault
  if d.space ≤ 1 then footOf sp (elemRanges d outer inner cb) ++ footOf sp (if mx then scaleRanges d outer inner onInner else []) else []

/-- A descriptor whose vault offsets are those of the issuing core's cluster, for the life of the command (R57). -/
def ODesc.resolved (d : ODesc) (x : CtxId) : ODesc :=
  if d.space = 1 then { d with base := (resolve x.cl d.base).getD d.base, sbase := (resolve x.cl d.sbase).getD d.sbase } else d

/-- The checks and footprints of one stored matrix: contents first, then windows of the bytes that the accesses will form. Ring
slots have no footprints, and their fit is a check of the engine's state (R56, R235, R256; log entry 69). -/
def operand (s : State) (x : CtxId) (c : Ctx) (d : ODesc) (outer inner cb : Nat) (mx onInner eng : Bool) : Rd (List Foot × ODesc) := do
  need (d.space != 3 && d.pitch % 16 == 0 && d.base % 16 == 0 && decide (rowBytes inner cb ≤ d.pitch)) (.trap 0x01 0)
  let es := elemRanges d outer inner cb
  let ss := if mx then scaleRanges d outer inner onInner else []
  match d.space with
  | 0 => do
    lmemRanges c (es ++ ss)
    .ok (opFeet d outer inner cb mx onInner, d)
  | 1 => do
    let _ ← vaultRoot x d.base
    if mx then do
      let _ ← vaultRoot x d.sbase
    let d' := d.resolved x
    vaultRanges s x (es ++ ss) (elemRanges d' outer inner cb ++ if mx then scaleRanges d' outer inner onInner else [])
    .ok (opFeet d' outer inner cb mx onInner, d')
  | _ => do
    if eng then slotRanges ((s.core x.coreId).mx.ring d.ring) (es ++ ss)
    .ok ([], d)

/-- A named sync word: alignment, then window (R66, R234). Answers its space and resolved address. -/
def syncCheck (s : State) (x : CtxId) (c : Ctx) (vault : Bool) (a : Nat) : Rd Nat := do
  need (a % 16 == 0) (.trap 0x04 a)
  if vault then
    match s.vaultCheck x a 16 with
    | none => trap 0x05 a
    | some off => .ok off
  else do
    need (c.pr.lmemOk a 16) (.trap 0x05 a)
    .ok a

/-! ## The dependence tracker (R266) -/

/-- Whether two footprints overlap within one space. -/
def Foot.meets (a b : Foot) : Bool :=
  a.sp == b.sp && (match a.range, b.range with
    | some x, some y => decide (x.1 < y.1 + y.2 ∧ y.1 < x.1 + x.2)
    | _, _ => true)
def footsMeet (a b : List Foot) : Bool := a.any fun f => b.any f.meets

/-- A write-after-read, read-after-write or write-after-write overlap. -/
def Cmd.conflicts (later earlier : Cmd) : Bool :=
  footsMeet later.writes (earlier.reads ++ earlier.writes) || footsMeet later.reads earlier.writes

/-- The tracker holds 32 incomplete commands. -/
def Mx.trackerRoom (m : Mx) : Bool := decide (m.cmds.length < 32)

/-- A command enters the tracker, held where an earlier one overlaps it. -/
def Mx.enter (m : Mx) (k : Cmd) : Mx :=
  { m with cmds := m.cmds ++ [{ k with id := m.nextId, hold := m.cmds.any fun o => k.conflicts o }], nextId := m.nextId + 1 }

def Mx.drop (m : Mx) (id : Nat) : Mx := { m with cmds := m.cmds.filter fun k => k.id != id }

/-- The aligned 8-byte parts of the L-mem that a footprint touches; an indexed operand's is the whole space. -/
def Foot.parts (f : Foot) : List Nat :=
  if f.sp = .lmem then
    let r := f.range.getD (0, 2 ^ 20)
    (List.range ((r.1 + r.2 + 7) / 8 - r.1 / 8)).map fun i => r.1 / 8 + i
  else []

/-- What a command that begins to read has read of its L-mem sources: a free choice of aligned 8-byte parts. The rest is read where the
command takes it, so that a store in between reaches some parts and not others (R59, R198; log entry 107). -/
def State.earlyOf (s : State) (c : CoreId) (reads : List Foot) : Tab Nat :=
  let lm := (s.core c).lmem
  ((reads.flatMap Foot.parts).filter (Config.landsNow s.draws)).map fun p => (p, rdMem lm (8 * p) 8)

/-- A command begins to read. -/
def State.readsNow (s : State) (c : CoreId) (id : Nat) : State :=
  s.draw.modMx c fun m => m.modCmd id fun k => { k with early := s.earlyOf c k.reads }

/-- A byte of an L-mem source: one read as the command began, or the L-mem's own. -/
def earlyByte (early : Tab Nat) (lm : Memory) (a : Nat) : Nat :=
  if thas early (a / 8) then tget 0 early (a / 8) / 256 ^ (a % 8) % 256 else (rdByte lm a).toNat

/-- TRACKER_RELEASE: the `i`-th command proceeds once no earlier command overlaps it. -/
def execTrackerRelease (c : CoreId) (i : Nat) (s : State) : Out :=
  let m := (s.core c).mx
  match m.cmds[i]? with
  | none => .refused (.notEnabled "TRACKER_RELEASE")
  | some k =>
    let s' := s.modMx c fun m => m.modCmd k.id fun k => { k with hold := false }
    event "TRACKER_RELEASE" (k.hold && !((m.cmds.take i).any fun o => k.conflicts o)) (if k.kind.isCopy then s'.readsNow c k.id else s')

/-- Every vault store that precedes a command in its context's program order has been performed (R81). -/
def storesDone (s : State) (c : Ctx) (k : Cmd) : Bool :=
  (c.fl.pend.all fun p => decide (k.serial < p.serial) || (match p.kind with
    | .load _ => true
    | .loadV _ _ => true
    | .fabric f => !pktStores f || p.foot.isEmpty
    | _ => p.foot.isEmpty))
    && s.packets.all fun f => !(f.src == s.modId && f.dst == s.modId && pktStores f && pktMine f c.pr.crec (k.serial + 1))

/-- The context that issued a core's command. -/
def cmdCtx (c : CoreId) (k : Cmd) : CtxId := ⟨c.cl, c.core, k.ctx⟩

/-- Whether a command may read and write memory now. -/
def State.cmdFree (s : State) (c : CoreId) (k : Cmd) : Bool := !k.hold && storesDone s (s.ctx (cmdCtx c k)) k

/-! ## Bytes of a command's spaces -/

/-- A byte reader of an operand's space, with what a command has read early; a ring's offsets count from the slot base. -/
def State.spaceRd (s : State) (c : CoreId) (early : Tab Nat) (space slotBase : Nat) (a : Nat) : Nat :=
  match space with
  | 0 => earlyByte early (s.core c).lmem a
  | 1 => (rdByte s.vault a).toNat
  | _ => (rdByte (s.core c).lmem (slotBase + a)).toNat

def State.spaceBad (s : State) (c : CoreId) (space slotBase : Nat) (r : Nat × Nat) : Bool :=
  match space with
  | 0 => (s.core c).lmemBad r.1 r.2
  | 1 => s.vaultBad r.1 r.2
  | _ => (s.core c).lmemBad (slotBase + r.1) r.2

def State.spaceWr (s : State) (c : CoreId) (space slotBase : Nat) (a n v : Nat) : State :=
  match space with
  | 0 => s.wrLmem c a n v
  | 1 => s.wrVault a n v
  | _ => s.wrLmem c (slotBase + a) n v

/-- Words of L-mem or the vault that writes of several pieces have covered whole lose their mark (R365). -/
def State.clearWords (s : State) (c : CoreId) (vault : Bool) (rs : List (Nat × Nat)) : State :=
  if vault then { s with vbad := s.vbad.filter fun w => !rangesCover rs 8 w }
  else s.modCore c fun o => { o with lbad := o.lbad.filter fun w => !rangesCover rs 8 w }

/-- Bytes of a stored matrix are written. -/
def State.putBytes (s : State) (c : CoreId) (space slotBase : Nat) (ps : List GPut) : State :=
  let off := if space = 2 then slotBase else 0
  (ps.foldl (fun s p => s.spaceWr c space slotBase p.addr 1 p.val) s).clearWords c (space == 1) (ps.map fun p => (off + p.addr, 1))

/-- Writes that take effect now and later, in aligned 8-byte parts of the destination: the parts' order is free, and some part
takes effect (R59, R198). -/
def splitParts (draw : Nat) (ps : List GPut) : List GPut × List GPut :=
  let now := ps.filter fun p => Config.landsNow draw (p.addr / 8)
  match ps with
  | [] => ([], [])
  | q :: _ =>
    if ps.all fun p => p.addr / 8 == q.addr / 8 then (ps, [])
    else if now.isEmpty then (ps, [])
    else (now, ps.filter fun p => !Config.landsNow draw (p.addr / 8))

/-- The L-mem offset of a ring's slot. -/
def Ring.slotBase (r : Ring) (i : Nat) : Nat := r.base + i * r.ssize * 64
/-- The slot of the reservation with absolute number `k` (R247). -/
def Ring.resvSlot (r : Ring) (k : Nat) : Nat := if r.scount = 0 then 0 else (r.head + (k - r.consumed)) % r.scount
/-- A reservation SCOUNT or more ahead of the consumed ones has no slot of its own yet. -/
def Ring.published (r : Ring) (k : Nat) : Bool := decide (k < r.consumed + r.scount) && r.pmap / 2 ^ r.resvSlot k % 2 == 1
/-- Reserves slots; `idle` marks those that no pass will read (R247). -/
def Ring.reserve (r : Ring) (idle : List Bool) : Ring := ({ r with resv := r.resv ++ idle } : Ring).settle 64
def Ring.nextResv (r : Ring) : Nat := r.consumed + r.resv.length
/-- The last read of a reserved slot has been made. -/
def Ring.readDone (r : Ring) (k : Nat) : Ring := ({ r with resv := listSet r.resv (k - r.consumed) true } : Ring).settle 64

/-! ## Arrivals and errors of commands (R68, R82, R248, R265) -/

/-- An arrival that a command makes; it is applied by a later SYNC_ARRIVAL. -/
def State.cmdArrive (s : State) (c : CoreId) (id : Nat) (vault : Bool) (addr n : Nat) (err : Option Nat) : State :=
  { s with arrivals := s.arrivals ++ [⟨if vault then none else some c, addr, n, err, some (c, id), s.tick⟩] }

/-- Cause 0x0D for the command's context at its next bundle (R248, R251, R265). -/
def State.engineTrap (s : State) (c : CoreId) (k : Cmd) (code : Nat) : State :=
  s.deferTrap (.live (cmdCtx c k)) 0x0D 0 none (engineDetail k.baddr code)

/-! ## Issue, directly or held (R221, R222, R230, R256) -/

/-- The engine command of a held entry enters the core: what each instruction's file defines, given the state, the context,
the entry and the count it issues at. -/
abbrev Launcher := State → CtxId → HeldCmd → Nat → Rd State
/-- The checks of R256 that do not read the engine's state. -/
abbrev Checker := State → CtxId → Ctx → HeldCmd → Rd Unit
/-- The destination footprint of a command, formed from its registers and its descriptor alone (R222). -/
abbrev Feet := State → CtxId → Ctx → HeldCmd → List Foot
def noFeet : Feet := fun _ _ _ _ => []

/-- Whether a held command's destination overlaps an alias entry: by address in its space, and in the virtual space by the
virtual addresses of checked queue loads, entered or still on their way (R222). -/
def footHits (c : Ctx) (fs : List Foot) : Bool :=
  match c.region with
  | none => false
  | some g =>
    fs.any fun f =>
      g.aliases.any (fun al => match f.sp with
        | .virt => (match al.virt with
          | some v => f.meets ⟨.virt, some (v, al.size)⟩
          | none => false)
        | sp => al.sp == sp && f.meets ⟨sp, some (al.addr, al.size)⟩)
      || (f.sp == .virt && c.queues.any fun q => q.2.any fun e => e.rpush && e.chk && f.meets ⟨.virt, some (e.ea, e.bytes)⟩)

/-- A command joins the held-command queue; a GCOPY's destination register is empty until the command issues (R263). -/
def State.holdCmd (s : State) (x : CtxId) (h : HeldCmd) : State :=
  let r := match h.dst with
    | none => (s, none)
    | some (reg, _) => s.newDst x (.s reg)
  r.1.modCtx x fun c => { c with heldCmd := c.heldCmd ++ [{ h with region := true, dst := r.2.map fun d => ((h.dst.map Prod.fst).getD 0, d.2) }] }

/-- A cause 0x01 that a command would raise as it issues: with its descriptor's contents, before any range (R234). -/
def contentsFirst (r : Rd State) : Rd Unit :=
  match r with
  | .error (.trap 0x01 d) => trap 0x01 d
  | _ => .ok ()

/-- An engine instruction: held inside a region, the alias comparison first and then its checks, else issued at once, behind every
held command. `gather` reads its registers, checks that its context is matrix-bound, and reads its descriptor; `chk` checks the tiles
that it names before its operand's ranges, an order that R234 leaves open (R232; log entry 131); `track` says that it enters the dependence
tracker. -/
def engineSlot (c : Cond) (track : Bool) (gather : Env → State → Rd HeldCmd) (feet : Feet) (chk : Checker) (go : Launcher) : State → Out :=
  runSlot .m c false fun e s => do
    if track then holdAcq e
    let h ← gather e s
    if e.inRegion then do
      noAlias (footHits (s.ctx e.x) (feet s e.x e.pre h))
      chk s e.x e.pre h
      need (decide (e.pre.heldCmd.length < 16)) (.roll 0x04 0)
      .ok (s.holdCmd e.x h)
    else do
      need e.pre.heldCmd.isEmpty (.block .held)
      contentsFirst (go s e.x h e.pre.ct.issued)
      chk s e.x e.pre h
      need (!track || (s.core e.x.coreId).mx.trackerRoom) (.block .tracker)
      go s e.x h e.pre.ct.issued

/-- An entry of the held-command queue. -/
def heldOf (i : Instr) (e : Env) (base sval raw : Nat) : HeldCmd :=
  { instr := i, base := base, sval := sval, raw := raw, padv := e.pre.ct.padv, padb := e.pre.ct.padb, dst := none, baddr := e.baddr, region := false }

end Sys2Proof.Machine
end

