-- ==== Sys2Proof/Machine/Matrix.lean ====
section
/-! DEFINITION. The matrix engine's instructions and the reading of tiles (R136 to R138, R232 to R255, R319). The steps that
its commands take stand in Array.lean. -/

namespace Sys2Proof.Machine

/-! ## PREC (R239, R240) -/

def pTDRN (p : Nat) : Bool := p / 2 ^ 46 % 2 == 1
def pTW (p : Nat) : Bool := p / 2 ^ 45 % 2 == 1
def pTA (p : Nat) : Bool := p / 2 ^ 44 % 2 == 1
def pPADR (p : Nat) : Nat := p / 2 ^ 39 % 2 ^ 5
def pPSH (p : Nat) : Nat := p / 2 ^ 34 % 2 ^ 5
def pAMODE (p : Nat) : Nat := p / 2 ^ 31 % 2 ^ 3
def pARND (p : Nat) : Bool := p / 2 ^ 30 % 2 == 1
def pWW (p : Nat) : Nat := p / 2 ^ 24 % 2 ^ 6 + 1
def pWFMT (p : Nat) : Nat := p / 2 ^ 20 % 2 ^ 4
def pAW (p : Nat) : Nat := p / 2 ^ 14 % 2 ^ 6 + 1
def pAFMT (p : Nat) : Nat := p / 2 ^ 10 % 2 ^ 4

/-- The cost of one pass: AW × WS cycles (R93). -/
def passCost (p : Nat) : Nat := pAW p * sliceBits (pWW p)

/-- A format code legal for an array operand of a width (R85). -/
def arrayFmt (fmt w : Nat) : Bool := decide (fmt ≤ 12) && (decide (2 ≤ fmt) || decide (w ≤ 16))

/-- The values that MPREC accepts (R91, R240). -/
def precOk (p : Nat) : Bool :=
  p / 2 ^ 47 == 0 && p % 2 ^ 10 == 0 && decide (pAMODE p ≤ 4) && arrayFmt (pAFMT p) (pAW p) && arrayFmt (pWFMT p) (pWW p)
    && (decide (pAMODE p ≤ 1) || decide (pAFMT p ≤ 1 ∧ pWFMT p ≤ 1))

/-- PREC(cN) as a command finds it: a held MPREC issues before it (R256). -/
def precOf (s : State) (x : CtxId) (c : Ctx) (n : Nat) : Nat :=
  c.heldCmd.foldl (fun acc h => match h.instr with
    | .mprec _ cn _ => if cn.toNat = n then h.sval else acc
    | _ => acc) (tget 0 (s.core x.coreId).mx.prec n)

/-! ## Nests (R243 to R245) -/

def nestOf (r : Nat) : List NLevel :=
  (List.range 6).map fun n =>
    let w := r / 2 ^ (32 * n)
    { trip := w % 2 ^ 16, tstep := w / 2 ^ 16 % 2 ^ 3, sstep := w / 2 ^ 19 % 2 ^ 6, kstep := w / 2 ^ 25 % 2 == 1, swap := w / 2 ^ 26 % 2 == 1 }

def nestOk (r : Nat) : Bool :=
  r / 2 ^ 192 % 2 ^ 64 == 0 && (List.range 6).all (fun n => r / 2 ^ (32 * n + 27) % 2 ^ 5 == 0)
    && (nestOf r).all (fun v => v.trip != 0) && decide (nestPasses (nestOf r) ≤ 65536)

/-- The relative slot and the K-chunk index of pass `p` (R245). -/
def passSlot (l : List NLevel) (p : Nat) : Nat := ((l.zip (nestCounters l p)).map fun v => v.2 * v.1.sstep).sum
def passChunk (l : List NLevel) (p : Nat) : Nat :=
  (l.zip (nestCounters l p)).foldr (fun v acc => if v.1.kstep then acc * v.1.trip + v.2 else acc) 0

/-- Whether moving on from pass `p` advances a level with SWAP (R245). -/
def passSwaps : List NLevel → Nat → Bool
  | [], _ => false
  | v :: t, p => if p % v.trip + 1 < v.trip then v.swap else passSwaps t (p / v.trip)

/-- Relative slots that a nest spans. -/
def nestSpan (l : List NLevel) : Nat := (l.map fun v => (v.trip - 1) * v.sstep).sum + 1

/-! ## Tiles and their windows (R136, R137, R319) -/

/-- Writes closed at or before a count, in order of close, the later issued last (R137). -/
def Tile.closedAt (t : Tile) (count : Nat) : List TWrite :=
  (t.writes.filter fun w => decide (w.close ≤ count)).mergeSort fun a b => decide (a.close ≤ b.close)

/-- Every write that a read at a count sees has been made by the engine. -/
def Tile.readyAt (t : Tile) (count : Nat) : Bool := (t.closedAt count).all fun w => w.ready

/-- What a command issued at a count reads (R136). -/
def Tile.readAt (t : Tile) (count : Nat) : Img := (t.closedAt count).foldl (fun i w => w.onto i) t.img

/-- Writes whose windows are still open at a count. -/
def Tile.openAt (t : Tile) (count : Nat) : Nat := (t.openWrites count).length

/-! ## MPREC, MNEST, MPERT, MSTAT -/

def chkMprec (s : State) (c : Ctx) (cn : BitVec 3) (h : HeldCmd) : Rd Unit := do
  tileOk s c cn.toNat
  need (precOk h.sval) (.trap 0x01 0)

def goMprec (cn : BitVec 3) : Launcher := fun s x h _ => .ok (s.modMx x.coreId fun m => { m with prec := tset 0 m.prec cn.toNat h.sval })

def execMprec (c : Cond) (cn : BitVec 3) (sS : BitVec 6) (s : State) : Out :=
  engineSlot c false (fun e _ => do
    let v ← rdS e sS
    needMb e
    .ok (heldOf (.mprec c cn sS) e 0 v.toNat 0)) noFeet (fun s _ cx h => chkMprec s cx cn h) (goMprec cn) s

def goMnest : Launcher := fun s x h _ => .ok (s.modMx x.coreId fun m => { m with shadow := some (nestOf h.raw) })

def chkMnest : Checker := fun _ _ _ h => need (nestOk h.raw) (.trap 0x01 0)

def execMnest (c : Cond) (a : BitVec 4) (s : State) : Out :=
  engineSlot c false (fun e s => do
    let b ← rdA e a
    needMb e
    let r ← readDesc s e b.toNat 32 32
    .ok (heldOf (.mnest c a) e b.toNat 0 r)) noFeet chkMnest goMnest s

def chkMpert (s : State) (c : Ctx) (cn : BitVec 3) (h : HeldCmd) : Rd Unit := do
  tileOk s c cn.toNat
  need (decide (h.base < 2 ^ 13)) (.trap 0x01 0)

/-- The perturbation may fire in any MMA issued from now on: commands are numbered in issue order (R252). -/
def goMpert (log : Bool) (cn : BitVec 3) : Launcher := fun s x h _ =>
  .ok (s.modMx x.coreId fun m => { m with
    pert := tput m.pert cn.toNat (some ⟨h.base % 32, h.base / 32, h.sval, log, m.nextId⟩) })

def execMpert (c : Cond) (log : Bool) (cn : BitVec 3) (a : BitVec 4) (sV : BitVec 6) (s : State) : Out :=
  engineSlot c false (fun e _ => do
    let b ← rdA e a
    let v ← rdS e sV
    needMb e
    .ok (heldOf (.mpert c log cn a sV) e b.toNat v.toNat 0)) noFeet (fun s _ cx h => chkMpert s cx cn h) (goMpert log cn) s

/-- TSTAT as a read at a count finds it, and whether every drain it reports has landed and arrived (R138, R255). -/
def tstatAt (s : State) (c : CoreId) (t count : Nat) : Nat × Bool :=
  let tl := (s.core c).mx.tile t
  (tl.tspend.filter fun p => decide (p.at_ ≤ count)).foldl (fun acc p =>
    (p.bits, acc.2 && p.landed && s.arrivals.all fun a => a.owner != some (c, p.cmd))) (tl.tstat, true)

/-- Outside a region MSTAT stands behind every command that a COMMIT has let go and that has not issued (R230, R254). -/
def execMstat (c : Cond) (sel : MSel) (sd : BitVec 6) (cn : BitVec 3) (s : State) : Out :=
  runSlot .m c false (fun e s => do
    needMb e
    need (heldIssued s e) (.block .held)
    let m := (s.core e.x.coreId).mx
    match sel with
    | .tstat => do
      tileOk s e.pre cn.toNat
      let r := tstatAt s e.x.coreId cn.toNat e.pre.ct.issued
      need r.2 (.block .mstat)
      .ok (s.wrReg e.x (.s sd.toNat) r.1)
    | .prec => do
      tileOk s e.pre cn.toNat
      .ok (s.wrReg e.x (.s sd.toNat) (tget 0 m.prec cn.toNat))
    | .wload => do
      tileOk s e.pre cn.toNat
      .ok (s.wrReg e.x (.s sd.toNat) (m.wiss * 2 ^ 32 + m.wrel))
    | .nest => do
      need (cn == 0) (.trap 0x01 0)
      .ok (s.wrReg e.x (.s sd.toNat) (b2n m.shadow.isSome))) s

/-! ## MWLD (R241) -/

/-- A weight matrix's outer and inner counts and block axis (R238). -/
def wldShape (t : Bool) (kv neff : Nat) : Nat × Nat × Bool := if t then (neff, kv, true) else (kv, neff, false)

def wldOperand (s : State) (x : CtxId) (c : Ctx) (t : Bool) (kv prec : Nat) (raw : Nat) (eng : Bool) : Rd (List Foot × ODesc) :=
  let sh := wldShape (xor t (pTW prec)) kv (effN (pWW prec))
  operand s x c (ODesc.of raw) sh.1 sh.2.1 (containerBits (pWFMT prec) (pWW prec)) (fmtMx (pWFMT prec)) sh.2.2 eng

def newCmd (x : CtxId) (h : HeldCmd) (c : Ctx) (k : CKind) (count close : Nat) (reads writes : List Foot) : Cmd :=
  { id := 0, kind := k, count := count, close := close, ctx := x.cx, baddr := h.baddr, crec := c.pr.crec, reads := reads, writes := writes
    serial := c.fl.serial }

def goMwld (t : Bool) (cn : BitVec 3) (kvm1 : BitVec 8) : Launcher := fun s x h count => do
  let c := s.ctx x
  let prec := tget 0 (s.core x.coreId).mx.prec cn.toNat
  let kv := kvm1.toNat + 1
  let o ← wldOperand s x c t kv prec h.raw true
  .ok (s.modMx x.coreId fun m =>
    let slot := (m.ring o.2.ring).nextResv
    let k := newCmd x h c (.mwld m.wiss prec (xor t (pTW prec)) kv o.2 slot) count count o.1 []
    let m := { (m.enter k) with wiss := (m.wiss + 1) % 2 ^ 32 }
    if o.2.space = 2 then m.modRing o.2.ring fun r => r.reserve [false] else m)

def execMwld (c : Cond) (t : Bool) (cn : BitVec 3) (a : BitVec 4) (kvm1 : BitVec 8) (s : State) : Out :=
  engineSlot c true (fun e s => do
    let b ← rdA e a
    needMb e
    let r ← readDesc s e b.toNat 32 32
    .ok (heldOf (.mwld c t cn a kvm1) e b.toNat 0 r)) noFeet
    (fun s x cx h => do
      tileOk s cx cn.toNat
      let _ ← wldOperand s x cx t (kvm1.toNat + 1) (precOf s x cx cn.toNat) h.raw false
      .ok ()) (goMwld t cn kvm1) s

/-! ## MMA (R246, R247) -/

/-- Activations of one pass (R238). -/
def actOperand (s : State) (x : CtxId) (c : Ctx) (t : Bool) (prec raw : Nat) (eng : Bool) : Rd (List Foot × ODesc) := do
  need ((ODesc.of raw).space == 2) (.trap 0x01 0)
  let tt := xor t (pTA prec)
  operand s x c (ODesc.of raw) (if tt then 256 else 32) (if tt then 32 else 256) (containerBits (pAFMT prec) (pAW prec)) (fmtMx (pAFMT prec)) (!tt) eng

/-- The nest of an MMA with `nest`: the shadow, which an earlier held MNEST fills and a held MMA empties (R256). -/
def nestView (s : State) (x : CtxId) (c : Ctx) : Option (List NLevel) :=
  c.heldCmd.foldl (fun acc h => match h.instr with
    | .mnest _ _ => some (nestOf h.raw)
    | .mma _ _ true _ _ _ _ => none
    | _ => acc) (s.core x.coreId).mx.shadow

def oneLevel : List NLevel := [{ trip := 1, tstep := 0, sstep := 0, kstep := false, swap := false }]

def mmaTiles (s : State) (c : Ctx) (n : Nat) (l : List NLevel) : Rd Unit := (nestTiles n l).forM (tileOk s c)

/-- The exposed latency of an MMA (R136). -/
def mmaLatency (prec : Nat) (l : List NLevel) : Nat := 16 + nestPasses l * passCost prec

/-- A command's writes join their tiles' open windows. -/
def Mx.openWrite (m : Mx) (t id count close cols : Nat) (ready : Bool) : Mx :=
  m.modTile t fun v => { v with
    writes := v.writes ++ [{ cmd := id, opened := count, close := close, cols := cols, img := { }, ready := ready, sat := false, flushed := false }] }

def goMma (t nest ovw wrel : Bool) (cn : BitVec 3) : Launcher := fun s x h count => do
  let c := s.ctx x
  let m := (s.core x.coreId).mx
  let prec := tget 0 m.prec cn.toNat
  let l ← (if nest then (match m.shadow with | none => trap 0x01 0 | some l => .ok l) else .ok oneLevel)
  let o ← actOperand s x c t prec h.raw true
  let span := nestSpan l
  need (decide (span ≤ (m.ring o.2.ring).scount)) (.trap 0x01 0)
  mmaTiles s c cn.toNat l
  let ts := nestTiles cn.toNat l
  need (ts.all fun k => k == cn.toNat || pAMODE (tget 0 m.prec k) == pAMODE prec) (.trap 0x01 0)
  need (ts.all fun k => decide ((m.tile k).openAt count < 2)) (.trap 0x01 0)
  let close := count + mmaLatency prec l
  .ok (s.modMx x.coreId fun m =>
    let slot := (m.ring o.2.ring).nextResv
    let k := newCmd x h c (.mma prec (xor t (pTA prec)) ovw wrel cn.toNat o.2 l h.padv h.padb slot) count close [] []
    let id := m.nextId
    let m := m.enter k
    let m := ts.foldl (fun m k => m.openWrite k id count close 0 false) m
    let m := m.modRing o.2.ring fun r => r.reserve ((List.range span).map fun i =>
      !((List.range (nestPasses l)).any fun p => passSlot l p == i))
    if nest then { m with shadow := none, live := some l } else m)

def execMma (c : Cond) (t nest ovw wrel : Bool) (cn : BitVec 3) (a : BitVec 4) (s : State) : Out :=
  engineSlot c true (fun e s => do
    let b ← rdA e a
    needMb e
    let r ← readDesc s e b.toNat 32 32
    .ok (heldOf (.mma c t nest ovw wrel cn a) e b.toNat 0 r)) noFeet
    (fun s x cx h => do
      tileOk s cx cn.toNat
      let _ ← actOperand s x cx t (precOf s x cx cn.toNat) h.raw false
      mmaTiles s cx cn.toNat (if nest then (nestView s x cx).getD oneLevel else oneLevel)) (goMma t nest ovw wrel cn) s

/-! ## MDRN (R250, R251) -/

/-- The contents of a drain's descriptor (R237, R238): WCODE 7 for every format, though only an integer one uses the field (log entry
111). -/
def drnContents (d : ODesc) (tt : Bool) : Rd Unit :=
  need (decide (1 ≤ d.ncol ∧ d.ncol ≤ 256) && d.wcode != 7 && decide (d.fmt ≤ 12) && (!fmtMx d.fmt || tt || d.ncol % 32 == 0)) (.trap 0x01 0)

/-- The 16 bytes of a sync word as a footprint. -/
def syncFoot (vault : Bool) (a : Nat) : List Foot := [⟨if vault then .vault else .lmem, some (a, 16)⟩]

/-- A drain's operand with its sync word, and everything it writes (R235). The operand's ranges are checked before the sync word, an order
that R234 leaves open (log entry 132). -/
def drnOperand (s : State) (x : CtxId) (c : Ctx) (t : Bool) (prec raw : Nat) (eng : Bool) : Rd (List Foot × ODesc) := do
  let d := ODesc.of raw
  let tt := xor t (pTDRN prec)
  drnContents d tt
  let o ← operand s x c d (if tt then d.ncol else 32) (if tt then 32 else d.ncol) (storeBits d.fmt d.wcode) (fmtMx d.fmt) true eng
  if d.syncen then do
    let a ← syncCheck s x c d.syncsp d.sync
    .ok (o.1 ++ syncFoot d.syncsp a, { o.2 with sync := a })
  else .ok o

/-- The footprint that a drain's descriptor gives, whether or not it passes its checks (R222). -/
def drnFeet (x : CtxId) (t : Bool) (prec raw : Nat) : List Foot :=
  let d := (ODesc.of raw).resolved x
  let tt := xor t (pTDRN prec)
  opFeet d (if tt then d.ncol else 32) (if tt then 32 else d.ncol) (storeBits d.fmt d.wcode) (fmtMx d.fmt) true
    ++ if d.syncen then syncFoot d.syncsp (if d.syncsp then (resolve x.cl d.sync).getD d.sync else d.sync) else []

/-- The latency of a drain's clear, and of its TSTAT beyond that (R136, R138). -/
def drainLatency : Nat := 80
def tstatLag : Nat := 24

def goMdrn (t clr : Bool) (pk : Option Nat) (rm : Rm) (sat : Bool) (sc : Scope) (cn : BitVec 3) (scaled : Bool) : Launcher := fun s x h count => do
  let c := s.ctx x
  let m := (s.core x.coreId).mx
  let prec := tget 0 m.prec cn.toNat
  need (!clr || decide ((m.tile cn.toNat).openAt count < 2)) (.trap 0x01 0)
  let o ← drnOperand s x c t prec h.raw true
  .ok (s.modMx x.coreId fun m =>
    let close := count + drainLatency
    let k := newCmd x h c (.mdrn prec (xor t (pTDRN prec)) clr pk rm sat sc cn.toNat o.2 (if scaled then some (h.sval % 2 ^ 32) else none)
      (m.tile cn.toNat).lastDrain) count close [] o.1
    let id := m.nextId
    let m := m.enter k
    let m := if clr then m.openWrite cn.toNat id count close 256 true else m
    let m := m.modTile cn.toNat fun v => { v with lastDrain := some count, tspend := v.tspend ++ [⟨close + tstatLag, 0, id, false⟩] }
    if o.2.space = 2 then m.modRing o.2.ring fun r => { r with waiting := r.waiting ++ [.cmd id] } else m)

/-- Whether a drain with its descriptor at `b` hits the region's table (R222, R224). -/
def drnHits (s : State) (e : Env) (t : Bool) (cn : BitVec 3) (b : Word) : Bool :=
  match readDesc s e b.toNat 32 32 with
  | .ok r => e.inRegion && footHits (s.ctx e.x) (drnFeet e.x t (precOf s e.x e.pre cn.toNat) r)
  | .error _ => false

def execMdrn (c : Cond) (t clr pkEn : Bool) (pk : BitVec 3) (rm : Rm) (sat : Bool) (sc : Scope) (cn : BitVec 3) (a : BitVec 4) (sS : BitVec 6)
    (s : State) : Out :=
  engineSlot c true (fun e s => do
    let b ← rdA e a
    let v ← aliasFirst (e.mb && drnHits s e t cn b) (rdS e sS)
    needMb e
    let r ← readDesc s e b.toNat 32 32
    .ok (heldOf (.mdrn c t clr pkEn pk rm sat sc cn a sS) e b.toNat v.toNat r))
    (fun s x cx h => drnFeet x t (precOf s x cx cn.toNat) h.raw)
    (fun s x cx h => do
      tileOk s cx cn.toNat
      let _ ← drnOperand s x cx t (precOf s x cx cn.toNat) h.raw false
      .ok ()) (goMdrn t clr (if pkEn then some pk.toNat else none) rm sat sc cn (sS != 0)) s

end Sys2Proof.Machine
end

