-- ==== Sys2Proof/Machine/Array.lean ====
section
/-! DEFINITION. The matrix engine at work: weight loads, passes through the array, drains, and windows closing (R96 to R106,
R136 to R138, R241, R242, R245 to R253). -/

namespace Sys2Proof.Machine

/-! ## Operand groups (R96 to R98) -/

/-- The 32 elements of a K-group: original values, which are excluded by padding, and whether they are integers, whose sign s is +1
(R95). -/
structure KGroup where
  vals : List FV
  excl : List Bool
  scale : Nat
  int : Bool
  deriving DecidableEq, Repr

/-- An excluded element enters as magnitude 0 (R98). -/
def KGroup.entering (g : KGroup) : List FV := (g.vals.zip g.excl).map fun v => if v.2 then .zero else v.1

/-- Alignment by the operand's format (R96 to R98). -/
def KGroup.align (g : KGroup) (fmt w : Nat) (rne : Bool) : AGroup :=
  match AFmt.ofCode fmt with
  | some (.flt f) => alignFloat f w rne g.entering
  | some (.mx f) => if g.scale = 0xFF then ⟨g.vals.map fun _ => 0, 0, false⟩ else alignMx f g.scale w rne g.entering
  | _ => alignInt g.entering

/-- Whether a format code names an integer format. -/
def fmtInt (fmt : Nat) : Bool := AFmt.ofCode fmt == some .sint || AFmt.ofCode fmt == some .uint

/-- The value of a container in a format; bits above the element are ignored (R236). -/
def elemVal (fmt w scale x : Nat) : FV :=
  match AFmt.ofCode fmt with
  | none => .zero
  | some a => a.val w scale (x % 2 ^ a.bits w)

/-! ## Chunk sums (R99, R103) -/

/-- An aligned group with the original values it came from. -/
structure Aligned where
  grp : KGroup
  al : AGroup
  deriving DecidableEq, Repr

def alignAll (fmt w : Nat) (rne : Bool) (gs : List KGroup) : List Aligned := gs.map fun g => ⟨g, g.align fmt w rne⟩

/-- One group's contribution: the sum of products in units of both alignments (R99). -/
def groupSum (a w : Aligned) : Dy :=
  let x : Int := ((a.al.mags.zip w.al.mags).map fun p => p.1 * p.2).sum
  ⟨decide (x < 0), x.natAbs, a.al.unit + w.al.unit⟩

/-- The exact chunk sum (R99). -/
def chunkSum (as ws : List Aligned) : Dy :=
  (as.zip ws).foldl (fun acc p => Dy.add .rne acc (groupSum p.1 p.2)) ⟨false, 0, 0⟩

/-- Whether an element's sign s is -1 (R95, R99). -/
def KGroup.neg (g : KGroup) (i : Nat) : Bool := !g.int && (g.vals.getD i .zero).sign

/-- Every product of the chunk is -0, or there is none (R100). -/
def allNegZero (as ws : List Aligned) : Bool :=
  (as.zip ws).all fun p =>
    ((List.range 32).all fun i =>
      p.1.grp.excl.getD i true || p.2.grp.excl.getD i true
        || (p.1.al.mags.getD i 0 * p.2.al.mags.getD i 0 == 0
            && xor (p.1.grp.neg i) (p.2.grp.neg i)))

/-- NAN, PINF and NINF bits of the pairs of a chunk: 1, 2 and 4 (R103). -/
def chunkSpecials (as ws : List Aligned) : Nat :=
  (as.zip ws).foldl (fun acc p => (List.range 32).foldl (fun acc i =>
    if p.1.grp.excl.getD i true || p.2.grp.excl.getD i true then acc
    else match specialOf (p.1.grp.vals.getD i .zero) (p.2.grp.vals.getD i .zero) with
      | .none => acc
      | .nan => acc ||| 1
      | .pinf => acc ||| 2
      | .ninf => acc ||| 4) acc) 0

/-! ## Accumulation (R100, R102, R252) -/

/-- The value of an accumulator element, or of a perturbation's operand, in a mode. -/
def accVal (mode x : Nat) : FV :=
  match mode with
  | 0 => fp32.val (x % 2 ^ 32)
  | 1 => fp64.val (x % 2 ^ 64)
  | 4 => .fin (Dy.ofInt (sextN x 64))
  | _ => .fin (Dy.ofInt (sextN x 32))
def pertVal (mode x : Nat) : FV :=
  match mode with
  | 0 => fp32.val (x % 2 ^ 32)
  | 1 => fp64.val (x % 2 ^ 64)
  | _ => .fin (Dy.ofInt (sextN x 64))

def FV.int : FV → Int
  | .fin d => d.toInt .rtz
  | _ => 0

/-- The new element, and whether an I32-saturating add clamped. `e` is a perturbation's value. -/
def accumulate (mode psh acc : Nat) (s : Dy) (negZero : Bool) (e : Option FV) : Nat × Bool :=
  let p := s.scale psh
  let a := accVal mode acc
  if mode ≤ 1 then
    let fmt := if mode = 0 then fp32 else fp64
    let v := FV.add .rne a (.fin p)
    let v := match e with | none => v | some x => FV.add .rne v x
    if v.isZero then
      (fmt.signBit (a.isZero && a.sign && negZero && p.m == 0 && (match e with | none => true | some x => x.isZero && x.sign)), false)
    else ((fmt.conv .rne false v).bits, false)
  else
    let x := a.int + p.toInt .rtz + (match e with | none => 0 | some v => v.int)
    match mode with
    | 2 => (zextI (sextN (zextI x 32) 32) 64, false)
    | 3 => (zextI (clampInt true 32 x) 64, decide (clampInt true 32 x ≠ x))
    | _ => (zextI x 64, false)

/-! ## Weight loads (R241, R242) -/

/-- WEIGHT_LOAD_START: the load's plane is released and its source may be read. A load whose number lies behind WREL never starts (log
entry 112). -/
def execWeightLoadStart (c : CoreId) (i : Nat) (s : State) : Out :=
  let m := (s.core c).mx
  match m.cmds[i]? with
  | none => .refused (.notEnabled "WEIGHT_LOAD_START")
  | some k => match k.kind with
    | .mwld w _ _ _ d slot =>
      event "WEIGHT_LOAD_START"
        (s.clusterRuns c.cl && !k.running && s.cmdFree c k && decide ((w + 2 ^ 32 - m.wrel) % 2 ^ 32 < 2)
          && (d.space != 2 || (m.ring d.ring).published slot))
        ((s.readsNow c k.id).modMx c fun m => m.modCmd k.id fun k => { k with running := true })
    | _ => .refused (.notEnabled "WEIGHT_LOAD_START")

/-- The elements of a weight matrix with their scale codes, keyed by column * 256 + row. -/
def readWeights (rd : Nat → Nat) (prec : Nat) (t : Bool) (kv : Nat) (d : ODesc) : Tab (Nat × Nat) :=
  let cb := containerBits (pWFMT prec) (pWW prec)
  let mx := fmtMx (pWFMT prec)
  (List.range (effN (pWW prec))).flatMap fun n => (List.range kv).filterMap fun k =>
    let ij := if t then (n, k) else (k, n)
    let v := (readElem rd d cb ij.1 ij.2, if mx then rd (scaleAddr d t ij.1 ij.2) else 0)
    if v = (0, 0) then none else some (n * 256 + k, v)

/-- WEIGHT_LOAD_LAND: the source is read and aligned into the plane; uncorrectable data lands the load failed (R241) and raises MWLD's
error code 0x01 in its context (R369, log entry 118). A ring slot is read whole here, as it stands now (R198; log entry 130). -/
def execWeightLoadLand (c : CoreId) (i : Nat) (s : State) : Out :=
  let m := (s.core c).mx
  match m.cmds[i]? with
  | none => .refused (.notEnabled "WEIGHT_LOAD_LAND")
  | some k => match k.kind with
    | .mwld w prec t kv d slot =>
      let sb := (m.ring d.ring).slotBase ((m.ring d.ring).resvSlot slot)
      let sh := wldShape t kv (effN (pWW prec))
      let rs := elemRanges d sh.1 sh.2.1 (containerBits (pWFMT prec) (pWW prec)) ++
        (if fmtMx (pWFMT prec) then scaleRanges d sh.1 sh.2.1 sh.2.2 else [])
      let bad := rs.any fun r => s.spaceBad c d.space sb r
      let load : Load := { w := w, fmt := pWFMT prec, width := pWW prec, rne := pARND prec, kv := kv, failed := bad
                           vals := readWeights (s.spaceRd c k.early d.space sb) prec t kv d }
      let u := ((if d.space = 1 then s.served d.base else s).modMx c fun m =>
        let m := ({ m with planes := tput m.planes (w % 2) (some load) } : Mx).drop k.id
        if d.space = 2 then m.modRing d.ring fun r => r.readDone slot else m).wakeCore c
      event "WEIGHT_LOAD_LAND" (s.clusterRuns c.cl && k.running) (if bad then u.engineTrap c k 0x01 else u)
    | _ => .refused (.notEnabled "WEIGHT_LOAD_LAND")

/-! ## Passes (R245 to R248) -/

/-- The engine runs its MMAs in issue order. -/
def Mx.mmaNow (m : Mx) : Option Cmd := m.cmds.find? fun k => k.kind.isMma

/-- The load that a pass reads, once it has landed (R242). -/
def Mx.loadNow (m : Mx) : Option Load :=
  match tget none m.planes (m.wrel % 2) with
  | none => none
  | some l => if l.w = m.wrel then some l else none

/-- Engine error codes of a weight load (R248, R369). -/
def loadErr (prec : Nat) (l : Load) : Nat :=
  if l.failed then 0x04 else if l.fmt ≠ pWFMT prec ∨ l.width ≠ pWW prec then 0x05 else 0

/-- Releases that passes `p` to the end and the final release still owe (R245, R248). -/
def owedReleases (l : List NLevel) (wrel : Bool) (p : Nat) : Nat :=
  ((List.range (nestPasses l)).filter fun q => decide (p ≤ q ∧ q + 1 < nestPasses l) && passSwaps l q).length + b2n wrel

/-- A tile's write by a command has been made in full. -/
def Tile.finish (t : Tile) (id : Nat) : Tile :=
  { t with writes := t.writes.map fun w => if w.cmd = id then { w with ready := true } else w }

def Mx.finishWrites (m : Mx) (id : Nat) : Mx := { m with tiles := m.tiles.map fun e => (e.1, e.2.finish id) }

/-- An engine error stops an MMA at its pass: ring and WREL stand as if it had completed (R248). -/
def State.failMma (s : State) (c : CoreId) (k : Cmd) (code : Nat) : State :=
  match k.kind with
  | .mma _ _ _ wrel _ d l _ _ slot =>
    let s := s.modMx c fun m =>
      let m := { m with wrel := (m.wrel + owedReleases l wrel k.next) % 2 ^ 32 }
      let m := m.modRing d.ring fun r => (List.range (nestSpan l)).foldl (fun r i =>
        if slot + i < r.consumed then r else r.readDone (slot + i)) r
      (m.drop k.id).finishWrites k.id
    (s.engineTrap c k code).wakeCore c
  | _ => s

/-- The first pass of a command: each of its writes begins from what its tile held at its issue count (R136). -/
def Mx.openBases (m : Mx) (k : Cmd) : Mx :=
  if k.next ≠ 0 then m
  else { m with tiles := m.tiles.map fun e =>
    (e.1, { e.2 with writes := e.2.writes.map fun w => if w.cmd = k.id then { w with img := e.2.readAt k.count } else w }) }

/-- MATRIX_PASS_START: the slot is published and load WREL has landed. -/
def execMatrixPassStart (c : CoreId) (s : State) : Out :=
  let m := (s.core c).mx
  match m.mmaNow, m.loadNow with
  | some k, some ld => match k.kind with
    | .mma prec _ _ _ _ d l _ _ slot =>
      event "MATRIX_PASS_START" (s.clusterRuns c.cl && !k.running && s.cmdFree c k && (m.ring d.ring).published (slot + passSlot l k.next))
        (if loadErr prec ld ≠ 0 then s.failMma c k (loadErr prec ld)
         else s.modMx c fun m => (m.openBases k).modCmd k.id fun k => { k with running := true })
    | _ => .refused (.notEnabled "MATRIX_PASS_START")
  | _, _ => .refused (.notEnabled "MATRIX_PASS_START")

/-- A pass's activation groups of one lane (R238, R246). -/
def actGroups (rd : Nat → Nat) (prec : Nat) (t : Bool) (d : ODesc) (padv padb kc m : Nat) : List KGroup :=
  let cb := containerBits (pAFMT prec) (pAW prec)
  let mx := fmtMx (pAFMT prec)
  (List.range 8).map fun g =>
    let ij (i : Nat) : Nat × Nat := if t then (32 * g + i, m) else (m, 32 * g + i)
    let sc := if mx then rd (scaleAddr d (!t) (ij 0).1 (ij 0).2) else 0
    { vals := (List.range 32).map fun i => elemVal (pAFMT prec) (pAW prec) sc (readElem rd d cb (ij i).1 (ij i).2)
      excl := (List.range 32).map fun i => decide (32 ≤ m + pPADR prec) || (padb != 0 && decide (padv ≤ kc * 256 + 32 * g + i))
      scale := sc, int := fmtInt (pAFMT prec) }

/-- A load's groups of one column. -/
def wtGroups (l : Load) (n : Nat) : List KGroup :=
  let col := l.vals.filter fun e => e.1 / 256 == n
  (List.range 8).map fun g =>
    let at_ (i : Nat) : Nat × Nat := tget (0, 0) col (n * 256 + 32 * g + i)
    { vals := (List.range 32).map fun i => elemVal l.fmt l.width (at_ i).2 (at_ i).1
      excl := (List.range 32).map fun i => decide (l.kv ≤ 32 * g + i)
      scale := (at_ 0).2, int := fmtInt l.fmt }

/-- The slot ranges that a pass reads. -/
def actRanges (prec : Nat) (t : Bool) (d : ODesc) : List (Nat × Nat) :=
  let sh := if t then (256, 32) else (32, 256)
  elemRanges d sh.1 sh.2 (containerBits (pAFMT prec) (pAW prec)) ++ (if fmtMx (pAFMT prec) then scaleRanges d sh.1 sh.2 (!t) else [])

/-- A pass's results for one tile: the new image, and whether an add clamped. -/
def passImg (prec : Nat) (ovw : Bool) (as ws : List (List Aligned)) (old : Img) (pert : Option Pert) : Img × Bool :=
  let mode := pAMODE prec
  let cells := (List.range 32).flatMap fun m =>
    let a := as.getD m []
    (List.range ws.length).map fun n =>
      let w := ws.getD n []
      let key := m * 256 + n
      let e := match pert with
        | some p => if p.row = m ∧ p.col = n then some (pertVal mode p.val) else none
        | none => none
      let acc := if ovw then 0 else tget 0 old.el key
      let r := accumulate mode (pPSH prec) acc (chunkSum a w) (allNegZero a w) e
      let st := (if ovw then 0 else tget 0 old.sticky key) ||| (if mode ≤ 1 then chunkSpecials a w else 0)
      (key, r, st)
  let cols := ws.length
  ({ el := mergeTab (colsBelow cols false old.el) (cells.filterMap fun x => if x.2.1.1 = 0 then none else some (x.1, x.2.1.1))
     sticky := mergeTab (colsBelow cols false old.sticky) (cells.filterMap fun x => if x.2.2 = 0 then none else some (x.1, x.2.2))
     bad := if ovw then old.bad.filter fun k => decide (cols ≤ k % 256) else old.bad },
   cells.any fun x => x.2.1.2)

/-- The perturbation that fires in a pass of a command into a tile (R252). -/
def Mx.firing (m : Mx) (t id : Nat) : Option Pert :=
  match tget none m.pert t with
  | some p => if p.after ≤ id then some p else none
  | none => none

/-- A pass writes its elements into its tile's open write. -/
def Mx.passWrite (m : Mx) (k : Cmd) (prec t : Nat) (ovw : Bool) (as ws : List (List Aligned)) : Mx :=
  let flushed := as.any (fun l => l.any fun a => a.al.flushed) || ws.any fun l => l.any fun a => a.al.flushed
  let pert := m.firing t k.id
  let m := m.modTile t fun v => { v with writes := v.writes.map fun w =>
    if w.cmd = k.id then
      let r := passImg prec ovw as ws w.img pert
      { w with img := r.1, cols := ws.length, sat := w.sat || r.2, flushed := w.flushed || flushed }
    else w }
  if pert.isSome then { m with pert := terase m.pert t } else m

/-- The log record of a fired perturbation with `log` (R252, R368). -/
def State.logAdd (s : State) (die : Nat) (bus : Bool) (r : LogRec) : State :=
  let key := 2 * die + b2n bus
  let l : ErrLog := tget { } s.logs key
  let recs := l.recs ++ [{ r with seq := l.next, die := die, tick := s.tick }]
  { s with logs := tput s.logs key { recs := if 1024 < recs.length then recs.tail else recs
                                     next := (l.next + 1) % 65536
                                     lost := if 1024 < recs.length then l.lost + 1 else l.lost } }

def logRec (kind unit lane count addr detail : Nat) : LogRec :=
  { seq := 0, kind := kind, die := 0, unit := unit, lane := lane, count := count, addr := addr, tick := 0, detail := detail }

/-- The UNIT field of a record about a core (R368). -/
def coreUnit (c : CoreId) : Nat := c.cl % 12 * 16 + c.core * 2

/-- MATRIX_PASS_RETIRE: the pass under way writes its elements and consumes its slot (R246, R247). It reads the slot as it stands now, so
that a store after the publication is always read (log entry 113). -/
def execMatrixPassRetire (c : CoreId) (s : State) : Out :=
  let m := (s.core c).mx
  match m.mmaNow, m.loadNow with
  | some k, some ld => match k.kind with
    | .mma prec t ovw wrel n d l padv padb slot =>
      let r := m.ring d.ring
      let sb := r.slotBase (r.resvSlot (slot + passSlot l k.next))
      let kc := passChunk l k.next
      let tile := passTile n l k.next
      let last := k.next + 1 = nestPasses l
      let rd := s.spaceRd c [] 2 sb
      let as := (List.range 32).map fun i => alignAll (pAFMT prec) (pAW prec) (pARND prec) (actGroups rd prec t d padv padb kc i)
      let ws := (List.range (effN (pWW prec))).map fun i => alignAll ld.fmt ld.width ld.rne (wtGroups ld i)
      let keepSlot := (List.range (nestPasses l)).any fun q => decide (k.next < q) && passSlot l q == passSlot l k.next
      let pert := m.firing tile k.id
      let s' := s.modMx c fun m =>
        let m := m.passWrite k prec tile (ovw && kc == 0) as ws
        let m := if keepSlot then m else m.modRing d.ring fun r => r.readDone (slot + passSlot l k.next)
        let m := { m with wrel := (m.wrel + (if last then b2n wrel else b2n (passSwaps l k.next))) % 2 ^ 32 }
        if last then (m.drop k.id).finishWrites k.id
        else m.modCmd k.id fun k => { k with running := false, next := k.next + 1 }
      let s' := match pert with
        | some p => if p.log then s'.logAdd (c.cl / 12) false (logRec 0x04 (coreUnit c) 0 1 (p.row * 256 + p.col) p.val) else s'
        | none => s'
      event "MATRIX_PASS_RETIRE" (s.clusterRuns c.cl && k.running)
        (if (actRanges prec t d).any fun b => s.spaceBad c 2 sb b then s.failMma c k 0x06
         else (s'.tally (cmdCtx c k) 0x00A (passCost prec)).wakeCore c)
    | _ => .refused (.notEnabled "MATRIX_PASS_RETIRE")
  | _, _ => .refused (.notEnabled "MATRIX_PASS_RETIRE")

/-! ## Windows closing (R137) and drain status (R138) -/

/-- The bundle count of a core's matrix-bound context. -/
def State.mxCtx (s : State) (c : CoreId) : Option Nat :=
  (List.range 4).find? fun k => ((s.core c).ctx k).pr.mb && ((s.core c).ctx k).pr.st != .idle
def State.mxCount (s : State) (c : CoreId) : Nat :=
  match s.mxCtx c with
  | none => 0
  | some k => ((s.core c).ctx k).ct.issued

/-- TILE_WINDOW_CLOSE: the write whose window closed first takes effect. -/
def execTileWindowClose (c : CoreId) (t : Nat) (s : State) : Out :=
  match (s.core c).mx.closable t (s.mxCount c) with
  | none => .refused (.notEnabled "TILE_WINDOW_CLOSE")
  | some w => event "TILE_WINDOW_CLOSE" (s.clusterRuns c.cl)
      (s.modMx c fun m => m.modTile t fun v => v.close w)

/-- TSTAT_UPDATE: TSTAT takes the bits of the oldest drain whose count has come, once its bytes have landed and it has arrived (R138,
R255). -/
def execTstatUpdate (c : CoreId) (t : Nat) (s : State) : Out :=
  match ((s.core c).mx.tile t).tspend with
  | [] => .refused (.notEnabled "TSTAT_UPDATE")
  | p :: rest => event "TSTAT_UPDATE" (s.clusterRuns c.cl && p.landed && decide (p.at_ ≤ s.mxCount c) && s.arrivals.all fun a => a.owner != some (c, p.cmd))
      (s.modMx c fun m => m.modTile t fun v => { v with tstat := p.bits, tspend := rest })

/-! ## Drains (R104, R105, R250, R251) -/

/-- The drain value of an element, before its scale (R104): the sticky bits count in every mode, also where passes of an earlier mode have
left them. -/
def drainVal (mode : Nat) (i : Img) (key : Nat) : FV :=
  let st := tget 0 i.sticky key
  let acc := accVal mode (tget 0 i.el key)
  if st % 2 = 1 ∨ (st / 2 % 2 = 1 ∧ st / 4 % 2 = 1) ∨ (st / 2 % 2 = 1 ∧ acc = .inf true) ∨ (st / 4 % 2 = 1 ∧ acc = .inf false) then .nan
  else if st / 2 % 2 = 1 then .inf false
  else if st / 4 % 2 = 1 then .inf true
  else acc

/-- The scaled value, exactly: scale 1 when no register is named (R250). -/
def scaled (scale : Option Nat) (v : FV) : FV :=
  match scale with
  | none => v
  | some x => FV.mul v (fp32.val x)

/-- A row of stored elements, its scales, and whether a conversion saturated. -/
structure StoredRow where
  elems : List Nat
  scales : List Nat
  sat : Bool
  deriving DecidableEq, Repr

/-- Splits a list into runs of 32; `n` bounds the runs. -/
def runs32 : Nat → List FV → List (List FV)
  | 0, _ => []
  | n + 1, l => if l.isEmpty then [] else l.take 32 :: runs32 n (l.drop 32)

/-- Converts one row to a storage format (R89, R90, R250). -/
def storeRow (fmt wbits : Nat) (rm : Rm) (sat : Bool) (vs : List FV) : StoredRow :=
  match AFmt.ofCode fmt with
  | some (.mx f) =>
    let bs := (runs32 8 vs).map fun b => convMx f rm b
    ⟨bs.flatMap fun b => b.elems.map Conv.bits, bs.map MxBlock.scale, bs.any fun b => b.elems.any Conv.sat⟩
  | some (.flt f) =>
    let cs := vs.map fun v => f.conv rm sat v
    ⟨cs.map Conv.bits, [], cs.any Conv.sat⟩
  | some a =>
    let cs := vs.map fun v => convInt (a == .sint) wbits rm v
    ⟨cs.map Conv.bits, [], cs.any Conv.sat⟩
  | none => ⟨[], [], false⟩

/-- The bytes of a row: containers of `cb` bits packed upward, the last byte's spare bits zero (R86, R238). -/
def packRow (cb : Nat) (es : List Nat) : Nat := es.foldr (fun e acc => e % 2 ^ cb + 2 ^ cb * acc) 0

/-- NaN-seen and infinity-seen of a row (R105). -/
def rowSeen (fmt : Nat) (r : StoredRow) : Bool × Bool :=
  match AFmt.ofCode fmt with
  | some (.flt f) => (r.elems.any fun e => (f.val e).isNan, r.elems.any fun e => (f.val e).isInf)
  | some (.mx f) => ((r.elems.any fun e => (f.val e).isNan) || r.scales.any fun x => x == 0xFF, r.elems.any fun e => (f.val e).isInf)
  | _ => (false, false)

/-- The pass-side status that a drain counts (R105). -/
def Tile.passStats (t : Tile) (prev : Option Nat) (count : Nat) : Bool × Bool :=
  let all := t.stats ++ (t.closedAt count).map fun w => (w.close, w.sat, w.flushed)
  let mine := all.filter fun e => decide (e.1 ≤ count) && (match prev with | none => true | some p => decide (p < e.1))
  (mine.any fun e => e.2.1, mine.any fun e => e.2.2)

/-- What an uncorrectable element is stored as: the format's default NaN, or 0 where it has none (R251). -/
def badCode (fmt : Nat) : Nat :=
  match AFmt.ofCode fmt with
  | some (.flt f) => if f.cls == .finite then 0 else f.nan
  | some (.mx f) => if f.cls == .finite then 0 else f.nan
  | _ => 0

/-- Whether a drain meets an uncorrectable element of the columns that it stores. -/
def drainBad (img : Img) (d : ODesc) : Bool := img.bad.any fun k => decide (k % 256 < d.ncol)

/-- Everything a drain stores: rows by the outer index, and the values offered to a peak register. `all` says that no element can
be relied on, `lost` names the elements that an error in the destination path takes. Such an element offers 0 to the peak register and
counts as 0 in its MX block, which no rule settles (R106, R251; log entry 126). -/
def drainRows (img : Img) (prec : Nat) (t : Bool) (rm : Rm) (sat : Bool) (d : ODesc) (scale : Option Nat) (all : Bool)
    (lost : List Nat) : List (List FV) × List StoredRow :=
  let key (i j : Nat) : Nat := if t then j * 256 + i else i * 256 + j
  let bad (i j : Nat) : Bool := all || img.bad.contains (key i j) || lost.contains (key i j)
  let rows := (List.range (if t then d.ncol else 32)).map fun i => (List.range (if t then 32 else d.ncol)).map fun j =>
    if bad i j then FV.fin ⟨false, 0, 0⟩ else scaled scale (drainVal (pAMODE prec) img (key i j))
  (rows, rows.mapIdx fun i r =>
    let o := storeRow d.fmt (2 ^ d.wcode) rm sat r
    { o with elems := o.elems.mapIdx fun j e => if bad i j then badCode d.fmt else e })

/-- The bytes of a drain's rows and scales. -/
def drainPuts (t : Bool) (d : ODesc) (rows : List StoredRow) : List GPut :=
  let cb := storeBits d.fmt d.wcode
  let rb := rowBytes (if t then 32 else d.ncol) cb
  let bytes (a n v : Nat) : List GPut := (List.range n).map fun i => ⟨a + i, 0, 8, v / 256 ^ i % 256, none⟩
  (rows.mapIdx fun i r =>
    bytes (d.base + i * d.pitch) rb (packRow cb r.elems) ++ bytes (d.sbase + i * d.spitch) r.scales.length (packRow 8 r.scales)).flatten

/-- Whether some of a drain's writes lie on an isolated die (R374). -/
def State.drainLost (s : State) (d : ODesc) (ps : List GPut) : Bool :=
  d.space == 1 && s.health.isodies != 0 && ps.any fun p => s.isolated (p.addr / 2 ^ 30)

/-- A drain has landed whole: TSTAT may take its bits, its slot is published, and it leaves the tracker, or stays there until its arrival
has been made (R71, R82, R235, R255). -/
def State.drainDone (s : State) (c : CoreId) (k : Cmd) (tile : Nat) (d : ODesc) (n : Nat) : State :=
  let s := s.modMx c fun m =>
    let m := m.modTile tile fun v => { v with tspend := v.tspend.map fun p => if p.cmd = k.id then { p with landed := true } else p }
    let m := if d.syncen then m.modCmd k.id fun k => { k with running := true, parts := [] } else m.drop k.id
    match k.got with
    | none => m
    | some g => m.modRing d.ring fun r => (r.publish g).settle 64
  if d.syncen then s.cmdArrive c k.id d.syncsp d.sync n (if k.err ≠ 0 then some k.err else none)
  else if k.err ≠ 0 then s.engineTrap c k k.err else s

/-- Some of a drain's `n` bytes land, in aligned 8-byte parts, and the others later (R59, R198). -/
def State.drainPut (s : State) (c : CoreId) (k : Cmd) (tile : Nat) (d : ODesc) (n : Nat) (ps : List GPut) : State :=
  let sb := ((s.core c).mx.ring d.ring).slotBase (k.got.getD 0)
  let sp := splitParts s.draws ps
  let s := s.draw.putBytes c d.space sb sp.1
  if sp.2.isEmpty then s.drainDone c k tile d n else s.modMx c fun m => m.modCmd k.id fun k => { k with parts := [⟨0, n, sp.2, [], s.tick⟩] }

/-- What a drain makes of its tile: the peak register that it offers its values to, its bits for TSTAT, and its code (R105, R250). -/
def Mx.drained (m : Mx) (k : Cmd) (pk : Option Nat) (tile bits err : Nat) (oldest : Bool) (vals : List (List FV)) : Mx :=
  let m := match pk with
    | none => m
    | some p => { m with pk := tset 0 m.pk p (vals.foldl (fun a (r : List FV) => r.foldl pkOffer a) (tget 0 m.pk p)) }
  let m := m.modTile tile fun v => { v with
    stats := if oldest then v.stats.filter (fun e => decide (k.count < e.1)) else v.stats
    tspend := v.tspend.map fun p => if p.cmd = k.id then { p with bits := bits } else p }
  m.modCmd k.id fun k => { k with err := err }

/-- The rest of a drain that has landed in part; where its die has been isolated meanwhile, it ends with code 0x23 (R374). -/
def State.drainMore (s : State) (c : CoreId) (k : Cmd) (tile : Nat) (d : ODesc) (p : PartReq) : State :=
  let err := if s.drainLost d p.late then 0x23 else k.err
  (s.modMx c fun m => m.modCmd k.id fun k => { k with err := err }).drainPut c { k with err := err } tile d p.count p.late

/-- DRAIN_LAND: a drain reads its tile's snapshot and its bytes land, at once or in parts (R250). -/
def execDrainLand (c : CoreId) (i : Nat) (s : State) : Out :=
  let m := (s.core c).mx
  match m.cmds[i]? with
  | none => .refused (.notEnabled "DRAIN_LAND")
  | some k => match k.kind with
    | .mdrn prec t _ pk rm sat _ tile d scale prev =>
      match k.parts with
      | p :: _ => event "DRAIN_LAND" (s.clusterRuns c.cl) ((s.drainMore c k tile d p).wakeCore c)
      | [] =>
        let tl := m.tile tile
        let img := tl.readAt k.count
        let out := drainRows img prec t rm sat d scale (k.err == 0x07) k.bad
        let ps := tl.passStats prev k.count
        let nan := out.2.any fun r => (rowSeen d.fmt r).1
        let inf := out.2.any fun r => (rowSeen d.fmt r).2
        let bits := b2n nan + 2 * b2n inf + 4 * b2n (ps.1 || out.2.any StoredRow.sat) + 8 * b2n ps.2
        let puts := drainPuts t d out.2
        let err := if s.drainLost d puts then 0x23 else if k.err ≠ 0 then k.err else if drainBad img d then 0x02 else 0
        let oldest := !(m.cmds.take i).any fun o => o.awaits tile
        let s' := (if d.space = 1 then s.served d.base else s).modMx c fun m => m.drained k pk tile bits err oldest out.1
        event "DRAIN_LAND" (s.clusterRuns c.cl && !k.running && s.cmdFree c k && tl.readyAt k.count && (d.space != 2 || k.got.isSome))
          ((s'.drainPut c { k with err := err } tile d puts.length puts).wakeCore c)
    | _ => .refused (.notEnabled "DRAIN_LAND")

end Sys2Proof.Machine
end

