-- ==== Sys2Proof/Machine/Gather.lean ====
section
/-! DEFINITION. The gather engine: the copy descriptor, GCOPY, its sector requests and how a transfer ends (R257 to R266, R338,
R339). -/

namespace Sys2Proof.Machine

/-! ## The copy descriptor (R259, R261) -/

def gF (r lo n : Nat) : Nat := r / 2 ^ lo % 2 ^ n
def gBit (r i : Nat) : Bool := r / 2 ^ i % 2 == 1

def gSrc (r : Nat) : Nat := gF r 0 64
def gDst (r : Nat) : Nat := gF r 64 64
def gSync (r : Nat) : Nat := gF r 128 64
def gSsp (r : Nat) : Nat := gF r 192 3
def gDsp (r : Nat) : Nat := gF r 195 3
def gDring (r : Nat) : Nat := gF r 198 3
def gEsz (r : Nat) : Nat := gF r 201 3
def gDims (r : Nat) : Nat := gF r 204 3 + 1
def gSyncen (r : Nat) : Bool := gBit r 207
def gSyncsp (r : Nat) : Bool := gBit r 208
def gIsp (r : Nat) : Nat := gF r 209 1
def gMdim (r : Nat) : Nat := gF r 210 3
def gPadn (r : Nat) : Nat := gF r 213 16
def gSize (r k : Nat) : Nat := gF r (256 + 32 * k) 32
/-- A stride: a signed byte count in bits 47 to 0. -/
def gSstr (r k : Nat) : Int := sextN (gF r (448 + 64 * k) 64) 48
def gDstr (r k : Nat) : Int := sextN (gF r (832 + 64 * k) 64) 48
def gIdx (r : Nat) : Nat := gF r 1216 2
def gTrn (r : Nat) : Bool := gBit r 1218
def gCvt (r : Nat) : Bool := gBit r 1219
def gSat (r : Nat) : Bool := gBit r 1220
def gRnd (r : Nat) : Rm :=
  match gF r 1221 2 with
  | 0 => .rne
  | 1 => .rtz
  | 2 => .rdn
  | _ => .rup
def gScl (r : Nat) : Bool := gBit r 1223
def gPken (r : Nat) : Bool := gBit r 1224
def gPk (r : Nat) : Nat := gF r 1225 3
def gPad (r : Nat) : Bool := gBit r 1228
def gMask (r : Nat) : Bool := gBit r 1229
def gZrc (r : Nat) : Bool := gBit r 1230
def gIdxbase (r : Nat) : Nat := gF r 1280 64
def gSscl (r : Nat) : Nat := gF r 1344 64
def gDscl (r : Nat) : Nat := gF r 1408 64
def gZbase (r : Nat) : Nat := gF r 1472 64
def gPadval (r : Nat) : Nat := gF r 1536 64
def gSfmt (r : Nat) : Nat := gF r 1600 4
def gSwc (r : Nat) : Nat := gF r 1604 3
def gDfmt (r : Nat) : Nat := gF r 1608 4
def gDwc (r : Nat) : Nat := gF r 1612 3
def gScale (r : Nat) : Nat := gF r 1632 32

/-- A descriptor with one 64-bit field changed. -/
def gSet (r lo v : Nat) : Nat := r - gF r lo 64 * 2 ^ lo + v % 2 ^ 64 * 2 ^ lo

/-- Whether the source's, or the destination's, format has block scales. -/
def gSmx (r : Nat) : Bool := gCvt r && fmtMx (gSfmt r)
def gDmx (r : Nat) : Bool := gCvt r && fmtMx (gDfmt r)

/-- The vault offsets that a descriptor names, by the bit at which their field begins: those of the fields that it uses (R57). -/
def gVaultFields (r : Nat) : List Nat :=
  (if gSsp r = 1 then [0] else []) ++ (if gDsp r = 1 then [64] else []) ++ (if gSyncen r && gSyncsp r then [128] else [])
    ++ (if gIdx r ≠ 0 ∧ gIsp r = 1 then [1280] else []) ++ (if gSsp r = 1 ∧ gSmx r = true then [1344] else [])
    ++ (if gDsp r = 1 ∧ gDmx r = true then [1408] else []) ++ (if gDsp r = 1 ∧ gZrc r = true then [1472] else [])

/-- A descriptor whose vault offsets are resolved to the issuing core's cluster, for the life of the command (R57). -/
def gResolve (x : CtxId) (r : Nat) : Nat :=
  (gVaultFields r).foldl (fun r lo => gSet r lo ((resolve x.cl (gF r lo 64)).getD (gF r lo 64))) r

/-- Bits of a source and of a destination container (R260). -/
def gSbits (r : Nat) : Nat := if gCvt r then storeBits (gSfmt r) (gSwc r) else 8 * 2 ^ gEsz r
def gDbits (r : Nat) : Nat := if gCvt r then storeBits (gDfmt r) (gDwc r) else 8 * 2 ^ gEsz r
/-- Bytes that a container touches. -/
def cBytes (cb : Nat) : Nat := (cb + 7) / 8

/-- The source dimension that the destination's dimension 0 follows, and its pads (R260). -/
def gD0 (r : Nat) : Nat := if gTrn r then 1 else 0
def gPads (r : Nat) : Nat := if gPad r then gPadn r else 0
/-- A pad of a transposed transfer stands beyond the source's coordinate i1, where the index array has no word (R260; log entry
88). -/
def gPadAt (r i1 : Nat) : Bool := gTrn r && decide (gSize r 1 ≤ i1)
/-- Extents with pad elements. -/
def gExt (r k : Nat) : Nat := gSize r k + (if k = gD0 r then gPads r else 0)
/-- Extents of a destination coordinate. -/
def gDext (r k : Nat) : Nat := gExt r (if gTrn r then (if k = 0 then 1 else if k = 1 then 0 else k) else k)

def gProd (f : Nat → Nat) (d : Nat) : Nat := (List.range d).foldl (fun a k => a * f k) 1
/-- Elements, pads included. -/
def gCount (r : Nat) : Nat := gProd (gExt r) (gDims r)
/-- Elements of the source. -/
def gSrcCount (r : Nat) : Nat := gProd (gSize r) (gDims r)
/-- The bytes of a compaction record. -/
def gRecBytes (r : Nat) : Nat := 8 + (gCount r + 7) / 8

/-! ## Elements (R260) -/

/-- One element of the traversal: its number, its number among source elements (none for a pad), whether the mask replaces
it, and where its containers stand: a byte address and the first bit there. -/
structure GEl where
  t : Nat
  u : Option Nat
  masked : Bool
  src : Nat × Nat
  dst : Nat × Nat
  deriving DecidableEq, Repr

/-- A coordinate of traversal element `t`; 0 for a dimension that the transfer has not, which MASK may name (log entry 114). -/
def gCoord (r t k : Nat) : Nat := if gDims r ≤ k then 0 else t / gProd (gExt r) k % gExt r k

/-- The address that coordinates form. -/
def gLoc (base cb d : Nat) (str : Nat → Int) (co : Nat → Nat) : Nat × Nat :=
  let off := (List.range d).foldl (fun (a : Int) k => a + (co k : Int) * str k) 0
  let b := if cb < 8 then co 0 * cb else 0
  (zextI ((base : Int) + off + ((b / 8 : Nat) : Int)) 64, b % 8)

/-- Element `t`, given the index array. Blocks of an MX format number the source's elements, pads left out (log entry 115); a pad of a
transposed transfer with an index scatter goes where the transposition alone puts it (log entry 88). -/
def gElem (r padv padb : Nat) (idx : Nat → Nat) (t : Nat) : GEl :=
  let i := gCoord r t
  let pad := gSize r (gD0 r) ≤ i (gD0 r)
  let at_ := gPadAt r (i 1)
  let x := if gIdx r = 0 ∨ at_ = true then 0 else idx (i 1)
  let si (k : Nat) : Nat := if k = 1 ∧ gIdx r = 1 then x else i k
  let dj (k : Nat) : Nat :=
    if k = 1 ∧ gIdx r = 2 ∧ at_ = false then x
    else if gTrn r then (if k = 0 then i 1 else if k = 1 then i 0 else i k) else i k
  let u := (List.range (gDims r)).foldl (fun a k => a + i k * gProd (gSize r) k) 0
  { t := t
    u := if pad then none else some u
    masked := !pad && gMask r && padb != 0 && decide (padv ≤ i (gMdim r))
    src := gLoc (gSrc r) (gSbits r) (gDims r) (gSstr r) si
    dst := gLoc (gDst r) (gDbits r) (gDims r) (gDstr r) dj }

def joins (a b : Option Nat) : Bool := a.isNone || b.isNone || a == b

/-- The pages of the virtual operands that a request's elements share (R338). -/
def gPages (r : Nat) (e : GEl) : Option Nat × Option Nat :=
  (if e.u.isSome && gSsp r == 2 then some (e.src.1 / 4096) else none, if gDsp r == 2 && !gZrc r then some (e.dst.1 / 4096) else none)

/-- Sector requests: maximal runs of consecutive elements in one page of each virtual operand. A transfer without one is a single
request, whose parts land as they may (R198). -/
def gRuns (r : Nat) (es : List GEl) : List (List GEl) :=
  let go (acc : List (List GEl × Option Nat × Option Nat)) (e : GEl) : List (List GEl × Option Nat × Option Nat) :=
    let p := gPages r e
    match acc with
    | [] => [([e], p)]
    | (g, q) :: t =>
      if joins q.1 p.1 && joins q.2 p.2 then (e :: g, (q.1 <|> p.1, q.2 <|> p.2)) :: t else ([e], p) :: (g, q) :: t
  ((es.foldl go []).map fun g => g.1.reverse).reverse

/-! ## Checks at issue (R264) -/

/-- The fields whose contents raise cause 0x01; SFMT, DFMT and the width codes count whether or not CVT is set, as the table's row sets no
condition (R264). -/
def gFieldsOk (r : Nat) : Bool :=
  gF r 1664 384 == 0 && gF r 229 27 == 0 && gF r 1231 49 == 0
  && (List.range 6).all (fun k => gF r (448 + 64 * k + 48) 16 == 0 && gF r (832 + 64 * k + 48) 16 == 0 && gSize r k != 0)
  && gF r 1615 17 == 0 && gF r 1607 1 == 0
  && decide (gSsp r < 3) && decide (gDsp r ≤ 3) && gIdx r != 3 && decide (gDims r ≤ 6) && decide (gEsz r < 4)
  && (gIdx r == 0 || decide (2 ≤ gDims r)) && (!gTrn r || decide (2 ≤ gDims r))
  && ((!gScl r && !gPken r) || gCvt r)
  && decide (gSfmt r < 13) && decide (gDfmt r < 13) && gSwc r != 7 && gDwc r != 7
  && ((!gSmx r && !gDmx r) || gSize r 0 % 32 == 0) && !(gTrn r && gDmx r)
  && (decide (8 ≤ gSbits r) || (gSstr r 0 == 0 && gSize r 0 * gSbits r % 8 == 0))
  && (decide (8 ≤ gDbits r) || (gDstr r 0 == 0 && gSize r 0 * gDbits r % 8 == 0 && (!gTrn r || gSize r 1 * gDbits r % 8 == 0)
    && (gSize r (gD0 r) + gPads r) * gDbits r % 8 == 0))
  && (!gZrc r || ((List.range 6).all (fun k => gDstr r k == 0) && gIdx r != 2 && gDsp r != 3))

/-- The lowest address and the end of what a base, extents and strides form; the indexed coordinate is left out. -/
def gBounds (base cb d : Nat) (ext : Nat → Nat) (str : Nat → Int) (skip : Bool) : Int × Int :=
  let row : Int := if cb < 8 then ((ext 0 * cb + 7) / 8 : Nat) else (cBytes cb : Nat)
  (List.range d).foldl (fun (b : Int × Int) k =>
    let step := ((ext k - 1 : Nat) : Int) * str k
    if skip && k == 1 then b else (b.1 + min 0 step, b.2 + max 0 step)) ((base : Int), (base : Int) + row)

/-- The source's bounding range, and the destination's: its containers, or a compaction's output. -/
def gSrcBounds (r : Nat) : Int × Int := gBounds (gSrc r) (gSbits r) (gDims r) (gSize r) (gSstr r) (gIdx r == 1)
def gDstBounds (r : Nat) : Int × Int :=
  if gZrc r then ((gDst r : Int), (gDst r : Int) + (((gCount r * gDbits r + 7) / 8 : Nat) : Int))
  else gBounds (gDst r) (gDbits r) (gDims r) (gDext r) (gDstr r) (gIdx r == 2)

/-- The address of the first element misaligned for its size, by a base and its strides. -/
def gMisaligned (base cb d : Nat) (ext : Nat → Nat) (str : Nat → Int) (idx : Bool) : Option Nat :=
  let n := cBytes cb
  if base % n ≠ 0 then some base
  else ((List.range d).find? fun k => (decide (1 < ext k) || (idx && k == 1)) && str k % (n : Int) != 0).map
    fun k => zextI ((base : Int) + str k) 64

/-- Every range of the operands that are not indexed coordinates: space, lowest address, end, whether written. -/
def gRanges (r : Nat) : List (Nat × Int × Int × Bool) :=
  let rng (sp a n : Nat) (w : Bool) : Nat × Int × Int × Bool := (sp, (a : Int), ((a + n : Nat) : Int), w)
  [(gSsp r, (gSrcBounds r).1, (gSrcBounds r).2, false), (gDsp r, (gDstBounds r).1, (gDstBounds r).2, true)]
  ++ (if gSmx r then [rng (gSsp r) (gSscl r) (gSrcCount r / 32) false] else [])
  ++ (if gDmx r then [rng (gDsp r) (gDscl r) (gSrcCount r / 32) true] else [])
  ++ (if gIdx r = 0 then [] else [rng (gIsp r) (gIdxbase r) (4 * (if gTrn r then gSize r 1 else gExt r 1)) false])
  ++ (if gZrc r then [rng (gDsp r) (gZbase r) (gRecBytes r) true] else [])

/-- The alignment of every operand, with the failing address. -/
def gAlign (r : Nat) : Option Nat :=
  (gMisaligned (gSrc r) (gSbits r) (gDims r) (gSize r) (gSstr r) (gIdx r == 1)).orElse fun _ =>
  (if gZrc r then (if gDst r % cBytes (gDbits r) ≠ 0 then some (gDst r) else none)
   else gMisaligned (gDst r) (gDbits r) (gDims r) (gDext r) (gDstr r) (gIdx r == 2)).orElse fun _ =>
  if gIdx r ≠ 0 ∧ gIdxbase r % 4 ≠ 0 then some (gIdxbase r)
  else if gZrc r ∧ gZbase r % 8 ≠ 0 then some (gZbase r)
  else if gSyncen r ∧ gSync r % 16 ≠ 0 then some (gSync r)
  else none

/-- Whether a range of L-mem or the vault, resolved, lies in its windows; a virtual one needs its job slot in use (R291). -/
def gInside (s : State) (x : CtxId) (c : Ctx) (g : Nat × Int × Int × Bool) : Bool :=
  let lo := g.2.1.toNat
  let n := (g.2.2.1 - g.2.1).toNat
  match g.1 with
  | 0 => decide (0 ≤ g.2.1) && c.pr.lmemOk lo n
  | 1 => decide (0 ≤ g.2.1) && (s.jobSlot x).covers lo n
  | 2 => (s.jobSlot x).valid
  | _ => true

/-- Whether a virtual range forms only addresses below 2^57. -/
def gVirtOk (g : Nat × Int × Int × Bool) : Bool := g.1 != 2 || (decide (0 ≤ g.2.1) && decide (g.2.2.1 ≤ 2 ^ 57))

/-- Footprints of the ranges that are read, or of those that are written (R266). -/
def gFoots (x : CtxId) (raw : Nat) (w : Bool) : List Foot :=
  let r := gResolve x raw
  let one (g : Nat × Int × Int × Bool) (whole : Bool) : List Foot :=
    let lo := g.2.1.toNat
    let n := (g.2.2.1 - g.2.1).toNat
    match g.1 with
    | 0 => [⟨.lmem, if whole then none else some (lo, n)⟩]
    | 1 => [⟨.vault, if whole then none else some (lo, n)⟩]
    | 2 => [⟨.virt, if whole then none else some (lo, n)⟩]
    | _ => []
  match gRanges r with
  | a :: b :: t =>
    (if w then one b (gIdx r == 2) else one a (gIdx r == 1)) ++ (t.filter fun g => g.2.2.2 == w).flatMap fun g => one g false
  | _ => []

/-- The checks of R264 that do not read the engine's state: a vault offset resolves once, and what the accesses will form is
checked (R56; log entry 69). -/
def chkGcopy (s : State) (x : CtxId) (c : Ctx) (h : HeldCmd) : Rd Unit := do
  let r := h.raw
  need (gFieldsOk r) (.trap 0x01 0)
  match gAlign r with
  | some a => trap 0x04 a
  | none => do
    match (gVaultFields r).find? fun lo => (resolve x.cl (gF r lo 64)).isNone with
    | some lo => trap 0x05 (gF r lo 64)
    | none => do
      match ((gRanges r).zip (gRanges (gResolve x r))).find? fun g => !gInside s x c g.2 with
      | some g => trap 0x05 (zextI g.1.2.1 64)
      | none => do
        if gSyncen r then
          need (if gSyncsp r then (s.vaultCheck x (gSync r) 16).isSome else c.pr.lmemOk (gSync r) 16) (.trap 0x05 (gSync r))
        match (gRanges r).find? fun g => !gVirtOk g with
        | some g => trap 0x06 (zextI g.2.1 64)
        | none => .ok ()

/-- A ring destination lies in a slot of an enabled ring. -/
def gRingOk (rg : Ring) (r : Nat) : Bool :=
  gDsp r != 3 || (rg.scount != 0
    && (gRanges r).all fun g => !(g.1 == 3 && g.2.2.2) || (decide (0 ≤ g.2.1) && decide (g.2.2.1 ≤ ((rg.ssize * 64 : Nat) : Int))))

/-! ## GCOPY (R263) -/

/-- A command's channel and transfer identifier. -/
def CKind.transfer : CKind → Option (Nat × Nat)
  | .gcopy ch id _ _ => some (ch, id)
  | _ => none

/-- The channel's incomplete transfers. -/
def Mx.outstanding (m : Mx) (ch : Nat) : Nat := (m.cmds.filter fun k => k.kind.transfer.any fun t => t.1 == ch).length

/-- The identifier reaches sD: at once, or as the fill of a held GCOPY (R263). -/
def State.gcopyDst (s : State) (x : CtxId) (h : HeldCmd) (held : Bool) (id : Nat) : State :=
  match h.dst with
  | none => s
  | some (reg, prod) =>
    if held then s.modFl x fun f => { f with fills := f.fills ++ [({ reg := .s reg, prod := prod, val := id } : Fill)] }
    else s.wrReg x (.s reg) id

def goGcopy (sc : Scope) (ch : Nat) (held : Bool) : Launcher := fun s x h count => do
  let m := (s.core x.coreId).mx
  let r := h.raw
  need (gRingOk (m.ring (gDring r)) r) (.trap 0x01 0)
  -- its identifier stays within 16 of the oldest incomplete transfer's (log entry 133)
  need (decide (m.outstanding ch < 16) && decide ((tget 0 m.nextid ch + 2 ^ 32 - tget 0 m.donebelow ch) % 2 ^ 32 < 16)) (.block .chan)
  let id := tget 0 m.nextid ch
  let s := s.gcopyDst x h held id
  .ok ((s.modMx x.coreId fun m =>
    -- one that is held back reads its parts anew when the tracker lets it go
    let reads := gFoots x r false
    let k : Cmd := { newCmd x h (s.ctx x) (.gcopy ch id sc ⟨gResolve x r, h.padv, h.padb⟩) count count reads (gFoots x r true) with
                     early := s.earlyOf x.coreId reads }
    let n := m.nextId
    let m := { (m.enter k) with nextid := tset 0 m.nextid ch ((id + 1) % 2 ^ 32) }
    if gDsp r = 3 then m.modRing (gDring r) fun g => { g with waiting := g.waiting ++ [.cmd n] } else m).draw)

def execGcopy (c : Cond) (sc : Scope) (ch : BitVec 2) (a : BitVec 4) (sd : BitVec 6) (s : State) : Out :=
  engineSlot c true (fun e s => do
    let b ← rdA e a
    needMb e
    let r ← readDesc s e b.toNat 256 64
    .ok { heldOf (.gcopy c sc ch a sd) e b.toNat 0 r with dst := some (sd.toNat, 0) })
    (fun _ x _ h => gFoots x h.raw true) chkGcopy (goGcopy sc ch.toNat false) s

/-! ## A transfer's bytes -/

/-- What a transfer's steps work with: its core, job slot, logical device, ring slot base, descriptor, and what it read of its L-mem
sources as it began. -/
structure GEnv where
  c : CoreId
  jslot : Nat
  ld : Nat
  sb : Nat
  raw : Nat
  padv : Nat
  padb : Nat
  early : Tab Nat := []
  deriving DecidableEq, Repr

def State.gEnv (s : State) (c : CoreId) (k : Cmd) (d : CDesc) : GEnv :=
  let jslot := (s.ctx (cmdCtx c k)).pr.jslot
  { c := c, jslot := jslot, ld := (tget ({ } : JobSlot) (s.cl c.cl).jobs jslot).part
    sb := ((s.core c).mx.ring (gDring d.raw)).slotBase (k.got.getD 0), raw := d.raw, padv := d.padv, padb := d.padb, early := k.early }

def State.gXl (s : State) (g : GEnv) (a : Nat) (w : Bool) : Option Nat := s.issuedXl g.c.cl (some g.c.core) g.jslot a w

/-- One byte of a space; a virtual byte through the write or read translation. -/
def State.gByte (s : State) (g : GEnv) (sp : Nat) (w : Bool) (a : Nat) : Nat :=
  match sp with
  | 0 => if w then (rdByte (s.core g.c).lmem a).toNat else earlyByte g.early (s.core g.c).lmem a
  | 1 => (rdByte s.vault a).toNat
  | 2 => match s.gXl g a w with
    | some pa => s.rdPhys g.ld pa 1
    | none => 0
  | _ => (rdByte (s.core g.c).lmem (g.sb + a)).toNat

/-- `n` bytes of a space, little-endian. -/
def State.gRead (s : State) (g : GEnv) (sp : Nat) (w : Bool) (a n : Nat) : Nat :=
  (List.range n).foldr (fun i acc => s.gByte g sp w (a + i) + 256 * acc) 0

def State.gWrite (s : State) (g : GEnv) (sp a n v : Nat) : State :=
  match sp with
  | 0 => s.wrLmem g.c a n v
  | 1 => s.wrVault a n v
  | 2 => match s.gXl g a true with
    | some pa => s.wrPhys g.ld pa (leBytes n v)
    | none => s
  | _ => s.wrLmem g.c (g.sb + a) n v

/-- The engine error that reading, or writing, physical memory meets, 0 for none (R265, R358, R374). -/
def State.gPhysErr (s : State) (g : GEnv) (w : Bool) (pa n : Nat) : Nat :=
  if pa < dramTop then (if s.isolated (dieOf pa) then 0x23 else if !w && s.dramBad pa n then 0x01 else 0)
  else if (s.ld g.ld).hstate = 2 then 0x22
  else if !w && s.hostBad g.ld (pa - hostBase) n then 0x01 else 0

/-- The engine error that reading, or writing, a range meets, 0 for none (R265, R358, R369, R374). -/
def State.gErr (s : State) (g : GEnv) (w : Bool) (sp a n : Nat) : Nat :=
  match sp with
  | 1 => if s.isolated (a / 2 ^ 30) then 0x23 else if !w && s.vaultBad a n then 0x01 else 0
  | 2 => match s.gXl g a w with
    | none => 0
    | some pa => s.gPhysErr g w pa n
  | 0 => if !w && (s.core g.c).lmemBad a n then 0x01 else 0
  | _ => if !w && (s.core g.c).lmemBad (g.sb + a) n then 0x01 else 0

/-- Whether a virtual range's access can be made now. -/
def State.gGoes (s : State) (g : GEnv) (w : Bool) (sp a n : Nat) : Bool :=
  sp != 2 || (match s.gXl g a w with
    | none => false
    | some pa => if w then s.physTakes g.ld pa n else s.physReads g.ld pa n)

/-- An index word (R260). -/
def State.gIndex (s : State) (g : GEnv) (i : Nat) : Nat := s.gRead g (gIsp g.raw) false (gIdxbase g.raw + 4 * i) 4

/-- The transfer's elements and requests, as the index array stands. -/
def State.gEls (s : State) (g : GEnv) : List GEl := (List.range (gCount g.raw)).map (gElem g.raw g.padv g.padb (s.gIndex g))
def State.gReqs (s : State) (g : GEnv) : List (List GEl) := gRuns g.raw (s.gEls g)

/-- Whether an element's indexed address lies in its windows (R264). -/
def State.gIndexOk (s : State) (g : GEnv) (x : CtxId) (e : GEl) : Bool :=
  let inWin (sp a n : Nat) : Bool := match sp with
    | 0 => (s.ctx x).pr.lmemOk a n
    | 1 => (s.jobSlot x).covers a n
    | 2 => decide (a + n ≤ 2 ^ 57)
    | _ => decide (a + n ≤ ((s.core g.c).mx.ring (gDring g.raw)).ssize * 64)
  match gIdx g.raw with
  | 1 => e.u.isNone || inWin (gSsp g.raw) e.src.1 (cBytes (gSbits g.raw))
  | 2 => inWin (gDsp g.raw) e.dst.1 (cBytes (gDbits g.raw))
  | _ => true

/-! ## What a request reads and writes -/

/-- Where the block scale of source element `u` stands (R261). -/
def gScaleAt (base u : Nat) : Nat := base + u / 32

/-- The ranges that a request reads: index words, containers and block scales. -/
def gReads (r : Nat) (es : List GEl) : List (Nat × Nat × Nat) :=
  es.flatMap fun e =>
    (if gIdx r = 0 ∨ gPadAt r (gCoord r e.t 1) = true then [] else [(gIsp r, gIdxbase r + 4 * gCoord r e.t 1, 4)])
    ++ (match e.u with
      | none => []
      | some u => (gSsp r, e.src.1, cBytes (gSbits r)) :: (if gSmx r then [(gSsp r, gScaleAt (gSscl r) u, 1)] else []))

/-- A container and its block's scale, as read. -/
def State.gFetch (s : State) (g : GEnv) (e : GEl) : Nat × Nat :=
  let sp := gSsp g.raw
  let cb := gSbits g.raw
  let x := s.gRead g sp false e.src.1 (cBytes cb)
  (if cb < 8 then x / 2 ^ e.src.2 % 2 ^ cb else x,
   if gSmx g.raw then s.gRead g sp false (gScaleAt (gSscl g.raw) (e.u.getD 0)) 1 else 0)

/-- The element's value after the scale stage (R261). -/
def gValue (r : Nat) (x : Nat × Nat) : FV :=
  let v := elemVal (gSfmt r) (2 ^ gSwc r) x.2 x.1
  if gScl r then FV.mul v (fp32.val (gScale r)) else v

/-- The container of one converted element, for every destination that is not MX. -/
def gConv (r : Nat) (x : Nat × Nat) : Nat :=
  if gCvt r then
    match AFmt.ofCode (gDfmt r) with
    | some (.flt f) => (f.conv (gRnd r) (gSat r) (gValue r x)).bits
    | some a => (convInt (a == .sint) (2 ^ gDwc r) (gRnd r) (gValue r x)).bits
    | none => 0
  else x.1

/-- Writes of one element that is not in an MX destination. -/
def gPut (r : Nat) (e : GEl) (x : Nat × Nat) : GPut :=
  ⟨e.dst.1, e.dst.2, gDbits r, (if e.u.isNone || e.masked then gPadval r else gConv r x) % 2 ^ gDbits r, none⟩

/-- Reads kept by source number, with those of a request's elements added. -/
def State.gKept (s : State) (g : GEnv) (k : Cmd) (es : List GEl) : Tab (Nat × Nat) :=
  es.foldl (fun t e => match e.u with | some u => tput t u (s.gFetch g e) | none => t) k.kept

/-- The converted block `b` of an MX destination (R90). -/
def gBlock (r b : Nat) (kept : Tab (Nat × Nat)) : MxBlock :=
  match AFmt.ofCode (gDfmt r) with
  | some (.mx f) => convMx f (gRnd r) ((List.range 32).map fun i => gValue r (tget (0, 0) kept (32 * b + i)))
  | _ => ⟨0, []⟩

/-- The blocks that become whole with a request, by number. -/
def gWhole (kept : Tab (Nat × Nat)) (es : List GEl) : List Nat :=
  (es.filterMap fun e => e.u.map fun u => u / 32).eraseDups.filter fun b => (List.range 32).all fun i => thas kept (32 * b + i)

/-- The container that an element has once every block is known. -/
def gOut (r : Nat) (kept : Tab (Nat × Nat)) (e : GEl) : Nat :=
  match e.u with
  | none => gPadval r % 2 ^ gDbits r
  | some u =>
    (if e.masked then gPadval r
     else if gDmx r then (((gBlock r (u / 32) kept).elems.map Conv.bits).getD (u % 32) 0)
     else gConv r (tget (0, 0) kept u)) % 2 ^ gDbits r

/-- Where an element goes that an earlier request has translated (R338). -/
def aimOf (aims : Tab (Nat × Nat)) (e : GEl) : Option Nat :=
  (aims.find? fun a => e.u == some a.1).map fun a => a.2.2

/-- The writes of an MX block: its elements and its scale. -/
def gBlockPuts (r : Nat) (all : List GEl) (kept aims : Tab (Nat × Nat)) (b : Nat) : List GPut :=
  ((all.filter fun e => e.u.any fun u => u / 32 == b).map fun e => ⟨e.dst.1, e.dst.2, gDbits r, gOut r kept e, aimOf aims e⟩)
    ++ [⟨gDscl r + b, 0, 8, (gBlock r b kept).scale, none⟩]

/-- The writes of a compaction, once everything has been read: kept containers, count, bitmap and scales (R261). -/
def gCompact (r : Nat) (all : List GEl) (kept : Tab (Nat × Nat)) : List GPut :=
  let cb := gDbits r
  let outs := all.map (gOut r kept)
  let keepers := outs.filter fun y => y != 0
  let bits := outs.foldr (fun y acc => b2n (y != 0) + 2 * acc) 0
  ((List.range keepers.length).map fun i => ⟨gDst r + i * cb / 8, i * cb % 8, cb, keepers.getD i 0, none⟩)
    ++ [⟨gZbase r, 0, 64, keepers.length, none⟩]
    ++ ((List.range ((all.length + 7) / 8)).map fun i => ⟨gZbase r + 8 + i, 0, 8, bits / 2 ^ (8 * i) % 256, none⟩)
    ++ (if gDmx r then (List.range (gSrcCount r / 32)).map fun b => ⟨gDscl r + b, 0, 8, (gBlock r b kept).scale, none⟩ else [])

/-- Bytes of `n` written elements, whole bytes of packed rows (R260). -/
def gBytes (r n : Nat) : Nat := n * gDbits r / 8

/-- The bytes that a whole transfer lands (R260). -/
def gTotal (r : Nat) : Nat := gBytes r (gCount r) + if gZrc r then gRecBytes r else 0

/-- Bytes landed once `n` elements are written; a compaction counts its bytes itself. -/
def gLanded (r n : Nat) : Nat := if gZrc r then n else gBytes r n

/-- A compaction's output as requests: runs in one page of a virtual destination (R338). -/
def gOutRuns (r : Nat) (ps : List GPut) : List (List GPut) :=
  if gDsp r = 2 then
    ((ps.foldl (fun (acc : List (List GPut)) p => match acc with
      | (q :: t) :: rest => if q.addr / 4096 = p.addr / 4096 then (p :: q :: t) :: rest else [p] :: (q :: t) :: rest
      | rest => [p] :: rest) []).map List.reverse).reverse
  else [ps]

/-- The requests of a transfer: those that read, then a compaction's output, whose number shows once everything has been read. -/
def reqCount (r : Nat) (reqs : List (List GEl)) (k : Cmd) : Nat :=
  reqs.length + (if gZrc r then (if reqs.length ≤ k.done.length then (gOutRuns r (gCompact r reqs.flatten k.kept)).length else 1) else 0)

/-- A request's work: what it reads, what is kept after it, what it writes, how many elements, or for a compaction's output how
many bytes, it then counts as landed, and the virtual containers of its own, by source number, which are translated before it reads, also
where a later request writes them with their MX block (R338). The requests after the last reading one of a compaction write its
output. -/
structure GWork where
  reads : List (Nat × Nat × Nat)
  kept : Tab (Nat × Nat)
  puts : List GPut
  count : Nat
  own : List (Nat × Nat) := []
  deriving DecidableEq, Repr

def State.gWork (s : State) (g : GEnv) (k : Cmd) (reqs : List (List GEl)) (req : Nat) : GWork :=
  let r := g.raw
  match reqs[req]? with
  | none =>
    let ps := (gOutRuns r (gCompact r reqs.flatten k.kept)).getD (req - reqs.length) []
    { reads := [], kept := k.kept, puts := ps
      count := if k.done.length + 1 = reqCount r reqs k then gTotal r - k.next
        else Nat.min (gTotal r - k.next) ((ps.map fun p => cBytes p.cb).sum) }
  | some es =>
    if gZrc r then { reads := gReads r es, kept := s.gKept g k es, puts := [], count := 0 }
    else if gDmx r then
      let kept := s.gKept g k es
      let bs := gWhole kept es
      let pads := es.filter fun e => e.u.isNone
      { reads := gReads r es, kept := kept.filter fun e => !bs.contains (e.1 / 32)
        puts := pads.map (fun e => gPut r e (0, 0)) ++ bs.flatMap (gBlockPuts r reqs.flatten kept k.aims)
        count := pads.length + 32 * bs.length
        own := if gDsp r = 2 then es.filterMap fun e => e.u.map fun u => (u, e.dst.1) else [] }
    else { reads := gReads r es, kept := [], count := es.length
           puts := es.map fun e => gPut r e (if e.u.isSome then s.gFetch g e else (0, 0)) }

/-- One write with its physical address, where its space is virtual: the one an earlier request found, or what its page gives now. -/
def State.gAim (s : State) (g : GEnv) (p : GPut) : GPut :=
  if gDsp g.raw = 2 then { p with pa := p.pa.orElse fun _ => s.gXl g p.addr true } else p

/-- The addresses found for containers that are still to be written after a request. -/
def State.gAims (s : State) (g : GEnv) (k : Cmd) (w : GWork) : Tab (Nat × Nat) :=
  (k.aims ++ w.own.filterMap fun o => (s.gXl g o.2 true).map fun pa => (o.1, o.2, pa)).filter fun a => thas w.kept a.1

/-- A byte of physical memory behind everything that has been written to it: for a host that is lost, what its park buffer holds (R354). -/
def State.rdParked (s : State) (ld pa : Nat) : Nat :=
  if pa < dramTop then s.rdPhys ld pa 1
  else (s.ld ld).park.foldl (fun v p =>
    if p.1 ≤ pa - hostBase ∧ pa - hostBase < p.1 + p.2.length then (p.2.getD (pa - hostBase - p.1) 0).toNat else v) (s.rdPhys ld pa 1)

/-- A byte of the destination, and a write of some, at an aimed address. -/
def State.gOld (s : State) (g : GEnv) (p : GPut) : Nat :=
  match p.pa with
  | some pa => s.rdParked g.ld pa
  | none => s.gByte g (gDsp g.raw) true p.addr
def State.gStore (s : State) (g : GEnv) (p : GPut) (n v : Nat) : State :=
  match p.pa with
  | some pa => s.wrPhys g.ld pa (leBytes n v)
  | none => s.gWrite g (gDsp g.raw) p.addr n v

/-- Performs one write; a container narrower than a byte keeps its byte's other bits. -/
def State.gDo (s : State) (g : GEnv) (p : GPut) : State :=
  if p.cb < 8 then
    let old := s.gOld g p
    s.gStore g p 1 (old - old / 2 ^ p.bit % 2 ^ p.cb * 2 ^ p.bit + p.val * 2 ^ p.bit)
  else s.gStore g p (cBytes p.cb) p.val

/-- The bytes that writes touch, by their final addresses. -/
def gTouched (g : GEnv) (ps : List GPut) : List (Nat × Nat) :=
  ps.map fun p => ((match p.pa with | some pa => pa | none => if gDsp g.raw = 3 then g.sb + p.addr else p.addr), cBytes p.cb)

/-- Writes that belong together lose the marks of the SRAM words that they cover whole (R365). -/
def State.gClear (s : State) (g : GEnv) (ps : List GPut) : State :=
  let rs := gTouched g ps
  if gDsp g.raw = 2 then s else s.clearWords g.c (gDsp g.raw == 1) rs

/-- The codewords of physical memory marked uncorrectable that a request covers whole (R365). -/
def State.gWords (s : State) (g : GEnv) (ps : List GPut) : List Nat :=
  if gDsp g.raw = 2 then
    (s.dbad ++ (tget [] s.hbad g.ld).map fun w => w + hostBase / 32).filter (rangesCover (gTouched g ps) 32)
  else []

/-- The first error code of some, 0 for none. -/
def firstErr (l : List Nat) : Nat := (l.find? fun e => e != 0).getD 0

/-- The index words that a request reads: address by element. -/
def gIndexReads (r : Nat) (es : List GEl) : List (Nat × Nat × Nat) :=
  es.filterMap fun e => if gIdx r = 0 ∨ gPadAt r (gCoord r e.t 1) = true then none else some (gIsp r, gIdxbase r + 4 * gCoord r e.t 1, 4)

/-- The engine error that one write meets. -/
def State.gPutErr (s : State) (g : GEnv) (p : GPut) : Nat :=
  match p.pa with
  | some pa => s.gPhysErr g true pa (cBytes p.cb)
  | none => s.gErr g true (gDsp g.raw) p.addr (cBytes p.cb)

/-- The first error that a request's accesses meet: at its index words, at the addresses that they form (R264), then at the bytes read and
written there. -/
def State.gFail (s : State) (g : GEnv) (x : CtxId) (es : List GEl) (w : GWork) : Nat :=
  let ix := gIndexReads g.raw es
  let e0 := firstErr (ix.map fun a => s.gErr g false a.1 a.2.1 a.2.2)
  let e1 := firstErr (w.reads.map fun a => s.gErr g false a.1 a.2.1 a.2.2)
  if e0 ≠ 0 then e0
  else if ix.any fun a => a.1 == 2 && (s.gXl g a.2.1 false).isNone then 0
  else if es.any fun e => !s.gIndexOk g x e then 0x03
  else if e1 ≠ 0 then e1
  else firstErr (w.puts.map (s.gPutErr g))

/-- Arrivals that cover `n` bytes, each at most `m` of them (R265). -/
def State.gArrive (s : State) (c : CoreId) (id : Nat) (vault : Bool) (addr m : Nat) : Nat → Nat → State
  | 0, _ => s
  | fuel + 1, n =>
    if n = 0 then s else (s.cmdArrive c id vault addr (Nat.min m n) none).gArrive c id vault addr m fuel (n - m)

/-- The resolved sync word of a transfer. -/
def GEnv.sync (g : GEnv) : Nat := gSync g.raw

/-- Values that the scale stage offers to a peak register (R106, R261). -/
def State.gPeak (s : State) (g : GEnv) (es : List GEl) : State :=
  if gScl g.raw && gPken g.raw then
    let vs := es.filterMap fun e => if e.u.isSome then some (gValue g.raw (s.gFetch g e)) else none
    s.modMx g.c fun m => { m with pk := tset 0 m.pk (gPk g.raw) (vs.foldl pkOffer (tget 0 m.pk (gPk g.raw))) }
  else s

/-- Some of a request's writes are made. -/
def State.gWriteAll (s : State) (g : GEnv) (ps : List GPut) : State := (ps.foldl (fun s p => s.gDo g p) s).gClear g ps

/-- A request has landed whole: its bytes count and its arrivals are made. -/
def State.gCounted (s : State) (g : GEnv) (k : Cmd) (req count : Nat) (words : List Nat) : State :=
  let r := g.raw
  let now := gLanded r (k.next + count)
  let n := now - k.landed
  let chunk := Config.arrivalChunk s.draws % 4096 + 1
  let s := (s.clearPhys g.ld words).modMx g.c fun m => m.modCmd k.id fun k =>
    { k with done := k.done ++ [req], next := k.next + count, landed := now, parts := k.parts.filter fun p => p.req != req }
  let s := s.tally (cmdCtx g.c k) 0x00C n
  if gSyncen r then s.draw.gArrive g.c k.id (gSyncsp r) g.sync chunk n n else s

/-- The virtual ranges that a request needs translated: address, bytes, whether written. What an earlier request has translated needs
nothing further (R338). -/
def gNeeds (r : Nat) (w : GWork) : List (Nat × Nat × Bool) :=
  (w.reads.filterMap fun a => if a.1 = 2 then some (a.2.1, a.2.2, false) else none)
    ++ (w.own.map fun o => (o.2, 1, true))
    ++ (if gDsp r = 2 then (w.puts.filter fun p => p.pa.isNone).map fun p => (p.addr, cBytes p.cb, true) else [])

/-- A request counts as a miss of its core's TLB where that lacks a translation of it, and for each vault operand as an access that the
vault serves (R381, R382; log entry 49). -/
def State.gServed (s : State) (g : GEnv) (k : Cmd) (w : GWork) : State :=
  let miss := (gNeeds g.raw w).any fun a => (tlbFind (s.core g.c).tlb g.jslot a.1 a.2.2).isNone
  let s := s.tally (cmdCtx g.c k) 0x00D (b2n miss)
  let s := match (w.reads.filter fun a => a.1 == 1).head? with
    | some a => s.served ((resolve g.c.cl a.2.1).getD 0)
    | none => s
  match (if gDsp g.raw = 1 then w.puts.head? else none) with
  | some p => s.served ((resolve g.c.cl p.addr).getD 0)
  | none => s

/-- A request lands, at once or in part: everything it reads is read now. -/
def State.gLand (s : State) (g : GEnv) (k : Cmd) (es : List GEl) (req : Nat) (w : GWork) : State :=
  let ps := w.puts.map (s.gAim g)
  let sp := splitParts s.draws ps
  let words := s.gWords g ps
  let s := s.gServed g k w
  let aims := s.gAims g k w
  let s := ((s.gPeak g es).gWriteAll g sp.1).modMx g.c fun m => m.modCmd k.id fun k => { k with kept := w.kept, aims := aims }
  if sp.2.isEmpty then s.gCounted g k req w.count words
  else s.draw.modMx g.c fun m => m.modCmd k.id fun k => { k with parts := k.parts ++ [⟨req, w.count, sp.2, words, s.tick⟩] }

/-- More of a request that has landed in part. -/
def State.gMore (s : State) (g : GEnv) (k : Cmd) (p : PartReq) : State :=
  let sp := splitParts s.draws p.late
  let s := s.gWriteAll g sp.1
  if sp.2.isEmpty then s.gCounted g k p.req p.count p.words
  else s.draw.modMx g.c fun m => m.modCmd k.id fun k => { k with parts := k.parts.map fun q => if q.req = p.req then { q with late := sp.2 } else q }

/-! ## The steps (R257, R265, R338) -/

/-- The incomplete transfer of a channel with an identifier. -/
def Mx.transfer (m : Mx) (ch id : Nat) : Option Cmd := m.cmds.find? fun k => k.kind.transfer == some (ch, id)

def CKind.cdesc : CKind → CDesc
  | .gcopy _ _ _ d => d
  | _ => ⟨0, 0, 0⟩

/-- The queue stores that precede a transfer with a virtual operand have been performed (R263). -/
def qstoresDone (c : Ctx) (k : Cmd) (r : Nat) : Bool :=
  !(gSsp r == 2 || gDsp r == 2) || c.queues.all fun q => q.2.all fun e => e.kind.isLoad || decide (k.serial < e.serial)

/-- The first virtual range of a sector request that has no translation; an address at or above 2^57 has none to look for (R265). -/
def State.gMiss (s : State) (g : GEnv) (w : GWork) : Option (Nat × Bool) :=
  (gNeeds g.raw w).findSome? fun a => if a.1 < 2 ^ 57 ∧ (s.gXl g a.1 a.2.2).isNone then some (a.1, a.2.2) else none

/-- Whether request `q` of a transfer has been issued: it has landed, in full or in part, or waits on a fault, or its translations are
held. -/
def State.reqIssued (s : State) (g : GEnv) (k : Cmd) (reqs : List (List GEl)) (q : Nat) : Bool :=
  k.done.contains q || (k.faults.any fun f => f.1 == q) || (k.parts.any fun p => p.req == q) || (s.gMiss g (s.gWork g k reqs q)).isNone

/-- Whether request `req` may be issued now: the transfer runs, the request has not landed and waits on no fault, every earlier one has
been issued, its channel issues no request 4,096 beyond the oldest, and a compaction's output comes last (R338). -/
def State.reqReady (s : State) (c : CoreId) (k : Cmd) (r : Nat) (reqs : List (List GEl)) (req : Nat) : Bool :=
  let n := reqCount r reqs k
  let g := s.gEnv c k k.kind.cdesc
  k.err == 0 && s.cmdFree c k && qstoresDone (s.ctx (cmdCtx c k)) k r && decide (req < n) && !k.done.contains req
    && !(k.faults.any fun f => f.1 == req) && !(k.parts.any fun p => p.req == req)
    && (List.range req).all (fun q => (k.done.contains q || decide (req < q + 4096)) && s.reqIssued g k reqs q)
    && (decide (req < reqs.length) || decide (reqs.length ≤ k.done.length))

/-- The physical writes of a request, for the host's room. -/
def State.gPhysPuts (s : State) (g : GEnv) (w : GWork) : List (Nat × Nat) :=
  if gDsp g.raw = 2 then w.puts.map fun p => (((s.gAim g p).pa).getD 0, cBytes p.cb) else []

/-- Whether some writes at addresses found can be made now: their channels and the host take them (R354, R366). -/
def State.gTakes (s : State) (g : GEnv) (ps : List GPut) : Bool :=
  (ps.all fun p => p.pa.all fun pa => s.physTakes g.ld pa (cBytes p.cb))
    && s.hostRoom g.ld (ps.filterMap fun p => p.pa.map fun pa => (pa, cBytes p.cb))

/-- Whether a request can land now: everything it needs is translated, and everything it reads and writes can be reached. -/
def State.gWorkGoes (s : State) (g : GEnv) (w : GWork) : Bool :=
  ((gNeeds g.raw w).all fun a => (s.gXl g a.1 a.2.2).isSome) && (w.reads.all fun a => s.gGoes g false a.1 a.2.1 a.2.2)
    && s.gTakes g (w.puts.map (s.gAim g))

/-- GATHER_SECTOR_LAND: request `req` of a transfer lands, at once or the next part of it, or ends the transfer in an engine
error. -/
def execGatherSectorLand (c : CoreId) (ch id req : Nat) (s : State) : Out :=
  match (s.core c).mx.transfer ch id with
  | none => .refused (.notEnabled "GATHER_SECTOR_LAND")
  | some k =>
    let g := s.gEnv c k k.kind.cdesc
    match k.parts.find? fun p => p.req == req with
    | some p =>
      let err := firstErr (p.late.map (s.gPutErr g))
      event "GATHER_SECTOR_LAND" (s.clusterRuns c.cl && k.err == 0 && (err != 0 || s.gTakes g (splitParts s.draws p.late).1))
        (if err ≠ 0 then s.modMx c fun m => m.modCmd k.id fun k => { k with err := err } else s.gMore g k p)
    | none =>
      let reqs := s.gReqs g
      let es := reqs.getD req []
      let w := s.gWork g k reqs req
      let err := s.gFail g (cmdCtx c k) es w
      event "GATHER_SECTOR_LAND"
        (s.clusterRuns c.cl && s.reqReady c k g.raw reqs req && (gDsp g.raw != 3 || k.got.isSome) && (err != 0 || s.gWorkGoes g w))
        (if err ≠ 0 then s.modMx c fun m => m.modCmd k.id fun k => { k with err := err } else s.gLand g k es req w)

/-- DONEBELOW passes an unbroken run of completed identifiers (R257). -/
def settleDone : Nat → Nat → List Nat → Nat × List Nat
  | 0, d, l => (d, l)
  | n + 1, d, l => if l.contains d then settleDone n ((d + 1) % 2 ^ 32) (l.filter fun i => i != d) else (d, l)

def Mx.transferDone (m : Mx) (ch id : Nat) : Mx :=
  let l := tget [] m.completed ch ++ [id]
  let r := settleDone (l.length + 1) (tget 0 m.donebelow ch) l
  { m with donebelow := tset 0 m.donebelow ch r.1, completed := tset [] m.completed ch r.2 }

/-- A container lies in the transfer's slot. -/
def State.inSlot (s : State) (g : GEnv) (addr n : Nat) : Bool :=
  decide (addr + n ≤ ((s.core g.c).mx.ring (gDring g.raw)).ssize * 64)

/-- The destination bytes that an ended transfer leaves unwritten in its slot become zero; no byte beyond the slot is written
(R265). -/
def State.gZero (s : State) (g : GEnv) (k : Cmd) (reqs : List (List GEl)) : State :=
  let r := g.raw
  let begun (i : Nat) : Bool := k.done.contains i || k.parts.any fun p => p.req == i
  let left := (List.range reqs.length).flatMap fun i =>
    if begun i then (reqs.getD i []).filter fun e => gDmx r && e.u.any fun u => thas k.kept u else reqs.getD i []
  let zero (s : State) (p : GPut) : State := if s.inSlot g p.addr (cBytes p.cb) then s.gDo g { p with val := 0 } else s
  let s := (k.parts.flatMap fun p => p.late).foldl zero s
  let s := left.foldl (fun s e => zero s ⟨e.dst.1, e.dst.2, gDbits r, 0, none⟩) s
  if gDmx r then (left.filterMap fun e => e.u.map fun u => u / 32).eraseDups.foldl (fun s b => zero s ⟨gDscl r + b, 0, 8, 0, none⟩) s else s

/-- GATHER_TRANSFER_COMPLETE: every byte has landed and every arrival is made, or the transfer ends in an engine error; its
ring slot is published and DONEBELOW advances. -/
def execGatherTransferComplete (c : CoreId) (ch id : Nat) (s : State) : Out :=
  match (s.core c).mx.transfer ch id with
  | none => .refused (.notEnabled "GATHER_TRANSFER_COMPLETE")
  | some k =>
    let g := s.gEnv c k k.kind.cdesc
    let r := g.raw
    let reqs := s.gReqs g
    let s' := if k.err = 0 then s
      else
        let z := if gDsp r = 3 ∧ k.got.isSome then s.gZero g k reqs else s
        if gSyncen r then z.cmdArrive c k.id (gSyncsp r) g.sync 0 (some k.err) else z.engineTrap c k k.err
    let s' := s'.modMx c fun m =>
      let m := (m.drop k.id).transferDone ch id
      if gDsp r = 3 then
        match k.got with
        | some i => m.modRing (gDring r) fun q => (q.publish i).settle 64
        | none => m.modRing (gDring r) fun q => { q with waiting := q.waiting.filter fun a => a != .cmd k.id }
      else m
    event "GATHER_TRANSFER_COMPLETE"
      (s.clusterRuns c.cl && (k.err != 0 || decide (k.done.length = reqCount r reqs k)) && s.arrivals.all fun a => a.owner != some (c, k.id))
      (s'.wakeCore c)

end Sys2Proof.Machine
end

