-- ==== Sys2Proof/Machine/Sched.lean ====
section
/-! DEFINITION. Contexts at bundle boundaries: held commands, loops, selection, quantum, placement, eviction, waits, budget,
pre-emption, stops and breakpoints (R28 to R51, R224, R230, R231, R288, R289, R294, R313 to R326, R345). -/

namespace Sys2Proof.Machine

/-! ## Held commands (R230, R256) -/

/-- How a held command enters the engine, and whether it enters the tracker. -/
def heldGo (i : Instr) : Launcher × Bool :=
  match i with
  | .gcopy _ sc ch _ _ => (goGcopy sc ch.toNat true, true)
  | .mnest _ _ => (goMnest, false)
  | .mprec _ cn _ => (goMprec cn, false)
  | .mpert _ log cn _ _ => (goMpert log cn, false)
  | .mwld _ t cn _ k => (goMwld t cn k, true)
  | .mma _ t nest ovw wrel cn _ => (goMma t nest ovw wrel cn, true)
  | .mdrn _ t clr pkEn pk rm sat sc cn _ sS => (goMdrn t clr (if pkEn then some pk.toNat else none) rm sat sc cn (sS != 0), true)
  | _ => (fun s _ _ _ => .ok s, false)

/-- HELD_COMMAND_ISSUE: the head of the held-command queue issues; one that fails raises its cause at the next bundle boundary,
naming the COMMIT bundle, and those behind it go. -/
def execHeldCommandIssue (x : CtxId) (s : State) : Out :=
  match (s.ctx x).heldCmd with
  | [] => .refused (.notEnabled "HELD_COMMAND_ISSUE")
  | h :: _ =>
    let go := heldGo h.instr
    match go.1 s x h h.count with
    | .ok s' => event "HELD_COMMAND_ISSUE" (s.clusterRuns x.cl && !h.region && (!go.2 || (s.core x.coreId).mx.trackerRoom))
        ((s'.modCtx x fun c => { c with heldCmd := c.heldCmd.tail }).wake x)
    | .error (.trap cause d) => event "HELD_COMMAND_ISSUE" (s.clusterRuns x.cl && !h.region && (!go.2 || (s.core x.coreId).mx.trackerRoom))
        (((s.modCtx x fun c => { c with heldCmd := [] }).deferTrap (.live x) cause 0 (some h.cbaddr)
          (if cause = 0x01 then h.cdetail else d) h.cdelay).wake x)
    | .error _ => .refused (.notEnabled "HELD_COMMAND_ISSUE")

/-! ## Boundaries -/

/-- Whether a context is resident and not stopped. -/
def Ctx.active (c : Ctx) : Bool := c.pr.st != .idle && !c.pr.stopped

/-- The end of a kernel iteration is due: which bundle comes next is not settled (R39). -/
def Ctx.turning (c : Ctx) : Bool := c.loop.any fun l => l.due

/-- REGION_LENGTH_ROLLBACK: a 4,097th bundle after PONT would issue (R224). -/
def execRegionLengthRollback (x : CtxId) (s : State) : Out :=
  let c := s.ctx x
  event "REGION_LENGTH_ROLLBACK" (c.active && c.pr.st == .running && !c.turning
    && (match c.region with | some g => decide (4096 ≤ g.rlen) | none => false))
    (s.rollback x c.pc 0 0x06 0)

/-! ## The loop sequencer's iteration end (R39) -/

/-- The lowest level whose counter has still to rise. -/
def LoopSt.risingLevel (l : LoopSt) : Option Nat :=
  (List.range l.nlev).find? fun j => decide (l.counters.getD j 0 + 1 < l.trips.getD j 0)

/-- Adds the enabled strides of a level to their address registers. -/
def addStrides (r : Regs) (ss : List Stride) : Regs :=
  ss.foldl (fun r e => r.wr (.a e.reg) (zextI (((r.ac e.reg).val.toNat : Int) + e.step) 64)) r

/-- The step at the end of a kernel iteration, once the registers it reads are full. -/
def Ctx.iterate (c : Ctx) (l : LoopSt) : Ctx :=
  if l.lexit then c.setLoop l.ret l.enterEpi
  else match l.risingLevel with
    | none => c.setLoop l.ret l.enterEpi
    | some j =>
      let ks := (List.range 6).map fun i => if i < j then 0 else if i = j then l.counters.getD i 0 + 1 else l.counters.getD i 0
      ({ c with regs := addStrides c.regs (l.strides.filter fun e => e.level == j) } : Ctx).setLoop l.ret
        (some { l with counters := ks, due := false, pos := 0 })

/-- The address registers that the end of this iteration reads. -/
def LoopSt.reads (l : LoopSt) : List Nat :=
  if l.lexit then [] else match l.risingLevel with
    | none => []
    | some j => (l.strides.filter fun e => e.level == j).map Stride.reg

/-- LOOP_ITERATION_END: a register with a mark raises the mark's cause, as reading it does (R9, R39). -/
def execLoopIterationEnd (x : CtxId) (s : State) : Out :=
  let c := s.ctx x
  match c.loop with
  | none => .refused (.notEnabled "LOOP_ITERATION_END")
  | some l =>
    let rs := l.reads
    let ok := c.active && l.due && rs.all fun r => (c.regs.ac r).full
    match rs.find? fun r => (c.regs.ac r).mark.cause != 0 with
    | some r => event "LOOP_ITERATION_END" ok
        (s.takeTrap x (c.regs.ac r).mark.cause 0 c.pc (c.regs.ac r).mark.detail false false c.delayed)
    | none => event "LOOP_ITERATION_END" ok (s.modCtx x fun c => c.iterate l)

/-! ## Selection, quantum, stalls (R33 to R35) -/

/-- A core may issue: its cluster runs and its rail is not changing (R301). A retired core runs until it is emptied (R371). -/
def State.coreIn (s : State) (c : CoreId) : Bool := s.clusterRuns c.cl && !(s.cl c.cl).switching

/-- The Ready context that rotation takes next. -/
def State.nextReady (s : State) (c : CoreId) : Option Nat :=
  let o := s.core c
  let start := match o.last with | none => 0 | some k => k + 1
  ((List.range 4).map fun i => (start + i) % 4).find? fun k => (o.ctx k).pr.st == .ready && !(o.ctx k).pr.stopped

/-- CONTEXT_SELECT: its quantum starts afresh. -/
def execContextSelect (c : CoreId) (s : State) : Out :=
  match s.nextReady c with
  | none => .refused (.notEnabled "CONTEXT_SELECT")
  | some k => event "CONTEXT_SELECT" ((s.core c).run.isNone && s.coreIn c)
      ((s.modPr ⟨c.cl, c.core, k⟩ fun p => { p with st := .running, qcount := 0, blk := none }).takeSlot ⟨c.cl, c.core, k⟩)

/-- QUANTUM_EXPIRY: at a region's end and between kernel iterations, where nothing comes before it (R35, R42, R323). -/
def execQuantumExpiry (x : CtxId) (s : State) : Out :=
  let c := s.ctx x
  event "QUANTUM_EXPIRY" (c.active && c.pr.st == .running && decide (4096 ≤ c.pr.qcount) && c.region.isNone && c.between
    && c.fl.defer.isEmpty && c.pr.pre.isNone && !c.pr.overrun && !c.doneWait) (s.quantum x 3)

/-- STALL_TIMEOUT: a Stalled context parks where another is Ready (R33). -/
def execStallTimeout (x : CtxId) (s : State) : Out :=
  let c := s.ctx x
  event "STALL_TIMEOUT" (c.active && c.pr.st == .stalled && s.otherReady x)
    ((s.modPr x fun p => { p with st := .parked, parkTick := s.tick }).modCore x.coreId fun o => { o with run := none })

/-! ## Placement (R29, R51, R270, R317, R318, R359) -/

/-- Where the frame of a resident continuation ends. -/
def Priv.fend (p : Priv) : Nat := p.fbase + p.flen

/-- A frame fits at an L-mem offset beside the frames of the core's other resident continuations. -/
def frameFits (o : Core) (cx base size : Nat) : Bool :=
  base % 64 == 0 && decide (base + size ≤ 2 ^ 20) && (List.range 4).all fun k =>
    k == cx || (o.ctx k).pr.st == .idle || decide ((o.ctx k).pr.fend ≤ base ∨ base + size ≤ (o.ctx k).pr.fbase)

/-- The L-mem offsets that the dispatcher tries for new bytes of a core: 0 and the ends of its frames (log entry 99). -/
def Core.freeStarts (o : Core) : List Nat := 0 :: (List.range 4).map fun k => (o.ctx k).pr.fend

/-- Whether an Idle context may take a ready record with its frame at `base` (R29, R270, R358). -/
def State.mayPlaceAt (s : State) (x : CtxId) (crec base : Nat) : Bool :=
  match s.saved x.cl crec with
  | none => false
  | some i =>
    let o := s.core x.coreId
    let t := s.team x.cl i.ctx.ct.team
    (o.ctx x.cx).pr.st == .idle && !o.retired && s.clusterRuns x.cl
      && (!i.ctx.pr.mb || (List.range 4).all fun k => k == x.cx || (o.ctx k).pr.st == .idle || !(o.ctx k).pr.mb)
      && (!i.fresh || i.ctx.ct.core.all fun k => k == x.core)
      && (!i.ctx.pr.mb || i.fresh || base == i.base) && frameFits o x.cx base i.size
      && !((s.launch i.ctx.ct.launch).any fun v => v.st.isFrozen)
      && (match t with
        | none => true
        | some t => t.moving.isNone && (!t.sched || teamRank (s.lraw t.launch) i.ctx.ct.wid == x.core))

/-- The first offset that will do for a record: a free start, or a matrix-bound record's own. -/
def State.baseFor (s : State) (x : CtxId) (crec : Nat) : Option Nat :=
  (((s.saved x.cl crec).map Saved.base).getD 0 :: (s.core x.coreId).freeStarts).find? fun b => s.mayPlaceAt x crec b

def State.mayPlace (s : State) (x : CtxId) (crec : Nat) : Bool := (s.baseFor x crec).isSome

def State.placeable (s : State) (cl crec : Nat) : Bool := (List.range 32).any fun k => s.mayPlace ⟨cl, k / 4, k % 4⟩ crec

/-- A record that stands for an item of its team which no context has taken yet. -/
def State.markItem (s : State) (cl crec : Nat) : State :=
  s.setSaved cl crec ((s.saved cl crec).map fun i => { i with item := true })

/-- An item of at least a priority that has its record and that some context could take: it takes that context before another item
of no higher priority is created (R22). -/
def State.itemStands (s : State) (cl prio : Nat) : Bool :=
  (s.readyOf cl).any fun r => (s.saved cl r).any (fun i => i.item && decide (prio ≤ i.ctx.ct.prio)) && s.placeable cl r

/-- A team's next item as a record, and that record, where one is free and the launch goes on (R22). -/
def State.nextItem (s : State) (cl team : Nat) : Option (State × Nat) :=
  match s.team cl team with
  | none => none
  | some tm => match tm.free, s.launch tm.launch with
    | i :: _, some v =>
      let raw := v.raw
      let q : SpawnReq := { wid := itemWid raw tm.key tm.nextItem, prio := s.launchPrio tm.launch, entry := lEntry raw, args := [], tag := none
                            origin := none }
      let r := recAddr raw tm.vbase i
      if tm.nextItem < tm.items ∧ tm.moving.isNone ∧ (v.st = .running ∨ v.st = .draining) then
        some (((s.setTeam cl team { tm with nextItem := tm.nextItem + 1 }).newRecord cl team q).markItem cl r, r)
      else none
    | _, _ => none

/-- Some context could take a team's next item now. -/
def State.itemCould (s : State) (cl team : Nat) : Bool := (s.nextItem cl team).any fun p => p.1.placeable cl p.2

/-- Whether a ready record, or an item not yet created, that some context could take comes before a key (R36, R51). No item does while a
created one stands for its place (R22). -/
def State.comesFirst (s : State) (cl : Nat) (key : Nat × Nat) : Bool :=
  (s.readyOf cl).any (fun r => keyFirst (s.recKey r) key && s.placeable cl r)
    || (s.itemsLeft cl).any fun t => keyFirst (s.itemKey t.2) key && !s.itemStands cl (s.launchPrio t.2.launch) && s.itemCould cl t.1

/-- The frame's bytes back in L-mem, at its new offset. -/
def State.importFrame (s : State) (c : CoreId) (save base n : Nat) : State :=
  s.modCore c fun o => { o with
    lmem := splice o.lmem base n (slice s.vault (save + saveFrame) n base)
    lbad := spliceBad o.lbad base n (sliceBad s.vbad (save + saveFrame) n base) }

/-- a15 of a placed continuation: its frame's base, or moved by as much as the frame (R27, R317). -/
def placedA15 (i : Saved) (base : Nat) (r : Regs) : Regs :=
  let c := r.ac 15
  r.setA 15 { c with val := if i.fresh then BitVec.ofNat 64 base else c.val + BitVec.ofNat 64 base - BitVec.ofNat 64 i.base }

/-- The registers of R287 that the dispatcher writes, beside those that belong to the context. -/
def placedPriv (old : Priv) (i : Saved) (jslot base rbthresh : Nat) : Priv :=
  { i.ctx.pr with
    st := .ready, stopped := old.stopreq, stopreq := old.stopreq, err := old.err, resume := old.resume, bpaddr := old.bpaddr
    bpctl := old.bpctl, jslot := jslot, lwbase := base, lwlim := base + i.size, fbase := base, flen := i.size, rbthresh := rbthresh
    blk := none, pre := none, nb := false, qcount := 0, goPend := false }

/-- The work-queue descriptor of a launch. -/
def State.queueOf (s : State) (l : Nat) : WQueue := tget { } s.wqs (((s.launch l).map Launch.queue).getD 0)

/-- Engine state taken over by context number `cx`: what still runs or waits for it names that number (R29, R249). -/
def Mx.retarget (m : Mx) (cx : Nat) : Mx :=
  let acq (a : Acq) : Acq := match a with
    | .bfacq _ r p => .bfacq cx r p
    | a => a
  { m with
    cmds := m.cmds.map fun k => { k with ctx := cx }
    rings := m.rings.map fun e => (e.1, { e.2 with waiting := e.2.waiting.map acq }) }

/-- A matrix-bound core's engine state as a placed continuation finds it. Stage counters are the core's: only an item of the schedule
brings its own back (R268, R270; log entry 116). -/
def State.placedMx (s : State) (x : CtxId) (save raw : Nat) (i : Saved) : State :=
  if !i.ctx.pr.mb then s
  else match i.mx with
    | some m =>
      let m' := (importMx s (saveEnd save raw) i.issued (importCtx s save i.ctx).ct.issued (lTiles raw) m).retarget x.cx
      let sched := (s.team x.cl i.ctx.ct.team).any Team.sched
      s.modCore x.coreId fun o => { o with mx := { m' with stage := if sched then m'.stage else o.mx.stage } }
    | none => s.modCore x.coreId fun o => { o with mx := o.mx.left }

/-- A placed record's preload is used, and the context's is kept for a rerun of the same continuation alone; one whose L-mem the
new frame needs goes (R325, R326). -/
def preloadKept (x : CtxId) (crec base size : Nat) (e : Nat × Preload) : Bool :=
  e.2.crec != crec && (e.1 != x.core * 4 + x.cx || (e.2.rerun && e.2.owner == crec))
    && (e.1 / 4 != x.core || decide (e.2.base + e.2.size ≤ base ∨ base + size ≤ e.2.base))

/-- A restored continuation's requests that were saved as not sent translate again (R340). -/
def QEnt.again (e : QEnt) : QEnt := { e with unsent := false }

/-- PLACING a record on an Idle context (R29, R317). The record's fields give the PC, the identifier, the launch and the priority
(R26), the save area everything else. -/
def State.place (s : State) (x : CtxId) (crec base : Nat) (i : Saved) : State :=
  let jslot := ((s.team x.cl i.ctx.ct.team).map Team.jslot).getD 0
  let pr := placedPriv (s.ctx x).pr i jslot base (s.queueOf i.ctx.ct.launch).rbthresh
  let save := s.saveOf crec
  let c := if i.fresh then i.ctx else importCtx s save i.ctx
  let ct := { c.ct with wid := s.recRd crec recWID 8, launch := s.recRd crec recLAUNCH 4, prio := s.recRd crec recPRIO 1 % 8 }
  let pc := s.recRd crec recPC 8 / 16 * 16
  let s := if i.fresh then s else s.importFrame x.coreId save base i.size
  let s := s.placedMx x save (s.lraw i.ctx.ct.launch) i
  let s := ((s.dropReady x.cl crec).dropWatch x.cl crec).setSaved x.cl crec none
  let s := s.setCtx x { c with
    regs := placedA15 i base c.regs, pc := pc, ct := ct, wait := none, pr := { pr with budget := c.pr.budget }
    queues := c.queues.map fun q => (q.1, q.2.map QEnt.again) }
  let s := s.modCl x.cl fun l => { l with
    preload := (l.preload.filter (preloadKept x crec base i.size)).map fun e => (e.1, { e.2 with rerun := e.2.rerun && e.2.owner != crec })
    marvers := l.marvers.map fun e => (e.1, { e.2 with paused := e.2.paused.filter fun r => r != crec }) }
  s.recWr crec recSTATUS 1 stRunning

/-- CONTINUATION_PLACE: the best ready record that a context may take, at a free L-mem offset. -/
def execContinuationPlace (x : CtxId) (crec base : Nat) (s : State) : Out :=
  match s.saved x.cl crec with
  | none => .refused (.notEnabled "CONTINUATION_PLACE")
  | some i => event "CONTINUATION_PLACE"
      ((s.readyOf x.cl).contains crec && s.mayPlaceAt x crec base && !s.comesFirst x.cl (s.recKey crec))
      (s.place x crec base i)

/-! ## Eviction (R36) -/

/-- A wait on a register's full bit, as a blocked read leaves its context. -/
def regWait (r : RegRef) (baddr : Nat) : WaitSt :=
  let a := match r with
    | .s n => n
    | .a n => 64 + n
    | .v n => 128 + n
    | .p n => n
  { conds := [⟨3, 0, a, 0, false⟩], all := false, sc := .cl, deadline := none, wsat := 0, sd := 0, quiet := none, baddr := baddr }

/-- A parked continuation leaves: in its wait, in a wait on the register that blocks it, or ready to try again (R36, R322). -/
def State.leaveParked (s : State) (x : CtxId) (cause : Nat) (frozen : Bool) : State :=
  let c := s.ctx x
  let st (n : Nat) : Nat := if frozen then stFrozen else n
  match c.wait, c.pr.blk with
  | some _, _ => s.leave x (st stParked) cause
  | none, some (.reg r) => (s.modCtx x fun c => { c with wait := some (regWait r c.pc) }).leave x (st stParked) cause
  | none, _ => s.leave x (st stReady) cause

/-- Whether the dispatcher may evict a context. -/
def State.evictable (s : State) (x : CtxId) : Bool :=
  let c := s.ctx x
  c.active && c.pr.st == .parked && !c.doneWait && c.pr.pre.isNone && s.mayLeave x && !s.scheduled x

/-- An evicted context could take a record that is ready now, or an item not yet created. -/
def State.evictServes (s : State) (x : CtxId) : Bool :=
  let t := s.leaveParked x 1 false
  (s.readyOf x.cl).any (fun r => t.mayPlace x r)
    || (s.itemsLeft x.cl).any fun e => (t.nextItem x.cl e.1).any fun p => p.1.mayPlace x p.2

/-- The continuation that has been Parked longest among those that may leave and whose context could then take the work. -/
def State.victim (s : State) (cl : Nat) : Option Nat :=
  ((List.range 32).filter fun k => s.evictable ⟨cl, k / 4, k % 4⟩ && s.evictServes ⟨cl, k / 4, k % 4⟩).foldl (fun acc k => match acc with
    | none => some k
    | some b => if (s.ctx ⟨cl, k / 4, k % 4⟩).pr.parkTick < (s.ctx ⟨cl, b / 4, b % 4⟩).pr.parkTick then some k else some b) none

/-- EVICTION: no context is Idle and work waits that a context could take. -/
def execEviction (cl : Nat) (s : State) : Out :=
  match s.victim cl with
  | none => .refused (.notEnabled "EVICTION")
  | some k => event "EVICTION" (!s.anyIdle cl) (s.leaveParked ⟨cl, k / 4, k % 4⟩ 1 false)

/-! ## Waits ending (R44 to R47, R279, R280) -/

/-- The wait of a home as it stands: a saved one has its mode, its condition count, the conditions satisfied and the deadline
from the record (R26, R36). -/
def State.waitOf (s : State) (h : Home) (w : WaitSt) : WaitSt :=
  match h with
  | .live _ => w
  | .saved _ crec =>
    let b := s.recRd crec 32 1
    let d := s.recRd crec recDEADLINE 8
    { w with
      conds := w.conds.take (b / 2 % 4 + 1), all := b % 2 == 1, wsat := b / 16
      deadline := if d = 2 ^ 64 - 1 then none else some d }

/-- A wait with conditions latched; a saved one latches them in its record too. -/
def State.latch (s : State) (h : Home) (w : WaitSt) : State :=
  let s := s.modHome h fun c => { c with wait := some w }
  match h with
  | .live _ => s
  | .saved _ crec => s.recWait crec w (s.recRd crec 33 1 % 2 == 1)

/-- A context out of its wait. -/
def Ctx.unwait (c : Ctx) : Ctx :=
  { c with wait := none, pr := { c.pr with st := if c.pr.st = .parked then .ready else c.pr.st, blk := none } }

/-- A wait ends with an effect on its context, and the context, or its record, is ready. -/
def State.endWith (s : State) (h : Home) (f : Ctx → Ctx) (wto : Bool) : State :=
  let s := (s.refresh h).modHome h fun c => f c.unwait
  match h with
  | .live _ => s
  | .saved cl crec => ((s.syncSaved h).recWr crec 33 1 (b2n wto)).makeReady cl crec

/-- A WAIT ends: its register is written. -/
def State.endWait (s : State) (h : Home) (sd v : Nat) (wto : Bool) : State :=
  s.endWith h (fun c => { c with regs := c.regs.wr (.s sd) v, ct := { c.ct with wto := wto } }) wto

/-- A WQUIET ends: its bundle issues from its start and takes the result (R9, R280). -/
def State.endQuiet (s : State) (h : Home) (baddr v : Nat) : State :=
  s.endWith h (fun c => { c with qres := some (baddr, v) }) (decide (16 ≤ v))

/-- A WQUIET that finds its job quiet completes, or raises cause 0x0E for losses not yet reported. -/
def State.quietFound (s : State) (h : Home) (w : WaitSt) (q : Quiet) : State :=
  let lost := (q.last.map fun l => l.2.2).getD 0
  let seen := (s.cnt q.job).reported
  if seen < lost then
    let late := ((s.home h).map Ctx.delayed).getD false
    let s := ((s.modCnt q.job fun c => { c with reported := lost }).refresh h).modHome h Ctx.unwait
    match h with
    | .live x => s.takeTrap x 0x0E 0 w.baddr (lost - seen) false false late
    | .saved cl crec => ((s.syncSaved h).deferTrap h 0x0E 0 (some w.baddr) (lost - seen) late).makeReady cl crec
  else s.endQuiet h w.baddr 1

/-- A saved wait is tested while its record is parked and stands on the watch list; one of a frozen partition is tested when it
resumes (R26, R322, R359). -/
def State.waitTests (s : State) : Home → Bool
  | .live _ => true
  | .saved cl crec => s.recRd crec recSTATUS 1 == stParked && (s.watchList cl).contains crec

/-- The conditions of a wait that a test finds satisfied now, with those latched before. -/
def State.waitSat (s : State) (h : Home) (c : Ctx) (w : WaitSt) : Nat := testAll s h c w.conds w.wsat

/-- A test now would complete the wait (R44, R279). -/
def State.waitDone (s : State) (h : Home) (c : Ctx) (w : WaitSt) : Bool :=
  match w.quiet with
  | some q => q.found
  | none => modeMet w.all w.conds.length (s.waitSat h c w)

/-- The time-out has not passed before completion (R45). -/
def State.inTime (s : State) (w : WaitSt) : Bool :=
  w.met.isSome || (match w.deadline with | some t => decide (s.tick ≤ t) | none => true)

/-- A wait that a test completes. -/
def State.waitEnds (s : State) (h : Home) (c : Ctx) (w : WaitSt) : State :=
  match w.quiet with
  | some q => s.quietFound h w q
  | none => s.endWait h w.sd (s.waitSat h c w) false

/-- A test that does not complete the wait latches what it finds under all-of. -/
def State.waitLatches (s : State) (h : Home) (c : Ctx) (w : WaitSt) : State :=
  if w.all && w.quiet.isNone then s.latch h { w with wsat := s.waitSat h c w } else s

/-- WAIT_WAKE: a test of a wait's conditions, while its time-out has not passed. -/
def execWaitWake (h : Home) (s : State) : Out :=
  match s.home h with
  | none => .refused (.notEnabled "WAIT_WAKE")
  | some c => match c.wait with
    | none => .refused (.notEnabled "WAIT_WAKE")
    | some w0 =>
      let w := s.waitOf h w0
      event "WAIT_WAKE" (s.waitTests h && s.inTime w && (s.waitDone h c w || (w.quiet.isNone && s.waitSat h c w != w.wsat)))
        (if s.waitDone h c w then s.waitEnds h c w else s.waitLatches h c w)

/-- WAIT_TIMEOUT: the time-out has passed and no test completed the wait in time. -/
def execWaitTimeout (h : Home) (s : State) : Out :=
  match s.home h with
  | none => .refused (.notEnabled "WAIT_TIMEOUT")
  | some c => match c.wait with
    | none => .refused (.notEnabled "WAIT_TIMEOUT")
    | some w0 =>
      let w := s.waitOf h w0
      event "WAIT_TIMEOUT" ((match w.deadline with | some t => decide (t < s.tick) | none => false) && w.met.isNone && s.waitTests h)
        (if w.quiet.isSome then s.endQuiet h w.baddr 16 else s.endWait h w.sd (w.wsat + 16) true)

/-- DONE_COMPLETE: everything the continuation issued has completed, so the DONE completes in a Running context; a Stalled or
Parked one goes on to it as after any event that removes a block (R31, R33, R345). -/
def execDoneComplete (x : CtxId) (s : State) : Out :=
  let c := s.ctx x
  event "DONE_COMPLETE" (c.active && c.doneWait && s.quietCtx x && c.pr.st != .ready)
    (if c.pr.st = .running then s.completeDone x else s.wake x)

/-! ## Traps at a boundary (R231, R248, R256, R275, R294) -/

/-- DEFERRED_TRAP: the oldest deferred trap is taken. With a region open, the region rolls back first and the record follows
(R224, R297). -/
def execDeferredTrap (x : CtxId) (s : State) : Out :=
  let c := s.ctx x
  match c.fl.defer with
  | [] => .refused (.notEnabled "DEFERRED_TRAP")
  | d :: rest =>
    let baddr := d.baddr.getD c.pc
    let late := if d.baddr.isSome then d.delay else c.delayed
    let s' := (s.lapse x).modFl x fun f => { f with defer := rest }
    event "DEFERRED_TRAP" (c.active && !c.doneWait && !c.turning)
      (if c.region.isSome then ((s'.rollback x baddr d.slot 0x09 d.cause).lapse x).takeTrap x d.cause d.slot baddr d.detail false true late
       else s'.takeTrap x d.cause d.slot baddr d.detail false false late)

/-- The enabled address breakpoint at a bundle address. -/
def Priv.breakAt (p : Priv) (pc : Nat) : Option Nat :=
  (List.range 4).find? fun n => p.bpctl / 2 ^ n % 2 == 1 && tget 0 p.bpaddr n / 16 == pc / 16

/-- BREAKPOINT_STOP: before the bundle issues, with any region left open (R231). -/
def execBreakpointStop (x : CtxId) (s : State) : Out :=
  let c := s.ctx x
  match c.pr.breakAt c.pc with
  | none => .refused (.notEnabled "BREAKPOINT_STOP")
  | some n => event "BREAKPOINT_STOP" (c.active && c.pr.st == .running && !c.pr.nb && !c.doneWait && !c.turning)
      (s.takeTrap x 0x09 0 c.pc n true false c.delayed)

/-- BUDGET_OVERRUN: waits for a region's end and the end of a kernel iteration, and for a pre-emption request (R294, R323). -/
def execBudgetOverrun (x : CtxId) (s : State) : Out :=
  let c := s.ctx x
  event "BUDGET_OVERRUN" (c.active && c.pr.overrun && c.region.isNone && c.between && c.pr.pre.isNone && c.fl.defer.isEmpty && !c.doneWait)
    (((s.lapse x).modPr x fun p => { p with overrun := false }).takeTrap x 0x0B 0 c.pc c.pr.used false false c.delayed)

/-! ## Stops (R288, R289) -/

/-- A write of STOPREQ. Clearing it resumes a context that GO has already named. -/
def State.writeStopreq (s : State) (x : CtxId) (v : Bool) : State :=
  let p := (s.ctx x).pr
  let s := s.modPr x fun p => { p with stopreq := v, goPend := p.goPend && v }
  if v then (if p.st == .ready || p.st == .stalled || p.st == .parked then s.stop x else s)
  else if p.goPend && p.stopped then s.unstop x else s

def execCtxctlStopreq (x : CtxId) (v : Bool) (s : State) : Out := event "CTXCTL_STOPREQ" (s.released x.cl) (s.writeStopreq x v)

/-- CONTEXT_STOP: STOPREQ is found set at a bundle boundary. -/
def execContextStop (x : CtxId) (s : State) : Out :=
  let c := s.ctx x
  event "CONTEXT_STOP" (c.active && c.pr.stopreq) (s.stop x)

/-- A GO write with RESUME `n`; refused for a context that is not stopped. -/
def State.writeGo (s : State) (x : CtxId) (n : Nat) : State :=
  let p := (s.ctx x).pr
  if p.stopped && decide (n < 4) then
    let s := s.modPr x fun p => { p with resume := n, goPend := p.stopreq }
    match n with
    | 0 => s.resumeReplay x
    | 1 => s.resumeNext x
    | 2 => s.resumeReplaynb x
    | _ => s.resumeRedirect x
  else s.modPr x fun p => { p with resume := n % 8, err := true }

def execReplay (x : CtxId) (s : State) : Out := event "REPLAY" (s.released x.cl) (s.writeGo x 0)
def execNext (x : CtxId) (s : State) : Out := event "NEXT" (s.released x.cl) (s.writeGo x 1)
def execReplaynb (x : CtxId) (s : State) : Out := event "REPLAYNB" (s.released x.cl) (s.writeGo x 2)
def execRedirect (x : CtxId) (s : State) : Out := event "REDIRECT" (s.released x.cl) (s.writeGo x 3)

/-! ## Pre-emption (R321 to R323, R342) -/

/-- A second request changes nothing, but that a cancel or a freeze decides what becomes of the continuation (R322, R358). -/
def preOver (old : Option PreSrc) (src : PreSrc) : Option PreSrc :=
  match old, src with
  | none, _ => some src
  | some .cancel, _ => some .cancel
  | some _, .cancel => some .cancel
  | some _, .freeze => some .freeze
  | some o, _ => some o

/-- A request for a context: none is kept for an Idle one. -/
def State.askPreempt (s : State) (x : CtxId) (src : PreSrc) : State :=
  if (s.ctx x).pr.st = .idle then s else s.modPr x fun p => { p with pre := preOver p.pre src }

/-- PREEMPT: a write without bit 8 is ignored. -/
def execPreempt (cl : Nat) (v : BitVec 64) (s : State) : Out :=
  let n := v.toNat % 32
  event "PREEMPT" (s.released cl) (if v.toNat / 2 ^ 8 % 2 = 1 then s.askPreempt ⟨cl, n / 4, n % 4⟩ .software else s)

/-- What a cancelled continuation has issued is performed before its launch ends: its accesses, and the stores of its queues
(R306). -/
def Ctx.performed (c : Ctx) : Bool :=
  c.fl.pend.isEmpty && c.queues.all fun q => q.2.all fun e => e.kind.isLoad || e.stage == .landed

/-- PREEMPTION_TAKE: an open region rolls back first; then, once engines are done, the continuation is saved, or for a cancel
retired with nothing saved. A Parked context does not wait for the end of a kernel iteration (R322). -/
def execPreemptionTake (x : CtxId) (s : State) : Out :=
  let c := s.ctx x
  match c.pr.pre with
  | none => .refused (.notEnabled "PREEMPTION_TAKE")
  | some src =>
    let stands := c.between || c.pr.st == .parked
    if c.region.isSome then
      event "PREEMPTION_TAKE" (c.active && stands && c.fl.defer.isEmpty && s.clusterRuns x.cl) (s.rollback x c.pc 0 0x0A 0)
    else
      event "PREEMPTION_TAKE" (c.active && s.clusterRuns x.cl && stands && c.fl.defer.isEmpty && !c.doneWait && c.heldCmd.isEmpty && s.enginesHalt x && s.marversHalt x
          && (src != .cancel || c.performed))
        (match src with
         | .cancel => s.completeDone x
         | .freeze => if c.pr.st = .parked then s.leaveParked x 4 true else s.leave x stFrozen 4
         | _ => if c.pr.st = .parked then s.leaveParked x 4 false else s.leave x stReady 4)

/-- The first half of a record's frame, rounded down to 4 KiB (R325). -/
def State.halfFrame (s : State) (cl crec : Nat) : Nat :=
  match s.saved cl crec with
  | none => 0
  | some i => if i.fresh then 0 else i.size / 2 / 4096 * 4096

/-- No window of a core's contexts covers any of `n` bytes of its L-mem (R325). -/
def Core.noWindow (o : Core) (b n : Nat) : Bool :=
  (List.range 4).all fun k => (o.ctx k).pr.st == .idle || decide ((o.ctx k).pr.lwlim ≤ b ∨ b + n ≤ (o.ctx k).pr.lwbase)

/-- An L-mem offset of a core where `n` bytes lie in no window, no frame and no other preload: the first such of a few (log entry 99). -/
def State.preloadBase (s : State) (c : CoreId) (n : Nat) : Option Nat :=
  let o := s.core c
  (o.freeStarts ++ (List.range 4).map fun k => roundUp (o.ctx k).pr.lwlim 64).find? fun b => frameFits o 4 b n && o.noWindow b n
    && (s.cl c.cl).preload.all fun e => e.1 / 4 != c.core || decide (e.2.base + e.2.size ≤ b ∨ b + n ≤ e.2.base)

/-- PRELOAD: a context's likely next record is named, and half of its frame copied into L-mem of the core that no window covers; no
architectural state but PLHINT changes (R325). -/
def execPreload (x : CtxId) (crec : Nat) (s : State) : Out :=
  let s0 := s.modCl x.cl fun c => { c with preload := terase c.preload (x.core * 4 + x.cx) }
  let n := s.halfFrame x.cl crec
  let at_ := s0.preloadBase x.coreId n
  let p : Preload := { crec := crec, base := at_.getD 0, size := if at_.isSome then n else 0, owner := (s.ctx x).pr.crec }
  event "PRELOAD" ((s.ctx x).pr.st != .idle && (s.readyOf x.cl).contains crec)
    ((s.importFrame x.coreId (s.saveOf crec) p.base p.size).modCl x.cl fun c => { c with preload := tput c.preload (x.core * 4 + x.cx) p })

end Sys2Proof.Machine
end

