-- ==== Sys2Proof/Machine/Marver.lean ====
section
/-! DEFINITION. The Marvers: schedule entries, starting one, and its bytes landing (R267 to R270, R338, R339). -/

namespace Sys2Proof.Machine

/-! ## Entries (R267) -/

def eSync (e : Nat) : Nat := e / 2 ^ 384 % 2 ^ 64
def eAddr (e : Nat) : Nat := e / 2 ^ 320 % 2 ^ 64
def ePitch (e : Nat) : Nat := e / 2 ^ 288 % 2 ^ 32
def eRows (e : Nat) : Nat := e / 2 ^ 272 % 2 ^ 16
def eRbytes (e : Nat) : Nat := e / 2 ^ 256 % 2 ^ 16
def eLoff (e : Nat) : Nat := e / 2 ^ 236 % 2 ^ 20
def eStg (e : Nat) : Nat := e / 2 ^ 160 % 2 ^ 32
def eCores (e : Nat) : Nat := e / 2 ^ 152 % 2 ^ 8
def eRing (e : Nat) : Nat := e / 2 ^ 149 % 2 ^ 3
def eBack (e : Nat) : Bool := e / 2 ^ 148 % 2 == 1
def eSpace (e : Nat) : Nat := e / 2 ^ 146 % 2 ^ 2
def eSyncen (e : Nat) : Bool := e / 2 ^ 145 % 2 == 1
def eBytes (e : Nat) : Nat := eRows e * eRbytes e
/-- The cores that an entry serves. -/
def eServed (e : Nat) : List Nat := (List.range 8).filter fun k => eCores e / 2 ^ k % 2 == 1

/-- An entry's fields as R269 lists them: no reserved field or code set, at least one served core, and no more than one for a write back.
A SYNC that is used must be 16-byte aligned too, which R269 does not list; ROWS, RBYTES and LOFF are taken as they stand, also where
R267 does not give the value (log entry 92). -/
def entryOk (e : Nat) : Bool :=
  e / 2 ^ 448 % 2 ^ 64 == 0 && e / 2 ^ 192 % 2 ^ 44 == 0 && e % 2 ^ 145 == 0 && decide (eSpace e ≤ 1) && eCores e != 0
    && (!eBack e || (eServed e).length == 1) && (!eSyncen e || eSync e % 16 == 0)

/-- The entry count and list offset of a port, from the header's 64 bytes. -/
def schedCount (h p : Nat) : Nat := h / 2 ^ (64 * p) % 2 ^ 32
def schedList (h p : Nat) : Nat := h / 2 ^ (64 * p + 32) % 2 ^ 32

/-- Entry `i` of a port's list. -/
def State.schedEntry (s : State) (list i : Nat) : Nat := s.rdVault (list + 64 * i) 64

/-- A schedule that binding accepts (R269): its entries' fields, and an enabled ring with room for the tile in each core that
a fetch serves; the offset of each list is a multiple of 64, as R267 has it (log entry 92). -/
def State.schedOk (s : State) (cl sched : Nat) : Bool :=
  let h := s.rdVault sched 64
  (List.range 4).all fun p =>
    schedList h p % 64 == 0 && (List.range (schedCount h p)).all fun i =>
      let e := s.schedEntry (sched + schedList h p) i
      entryOk e && (eBack e || (eServed e).all fun k =>
        let r := (s.core ⟨cl, k⟩).mx.ring (eRing e)
        r.scount != 0 && decide (eBytes e ≤ r.ssize * 64))

/-- The four Marvers at the start of a schedule. -/
def State.schedMarvers (s : State) (sched : Nat) : Tab Marver :=
  let h := s.rdVault sched 64
  (List.range 4).map fun p => (p, { list := sched + schedList h p, count := schedCount h p })

/-! ## Rows and their bytes (R268, R338) -/

/-- Splits `n` bytes at `a` at 4 KiB boundaries; the fuel bounds the pieces. -/
def splitPages : Nat → Nat → Nat → List (Nat × Nat)
  | 0, _, _ => []
  | fuel + 1, a, n =>
    if n = 0 then [] else
      let k := Nat.min n (4096 - a % 4096)
      (a, k) :: splitPages fuel (a + k) (n - k)

/-- The requests of an entry: its rows split at page boundaries. -/
def entryReqs (e : Nat) : List (Nat × Nat) :=
  (List.range (eRows e)).flatMap fun r => splitPages 18 (eAddr e + r * ePitch e) (eRbytes e)

/-- The scheduled team of a cluster. -/
def State.schedTeam (s : State) (cl : Nat) : Option Team :=
  (s.cl cl).teams.findSome? fun e => match e.2 with
    | some t => if t.sched then some t else none
    | none => none

/-- Job slot and logical device that a cluster's Marvers work for: those that their schedule was bound under, also once its team has
retired (R268). -/
def State.marverJob (s : State) (cl : Nat) : Nat × Nat :=
  let j := (s.cl cl).schedSlot
  (j, (tget ({ } : JobSlot) (s.cl cl).jobs j).part)

/-- That job slot still holds the job of the schedule. -/
def State.mJobOk (s : State) (cl : Nat) : Bool :=
  let j : JobSlot := tget { } (s.cl cl).jobs (s.cl cl).schedSlot
  j.valid && j.jobid == (s.cl cl).schedJob

/-- Whether a piece of an entry's rows lies inside the job's windows (R56). -/
def State.mCovers (s : State) (cl off n : Nat) : Bool :=
  s.mJobOk cl && (tget ({ } : JobSlot) (s.cl cl).jobs (s.marverJob cl).1).covers off n

/-- The resolved sync word of an entry, where the job's windows hold it (R56, R57). -/
def State.eWord (s : State) (cl e : Nat) : Option Nat := (resolve cl (eSync e)).filter fun off => s.mCovers cl off 16

/-- What an entry's rows do in memory. -/
structure MRow where
  vault : Option Nat
  pa : Option Nat
  deriving DecidableEq, Repr

/-- Where one piece of a row stands: in the vault, once resolved and inside the windows (R56, R57), or in physical memory. -/
def State.mWhere (s : State) (cl e : Nat) (q : Nat × Nat) : MRow :=
  if eSpace e = 1 then ⟨(resolve cl q.1).filter fun off => s.mCovers cl off q.2, none⟩
  else ⟨none, if q.1 < 2 ^ 57 ∧ s.mJobOk cl then s.translate cl none (s.marverJob cl).1 q.1 (eBack e) else none⟩

/-- The engine error that a piece meets, 0 for none (R269, R358, R369, R374). A virtual address with bits 63 to 57 is a fault that no
translation repairs (R58, R265); a vault piece outside the windows, and any piece once the job slot holds the schedule's job no more, take
the codes of log entry 92. -/
def State.mErr (s : State) (cl e : Nat) (q : Nat × Nat) : Nat :=
  let w := eBack e
  match s.mWhere cl e q with
  | ⟨some off, _⟩ => if s.isolated (off / 2 ^ 30) then 0x23 else if !w && s.vaultBad off q.2 then 0x01 else 0
  | ⟨none, some pa⟩ =>
    if pa < dramTop then (if s.isolated (dieOf pa) then 0x23 else if !w && s.dramBad pa q.2 then 0x01 else 0)
    else if (s.ld (s.marverJob cl).2).hstate = 2 then 0x22
    else if !w && s.hostBad (s.marverJob cl).2 (pa - hostBase) q.2 then 0x01 else 0
  | ⟨none, none⟩ => if eSpace e = 1 ∨ s.mJobOk cl = false then (if w then 0x02 else 0x01) else if 2 ^ 57 ≤ q.1 then 0x20 else 0

def State.mGoes (s : State) (cl e : Nat) (q : Nat × Nat) : Bool :=
  eSpace e == 1 || (match s.mWhere cl e q with
    | ⟨_, some pa⟩ => if eBack e then s.physTakes (s.marverJob cl).2 pa q.2 else s.physReads (s.marverJob cl).2 pa q.2
    | _ => false)

def State.mRead (s : State) (cl e : Nat) (q : Nat × Nat) : List Byte :=
  match s.mWhere cl e q with
  | ⟨some off, _⟩ => leBytes q.2 (s.rdVault off q.2)
  | ⟨none, some pa⟩ => leBytes q.2 (s.rdPhys (s.marverJob cl).2 pa q.2)
  | _ => []

def State.mWrite (s : State) (cl e : Nat) (q : Nat × Nat) (bs : List Byte) : State :=
  match s.mWhere cl e q with
  | ⟨some off, _⟩ => s.wrVault off bs.length (leNat bs)
  | ⟨none, some pa⟩ => s.wrPhys (s.marverJob cl).2 pa bs
  | _ => s

/-- Where a request's bytes stand in the dense tile. -/
def reqOff (e i : Nat) : Nat := (((entryReqs e).take i).map Prod.snd).sum

/-! ## The steps (R268) -/

def State.marver (s : State) (cl port : Nat) : Marver := tget { } (s.cl cl).marvers port
def State.modMarver (s : State) (cl port : Nat) (f : Marver → Marver) : State :=
  s.modCl cl fun c => { c with marvers := tmod { } c.marvers port f }

/-- An entry has acquired its slots, or read its tile. -/
def MEnt.begun (e : MEnt) : Bool := if eBack e.raw then e.tile.isSome else decide ((eServed e.raw).length ≤ e.got.length)

/-- An item of the schedule is about to leave: a pre-emption of it is pending, or its record is marked faulted (R270). -/
def State.itemLeaves (s : State) (cl : Nat) : Bool :=
  (List.range 32).any fun k =>
    let x : CtxId := ⟨cl, k / 4, k % 4⟩
    let p := (s.ctx x).pr
    p.st != .idle && s.scheduled x && (p.pre.isSome || s.recRd p.crec recSTATUS 1 == stFaulted)

/-- A served core's stage counter lets the entry start (R268). -/
def State.coreServes (s : State) (cl port e k : Nat) : Bool :=
  decide ((tget 0 (s.core ⟨cl, k⟩).mx.stage port + 2 ^ 32 - eStg e) % 2 ^ 32 < 2 ^ 31)

/-- MARVER_ENTRY_START: a fetch asks for a slot in each served core; a write back reads its tile. -/
def execMarverEntryStart (cl port : Nat) (s : State) : Out :=
  let m := s.marver cl port
  let e := s.schedEntry m.list m.pos
  let k := (eServed e).headD 0
  let bad := eBack e && (s.core ⟨cl, k⟩).lmemBad (eLoff e) (eBytes e)
  let ent : MEnt := { ix := m.pos, raw := e, got := []
                      tile := if eBack e then some (rdBytes (s.core ⟨cl, k⟩).lmem (eLoff e) (eBytes e)) else none
                      err := if bad then 0x01 else 0, faults := [] }
  let s' := s.modMarver cl port fun m => { m with pos := m.pos + 1, live := m.live ++ [ent] }
  let s' := if eBack e then s'
    else (eServed e).foldl (fun s k => s.modMx ⟨cl, k⟩ fun x => x.modRing (eRing e) fun r => { r with waiting := r.waiting ++ [.marver port] }) s'
  event "MARVER_ENTRY_START"
    (s.clusterRuns cl && decide (m.pos < m.count) && m.paused.isEmpty && !s.itemLeaves cl && m.live.all MEnt.begun && (eServed e).all fun k => s.coreServes cl port e k) s'

/-- An entry's requests that have still to land. -/
def MEnt.left (e : MEnt) : List Nat := (List.range (entryReqs e.raw).length).filter fun i => !e.done.contains i

/-- Address and length of a request. -/
def reqAt (e i : Nat) : Nat × Nat := (entryReqs e).getD i (0, 0)

/-- The engine error that an entry ends in, 0 for none: its own, that of a sync word outside the windows (log entry 92), or that of a
request still to land. -/
def State.mCode (s : State) (cl : Nat) (e : MEnt) : Nat :=
  if e.err ≠ 0 then e.err
  else if eSyncen e.raw && (s.eWord cl e.raw).isNone then 0x02
  else ((e.left.map fun i => s.mErr cl e.raw (reqAt e.raw i)).find? fun c => c != 0).getD 0

/-- A piece needs no walk: it lies in the vault, or its translation is held, or none can be. -/
def State.mPlaced (s : State) (cl e : Nat) (q : Nat × Nat) : Bool :=
  eSpace e == 1 || (s.mWhere cl e q).pa.isSome || decide (2 ^ 57 ≤ q.1)

/-- Whether a request is issued now: less than 4,096 beyond the oldest that has still to land, and behind no request that is still to be
translated (R338). -/
def State.mIssues (s : State) (cl : Nat) (e : MEnt) (i : Nat) : Bool :=
  decide (i < e.left.headD 0 + 4096)
    && e.left.all fun o => decide (i ≤ o) || (e.faults.any fun f => f.1 == o) || s.mPlaced cl e.raw (reqAt e.raw o)

/-- The requests that can land now: those that have been issued, wait on no fault and whose memory can be reached (R338). -/
def State.mLandable (s : State) (cl : Nat) (e : MEnt) : List Nat :=
  e.left.filter fun i => s.mIssues cl e i && !(e.faults.any fun f => f.1 == i) && s.mGoes cl e.raw (reqAt e.raw i)

/-- Those that do land now: in any order, and at least one. -/
def State.mNow (s : State) (cl : Nat) (e : MEnt) : List Nat :=
  let l := s.mLandable cl e
  let n := l.filter (Config.landsNow s.draws)
  if n.isEmpty then l else n

/-- The oldest entry with a step to take: its slots are acquired, and a request can land, or none is left, or it has failed. -/
def State.mReady (s : State) (cl : Nat) (m : Marver) : Option MEnt :=
  m.live.find? fun e => e.begun && (s.mCode cl e != 0 || e.left.isEmpty || !(s.mLandable cl e).isEmpty)

/-- The host, or its park buffer, takes all that lands in one step (R354). -/
def State.mRoom (s : State) (cl : Nat) (e : MEnt) (is : List Nat) : Bool :=
  !eBack e.raw || s.hostRoom (s.marverJob cl).2 (is.map fun i =>
    let q := reqAt e.raw i
    ((s.mWhere cl e.raw q).pa.getD 0, q.2))

/-- Publishes the slots that an entry has acquired. -/
def State.mPublish (s : State) (cl : Nat) (e : MEnt) : State :=
  e.got.foldl (fun s g => (s.modMx ⟨cl, g.1⟩ fun x => x.modRing (eRing e.raw) fun r => (r.publish g.2).settle 64).wakeCore ⟨cl, g.1⟩) s

/-- An arrival at an entry's sync word; no engine command owns it. -/
def State.mArrive (s : State) (cl e n : Nat) (err : Option Nat) : State :=
  match s.eWord cl e with
  | some off => { s with arrivals := s.arrivals ++ [⟨none, off, n, err, none, s.tick⟩] }
  | none => s

/-- An entry that fails: an error arrival, or cause 0x0D in each served core's matrix-bound context (R269). -/
def State.mFail (s : State) (cl : Nat) (e : MEnt) (code : Nat) : State :=
  let s := if eSyncen e.raw && (s.eWord cl e.raw).isSome then s.mArrive cl e.raw 0 (some code)
    else (eServed e.raw).foldl (fun s k => match s.mxCtx ⟨cl, k⟩ with
      | none => s
      | some cx => s.deferTrap (.live ⟨cl, k, cx⟩) 0x0D 0 none (engineDetail 0 code)) s
  s.mPublish cl e

/-- One request lands in each served core's slot, or at its row (R268). -/
def State.mPiece (s : State) (cl : Nat) (e : MEnt) (i : Nat) : State :=
  let q := reqAt e.raw i
  let at_ := reqOff e.raw i
  if eBack e.raw then s.mWrite cl e.raw q (((e.tile.getD []).drop at_).take q.2)
  else
    let bs := s.mRead cl e.raw q
    e.got.foldl (fun s g =>
      s.wrLmem ⟨cl, g.1⟩ (((s.core ⟨cl, g.1⟩).mx.ring (eRing e.raw)).slotBase g.2 + at_) bs.length (leNat bs)) s

/-- Requests of an entry land, and each core's share of their bytes arrives (R268, R338). -/
def State.mLand (s : State) (cl : Nat) (e : MEnt) (is : List Nat) : State :=
  let n := (is.map fun i => (reqAt e.raw i).2).sum
  let s := is.foldl (fun s i => match (s.mWhere cl e.raw (reqAt e.raw i)).vault with
    | some off => s.served off
    | none => s) s
  let s := (is.foldl (fun s i => s.mPiece cl e i) s).tallyCl cl 0x10A (n * (eServed e.raw).length)
  if eSyncen e.raw && n != 0 then (eServed e.raw).foldl (fun s _ => s.mArrive cl e.raw n none) s else s

/-- MARVER_ENTRY_LAND: requests of an entry land, the last ones publishing its slots; or it ends in an engine error, and the Marver
goes on. -/
def execMarverEntryLand (cl port : Nat) (s : State) : Out :=
  match s.mReady cl (s.marver cl port) with
  | none => .refused (.notEnabled "MARVER_ENTRY_LAND")
  | some e =>
    let code := s.mCode cl e
    let is := s.mNow cl e
    let drop (s : State) : State := s.modMarver cl port fun m => { m with live := m.live.filter fun o => o.ix != e.ix }
    let e' : MEnt := { e with done := e.done ++ is, landed := e.landed + (is.map fun i => (reqAt e.raw i).2).sum }
    if code ≠ 0 then event "MARVER_ENTRY_LAND" (s.clusterRuns cl) ((drop s).mFail cl e code)
    else event "MARVER_ENTRY_LAND" (s.clusterRuns cl && s.mRoom cl e is)
      (let t := s.draw.mLand cl e is
       if e'.left.isEmpty then (drop t).mPublish cl e
       else t.modMarver cl port fun m => { m with live := m.live.map fun o => if o.ix = e.ix then e' else o })

end Sys2Proof.Machine
end

