-- ==== Sys2Proof/Machine/Fabric.lean ====
section
/-! DEFINITION. The fabric: XSEND, XST, XLD and XRED, their arrival, merging and loss, and the counting waves that find a job
quiet (R84, R271 to R280, R373). -/

namespace Sys2Proof.Machine

/-! ## Issue (R271 to R274) -/

/-- A packet of the context that issues it. -/
def packetOf (s : State) (e : Env) (kind : PktKind) (dst voff size : Nat) (data : List Word) (rel : Bool) (sc : Scope) : Packet :=
  { kind := kind, job := BitVec.ofNat 16 (s.jobSlot e.x).jobid, src := s.modId, dst := dst, voff := voff, size := size, data := data
    op := .add, ty := .s64, count := 1, hidx := 0, clu := 0, core := 0, rel := rel, scope := sc, home := .live e.x, reg := 0, prod := 0
    lsz := .z8, mark := 0, baddr := e.baddr, crec := e.pre.pr.crec }

/-- Whether a module belongs to the load-store domain, by this module's domain map. -/
def State.inDomain (s : State) (m : Nat) : Bool := s.domain.contains m

/-- The checks of a fabric vault address: alignment, then the address itself. Answers module and offset. -/
def fabricAddr (s : State) (x : CtxId) (a n : Nat) : Rd (Nat × Nat) := do
  need (a % n == 0) (.trap 0x04 a)
  slotAcc s x a
  need (a / 2 ^ 44 == 0 && s.inDomain (a / 2 ^ 34 % 2 ^ 10) && decide (a / 2 ^ 26 % 16 < 12)) (.trap 0x05 a)
  .ok (a / 2 ^ 34 % 2 ^ 10, a % 2 ^ 34)

def isRel (o : Ord) : Bool := o == .rel || o == .ar

/-- The checks of an XSEND target word that its bits decide. -/
def targetOk (t : Nat) : Bool :=
  let clu := t / 2 ^ 10 % 2 ^ 8
  let core := t / 2 ^ 18 % 2 ^ 4
  t / 2 ^ 36 == 0 && t / 2 ^ 22 % 4 == 0 && (decide (clu < 192) || clu == 0xFF) && (decide (core < 8) || core == 0xF)

def execXsend (c : Cond) (o : Ord) (sc : Scope) (sT : BitVec 6) (a : BitVec 4) (nm1 : BitVec 3) (s : State) : Out :=
  mSlot c (fun e s => do
    noRegion e
    let b ← rdA e a
    let tw ← rdS e sT
    let t := tw.toNat
    let n := nm1.toNat + 1
    need (targetOk t) (.trap 0x01 0)
    lmemAcc e b.toNat (8 * n) 8
    slotAcc s e.x b.toNat
    need (s.inDomain (t % 2 ^ 10)) (.trap 0x05 t)
    let v := viewLmem s e b.toNat (8 * n)
    let data := (List.range n).map fun i => BitVec.ofNat 64 (v / 2 ^ (64 * i))
    let k := { packetOf s e .xsend (t % 2 ^ 10) 0 (8 * n) data (isRel o) sc with
      hidx := t / 2 ^ 24 % 2 ^ 12, clu := t / 2 ^ 10 % 2 ^ 8, core := t / 2 ^ 18 % 2 ^ 4 }
    .ok (s.issueAcc e (.fabric k) 0 t (storeOrd o) sc none [])) s

def execXst (c : Cond) (sz : SSz) (o : Ord) (sc : Scope) (sS : BitVec 6) (a : BitVec 4) (imm : BitVec 8) (s : State) : Out :=
  mSlot c (fun e s => do
    noRegion e
    let b ← rdA e a
    let v ← rdS e sS
    let n := sz.bytes
    let ea := eaImm b imm n
    let d ← fabricAddr s e.x ea n
    let k := packetOf s e .xst d.1 d.2 n [BitVec.ofNat 64 (v.toNat % 2 ^ (8 * n))] (isRel o) sc
    .ok (s.issueAcc e (.fabric k) 0 ea (storeOrd o) sc none [])) s

def execXld (c : Cond) (sz : LSz) (o : Ord) (sc : Scope) (sd : BitVec 6) (a : BitVec 4) (imm : BitVec 8) (s : State) : Out :=
  mSlot c (fun e s => do
    noRegion e
    let b ← rdA e a
    let n := sz.bytes
    let ea := eaImm b imm n
    let d ← fabricAddr s e.x ea n
    let k := { packetOf s e .xldReq d.1 d.2 n [] false sc with reg := sd.toNat, lsz := sz }
    let r := s.newDst e.x (.s sd.toNat)
    .ok (r.1.issueAcc e (.fabric k) 0 ea (loadOrd o) sc r.2 [])) s

/-- Bytes of an XRED type. -/
def xtyBytes : XTy → Nat
  | .s32 => 4
  | .z32 => 4
  | .s64 => 8
  | .z64 => 8
  | .f32 => 4
  | .bf16 => 2

/-- A contribution as packets carry it: bf16 travels and merges as f32 (R274). -/
def xredData (ty : XTy) (v : Nat) : Nat := if ty = XTy.bf16 then v % 2 ^ 16 * 2 ^ 16 else v % 2 ^ (8 * xtyBytes ty)

def execXred (c : Cond) (op : RedOp) (ty : XTy) (o : Ord) (sc : Scope) (a : BitVec 4) (sb : BitVec 6) (s : State) : Out :=
  mSlot c (fun e s => do
    noRegion e
    let b ← rdA e a
    let v ← rdS e sb
    let n := xtyBytes ty
    let d ← fabricAddr s e.x b.toNat n
    let k := { packetOf s e .xred d.1 d.2 n [BitVec.ofNat 64 (xredData ty v.toNat)] (isRel o) sc with op := op, ty := ty }
    .ok (s.issueAcc e (.fabric k) 0 b.toNat (storeOrd o) sc none [])) s

/-! ## Arriving packets -/

/-- Takes an arriving packet: out of this module's packets in flight, or from another module. -/
def State.takePkt (s : State) (k : PktSrc) : Option (Packet × State) :=
  match k with
  | .peer p => if p.dst = s.modId ∧ ¬ p.src = s.modId then some (p, s) else none
  | .net i => (s.packets[i]?).map fun p => (p, { s with packets := listDrop s.packets i })

/-- Packets that two accesses of one context send to one module on one channel arrive in order (R84, R271). -/
def State.inOrder (s : State) (k : PktSrc) : Bool :=
  match k with
  | .peer _ => true
  | .net i => match s.packets[i]? with
    | none => false
    | some p => (s.packets.take i).all fun q => !(q.src == p.src && q.dst == p.dst && pktVc q.kind == pktVc p.kind)

/-- Everything that a packet carries: its own contribution and those merged into it. -/
def pktContribs (p : Packet) : List Contrib := ⟨p.home, p.crec, p.baddr, p.prod, p.delay⟩ :: p.also

/-- A packet that leaves the network may have blocked a context of this module that issued it (R33). -/
def State.wakePkt (s : State) (p : Packet) : State :=
  if p.src = s.modId then (pktContribs p).foldl (fun s o => match s.homeOf (homeCl o.home) o.crec with
    | none => s
    | some h => s.wakeHome h) s
  else s

/-- An arrival of a packet of one kind. One that goes to another module is performed there and is no longer on its way (R73, R84). -/
def arrival (name : String) (kinds : List PktKind) (k : PktSrc) (s : State) (f : Packet → State → Out) : Out :=
  match s.takePkt k with
  | none => .refused (.notEnabled name)
  | some (p, s') =>
    if !(kinds.contains p.kind && s.inOrder k) then .refused (.notEnabled name)
    else if p.dst = s.modId then f p (s'.wakePkt p)
    else .next (s'.wakePkt p)

/-- The valid job-table entry of a fabric job identifier (R308). -/
def State.jobEnt (s : State) (job : Nat) : JobEnt :=
  ((s.jobs.find? fun e => e.2.valid && e.2.jobid == job).map fun e => e.2).getD { }

/-- Whether the job's vault windows, or its reduction window, hold a range (R275). -/
def JobEnt.holds (j : JobEnt) (off n : Nat) : Bool := j.valid && realVaults off n && covered j.windows 5 off (off + n)
def JobEnt.reduces (j : JobEnt) (off n : Nat) : Bool := j.valid && realVaults off n && decide (j.red.1 ≤ off ∧ off + n ≤ j.red.2)

/-- The fabric vault address of a packet. -/
def pktAddr (p : Packet) : Nat := p.dst * 2 ^ 34 + p.voff

/-- A failure of a packet reaches the contexts of this module that issued it (R275, R374). -/
def State.failOrigin (s : State) (p : Packet) (cause : Nat) : State :=
  if p.src = s.modId then
    (pktContribs p).foldl (fun s o => s.deferFor (homeCl o.home) o.crec cause 3 (some o.baddr) (pktAddr p) o.delay) s
  else s

/-- XST_ARRIVAL: the store is checked against the job's windows and performed. -/
def execXstArrival (k : PktSrc) (s : State) : Out :=
  arrival "XST_ARRIVAL" [.xst] k s fun p s =>
    let s := s.addCons p.job.toNat 1
    .next (if (s.jobEnt p.job.toNat).holds p.voff p.size then
        let s := (s.served p.voff).wrVault p.voff p.size ((p.data.headD 0).toNat)
        if s.isolated (p.voff / 2 ^ 30) then s.failOrigin p 0x0C else s
      else s.failOrigin p 0x05)

/-- XLD_REQUEST_ARRIVAL: the reply carries the value, or the mark of what failed. -/
def execXldRequestArrival (k : PktSrc) (s : State) : Out :=
  arrival "XLD_REQUEST_ARRIVAL" [.xldReq] k s fun p s =>
    let ok := (s.jobEnt p.job.toNat).holds p.voff p.size
    let rep : Packet := { p with
      kind := .xldRep, src := p.dst, dst := p.src, data := [BitVec.ofNat 64 (if ok then s.rdVault p.voff p.size else 0)]
      mark := if !ok then 0x05 else if s.vaultBad p.voff p.size then 0x0C else 0 }
    let s := if ok then s.served p.voff else s
    .next { s with packets := s.packets ++ [rep] }

/-- A reply, or a loss, fills the register that an XLD of this module left empty, in its context or saved image. -/
def State.xldFill (s : State) (p : Packet) (v : Nat) (m : Mark) : State :=
  match s.homeOf (homeCl p.home) p.crec with
  | none => s
  | some h => match s.home h with
    | none => s
    | some c => match c.fl.xwaits.find? fun w => w.prod == p.prod || w.serial == p.prod with
      | none => s
      | some w =>
        (s.modHome h fun c =>
          ({ c with fl := { c.fl with xwaits := c.fl.xwaits.filter fun o => o.serial != w.serial } } : Ctx).land
            { reg := .s p.reg, prod := w.prod, val := v, mark := m, acq := w.serial }).syncSaved h |>.wakeHome h

/-- A reply fills its register; for a violation the issuing context takes cause 0x05 besides (R275). -/
def State.xldReply (s : State) (p : Packet) : State :=
  let a := p.src * 2 ^ 34 + p.voff
  let s := (s.addCons p.job.toNat 1).xldFill p (extend p.lsz (p.data.headD 0).toNat) ⟨p.mark, if p.mark = 0 then 0 else a⟩
  if p.mark = 0x05 then s.deferFor (homeCl p.home) p.crec 0x05 3 (some p.baddr) a p.delay else s

/-- XLD_REPLY_ARRIVAL: a reply fills its register. A packet of another kind that comes back from another module brings word of
a violation there (R275). -/
def execXldReplyArrival (k : PktSrc) (s : State) : Out :=
  match k with
  | .peer p =>
    if p.kind = .xldRep then
      arrival "XLD_REPLY_ARRIVAL" [.xldRep] k s fun p s => .next (s.xldReply p)
    else event "XLD_REPLY_ARRIVAL" (p.src == s.modId && p.dst != s.modId && (p.kind == .xst || p.kind == .xred) && p.mark == 0x05) (s.failOrigin p 0x05)
  | .net _ => arrival "XLD_REPLY_ARRIVAL" [.xldRep] k s fun p s => .next (s.xldReply p)

/-! ## Reductions (R274) -/

/-- An integer reduction of `w` bits. -/
def redI (op : RedOp) (signed : Bool) (w a b : Nat) : Nat :=
  let lt (x y : Nat) : Bool := if signed then decide (sextN x w < sextN y w) else decide (x < y)
  match op with
  | .add => (a + b) % 2 ^ w
  | .min => if lt b a then b else a
  | .max => if lt a b then b else a
  | .and => a &&& b
  | .or => a ||| b
  | .xor => a ^^^ b

/-- A float reduction, with the special values of FADD, FMIN and FMAX. -/
def redF (op : RedOp) (a b : FV) : FV :=
  match op with
  | .min => fminV a b
  | .max => fmaxV a b
  | _ => FV.add .rne a b

/-- Two contributions in one packet. -/
def redMerge (op : RedOp) (ty : XTy) (a b : Nat) : Nat :=
  match ty with
  | .s32 => redI op true 32 a b
  | .z32 => redI op false 32 a b
  | .s64 => redI op true 64 a b
  | .z64 => redI op false 64 a b
  | .f32 => (fp32.conv .rne false (redF op (fp32.val a) (fp32.val b))).bits
  | .bf16 => (fp32.conv .rne false (redF op (fp32.val a) (fp32.val b))).bits

/-- The new value of a location. -/
def redApply (op : RedOp) (ty : XTy) (old d : Nat) : Nat :=
  match ty with
  | .bf16 => (bf16.conv .rne false (redF op (bf16.val old) (fp32.val d))).bits
  | t => redMerge op t old d

/-- Whether no packet of a packet's source, destination and channel was sent between places `i` and `j`: a merge passes none (R65, R84). -/
def State.noneBetween (s : State) (p : Packet) (i j : Nat) : Bool :=
  ((s.packets.take (Nat.max i j)).drop (Nat.min i j + 1)).all fun q => !(q.src == p.src && q.dst == p.dst && pktVc q.kind == pktVc p.kind)

/-- XRED_MERGE: two packets of one address, op and type become one, which carries both counts. -/
def execXredMerge (i j : Nat) (s : State) : Out :=
  match s.packets[i]?, s.packets[j]? with
  | some a, some b =>
    let m : Packet := { a with
      count := a.count + b.count
      data := [BitVec.ofNat 64 (redMerge a.op a.ty (a.data.headD 0).toNat (b.data.headD 0).toNat)]
      also := a.also ++ pktContribs b }
    event "XRED_MERGE"
      (i != j && a.kind == .xred && b.kind == .xred && a.job == b.job && a.src == b.src && a.dst == b.dst && a.voff == b.voff && a.op == b.op && a.ty == b.ty
        && s.noneBetween a i j)
      { s with packets := listDrop (listSet s.packets i m) j }
  | _, _ => .refused (.notEnabled "XRED_MERGE")

/-- XRED_APPLY: one indivisible read-modify-write at the home module. -/
def execXredApply (k : PktSrc) (s : State) : Out :=
  arrival "XRED_APPLY" [.xred] k s fun p s =>
    let s := s.addCons p.job.toNat p.count
    .next (if (s.jobEnt p.job.toNat).reduces p.voff p.size then
        let s := s.served p.voff
        if s.vaultBad p.voff p.size then s.failOrigin p 0x0C
        else s.wrVault p.voff p.size (redApply p.op p.ty (s.rdVault p.voff p.size) (p.data.headD 0).toNat)
      else s.failOrigin p 0x05)

/-! ## Messages (R272, R277, R280, R356) -/

/-- The job-table entry of a launch's queue. -/
def State.launchJob (s : State) (l : Nat) : JobEnt := tget { } s.jobs (s.queueOf l).jobix

/-- The serving launch of a job: started, not ended, with a handler table; the oldest of several (R272). -/
def State.serving (s : State) (job : Nat) : Option Nat :=
  s.launches.foldl (fun acc e => match e.2 with
    | none => acc
    | some l =>
      if l.st.started && lHtabv l.raw && (s.launchJob e.1).jobid == job then
        match acc with
        | none => some e.1
        | some b => if l.tick < ((s.launch b).map Launch.tick).getD 0 then some e.1 else acc
      else acc) none

/-- The teams of a launch: cluster, team index and key. -/
def State.teamsOf (s : State) (l : Nat) : List (Nat × Nat × Nat) :=
  s.clusters.flatMap fun c => c.2.teams.filterMap fun t => match t.2 with
    | some tm => if tm.launch = l then some (c.1, t.1, tm.key) else none
    | none => none

/-- The team that a message goes to: of the lowest dense ordinal, in the cluster it names or in any. -/
def State.handlerTeam (s : State) (l clu : Nat) : Option (Nat × Nat × Nat) :=
  let raw := s.lraw l
  let ord (k : Nat) : Nat := teamOrdinal raw (k * 2 ^ widthFrom raw (lT raw))
  (s.teamsOf l).foldl (fun acc t =>
    if clu = 0xFF ∨ t.1 = clu then
      match acc with
      | none => some t
      | some b => if ord t.2.2 < ord b.2.2 then some t else acc
    else acc) none

/-- A physical address that the dispatcher's translation under a job's root reaches, none for a fault (R306). -/
def State.dispXl (s : State) (j : JobEnt) (write : Bool) (va : Nat) : Option Nat :=
  if rootOk j.troot && decide (va < 2 ^ 57) then
    match s.walkFrom j.part 16 write va [] 5 j.troot [] with
    | .ok e _ => some (e.pbase + va % 2 ^ e.log)
    | _ => none
  else none

/-- The dispatcher's walk waits for a channel under diagnosis (R366). -/
def State.dispBusy (s : State) (j : JobEnt) (write : Bool) (va : Nat) : Bool :=
  rootOk j.troot && decide (va < 2 ^ 57) && s.walkFrom j.part 16 write va [] 5 j.troot [] == .busy

/-- Entry HIDX of a launch's handler table. -/
def State.handlerEntry (s : State) (l hidx : Nat) : Option Nat :=
  let j := s.launchJob l
  (s.dispXl j false (lHtab (s.lraw l) + 8 * hidx)).bind fun pa =>
    if s.physReads j.part pa 8 && !s.physBad j.part pa 8 then some (s.rdPhys j.part pa 8) else none

/-- A number that no handler message under way has. -/
def State.freeMsg (s : State) : Nat := s.msgs.foldl (fun a e => Nat.max a (e.1 + 1)) 0

/-- The handler continuation joins its team, or waits for a free record. -/
def State.startHandler (s : State) (p : Packet) (l cl t key entry : Nat) : State :=
  let m := s.freeMsg
  let raw := s.lraw l
  let q : SpawnReq := { wid := key * 2 ^ widthFrom raw (lT raw), prio := s.launchPrio l, entry := entry, args := p.data.map BitVec.toNat
                        tag := some m, origin := none, core := if p.core = 0xF then none else some p.core }
  let s := { s with msgs := tput s.msgs m (some ⟨p.job.toNat, 1⟩) }
  match s.team cl t with
  | none => s
  | some tm =>
    if tm.free.isEmpty then s.setTeam cl t { tm with pending := tm.pending ++ [q] }
    else (s.setTeam cl t { tm with live := tm.live + 1 }).newRecord cl t q

/-- XSEND_DELIVER: a handler starts in the serving launch's team on cluster `cl`; a frozen launch's message waits; one that cannot
be delivered is counted lost. -/
def execXsendDeliver (k : PktSrc) (cl : Nat) (s : State) : Out :=
  arrival "XSEND_DELIVER" [.xsend] k s fun p s =>
    match s.serving p.job.toNat with
    | none => .next (s.addLost p.job.toNat 1)
    | some l =>
      if ((s.launch l).map fun v => v.st.isFrozen).getD false then .next { s with waiting := s.waiting ++ [p] }
      else if lHcount (s.lraw l) ≤ p.hidx then .next (s.addLost p.job.toNat 1)
      else match s.handlerTeam l p.clu with
        | none => .next (s.addLost p.job.toNat 1)
        | some t =>
          if !s.clusterRuns t.1 then .next (s.addLost p.job.toNat 1)
          else match s.handlerEntry l p.hidx with
            | none => .refused (.notEnabled "XSEND_DELIVER")
            | some entry => event "XSEND_DELIVER" (cl == t.1) (s.startHandler p l t.1 t.2.1 t.2.2 entry)

/-! ## Losses (R280, R373) -/

/-- PACKET_DROP: a switch drops a packet and reports it to the interfaces of its destination and, unmerged, of its origin; this
module receives one record. -/
def execPacketDrop (i : Nat) (s : State) : Out :=
  match s.packets[i]? with
  | none => .refused (.notEnabled "PACKET_DROP")
  | some p => .next (({ s with
      packets := listDrop s.packets i
      lossRecs := if p.dst = s.modId ∨ (p.src = s.modId ∧ p.count = 1) then s.lossRecs ++ [p] else s.lossRecs } : State).wakePkt p)

/-- Whether a lost packet carried an XLD of this module. -/
def State.lostXld (s : State) (p : Packet) : Bool :=
  (p.kind == .xldReq && p.src == s.modId) || (p.kind == .xldRep && p.dst == s.modId)

/-- The die whose bus log keeps the fabric interface's records (log entry 19). -/
def fabricDie : Nat := 0

/-- Receiving a loss record: the destination counts the loss, a lost XLD fills with the loss mark, and the bus log takes a
record. -/
def State.lose (s : State) (p : Packet) : State :=
  let s := if p.dst = s.modId then s.addLost p.job.toNat p.count else s
  let s := if s.lostXld p then s.xldFill p 0 ⟨0x0E, 1⟩ else s
  s.logAdd fabricDie true (logRec 0x16 0 0 (Nat.min 255 p.count) (pktAddr p) p.job.toNat)

/-- LOSS_RECORD_RECEIVE: the oldest record of this module's own packets, or one about another module's. -/
def execLossRecordReceive (k : PktSrc) (s : State) : Out :=
  match k with
  | .net i => match s.lossRecs[i]? with
    | none => .refused (.notEnabled "LOSS_RECORD_RECEIVE")
    | some p => .next (({ s with lossRecs := listDrop s.lossRecs i } : State).lose p)
  | .peer p => event "LOSS_RECORD_RECEIVE" (p.dst == s.modId || p.src == s.modId) (s.lose p)

/-! ## Counting waves (R278, R279) -/

/-- The jobs that a wave counts. -/
def waveJobs (s : State) (peers : List PeerSum) : List Nat := (s.counts.map Prod.fst ++ peers.map fun p => p.job.toNat).eraseDups

/-- COUNTING_WAVE: snapshots of this module and of the others, every 100 ticks. -/
def execCountingWave (peers : List PeerSum) (s : State) : Out :=
  let sums := (waveJobs s peers).map fun j =>
    let c := s.cnt j
    let ps := peers.filter fun p => p.job.toNat == j
    (j, c.inj + (ps.map PeerSum.inj).sum, c.cons + (ps.map PeerSum.cons).sum, c.lost + (ps.map PeerSum.lost).sum)
  event "COUNTING_WAVE" (decide (s.waveTick + 100 ≤ s.tick))
    { s with waves := s.waves + 1, waveTick := s.tick, waveFlight := s.waveFlight ++ [⟨s.waves, sums⟩] }

/-- A WQUIET learns a wave's sums of its job: quiet when they balance and equal the wave's before (R278). -/
def Quiet.see (q : Quiet) (w : Wave) : Quiet :=
  if w.num < q.since then q
  else
    let x := ((w.sums.find? fun e => e.1 == q.job).map fun e => e.2).getD (0, 0, 0)
    { q with last := some x, found := q.found || (q.last == some x && x.1 == x.2.1 + x.2.2) }

def Ctx.seeWave (w : Wave) (c : Ctx) : Ctx :=
  { c with wait := c.wait.map fun v => { v with quiet := v.quiet.map fun q => if q.found then q else q.see w } }

/-- WAVE_SUMS_ARRIVAL: the oldest wave's sums reach this module. -/
def execWaveSumsArrival (s : State) : Out :=
  match s.waveFlight with
  | [] => .refused (.notEnabled "WAVE_SUMS_ARRIVAL")
  | w :: rest => .next { s with
      waveFlight := rest
      clusters := s.clusters.map fun e => (e.1, e.2.mapCtxs e.1 fun _ c => c.seeWave w) }

end Sys2Proof.Machine
end

