-- ==== Sys2Proof/Machine/Translate.lean ====
section
/-! DEFINITION. Translation at work: walks and the faults they end in, the fault queue and its answers, invalidations, and
the page-move engine (R222, R227, R329 to R343). -/

namespace Sys2Proof.Machine

/-! ## Faults (R335, R336) -/

/-- A fault record before it has a tag, a SEQ and a tick. -/
def faultRec (jslot src core cx unit : Nat) (write disc : Bool) (level sub va id crec landed sect sectLanded entry : Nat) : FaultRec :=
  { seq := 0, tag := 0, jslot := jslot, src := src, core := core, cx := cx, unit := unit, write := write, disc := disc, level := level
    sub := sub, va := va, id := id, crec := crec, landed := landed, sect := sect, sectLanded := sectLanded, entry := entry, tick := 0 }

/-- A permission fault drops its page from every TLB of the cluster (R332). -/
def State.dropReadOnly (s : State) (cl jslot sub va : Nat) : State :=
  if sub = 0x03 then s.tlbDrop cl fun e => e.hits jslot va else s

/-- A fault is detected: it joins the outstanding fault of its key or takes a tag; none while every tag is taken. An access that
waits on a fault whose record has still to be written makes that record an ordinary one (R336, R341). -/
def State.detect (s : State) (cl : Nat) (f : FaultRec) : Option (State × Nat) :=
  match (s.dropReadOnly cl f.jslot f.sub f.va).raiseFault cl f with
  | none => none
  | some (s, t) =>
    some (if f.disc then s else s.modCl cl fun c => { c with
      faultWait := c.faultWait.map fun r => if r.tag = t ∧ r.seq = ((s.fault cl t).map FaultRec.seq).getD 0 then { r with disc := false } else r }, t)

/-! ## Walks (R329, R332) -/

/-- A walk has ended: the misses and the walk are counted (R381, R382). -/
def State.walked (s : State) (cl : Nat) : State := (s.tallyCl cl 0x101 1).tallyCl cl 0x102 1

/-- The same for a walk that a context's own request asked for: it missed in its core's TLB first. -/
def State.walkedFor (s : State) (x : CtxId) : State := (s.tally x 0x00D 1).walked x.cl

/-- Whether a queue's request is the next to be translated: waiting, and everything before it is sent in order (R63). -/
def State.mayWalkQ (s : State) (x : CtxId) (c : Ctx) (l : List QEnt) (pos : Nat) (e : QEnt) : Bool :=
  c.pr.st != .idle && e.stage == .waiting && (s.entPa (.live x) c e).isNone && s.maySend (.live x) c l pos

/-- A walked queue request is sent, if it may leave: a checked load is compared and takes its alias entry first (R222, R332). -/
def State.sendQ (s : State) (x : CtxId) (q : Nat) (e : QEnt) (pa : Nat) : State :=
  match s.checkLoad (.live x) (s.ctx x) e pa with
  | .error s => s
  | .ok s => (s.modCtx x fun c => c.setQueue q (replaceEnt (c.queue q) e.serial fun e => some { e with compared := true })).sentQ (.live x) q

/-- The position from its queue's head of an entry, among those that QPOP has not taken (R208, R335). -/
def queuePos (l : List QEnt) (i : Nat) : Nat := occupancy (l.take i)

/-- The fault of a queue request. -/
def queueFault (x : CtxId) (c : Ctx) (q pos : Nat) (e : QEnt) (disc : Bool) (sub level entry : Nat) : FaultRec :=
  faultRec c.pr.jslot 0 x.core x.cx q (!e.kind.isLoad) disc level sub e.ea pos c.pr.crec 0 0 0 entry

/-- A queue request is walked: its translation is installed, or it waits on its fault. A request that an open region pushed rolls
the region back (R227, R341), also while its context is stopped there (log entry 110). -/
def walkQueue (x : CtxId) (q pos : Nat) (s : State) : Out :=
  let c := s.ctx x
  match (c.queue q)[pos]? with
  | none => .refused (.notEnabled "PAGE_WALK")
  | some e =>
    if !s.mayWalkQ x c (c.queue q) pos e then .refused (.notEnabled "PAGE_WALK")
    else match s.walk x.cl c.pr.jslot (!e.kind.isLoad) e.ea with
    | .busy => .refused (.notEnabled "PAGE_WALK")
    | .ok leaf tables =>
      .next (((s.walkedFor x).tlbInstall x.cl (some x.core) leaf tables).sendQ x q e (leaf.pbase + e.ea % 2 ^ leaf.log))
    | .fault sub level entry =>
      let disc := e.rpush && c.region.isSome
      match (s.walkedFor x).detect x.cl (queueFault x c q (queuePos (c.queue q) pos) e disc sub level entry) with
      | none => .refused (.notEnabled "PAGE_WALK")
      | some (s, t) => .next (if disc then s.rollback x e.baddr 3 0x09 0x06
          else s.modCtx x fun c => c.setQueue q (replaceEnt (c.queue q) e.serial fun e => some { e with stage := .faulted t }))

/-- A queue request of a saved image that had left for its translation is walked for. A walk that faults writes no record, since its
continuation is no longer resident: the request is then saved as not sent (R340; log entry 120). -/
def walkSaved (cl crec q pos : Nat) (s : State) : Out :=
  let h := Home.saved cl crec
  let s := s.refresh h
  match s.home h with
  | none => .refused (.notEnabled "PAGE_WALK")
  | some c => match (c.queue q)[pos]? with
    | none => .refused (.notEnabled "PAGE_WALK")
    | some e =>
      if e.stage != .waiting || e.unsent || (s.entPa h c e).isSome || !s.maySend h c (c.queue q) pos then .refused (.notEnabled "PAGE_WALK")
      else match s.walk cl c.pr.jslot (!e.kind.isLoad) e.ea with
        | .busy => .refused (.notEnabled "PAGE_WALK")
        | .ok leaf tables => .next ((((s.walked cl).tlbInstall cl none leaf tables).sentQ h q).syncSaved h)
        | .fault sub _ _ => .next ((((s.walked cl).dropReadOnly cl c.pr.jslot sub e.ea).modHome h fun c =>
            c.setQueue q (replaceEnt (c.queue q) e.serial fun e => some { e with unsent := true })).syncSaved h)

/-- An entry of a queue, with its position from the head. -/
def Ctx.findEnt (c : Ctx) (q serial : Nat) : Option (Nat × QEnt) :=
  ((List.range (c.queue q).length).findSome? fun i => match (c.queue q)[i]? with
    | some e => if e.serial = serial then some (queuePos (c.queue q) i, e) else none
    | none => none)

/-- The queue store that a region still has to compare: its held store `i`, or past them the one of a COMMIT bundle that waits; with
its queue and position (R217, R222). -/
def Ctx.heldEnt (c : Ctx) (i : Nat) : Option (Nat × Nat × QEnt) :=
  match c.heldSt[i]? with
  | some (.queue q serial) => (c.findEnt q serial).map fun p => (q, p)
  | some _ => none
  | none => if i = c.heldSt.length then c.commitSt.map fun u => (u.1, occupancy (c.queue u.1), u.2) else none

/-- A held queue store is compared with the alias table at its address (R222), also while its context is stopped in its region (log entry
110). -/
def State.compareHeld (s : State) (x : CtxId) (i q : Nat) (e : QEnt) (pa : Nat) : State :=
  let e' : QEnt := { e with compared := true, pa := some pa }
  match (s.ctx x).region with
  | none => s
  | some g =>
    if g.aliases.any fun a => decide (a.serial < e.serial) && a.hits .phys pa e.bytes then s.rollback x e.baddr 3 0x02 0
    else (s.modCtx x fun c =>
      if i < c.heldSt.length then c.setQueue q (replaceEnt (c.queue q) e.serial fun _ => some e') else { c with commitSt := some (q, e') }).wake x

/-- Held store `i` of a region is translated for its comparison (R222). -/
def walkHeld (x : CtxId) (i : Nat) (s : State) : Out :=
  let c := s.ctx x
  match c.heldEnt i, c.region with
  | some (q, pos, e), some _ =>
    if e.compared then .refused (.notEnabled "PAGE_WALK")
    else match s.entPa (.live x) c e with
      | some pa => .next (s.compareHeld x i q e pa)
      | none => match s.walk x.cl c.pr.jslot true e.ea with
        | .busy => .refused (.notEnabled "PAGE_WALK")
        | .ok leaf tables =>
          .next (((s.walkedFor x).tlbInstall x.cl (some x.core) leaf tables).compareHeld x i q e (leaf.pbase + e.ea % 2 ^ leaf.log))
        | .fault sub level entry => match (s.walkedFor x).detect x.cl (queueFault x c q pos e true sub level entry) with
          | none => .refused (.notEnabled "PAGE_WALK")
          | some (s, _) => .next (s.rollback x e.baddr 3 0x09 0x06)
  | _, _ => .refused (.notEnabled "PAGE_WALK")

/-- A sector request is walked. -/
def walkGather (o : CoreId) (ch id req : Nat) (write : Bool) (s : State) : Out :=
  match (s.core o).mx.transfer ch id with
  | none => .refused (.notEnabled "PAGE_WALK")
  | some k =>
    let g := s.gEnv o k k.kind.cdesc
    let reqs := s.gReqs g
    match s.gMiss g (s.gWork g k reqs req) with
    | none => .refused (.notEnabled "PAGE_WALK")
    | some (va, w) =>
      if !s.reqReady o k g.raw reqs req || w != write then .refused (.notEnabled "PAGE_WALK")
      else match s.walk o.cl g.jslot w va with
      | .busy => .refused (.notEnabled "PAGE_WALK")
      | .ok leaf tables => .next ((s.walkedFor (cmdCtx o k)).tlbInstall o.cl (some o.core) leaf tables)
      | .fault sub level entry =>
        match (s.walkedFor (cmdCtx o k)).detect o.cl
            (faultRec g.jslot 1 o.core k.ctx ch w false level sub va id k.crec k.landed req k.done.length entry) with
        | none => .refused (.notEnabled "PAGE_WALK")
        | some (s, t) => .next (s.modMx o fun m => m.modCmd k.id fun k => { k with faults := k.faults ++ [(req, t)] })

/-- A Marver entry has a request that has still to be walked (R338). -/
def State.mMiss (s : State) (cl : Nat) (e : MEnt) (req : Nat) : Bool :=
  e.begun && e.err == 0 && eSpace e.raw == 0 && e.left.contains req && !(e.faults.any fun f => f.1 == req)
    && s.mJobOk cl && !s.mPlaced cl e.raw (reqAt e.raw req) && s.mIssues cl e req

/-- A Marver's request is walked: that of its oldest entry in which it lacks a translation. -/
def walkMarver (cl port req : Nat) (s : State) : Out :=
  let js := (s.marverJob cl).1
  match (s.marver cl port).live.find? fun e => s.mMiss cl e req with
  | none => .refused (.notEnabled "PAGE_WALK")
  | some e =>
    let q := reqAt e.raw req
    match s.walk cl js (eBack e.raw) q.1 with
    | .busy => .refused (.notEnabled "PAGE_WALK")
    | .ok leaf tables => .next ((s.walked cl).tlbInstall cl none leaf tables)
    | .fault sub level entry =>
      match (s.walked cl).detect cl (faultRec js 2 0 0 port (eBack e.raw) false level sub q.1 e.ix 0 e.landed req e.done.length entry) with
      | none => .refused (.notEnabled "PAGE_WALK")
      | some (s, t) => .next (s.modMarver cl port fun m => { m with
          live := m.live.map fun o => if o.ix = e.ix then { o with faults := o.faults ++ [(req, t)] } else o })

/-- Serving a miss of a cluster in both TLBs. -/
def serveWalk (cl : Nat) (w : WalkFor) (s : State) : Out :=
  match w with
  | .queue x q pos => if x.cl = cl then walkQueue x q pos s else .refused (.notEnabled "PAGE_WALK")
  | .held x i => if x.cl = cl then walkHeld x i s else .refused (.notEnabled "PAGE_WALK")
  | .saved k crec q pos => if k = cl then walkSaved k crec q pos s else .refused (.notEnabled "PAGE_WALK")
  | .gather c ch id req write => if c.cl = cl then walkGather c ch id req write s else .refused (.notEnabled "PAGE_WALK")
  | .marver k port req => if k = cl then walkMarver k port req s else .refused (.notEnabled "PAGE_WALK")

/-! ## The fault queue (R335, R337) -/

/-- A record's eight doublewords as one number. -/
def FaultRec.words (f : FaultRec) : Nat :=
  let hdr := f.seq * 2 ^ 48 + f.tag * 2 ^ 40 + f.jslot * 2 ^ 36 + f.src * 2 ^ 32 + f.core * 2 ^ 29 + f.cx * 2 ^ 27 + f.unit * 2 ^ 24
    + b2n f.write * 2 ^ 23 + b2n f.disc * 2 ^ 22 + f.level * 2 ^ 19 + f.sub
  [hdr, f.va, f.id, f.crec, f.landed, f.sect * 2 ^ 32 + f.sectLanded, f.entry, f.tick].foldr (fun d acc => d % 2 ^ 64 + 2 ^ 64 * acc) 0

/-- Where a vault offset of the Gaffer's registers lies. -/
def ringAt (cl base off : Nat) : Nat := (resolve cl base).getD base + off

/-- FAULT_RECORD_ENQUEUE: the oldest waiting record is written and FQTAIL advances. -/
def execFaultRecordEnqueue (cl : Nat) (s : State) : Out :=
  let c := s.cl cl
  match c.faultWait with
  | [] => .refused (.notEnabled "FAULT_RECORD_ENQUEUE")
  | f :: rest => event "FAULT_RECORD_ENQUEUE" (ringRoom c.fqSize c.fqHead c.fqTail)
      (((s.wrVault (ringAt cl c.fqBase (64 * (c.fqTail % 2 ^ c.fqSize))) 64 f.words).modCl cl fun c => { c with
        faultWait := rest, fqTail := (c.fqTail + 1) % 2 ^ c.fqSize }).tallyCl cl 0x103 1)

/-! ## Answers (R337, R339, R342) -/

/-- Changes every live context of a cluster. -/
def State.mapLive (s : State) (cl : Nat) (f : Ctx → Ctx) : State :=
  s.modCl cl fun c => { c with cores := c.cores.map fun e => (e.1, { e.2 with ctxs := e.2.ctxs.map fun y => (y.1, f y.2) }) }

/-- The tag is free. -/
def State.freeFault (s : State) (cl tag : Nat) : State := s.modCl cl fun c => { c with faults := terase c.faults tag }

def QEnt.waitsOn (e : QEnt) (tag : Nat) : Bool :=
  match e.stage with
  | .faulted t => t == tag
  | _ => false

/-- A context's waiting requests translate again. -/
def Ctx.retryTag (tag : Nat) (c : Ctx) : Ctx :=
  let qs := c.queues.map fun (q : Nat × List QEnt) => (q.1, q.2.map fun e => if e.waitsOn tag then { e with stage := .waiting } else e)
  ({ c with queues := qs } : Ctx).wake

/-- A context's waiting requests fail: a load's datum is a mark, a store is discarded with cause 0x06 to follow. -/
def Ctx.failTag (tag : Nat) (c : Ctx) : Ctx :=
  ((List.range 8).foldl (fun c q => (c.queue q).foldl (fun c e =>
    if !e.waitsOn tag then c
    else if e.kind.isLoad then c.landEnt q e 0 ⟨0x06, e.ea⟩
    else
      let c := c.setQueue q (replaceEnt (c.queue q) e.serial fun _ => none)
      ({ c with fl := { c.fl with defer := c.fl.defer ++ [⟨0x06, 0, none, e.ea, false⟩] } } : Ctx)) c) c).wake

/-- A transfer that waits on a tag leaves its set; a failure ends it with code 0x20. -/
def Cmd.answer (tag : Nat) (fail : Bool) (k : Cmd) : Cmd :=
  if k.faults.any (fun f => f.2 == tag) then
    { k with faults := k.faults.filter fun f => f.2 != tag, err := if fail then 0x20 else k.err }
  else k

/-- A Marver entry that waits on a tag leaves its set; a failure ends it with code 0x20. -/
def MEnt.answer (tag : Nat) (fail : Bool) (m : MEnt) : MEnt :=
  if m.faults.any (fun f => f.2 == tag) then
    { m with faults := m.faults.filter fun f => f.2 != tag, err := if fail then 0x20 else m.err }
  else m

def State.engineTag (s : State) (cl tag : Nat) (fail : Bool) : State :=
  s.modCl cl fun c => { c with
    cores := c.cores.map fun e => (e.1, { e.2 with mx := { e.2.mx with cmds := e.2.mx.cmds.map (Cmd.answer tag fail) } })
    marvers := c.marvers.map fun e => (e.1, { e.2 with live := e.2.live.map (MEnt.answer tag fail) }) }

/-- A fault is answered RETRY or FAIL. -/
def State.answerFault (s : State) (cl tag : Nat) (fail : Bool) : State :=
  ((s.mapLive cl (if fail then Ctx.failTag tag else Ctx.retryTag tag)).engineTag cl tag fail).freeFault cl tag

/-- An FRESP write; a tag that is not outstanding sets FRSTAT. -/
def State.respond (s : State) (cl tag : Nat) (fail : Bool) : State :=
  if (s.fault cl tag).isSome then s.answerFault cl tag fail else s.modCl cl fun c => { c with frErr := true }

def execRetry (cl : Nat) (tag : BitVec 8) (s : State) : Out := event "RETRY" (s.released cl) (s.respond cl tag.toNat false)
def execFail (cl : Nat) (tag : BitVec 8) (s : State) : Out := event "FAIL" (s.released cl) (s.respond cl tag.toNat true)

/-- A cancel or a freeze is pending for a continuation (R342). -/
def Ctx.doomed (c : Ctx) : Bool := c.pr.pre == some .cancel || c.pr.pre == some .freeze

/-- A launch is cancelled or frozen: what its schedule's Marvers wait for goes with it. -/
def State.doomedLaunch (s : State) (l : Nat) : Bool :=
  (s.launch l).any fun v => v.cancelled || (match v.st with | .frozen _ => true | _ => false)

/-- The accesses that wait on a tag, each as whether its continuation is affected by a cancel or a freeze. -/
def State.waiters (s : State) (cl tag : Nat) : List Bool :=
  let c := s.cl cl
  (c.cores.flatMap fun o =>
    (o.2.ctxs.flatMap fun y => if y.2.queues.any fun q => q.2.any fun e => e.waitsOn tag then [y.2.doomed] else [])
      ++ o.2.mx.cmds.flatMap fun k => if k.faults.any fun f => f.2 == tag then [(o.2.ctx k.ctx).doomed] else [])
    ++ c.marvers.flatMap fun m => m.2.live.flatMap fun e =>
      if e.faults.any fun f => f.2 == tag then [((s.schedTeam cl).map fun t => s.doomedLaunch t.launch).getD false] else []

/-- A cancel or freeze answers FAIL for every fault whose waiting set holds only accesses of the affected continuations (R342). -/
def State.failDoomed (s : State) (cl : Nat) : State :=
  ((s.cl cl).faults.map Prod.fst).foldl (fun s t =>
    let ws := s.waiters cl t
    if !ws.isEmpty && ws.all id then s.answerFault cl t true else s) s

/-! ## The walkers (R332) -/

/-- The misses of a cluster in arrival order, without those that need no walk any more. -/
def State.missesOf (s : State) (cl : Nat) : List WalkFor :=
  (s.cl cl).walks.filter fun w => match serveWalk cl w s with | .next _ => true | _ => false

/-- A held store whose translation a TLB holds is compared without a walker. -/
def State.walkless (s : State) : WalkFor → Bool
  | .held x i => match (s.ctx x).heldEnt i with
    | some (_, _, e) => (s.entPa (.live x) (s.ctx x) e).isSome
    | none => false
  | _ => false

/-- PAGE_WALK: a miss arrives at the shared TLB, and one of the eight that arrived first is served by a walker. A fault that concerns
only continuations under a cancel or a freeze is answered at once (R342). -/
def execPageWalk (cl : Nat) (w : WalkFor) (s : State) : Out :=
  match serveWalk cl w s with
  | .next t =>
    let l := s.missesOf cl
    if s.walkless w then .next t
    else if !s.clusterRuns cl then .refused (.notEnabled "PAGE_WALK")
    else if (l.take 8).contains w then
      .next ((t.modCl cl fun c => { c with walks := l.filter fun o => o != w }).failDoomed cl)
    else if l.contains w then .refused (.notEnabled "PAGE_WALK")
    else .next (s.modCl cl fun c => { c with walks := l ++ [w] })
  | _ => .refused (.notEnabled "PAGE_WALK")

/-! ## Invalidation (R333, R334) -/

/-- What an invalidation removes in a cluster, under that cluster's slot. -/
def Tlbi.covers (t : Tlbi) (jslot : Nat) (e : TlbEnt) : Bool :=
  t.kind == 2 || (e.jslot == jslot && (t.kind == 1
    || decide (e.vbase < t.va + (if t.count = 0 then 1 else t.count) * 4096 ∧ t.va < e.vbase + 2 ^ e.log)))

/-- The slots of a cluster whose jobs are those that an invalidation names. -/
def State.tlbiSlots (s : State) (cl : Nat) (t : Tlbi) (k : Nat) : List Nat :=
  if k = cl then [t.jslot]
  else if !t.global then []
  else
    let job := (tget ({ } : JobSlot) (s.cl cl).jobs t.jslot).jobid
    (List.range 16).filter fun j => let o : JobSlot := tget { } (s.cl k).jobs j; o.valid && o.jobid == job

/-- Removes what an invalidation names, in every cluster that it reaches. -/
def State.invalidate (s : State) (cl : Nat) (t : Tlbi) : State :=
  (List.range 192).foldl (fun s k =>
    if t.kind = 2 then (if k = cl || t.global then s.tlbDrop k fun e => t.covers 0 e else s)
    else (s.tlbiSlots cl t k).foldl (fun s j => s.tlbDrop k fun e => t.covers j e) s) s

/-- A write of TLBI: ignored with ERR while BUSY; kind 3 is ignored. -/
def State.tlbiWrite (s : State) (cl : Nat) (t : Tlbi) : State :=
  match (s.cl cl).tlbiBusy with
  | some _ => s.modCl cl fun c => { c with tlbiErr := true }
  | none => if 3 ≤ t.kind then s else (s.modCl cl fun c => { c with tlbiBusy := some t }).invalidate cl t

def execTlbiPages (cl : Nat) (jslot : BitVec 4) (count : BitVec 16) (global : Bool) (s : State) : Out :=
  event "TLBI_PAGES" (s.released cl) (s.tlbiWrite cl ⟨0, (s.cl cl).tlbiva, jslot.toNat, count.toNat, global⟩)
def execTlbiJobSlot (cl : Nat) (jslot : BitVec 4) (global : Bool) (s : State) : Out :=
  event "TLBI_JOB_SLOT" (s.released cl) (s.tlbiWrite cl ⟨1, (s.cl cl).tlbiva, jslot.toNat, 0, global⟩)
def execTlbiAll (cl : Nat) (global : Bool) (s : State) : Out :=
  event "TLBI_ALL" (s.released cl) (s.tlbiWrite cl ⟨2, (s.cl cl).tlbiva, 0, 0, global⟩)

/-- Whether an access that has been sent at a translation which `named` picks, by job slot and address, is still to be performed in a
cluster: a queue request, of a resident or a saved continuation, or what a sector request has still to write at an address found. -/
def State.underWay (s : State) (k : Nat) (named : Nat → Nat → Bool) : Bool :=
  let sent (c : Ctx) : Bool := c.queues.any fun q => q.2.any fun e => e.stage == .waiting && e.pa.isSome && named c.pr.jslot e.ea
  (s.cl k).cores.any (fun o => o.2.ctxs.any (fun y => y.2.pr.st != .idle && sent y.2)
      || o.2.mx.cmds.any fun m => (m.parts.any fun p => p.late.any fun g => g.pa.isSome && named (o.2.ctx m.ctx).pr.jslot g.addr)
          || m.aims.any fun a => named (o.2.ctx m.ctx).pr.jslot a.1)
    || (s.cl k).saved.any fun e => e.2.any fun i => sent i.ctx

/-- Whether an invalidation may have removed the translation of an access in a cluster: no page, and no contiguous group, is larger than
4 GiB (R328, R330). -/
def State.tlbiNames (s : State) (cl : Nat) (t : Tlbi) (k jslot va : Nat) : Bool :=
  t.kind == 2 || (s.tlbiSlots cl t k).any fun j => t.covers j { jslot := jslot, vbase := va / 2 ^ 32 * 2 ^ 32, log := 32, pbase := 0, perm := 0 }

/-- Every access that used a removed translation has been performed, in every cluster that the invalidation reaches (R334). -/
def State.tlbiSettled (s : State) (cl : Nat) (t : Tlbi) : Bool :=
  (List.range 192).all fun k => !(k == cl || t.global) || !s.underWay k (s.tlbiNames cl t k)

/-- TLBI_COMPLETE: what the invalidation names is gone, also what a walk brought in meanwhile, and BUSY clears, once every access that
used it has been performed (R334). -/
def execTlbiComplete (cl : Nat) (s : State) : Out :=
  match (s.cl cl).tlbiBusy with
  | none => .refused (.notEnabled "TLBI_COMPLETE")
  | some t => event "TLBI_COMPLETE" (s.tlbiSettled cl t) ((s.invalidate cl t).modCl cl fun c => { c with tlbiBusy := none })

/-! ## Page moves (R343) -/

/-- The logical device whose partition holds a cluster. -/
def State.partOf (s : State) (cl : Nat) : Option Nat :=
  (List.range 16).find? fun l => (s.ld l).valid && (s.ld l).clmask / 2 ^ cl % 2 == 1

def pmBytes (size : Nat) : Nat := if size = 0 then 2 ^ 12 else if size = 1 then 2 ^ 16 else 2 ^ 21

/-- A page lies wholly in module DRAM, or in the host window of the cluster's partition (R331, R349). -/
def State.pmBacked (s : State) (cl pa n : Nat) : Bool :=
  decide (pa + n ≤ dramTop) || (match s.partOf cl with
    | none => false
    | some l => decide (hostBase ≤ pa ∧ pa - hostBase + n ≤ (s.ld l).hmlim))

/-- One 64-byte part is copied; an uncorrectable one is written poisoned. -/
def State.movePart (s : State) (cl src dst : Nat) : State :=
  let ld := (s.partOf cl).getD 0
  let bad := s.physBad ld src 64 || (decide (hostBase ≤ src) && (s.ld ld).hstate == 2)
  let bs := leBytes 64 (s.rdPhys ld src 64)
  let s := s.wrPhys ld dst bs
  if !bad then s
  else
    let s := s.modCl cl fun c => { c with pmErr := true }
    if dst < dramTop then (if s.dramGone dst 64 then s else { s with dbad := (s.dbad ++ [dst / 32, dst / 32 + 1]).eraseDups })
    else { s with hbad := tset [] s.hbad ld ((tget [] s.hbad ld ++ [(dst - hostBase) / 32, (dst - hostBase) / 32 + 1]).eraseDups) }

/-- Copies parts `i` to `i + n - 1` of a move, in ascending order. -/
def State.moveParts (s : State) (cl src dst i : Nat) : Nat → State
  | 0 => s
  | n + 1 => (s.movePart cl (src + 64 * i) (dst + 64 * i)).moveParts cl src dst (i + 1) n

/-- Both sides of a move can be reached now: the host, and every DRAM channel that holds a part (R354, R366). -/
def State.pmGoes (s : State) (cl src dst n : Nat) : Bool :=
  let ld := (s.partOf cl).getD 0
  let parts := List.range (n / 64)
  parts.all (fun i => s.physReads ld (src + 64 * i) 64) && (if dst < dramTop then parts.all fun i => s.chanFree (dst + 64 * i) 64 else s.hostTakes ld n)

/-- A GO write: ignored while BUSY and for size 3; a page that is unbacked or misaligned sets ERR. `pmBusy` counts the parts that
are copied; `pmN`, `pmFrom` and `pmTo` keep its length and addresses. -/
def State.pageMoveGo (s : State) (cl size : Nat) : State :=
  let c := s.cl cl
  if c.pmBusy.isSome then s
  else if size = 3 then s
  else
    let n := pmBytes size
    let s := s.modCl cl fun c => { c with pmSize := size }
    if c.pmSrc % n != 0 || c.pmDst % n != 0 || !s.pmBacked cl c.pmSrc n || !s.pmBacked cl c.pmDst n then
      s.modCl cl fun c => { c with pmErr := true }
    else
      let k := if s.pmGoes cl c.pmSrc c.pmDst n then Nat.min (Config.pageMoveSplit s.draws) (n / 64) else 0
      (s.draw.moveParts cl c.pmSrc c.pmDst 0 k).modCl cl fun c => { c with pmBusy := some k, pmN := n, pmFrom := c.pmSrc, pmTo := c.pmDst }

def execPageMoveGo (cl : Nat) (size : BitVec 2) (s : State) : Out := event "PAGE_MOVE_GO" (s.released cl) (s.pageMoveGo cl size.toNat)

/-- PAGE_MOVE_COMPLETE: the parts not yet copied are, and BUSY clears. -/
def execPageMoveComplete (cl : Nat) (s : State) : Out :=
  let c := s.cl cl
  match c.pmBusy with
  | none => .refused (.notEnabled "PAGE_MOVE_COMPLETE")
  | some k => event "PAGE_MOVE_COMPLETE" (s.pmGoes cl c.pmFrom c.pmTo c.pmN)
      ((s.moveParts cl c.pmFrom c.pmTo k (c.pmN / 64 - k)).modCl cl fun c => { c with pmBusy := none })

end Sys2Proof.Machine
end

