-- ==== Sys2Proof/Machine/Launch.lean ====
section
/-! DEFINITION. Launches: the push window and work queues, the job table, dependences, the checks of a launch record, creating
teams and items, cancelling, and ending (R19 to R23, R30, R31, R269, R304 to R316, R348, R363). -/

namespace Sys2Proof.Machine

/-! ## Queues (R309 to R312) -/

def State.wq (s : State) (q : Nat) : WQueue := tget { } s.wqs q
def State.modWq (s : State) (q : Nat) (f : WQueue → WQueue) : State := { s with wqs := tmod { } s.wqs q f }

/-- A refusal or a discarded push counts in a logical device's error log (R310, R351). -/
def State.countErr (s : State) (ld : Nat) : State := s.modLd ld fun l => { l with errs := l.errs + 1 }

/-- A refused write of a descriptor sets REFERR and changes nothing else (R351, R390). -/
def State.refuse (s : State) (ld : Nat) : State := s.modLd ld fun l => { l with referr := true }

/-- Who presents a write of a queue descriptor: `ok2` of the request says that it came through BAR0 of the logical device `ld`, and
else it came over the management path (R309, R347; log entry 94). -/
def State.queueBy (s : State) : Option Nat := if s.req.ok2 then some s.req.ld else none

/-- Whether a write of a queue descriptor is taken, `part` being the device that it names: a logical device writes its own
descriptors, and the management path those of a partition that is not locked (R309, R351, R363, R390). -/
def State.queueOpen (s : State) (q part : Nat) : Bool :=
  s.boot.done && (match s.queueBy with
    | some l => (s.wq q).part == l && part == l
    | none => (!(s.wq q).valid || (s.ld (s.wq q).part).tstate == 0) && (s.ld part).tstate == 0)

/-- A logical device's valid descriptors but for one. -/
def State.queuesOf (s : State) (ld q : Nat) : Nat := (s.wqs.filter fun e => e.2.valid && e.2.part == ld && e.1 != q).length

/-- The valid descriptors of a logical device with a virtual queue identifier. -/
def State.queuesNamed (s : State) (ld vqid : Nat) : List Nat :=
  s.wqs.filterMap fun e => if e.2.valid && e.2.part == ld && e.2.vqid == vqid then some e.1 else none

/-- Cullet slots that a logical device's queues hold. -/
def State.borrowedBy (s : State) (ld : Nat) : Nat := (s.wqs.map fun e => if e.2.part = ld then e.2.borrowed.length else 0).sum

/-- A launch slot that nothing uses: free, or of a launch that has ended and been reported. -/
def State.freeSlot (s : State) : Nat :=
  ((List.range (s.launches.length + 1)).find? fun i => match s.launch i with
    | none => true
    | some l => l.reported).getD s.launches.length

/-- A dependence's address is one that R304 and R57 allow. -/
def depOk (j : JobEnt) (off : Nat) : Bool := off % 16 == 0 && decide (off < 2 ^ 34) && j.holds off 16

/-- The watches of a record. One whose address the checks will refuse is not armed (R305, R307). -/
def armDeps (j : JobEnt) (raw : Nat) : List Dep :=
  (List.range (if 4 < lNdep raw then 0 else lNdep raw)).map fun d =>
    { off := lDep raw d, gen := lDepGen raw d, errok := lDepErrok raw d, adv := false, met := !depOk j (lDep raw d) }

/-- A launch as it enters the table. -/
def newLaunch (raw q : Nat) (st : LState) (tick : Nat) (deps : List Dep) : Launch :=
  { raw := raw, queue := q, st := st, tick := tick, deps := deps, nextTeam := 0, retiredTeams := 0, liveTeams := 0, pendingNew := []
    incomplete := false, cancelled := false }

def State.headOf (s : State) (q : Nat) : Option Nat :=
  s.launches.findSome? fun e => match e.2 with
    | some l => if l.queue = q ∧ l.st = LState.head then some e.1 else none
    | none => none

/-- The record at the head of a queue becomes its Head, and its watches are armed (R307, R313). -/
def State.headUp (s : State) (q : Nat) : State :=
  let w := s.wq q
  match w.ring with
  | [] => s
  | r :: _ =>
    if !w.valid || (s.headOf q).isSome then s
    else s.setLaunch s.freeSlot (newLaunch r q .head s.tick (armDeps (tget { } s.jobs w.jobix) r))

/-- Whether a logical device's pushes are accepted: bring-up done, not frozen, and its interface in RUN or never locked (R358,
R363, R384). -/
def State.pushOpen (s : State) (ld : Nat) : Bool :=
  let l := s.ld ld
  s.boot.done && l.valid && l.hstate != 2 && (l.tstate == 2 || (l.tstate == 0 && !l.locked))

/-- A record that has arrived whole: into the ring, into a cullet slot, or refused (R312). -/
def State.accept (s : State) (ld q raw : Nat) : State :=
  let w := s.wq q
  if w.ring.length < 2 ^ w.log2 ∧ w.borrowed.isEmpty then
    (s.modWq q fun w => { w with ring := w.ring ++ [raw], since := some (w.since.getD s.tick)
                                 accepted := (w.accepted + 1) % 2 ^ 64, lastUsed := s.tick }).headUp q
  else if s.borrowedBy ld < (s.ld ld).cquota then
    s.modWq q fun w => { w with borrowed := w.borrowed ++ [raw], accepted := (w.accepted + 1) % 2 ^ 64, lastUsed := s.tick }
  else s.modWq q fun w => { w with refused := (w.refused + 1) % 2 ^ 64 }

/-- PUSH: one write to the push window of a logical device, at a byte offset of BAR2. Two valid descriptors of one identifier
refuse every push to it. -/
def execPush (ld off : Nat) (bytes : List Byte) (s : State) : Out :=
  let qs := s.queuesNamed ld (off / 256)
  event "PUSH" (decide (ld < 16 ∧ off < 2 ^ 24) && !bytes.isEmpty)
    (if !s.pushOpen ld then s.countErr ld
     else if off % 256 ≠ 0 ∨ ¬ bytes.length = 256 then
       (if qs.isEmpty then s.countErr ld else qs.foldl (fun s q => s.modWq q fun w => { w with qerr := true }) s)
     else match qs with
       | [] => s.countErr ld
       | [q] => s.accept ld q (leNat bytes)
       | _ => qs.foldl (fun s q => s.modWq q fun w => { w with refused := (w.refused + 1) % 2 ^ 64 }) s)

/-- A write of QCTL: VALID 1 starts the counts afresh, and QERR is cleared by writing 1. One that would give a logical device a
257th valid descriptor is refused, as a limit of R351 is: R4 and R309 give the limit and no outcome (log entry 94). -/
def State.writeQctl (s : State) (q n : Nat) : State :=
  let f (lo k : Nat) : Nat := n / 2 ^ lo % 2 ^ k
  if !s.queueOpen q (f 48 4) || (f 63 1 == 1 && decide (256 ≤ s.queuesOf (f 48 4) q)) then s.refuse ((s.queueBy).getD (f 48 4))
  else (s.modWq q fun w =>
    let w := { w with valid := f 63 1 == 1, qerr := w.qerr && f 62 1 == 0, part := f 48 4, jobix := f 32 8, ceil := f 28 3, log2 := f 16 4, vqid := f 0 16 }
    if w.valid then { w with accepted := 0, refused := 0, taken := 0 } else w).headUp q

def execQctlWrite (q : Nat) (v : BitVec 64) (s : State) : Out := event "QCTL_WRITE" (decide (q < 4096)) (s.writeQctl q v.toNat)

/-- QUEUE_MAKE_RESIDENT: a queue with an untaken record moves onto an I/O die; of 1,024 the least recently used without one gives
way. -/
def execQueueMakeResident (q : Nat) (s : State) : Out :=
  let w := s.wq q
  let res := s.wqs.filter fun e => e.2.resident
  let idle := res.filter fun e => e.2.ring.isEmpty
  let victim := idle.foldl (fun (acc : Option (Nat × WQueue)) e => match acc with
    | none => some e
    | some b => if e.2.lastUsed < b.2.lastUsed then some e else some b) none
  let s' := s.modWq q fun w => { w with resident := true, lastUsed := s.tick }
  if w.resident || w.ring.isEmpty then .refused (.notEnabled "QUEUE_MAKE_RESIDENT")
  else if res.length < 1024 then .next s'
  else match victim with
    | none => .refused (.notEnabled "QUEUE_MAKE_RESIDENT")
    | some (k, _) => .next (s'.modWq k fun w => { w with resident := false })

/-! ## The job table (R308, R351) -/

/-- A window covers only vault bytes of its partition's clusters, below their system reserves (R293, R351). -/
def winOk (mask : Nat) (w : Nat × Nat) : Bool :=
  decide (w.2 ≤ w.1) || (List.range ((w.2 - 1) / 2 ^ 26 - w.1 / 2 ^ 26 + 1)).all fun i =>
    let v := w.1 / 2 ^ 26 + i
    let top := Nat.min w.2 ((v + 1) * 2 ^ 26) - v * 2 ^ 26
    decide (12 ≤ v % 16) || (mask / 2 ^ (v / 16 * 12 + v % 16) % 2 == 1 && decide (top ≤ 0x3C00000))

/-- Bits 33 to 6 of a base or limit (R291). -/
def winBits (x : Nat) : Nat := x % 2 ^ 34 / 64 * 64

/-- An entry as the job table holds it. -/
def entryOf (e : JobEntry) : JobEnt :=
  { valid := e.valid, jobid := e.jobid.toNat, troot := e.troot.toNat, windows := (e.windows.take 4).map fun w => (winBits w.1, winBits w.2)
    red := (winBits e.red.1, winBits e.red.2), part := e.part % 16 }

/-- Whether a write of entry `ix` through a logical device is taken: its own entry, no window outside its partition, no second
valid entry of its JOBID. -/
def State.jobWriteOk (s : State) (ld ix : Nat) (e : JobEnt) : Bool :=
  let old : JobEnt := tget { } s.jobs ix
  s.boot.done && e.part == ld && (!old.valid || old.part == ld)
    && (e.windows ++ [e.red]).all (winOk (s.ld ld).clmask)
    && (!e.valid || s.jobs.all fun o => o.1 == ix || !o.2.valid || o.2.jobid != e.jobid)

/-- The slots of a cluster that are copies of an entry have still to learn of its change. -/
def Cluster.stale (tick ix : Nat) (c : Cluster) : Cluster :=
  { c with jobs := c.jobs.map fun j => (j.1, if j.2.ix = some ix then { j.2 with stale := some (j.2.stale.getD tick) } else j.2) }

/-- JOB_TABLE_WRITE: refused, counted in the error log and flagged, or taken (R308, R351). -/
def execJobTableWrite (ld ix : Nat) (e : JobEntry) (s : State) : Out :=
  event "JOB_TABLE_WRITE" (decide (ld < 16 ∧ ix < 256))
    (if s.jobWriteOk ld ix (entryOf e) then
       { s with jobs := tput s.jobs ix (entryOf e), clusters := s.clusters.map fun c => (c.1, c.2.stale s.tick ix) }
     else (s.refuse ld).countErr ld)

/-- A job slot as a copy of a job-table entry. -/
def JobSlot.copy (o : JobSlot) (ix : Nat) (e : JobEnt) : JobSlot :=
  { valid := e.valid, part := e.part, jobid := e.jobid, troot := e.troot
    vwin := (List.range e.windows.length).map fun i => (i, e.windows.getD i (0, 0))
    rwbase := e.red.1, rwlim := e.red.2, teams := o.teams, ix := some ix }

/-- JOB_SLOT_UPDATE: a changed entry reaches a slot copied from it. -/
def execJobSlotUpdate (cl slot : Nat) (s : State) : Out :=
  let o : JobSlot := tget { } (s.cl cl).jobs slot
  match o.ix with
  | none => .refused (.notEnabled "JOB_SLOT_UPDATE")
  | some ix => event "JOB_SLOT_UPDATE" (decide (0 < o.teams) && o.stale.isSome)
      (s.modCl cl fun c => { c with jobs := tput c.jobs slot (o.copy ix (tget { } s.jobs ix)) })

/-- The slot that a team of a job takes on a cluster: the one that holds its JOBID, or the lowest free one. -/
def State.slotFor (s : State) (cl : Nat) (e : JobEnt) : Option Nat :=
  let js (j : Nat) : JobSlot := tget { } (s.cl cl).jobs j
  match (List.range 16).find? fun j => (js j).valid && (js j).jobid == e.jobid with
  | some j => some j
  | none => (List.range 16).find? fun j => !(js j).valid && (js j).teams == 0

/-! ## Dependences (R307) -/

/-- DEPENDENCE_MET: the test of a Head's dependence succeeds, and its ERR is read then. -/
def execDependenceMet (l d : Nat) (s : State) : Out :=
  match s.launch l with
  | none => .refused (.notEnabled "DEPENDENCE_MET")
  | some v => match v.deps[d]? with
    | none => .refused (.notEnabled "DEPENDENCE_MET")
    | some k =>
      let w := s.rdVault k.off 16
      event "DEPENDENCE_MET" (v.st == .head && !k.met && (k.adv || genOf w != k.gen))
        (s.setLaunch l { v with deps := listSet v.deps d { k with met := true, err := w / 2 ^ 88 % 2 == 1 && !k.errok } })

/-! ## The checks (R19, R270, R305) -/

/-- Reserved bits of a launch record that are set (R304). -/
def lReserved (raw : Nat) : Bool :=
  lrec raw 0 3 1 != 0 || lrec raw 0 7 1 != 0 || lrec raw 0 15 1 != 0 || lrec raw 0 19 1 != 0 || lrec raw 0 24 4 != 0
    || lrec raw 0x08 42 22 != 0 || lrec raw 0x60 34 30 != 0 || lrec raw 0x70 13 51 != 0
    || (List.range 4).any (fun d => lrec raw (0x80 + 16 * d) 34 30 != 0 || lrec raw (0x80 + 16 * d) 80 16 != 0 || lrec raw (0x80 + 16 * d) 97 31 != 0)
    || lrec raw 0xC0 34 30 != 0 || lrec raw 0xC8 0 448 != 0

/-- A vault word or table that a record names: aligned, no home alias, inside the job's windows. -/
def vaultRef (j : JobEnt) (off align n : Nat) : Bool := off % align == 0 && j.holds off n

/-- The statuses of R19 and R305 that a record earns, with `derr` set by a dependence. -/
def statuses (j : JobEnt) (raw : Nat) (derr : Bool) : List Nat :=
  let f := lNF raw
  let ws := (List.range f).map (lWidth raw)
  let on (b : Bool) (n : Nat) : List Nat := if b then [n] else []
  on (f == 0 || decide (6 < f)) 0x01
    ++ on (ws.contains 0 || decide (64 < ws.sum)) 0x02
    ++ on ((List.range f).any fun i => lExtent raw i == 0 || decide (2 ^ lWidth raw i < lExtent raw i)) 0x03
    ++ on (decide (f ≤ lT raw)) 0x04
    ++ on (decide (256 < teamSize raw)) 0x05
    ++ on (decide (0x3C00000 < allocSize raw) || (lMB raw && decide (8 < lTiles raw)) || (lSchedv raw && (!lMB raw || decide (8 < teamSize raw)))) 0x06
    ++ on (decide (lCap raw < teamSize raw ∨ 4096 < lCap raw)) 0x07
    ++ on derr 0x08
    ++ on (lVersion raw != 1 || lReserved raw || decide (4 < lNdep raw) || decide (8 < lTiles raw) || lLmemb raw % 64 != 0
        || decide (2 ^ 20 < lLmemb raw) || lVaultb raw % 64 != 0) 0x09
    ++ on (lEntry raw % 16 != 0 || (lHtabv raw && lHtab raw % 8 != 0) || lCompl raw % 32 != 0
        || (lSchedv raw && !vaultRef j (lSched raw) 64 64)
        || (List.range (Nat.min 4 (lNdep raw))).any (fun d => !depOk j (lDep raw d))
        || (lCsync raw != 0 && !vaultRef j (lCsync raw) 16 16)) 0x0A

/-- The lowest status, 0 for an accepted record. -/
def checkStatus (j : JobEnt) (raw : Nat) (derr : Bool) : Nat := (statuses j raw derr).headD 0

/-! ## Taking a Head (R313, R314) -/

/-- A Head that may be taken: its dependences met, its queue in use, its partition not frozen (R358). -/
def State.takeable (s : State) (l : Nat) : Bool :=
  match s.launch l with
  | none => false
  | some v => v.st == .head && v.deps.all (fun d => d.met) && (s.wq v.queue).valid && (s.ld (s.wq v.queue).part).hstate != 2

/-- Its place in the order: effective priority from the top, then the rotations of devices and of queues. -/
def State.takeRank (s : State) (l : Nat) : Nat :=
  match s.launch l with
  | none => 0
  | some v =>
    let ld := (s.wq v.queue).part
    let eff := Nat.min 8 (s.launchPrio l + (s.tick - v.tick) / 10000)
    ((8 - eff) * 16 + (ld + 16 - s.rotLd) % 16) * 4096 + (v.queue + 4096 - tget 0 s.rotQ ld) % 4096

/-- The Head that the dispatcher takes next. -/
def State.nextHead (s : State) : Option Nat :=
  (s.launches.map Prod.fst).foldl (fun acc l =>
    if !s.takeable l then acc
    else match acc with
      | none => some l
      | some b => if s.takeRank l < s.takeRank b then some l else some b) none

/-- A queue after its head is taken: the oldest borrowed record moves up (R312). -/
def WQueue.popHead (w : WQueue) : WQueue :=
  match w.borrowed with
  | [] => { w with ring := w.ring.tail, since := if w.ring.tail.isEmpty then none else w.since }
  | b :: rest => { w with ring := w.ring.tail ++ [b], borrowed := rest }

/-- LAUNCH_CHECK: the next Head is taken and checked; it runs, or ends with its status. -/
def execLaunchCheck (l : Nat) (s : State) : Out :=
  match s.launch l with
  | none => .refused (.notEnabled "LAUNCH_CHECK")
  | some v =>
    let st := checkStatus (s.launchJob l) v.raw (v.deps.any fun d => d.err)
    let ld := (s.wq v.queue).part
    let s' := s.setLaunch l { v with st := if st = 0 then .running else .ended st, tick := s.tick, deps := [] }
    let s' := s'.modWq v.queue fun w => { w.popHead with taken := (w.taken + 1) % 2 ^ 64, lastUsed := s.tick }
    event "LAUNCH_CHECK" (s.nextHead == some l)
      (({ s' with rotLd := (ld + 1) % 16, rotQ := tset 0 s'.rotQ ld ((v.queue + 1) % 4096) } : State).headUp v.queue)

/-! ## Creating teams (R22, R30, R269, R315, R316) -/

/-- The team that a launch creates next, and whether it is one of those within its extents: a spawned one whose team is not to come
first, then the next dense ordinal. -/
def State.createKey (s : State) (l : Nat) : Option (Nat × Bool) :=
  match s.launch l with
  | none => none
  | some v =>
    let run := v.st == .running
    if !(run || v.st == .draining) || v.cancelled || v.bad != 0 then none
    else match v.pendingNew.find? fun q =>
        let k := teamKey v.raw q.wid
        (s.findTeam l k).isNone && (!keyInside v.raw k || decide (keyOrdinal v.raw k < v.nextTeam)) with
      | some q => some (teamKey v.raw q.wid, false)
      | none => if run && decide (v.nextTeam < teamCount v.raw) then some (ordinalKey v.raw v.nextTeam, true) else none

/-- An allocation fits at a resolved offset of a cluster's vault (R293, R316, R371). -/
def State.fitsVault (s : State) (cl raw vbase : Nat) : Bool :=
  let o := vbase - vaultBase cl
  let n := allocSize raw
  decide (vaultBase cl ≤ vbase) && o % 2 ^ 16 == 0 && decide (o + n ≤ 0x3C00000)
    && (s.cl cl).granules.all (fun g => decide (g * 2 ^ 16 + 2 ^ 16 ≤ o ∨ o + n ≤ g * 2 ^ 16))
    && (s.cl cl).teams.all fun e => match e.2 with
      | none => true
      | some t => decide (t.vbase + allocSize (s.lraw t.launch) ≤ vbase ∨ vbase + n ≤ t.vbase)

/-- A cluster in service: not retired, not failed, not on an isolated die. -/
def State.clusterIn (s : State) (cl : Nat) : Bool := !(s.cl cl).retired && !(s.cl cl).failed && !s.isolated (cl / 12)

/-- Whether a cluster is eligible for a team of a launch. -/
def State.eligible (s : State) (l cl : Nat) : Bool :=
  let raw := s.lraw l
  let c := s.cl cl
  decide (cl < 192) && (s.ld (s.queueOf l).part).clmask / 2 ^ cl % 2 == 1 && s.clusterIn cl
    && decide (c.teams.length < 16) && (s.slotFor cl (s.launchJob l)).isSome
    && (if lSchedv raw then (s.schedTeam cl).isNone && (List.range (teamSize raw)).all (fun k => !(c.core k).retired)
        else (List.range 8).any fun k => !(c.core k).retired)
    && (List.range 960).any fun i => s.fitsVault cl raw (vaultBase cl + i * 2 ^ 16)

def State.idleCount (s : State) (cl : Nat) : Nat :=
  ((List.range 32).filter fun k => !((s.cl cl).core (k / 4)).retired && (s.ctx ⟨cl, k / 4, k % 4⟩).pr.st == .idle).length

/-- The eligible cluster with the most Idle contexts, then the lowest number. -/
def State.bestCluster (s : State) (l : Nat) : Option Nat :=
  (List.range 192).foldl (fun acc cl =>
    if !s.eligible l cl then acc
    else match acc with
      | none => some cl
      | some b => if s.idleCount b < s.idleCount cl then some cl else some b) none

/-- Whether launch `a` is served before `b` when clusters free up. -/
def State.createsFirst (s : State) (a b : Nat) : Bool :=
  let tick (l : Nat) : Nat := ((s.launch l).map Launch.tick).getD 0
  let eff (l : Nat) : Nat := Nat.min 8 (s.launchPrio l + (s.tick - tick l) / 10000)
  decide (eff b < eff a) || (eff a == eff b && decide (tick a < tick b))

/-- Spawns that waited for their team: each takes a record, or learns that none is free (R30). -/
def State.enrol (s : State) (cl t : Nat) (qs : List SpawnReq) : State :=
  qs.foldl (fun s q => match s.team cl t with
    | none => s
    | some tm =>
      if tm.free.isEmpty then (s.spawnStatus q.origin 1).msgRetire q.tag
      else ((s.setTeam cl t { tm with live := tm.live + 1 }).newRecord cl t q).spawnStatus q.origin 0) s

/-- The stage counters of a cluster's cores start at 0 (R270). -/
def Cluster.clearStages (c : Cluster) : Cluster :=
  { c with cores := c.cores.map fun e => (e.1, { e.2 with mx := { e.2.mx with stage := [] } }) }

/-- Binding a team: its barrier, allocation, job slot and, with a schedule, its Marvers. -/
def State.bindTeam (s : State) (l : Nat) (v : Launch) (key : Nat) (own : Bool) (cl vbase js : Nat) : State :=
  let raw := v.raw
  let t := ((List.range 16).find? fun i => (s.team cl i).isNone).getD 0
  let mine := v.pendingNew.filter fun q => teamKey raw q.wid == key
  let n := if own then teamSize raw else 0
  let tm : Team := { launch := l, key := key, live := n, phase := 0, arrivals := 0, cap := lCap raw, vbase := vbase, jslot := js, nextItem := 0
                     items := n, free := List.range (lCap raw), pending := [], sched := lSchedv raw, moving := none, bound := s.tick
                     moved := none }
  let s := s.setTeam cl t tm
  let ix := (s.queueOf l).jobix
  let s := s.modCl cl fun c => { c with jobs := tmod { } c.jobs js fun o => { (o.copy ix (tget { } s.jobs ix)) with teams := o.teams + 1 } }
  let s := if lSchedv raw then ((s.modCl cl Cluster.stopMarvers).modCl cl Cluster.clearStages).modCl cl fun c => { c with
      marvers := s.schedMarvers (lSched raw), schedSlot := js, schedJob := (s.launchJob l).jobid } else s
  let next := v.nextTeam + b2n own
  let s := s.setLaunch l { v with
    nextTeam := next, liveTeams := v.liveTeams + 1, pendingNew := v.pendingNew.filter fun q => teamKey raw q.wid != key
    st := if teamCount raw ≤ next then .draining else v.st }
  s.enrol cl t mine

/-- TEAM_CREATE: the launch that is served first among those whose next team fits creates it on its best cluster; a schedule that
binding refuses ends the launch with status 0x06. -/
def execTeamCreate (l cl vbase : Nat) (s : State) : Out :=
  match s.launch l, s.createKey l, s.slotFor cl (s.launchJob l) with
  | some v, some (key, own), some js =>
    event "TEAM_CREATE"
      (s.bestCluster l == some cl && s.fitsVault cl v.raw vbase
        && !((s.launches.map Prod.fst).any fun k => s.createsFirst k l && (s.createKey k).isSome && (s.bestCluster k).isSome))
      (if lSchedv v.raw && !s.schedOk cl (lSched v.raw) then s.setLaunch l { v with bad := 0x06, st := .draining }
       else s.bindTeam l v key own cl vbase js)
  | _, _, _ => .refused (.notEnabled "TEAM_CREATE")

/-- ITEM_CREATE: the team's next item, when a context can take it and no ready record or other item comes first; one stands at a
time for a context to take (R22, R36, R51). -/
def execItemCreate (cl team : Nat) (s : State) : Out :=
  match s.team cl team, s.nextItem cl team with
  | some tm, some (s', r) =>
    event "ITEM_CREATE" (s.clusterRuns cl && s'.placeable cl r && !s.comesFirst cl (s.itemKey tm)
      && !s.itemStands cl (s.launchPrio tm.launch)) s'
  | _, _ => .refused (.notEnabled "ITEM_CREATE")

/-! ## Cancelling (R309, R313, R322, R342) -/

/-- The saved continuations of a launch: cluster and record. -/
def State.savedOf (s : State) (p : Nat → Bool) : List (Nat × Nat) :=
  s.clusters.flatMap fun c => c.2.saved.filterMap fun e => match e.2 with
    | some i => if p i.ctx.ct.launch then some (c.1, e.1) else none
    | none => none

/-- The resident continuations of launches. -/
def State.liveOf (s : State) (p : Nat → Bool) : List CtxId :=
  s.clusters.flatMap fun c => c.2.cores.flatMap fun o => o.2.ctxs.filterMap fun y =>
    if y.2.pr.st != .idle && p y.2.ct.launch then some ⟨c.1, o.1, y.1⟩ else none

/-- A preload of a record is discarded (R325). -/
def State.dropPreload (s : State) (cl crec : Nat) : State :=
  s.modCl cl fun c => { c with preload := c.preload.filter fun e => e.2.crec != crec }

/-- What a saved continuation has issued and sent is performed (R306). -/
def Saved.performed (i : Saved) : Bool :=
  i.ctx.fl.pend.isEmpty && i.ctx.queues.all fun q => q.2.all fun e => e.kind.isLoad || e.stage == .landed || e.pa.isNone

/-- A cancelled continuation whose accesses are still on their way: nothing else of it is left. -/
def Saved.ghost (i : Saved) : Saved :=
  { i with
    gone := true
    ctx := { i.ctx with
      wait := none
      queues := i.ctx.queues.map fun q => (q.1, q.2.filter fun e => !e.kind.isLoad && e.stage == .waiting && e.pa.isSome) } }

/-- A saved continuation is retired with nothing run, once the accesses that it issued are performed. -/
def State.retireSaved (s : State) (cl crec : Nat) : State :=
  match s.saved cl crec with
  | none => s
  | some i =>
    let s := ((s.dropReady cl crec).dropWatch cl crec).dropPreload cl crec
    if i.performed then (s.setSaved cl crec none).retireCont cl i.ctx
    else (s.setSaved cl crec (some i.ghost)).recWr crec recSTATUS 1 stDone

/-- Cancelled continuations whose last access has been performed retire. -/
def State.retireGone (s : State) : State :=
  (s.clusters.flatMap fun c => c.2.saved.filterMap fun e => match e.2 with
    | some i => if i.gone && i.performed then some (c.1, e.1) else none
    | none => none).foldl (fun s r => s.retireSaved r.1 r.2) s

/-- What a team has still to create goes: its items and the continuations that wait for a record. -/
def State.emptyTeam (s : State) (cl t : Nat) : State :=
  match s.team cl t with
  | none => s
  | some tm =>
    let s := s.setTeam cl t { tm with live := tm.live - (tm.items - tm.nextItem), nextItem := tm.items, pending := [] }
    let s := tm.pending.foldl (fun s q => s.msgRetire q.tag) s
    (s.barrierCheck cl t).teamRetire cl t

/-- A running launch is cancelled: no further team, and its continuations retire. A frozen one keeps the cancel for its
resumption. -/
def State.cancelLaunch (s : State) (l : Nat) : State :=
  match s.launch l with
  | none => s
  | some v => match v.st with
    | .frozen _ => s.setLaunch l { v with cancelled := true }
    | .ended _ => s
    | .head => s.setLaunch l { v with st := .ended 0x0B, cancelled := true, tick := s.tick }
    | _ =>
      let s := s.setLaunch l { v with cancelled := true, st := .draining, pendingNew := [] }
      let s := v.pendingNew.foldl (fun s q => s.msgRetire q.tag) s
      let s := (s.teamsOf l).foldl (fun s t => s.emptyTeam t.1 t.2.1) s
      let s := (s.savedOf fun k => k == l).foldl (fun s e => s.retireSaved e.1 e.2) s
      let s := (s.liveOf fun k => k == l).foldl (fun s x => s.askPreempt x .cancel) s
      (s.clusters.map Prod.fst).foldl (fun s cl => s.failDoomed cl) s

/-- Records that end without starting, each in a launch slot of its own so that its completion is reported. -/
def State.endQueued (s : State) (q st : Nat) (rs : List Nat) : State :=
  rs.foldl (fun s r => s.setLaunch s.freeSlot (newLaunch r q (.ended st) s.tick [])) s

/-- CANCEL: the Head and the other untaken records end with status 0x0B, and the queue's launches are cancelled. -/
def State.cancelQueue (s : State) (q : Nat) : State :=
  let w := s.wq q
  let head := (s.headOf q).isSome
  let ls := s.launches.filterMap fun e => match e.2 with
    | some v => if v.queue = q then some e.1 else none
    | none => none
  let s := ls.foldl (fun s l => s.cancelLaunch l) s
  (s.endQueued q 0x0B ((if head then w.ring.tail else w.ring) ++ w.borrowed)).modWq q fun w => { w with ring := [], borrowed := [], since := none }

def State.writeCancel (s : State) (q : Nat) : State :=
  if s.queueOpen q (s.wq q).part then s.cancelQueue q else s.refuse ((s.queueBy).getD (s.wq q).part)
def execCancel (q : Nat) (s : State) : Out := event "CANCEL" (decide (q < 4096)) (s.writeCancel q)

/-! ## Ending (R31, R306, R375) -/

/-- A cluster whose teams are lost: on an isolated die, or failed (R371, R375). -/
def State.lostCluster (s : State) (cl : Nat) : Bool := s.isolated (cl / 12) || (s.cl cl).failed

/-- A launch is over: its status is known, or every team and spawn has retired but for those that are lost. -/
def State.launchOver (s : State) (l : Nat) (v : Launch) : Option Nat :=
  match v.st with
  | .ended st => if v.reported then none else some st
  | .draining =>
    if v.pendingNew.isEmpty && (s.teamsOf l).all (fun t => s.lostCluster t.1) then
      some (if v.cancelled then 0x0B else if v.bad ≠ 0 then v.bad else if v.incomplete || !(s.teamsOf l).isEmpty then 0x0C else 0)
    else none
  | _ => none

/-- No store of a job that left this module is still on its way (R306 step 1). -/
def State.storesLanded (s : State) (job : Nat) : Bool :=
  s.packets.all fun p => !(p.src == s.modId && p.job.toNat == job && (p.kind == .xst || p.kind == .xred))

/-- Bytes the dispatcher writes under a job's root, page by page; a translation that faults discards and counts (R306). -/
def State.dispWrite (s : State) (j : JobEnt) (ld va : Nat) (bs : List Byte) : State :=
  ((splitPages (bs.length / 4096 + 2) va bs.length).foldl (fun (acc : State × List Byte) q =>
    match acc.1.dispXl j true q.1 with
    | none => (acc.1.countErr ld, acc.2.drop q.2)
    | some pa => (acc.1.wrPhys j.part pa (acc.2.take q.2), acc.2.drop q.2)) (s, bs)).1

/-- The physical writes of the dispatcher's writes under a job's root. -/
def State.dispPuts (s : State) (j : JobEnt) (ws : List (Nat × List Byte)) : List (Nat × Nat) :=
  ws.flatMap fun w => (splitPages (w.2.length / 4096 + 2) w.1 w.2.length).filterMap fun q => (s.dispXl j true q.1).map fun pa => (pa, q.2)

/-- The dispatcher's writes can all be made now (R354, R366). -/
def State.dispGoes (s : State) (j : JobEnt) (ws : List (Nat × List Byte)) : Bool :=
  let ps := s.dispPuts j ws
  ws.all (fun w => (splitPages (w.2.length / 4096 + 2) w.1 w.2.length).all fun q => !s.dispBusy j true q.1)
    && ps.all (fun p => s.physTakes j.part p.1 p.2) && s.hostRoom j.part ps

/-- The retirement bitmap (R375). -/
def bitmapOf (v : Launch) : List Byte :=
  let n := (teamCount v.raw + 7) / 8
  leBytes n (v.retiredOrds.foldl (fun acc o => acc ||| 2 ^ o) 0)

/-- Whether COMPL names a place for a record; one at or above 2^57 names it in vain, as a translation that faults (R58, R306). -/
def complOk (raw : Nat) : Bool := lCompl raw != 0 && lCompl raw % 32 == 0

/-- The bytes that end a launch: the bitmap's for status 0x0C, and the completion record's. -/
def complWrites (l st tick : Nat) (v : Launch) : List (Nat × List Byte) :=
  if !complOk v.raw then []
  else
    let a := lCompl v.raw
    let d0 := st + l % 2 ^ 32 * 2 ^ 32
    let d3 := if st = 0x0C then a + 64 else 0
    (if st = 0x0C then [(a + 64, bitmapOf v)] else [])
      ++ [(a, leBytes 8 d0 ++ leBytes 8 tick ++ leBytes 8 v.retiredTeams ++ leBytes 8 d3)]

/-- Teams that were lost leave the tables with their launch. -/
def State.dropLost (s : State) (l : Nat) : State :=
  (s.teamsOf l).foldl (fun s t => s.modCl t.1 fun c => { c with teams := terase c.teams t.2.1 }) s

/-- LAUNCH_END: once every access of the launch has been performed, the completion record and the arrival at CSYNC. Nothing is
written for a frozen partition (R358). -/
def execLaunchEnd (l : Nat) (s : State) : Out :=
  match s.launch l with
  | none => .refused (.notEnabled "LAUNCH_END")
  | some v => match s.launchOver l v with
    | none => .refused (.notEnabled "LAUNCH_END")
    | some st =>
      let j := s.launchJob l
      let ld := (s.queueOf l).part
      let ws := complWrites l st s.tick v
      let s' := ws.foldl (fun s w => s.dispWrite j ld w.1 w.2) s
      let s' := if lCsync v.raw ≠ 0 ∧ vaultRef j (lCsync v.raw) 16 16 = true then
          { s' with arrivals := s'.arrivals ++ [⟨none, lCsync v.raw, 1, none, none, s'.tick⟩] } else s'
      event "LAUNCH_END" ((s.ld ld).hstate != 2 && s.storesLanded j.jobid && s.dispGoes j ws)
        ((s'.dropLost l).setLaunch l { v with st := .ended st, reported := true, tick := s.tick })

end Sys2Proof.Machine
end

