-- ==== Sys2Proof/Machine/Gaffer.lean ====
section
/-! DEFINITION. The Gaffer's side of a cluster: the trap queue, the answer port, the slot mask and the rail, the cycles that
event counters count, the debug port and the Lehr's messages (R281, R297 to R303, R380 to R382). -/

namespace Sys2Proof.Machine

/-! ## The trap queue (R297, R299) -/

/-- The header doubleword of a record. -/
def TrapRec.hdr (r : TrapRec) : Nat :=
  r.seq * 2 ^ 48 + r.jslot * 2 ^ 32 + b2n r.rb * 2 ^ 19 + b2n r.delay * 2 ^ 18 + b2n r.flag * 2 ^ 17 + r.kind * 2 ^ 15 + r.cx * 2 ^ 13
    + r.core * 2 ^ 10 + r.slot * 2 ^ 8 + r.cause

/-- A record's four doublewords as one number. -/
def TrapRec.words (r : TrapRec) : Nat :=
  r.hdr % 2 ^ 64 + r.baddr % 2 ^ 64 * 2 ^ 64 + r.detail % 2 ^ 64 * 2 ^ 128 + r.crec % 2 ^ 64 * 2 ^ 192

/-- An SVC's record is written once every earlier access of its context has been performed: it is a release at scope `.cl` (R160). -/
def State.recordReady (s : State) (cl : Nat) (r : TrapRec) : Bool :=
  r.after == 0 || match (s.homeOf cl r.crec).bind s.home with
    | some c => !c.ct.svcOpen || s.olderDone c r.after .cl
    | none => true

/-- TRAP_RECORD_ENQUEUE: the oldest waiting record is written and TRQTAIL advances. Contexts whose SVC waits for room are woken. -/
def execTrapRecordEnqueue (cl : Nat) (s : State) : Out :=
  let c := s.cl cl
  match c.trapWait with
  | [] => .refused (.notEnabled "TRAP_RECORD_ENQUEUE")
  | r :: rest => event "TRAP_RECORD_ENQUEUE" (c.trqRoom && s.recordReady cl r)
      ((((s.wrVault (ringAt cl c.trqBase (32 * (c.trqTail % 2 ^ c.trqSize))) 32 r.words).modCl cl fun c => { c with
        trapWait := rest, trqTail := (c.trqTail + 1) % 2 ^ c.trqSize }).tallyCl cl 0x104 1).mapLive cl fun x =>
          if x.pr.blk = some .svc then x.wake else x)

/-! ## Answers (R300) -/

/-- A value on its way to a register. -/
def answerFill (reg prod : Nat) (v : Nat) : Fill := { reg := .s reg, prod := prod, val := v }

/-- An answer to the continuation that ANSREC names: its s1 and s2 fill; one that matches no SVC sets ANSSTAT. -/
def State.answer (s : State) (cl v1 v2 : Nat) : State :=
  let crec := (resolve cl (s.cl cl).ansRec).getD (s.cl cl).ansRec
  let lost := s.modCl cl fun c => { c with ansStat := true }
  match s.homeOf cl crec with
  | none => lost
  | some h => match s.home h with
    | none => lost
    | some c =>
      if !c.ct.svcOpen then lost
      else (s.modHome h fun c => { c with
        ct := { c.ct with svcOpen := false }
        fl := { c.fl with fills := c.fl.fills ++ [answerFill 1 c.ct.svcProd1 v1, answerFill 2 c.ct.svcProd2 v2] } }).wakeHome h

/-- SVC_ANSWER: a write of ANSV2. -/
def execSvcAnswer (cl : Nat) (v2 : BitVec 64) (s : State) : Out :=
  event "SVC_ANSWER" (s.released cl) ((s.modCl cl fun c => { c with ansV2 := v2.toNat }).answer cl (s.cl cl).ansV1 v2.toNat)

/-! ## Cycles (R303, R381, R382; log entry 49) -/

/-- The cycles of a core that an EVSEL selects, of the codes for which the model has no step: a sum over the contexts that it names. -/
def coreCycles (draw block : Nat) (throttled : Bool) (sel : Nat) : Nat :=
  let code := sel % 2 ^ 12
  if code = 0x002 ∨ code = 0x004 ∨ code = 0x00B ∨ (code = 0x00E ∧ throttled = true) then
    ((List.range 4).map fun x => if sel / 2 ^ (12 + x) % 2 = 1 then Config.cycles draw block code x else 0).sum
  else 0

/-- The same of the cluster: cycles on the low rail, and under an EK below 4. -/
def Cluster.cycles (c : Cluster) (draw block sel : Nat) : Nat :=
  let code := sel % 2 ^ 12
  if (code = 0x108 ∧ (c.greq || c.lforce) = true) ∨ (code = 0x109 ∧ c.ek < 4) then Config.cycles draw block code 0 else 0

/-- Cycles pass in a cluster: a free number of them is counted. -/
def Cluster.pass (c : Cluster) (draw cl : Nat) (throttled : Bool) : Cluster :=
  let r := tallyTabs c.evsel c.evcnt (c.cycles draw (9 * cl + 8))
  { c with
    evsel := r.1, evcnt := r.2
    cores := c.cores.map fun e =>
      let o := tallyTabs e.2.evsel e.2.evcnt (coreCycles draw (9 * cl + e.1) (throttled || c.fast))
      (e.1, { e.2 with evsel := o.1, evcnt := o.2 }) }

/-- Cycles pass in a cluster between two steps, before what it counts by is read or changed. -/
def State.pass (s : State) (cl : Nat) : State := s.draw.modCl cl fun c => c.pass s.draws cl s.power.fast

/-! ## Slot mask and rail (R301) -/

/-- A message from the Lehr: it replaces one not yet read and raises GIRQ bit 3 (R380). -/
def State.lehrMsg (s : State) (cl code arg : Nat) : State :=
  s.modCl cl fun c => { c with lmsg := code + arg % 256 * 256, girqLehr := true }

def execSmaskWrite (cl : Nat) (gk : BitVec 3) (s : State) : Out :=
  event "SMASK_WRITE" (s.released cl) (if 1 ≤ gk.toNat ∧ gk.toNat ≤ 4 then (s.pass cl).modCl cl fun c => { c with gk := gk.toNat } else s)

/-- Sets what asks for the low rail; a change of the effective rail stops the cluster's cores until it ends. -/
def State.setRail (s : State) (cl : Nat) (greq lforce : Bool) : State :=
  (s.pass cl).modCl cl fun c => { c with
    greq := greq, lforce := lforce
    switching := c.switching || ((c.greq || c.lforce) != (greq || lforce)) }

def execRailWrite (cl : Nat) (greq : Bool) (s : State) : Out := event "RAIL_WRITE" (s.released cl) (s.setRail cl greq (s.cl cl).lforce)

/-- RAIL_CHANGE_COMPLETE: the cluster's cores issue again. -/
def execRailChangeComplete (cl : Nat) (s : State) : Out :=
  event "RAIL_CHANGE_COMPLETE" (s.cl cl).switching (s.modCl cl fun c => { c with switching := false })

/-! ## The debug port (R281, R302) -/

/-- The fields of DBGSEL. -/
def dbgObj (sel : Nat) : Nat := sel % 16
def dbgCtx (sel : Nat) : Nat := sel / 2 ^ 4 % 4
def dbgReg (sel : Nat) : Nat := sel / 2 ^ 8 % 2 ^ 8
def dbgElem (sel : Nat) : Nat := sel / 2 ^ 16 % 2 ^ 16

/-- Objects that the core owns. -/
def dbgCore (sel : Nat) : Bool := decide (5 ≤ dbgObj sel ∧ dbgObj sel ≤ 12)

/-- How many entries an object has. -/
def dbgCount (sel : Nat) : Nat :=
  match dbgObj sel with
  | 0 => 64
  | 1 => 16
  | 2 => 32
  | 3 => 8
  | 4 => 16
  | 8 => 256
  | 11 => 4
  | n => if n ≤ 12 then 8 else 0

/-- Whether an access reaches its object: a stopped context, matrix-bound for what the core owns, and an entry that exists. -/
def State.dbgOk (s : State) (c : CoreId) : Bool :=
  let sel := (s.core c).dbgsel
  let x := (s.core c).ctx (dbgCtx sel)
  x.pr.stopped && (!dbgCore sel || x.pr.mb) && decide (dbgReg sel < dbgCount sel) && (dbgObj sel != 2 || decide (dbgElem sel < 32))

/-- Whether the engine has what the read names (R281): a tile as a drain would wait for it, behind the commands that a COMMIT has let go
(R230), and a status as an MSTAT would. -/
def State.dbgReady (s : State) (c : CoreId) : Bool :=
  let sel := (s.core c).dbgsel
  let x := (s.core c).ctx (dbgCtx sel)
  let go := x.region.isSome || x.heldCmd.isEmpty
  match dbgObj sel with
  | 5 => go && ((s.core c).mx.tile (dbgReg sel)).readyAt x.ct.issued
  | 6 => go
  | 7 => go && (tstatAt s c (dbgReg sel) x.ct.issued).2
  | 8 => go
  | _ => true

/-- An element as a drain reads it, in its accumulator mode's layout: what the sticky bits make of it, and for an uncorrectable one what
R251 stores (R100, R104, R281). An integer layout has no NaN and no infinity: there an element with sticky bits reads as its bits (log entry
134). -/
def drainedBits (mode : Nat) (i : Img) (key : Nat) : Nat :=
  let put (f : Fmt) : Nat :=
    if i.bad.contains key then f.nan
    else match drainVal mode i key with
      | .fin _ => tget 0 i.el key
      | v => (f.conv .rne false v).bits
  match mode with
  | 0 => put fp32
  | 1 => put fp64
  | _ => if i.bad.contains key then 0 else tget 0 i.el key

/-- The value of the selected object. -/
def State.dbgValue (s : State) (c : CoreId) : Nat :=
  let sel := (s.core c).dbgsel
  let x := (s.core c).ctx (dbgCtx sel)
  let m := (s.core c).mx
  let r := dbgReg sel
  match dbgObj sel with
  | 0 => (x.regs.sc r).val.toNat
  | 1 => (x.regs.ac r).val.toNat
  | 2 => vget (x.regs.vc r).val 32 (dbgElem sel)
  | 3 => b2n (x.regs.pv r)
  | 4 => if r = 0 then 2 ^ 32 - 1 else tget 0 x.regs.mask r
  | 5 => drainedBits (pAMODE (tget 0 m.prec r)) ((m.tile r).readAt x.ct.issued) (dbgElem sel)
  | 6 => tget 0 m.prec r
  | 7 => (tstatAt s c r x.ct.issued).1
  | 8 => m.wiss * 2 ^ 32 + m.wrel
  | 9 => (m.ring r).lo
  | 10 => (m.ring r).pmap
  | 11 => tget 0 m.nextid r * 2 ^ 32 + tget 0 m.donebelow r
  | _ => tget 0 m.pk r

/-- An answer to the outside: data of a read, or an access that failed. -/
def State.say (s : State) (ok : Bool) (v : Nat) : State := { s with resp := { ok := ok, val := v, bytes := [] } }

/-- DBGDATA_READ: 0 for an access that fails. -/
def execDbgdataRead (c : CoreId) (s : State) : Out :=
  event "DBGDATA_READ" (s.released c.cl && (!s.dbgOk c || s.dbgReady c)) (s.say (s.dbgOk c) (if s.dbgOk c then s.dbgValue c else 0))

/-- A register cell with a new value. -/
def RCell.put {w : Nat} (c : RCell w) (v : Nat) : RCell w := { c with val := BitVec.ofNat w v, mark := { } }

/-- A write of the selected register; nothing else can be written. -/
def Regs.dbgPut (r : Regs) (sel v : Nat) : Regs :=
  let n := dbgReg sel
  match dbgObj sel with
  | 0 => r.setS n ((r.sc n).put v)
  | 1 => r.setA n ((r.ac n).put v)
  | 2 => r.setV n ((r.vc n).put (vbuild 32 32 fun i => if i = dbgElem sel then v else vget (r.vc n).val 32 i))
  | 3 => r.setP n (v % 2 == 1)
  | _ => r

/-- Changes the registers of the selected context. -/
def State.dbgRegs (s : State) (c : CoreId) (f : Regs → Regs) : State :=
  s.modCtx ⟨c.cl, c.core, dbgCtx (s.core c).dbgsel⟩ fun x => { x with regs := f x.regs }

def execDbgdataWrite (c : CoreId) (v : BitVec 64) (s : State) : Out :=
  event "DBGDATA_WRITE" (s.released c.cl) (if s.dbgOk c then s.dbgRegs c fun r => r.dbgPut (s.core c).dbgsel v.toNat else s)

/-- The full/empty bit of the selected register; an object without one reads full. -/
def State.dbgFull (s : State) (c : CoreId) : Bool :=
  let sel := (s.core c).dbgsel
  let r := ((s.core c).ctx (dbgCtx sel)).regs
  match dbgObj sel with
  | 0 => (r.sc (dbgReg sel)).full
  | 1 => (r.ac (dbgReg sel)).full
  | 2 => (r.vc (dbgReg sel)).full
  | _ => true

def Regs.dbgFe (r : Regs) (sel : Nat) (b : Bool) : Regs :=
  let n := dbgReg sel
  match dbgObj sel with
  | 0 => r.setS n { r.sc n with full := b }
  | 1 => r.setA n { r.ac n with full := b }
  | 2 => r.setV n { r.vc n with full := b }
  | _ => r

/-- DBGFE_WRITE: a context whose register becomes full is woken. -/
def execDbgfeWrite (c : CoreId) (v : BitVec 64) (s : State) : Out :=
  event "DBGFE_WRITE" (s.released c.cl) (if s.dbgOk c then
      (s.dbgRegs c fun r => r.dbgFe (s.core c).dbgsel (v.toNat % 2 == 1)).wake ⟨c.cl, c.core, dbgCtx (s.core c).dbgsel⟩
    else s)

/-! ## Messages (R380) -/

/-- A read of LMSG: the message, and GIRQ bit 3 clears. -/
def State.readLmsg (s : State) (cl : Nat) : State :=
  (s.modCl cl fun c => { c with girqLehr := false }).say true (s.cl cl).lmsg

def execLmsgRead (cl : Nat) (s : State) : Out := event "LMSG_READ" (s.released cl) (s.readLmsg cl)

end Sys2Proof.Machine
end

