-- ==== Sys2Proof/Machine/Power.lean ====
section
/-! DEFINITION. The Lehr: the power cap and the floors, the steps that cool a cluster, the fast throttle, and moving a team to
another cluster (R25, R301, R376 to R380). -/

namespace Sys2Proof.Machine

def State.modPower (s : State) (f : Power → Power) : State := { s with power := f s.power }

/-! ## Cap and floors (R376, R377) -/

/-- The floor that a logical device asks for, and its priority class. -/
def State.askedFloor (s : State) (l : Nat) : Nat := if (s.ld l).valid then (s.ld l).floor % 2 ^ 16 else 0
def Power.prio (p : Power) (l : Nat) : Nat := p.fprio / 2 ^ (3 * l) % 8

/-- One class is scaled by one factor, rounded down, so that all floors sum to at most `t`. -/
def shrinkClass (prio : Nat → Nat) (t c : Nat) (fs : List Nat) : List Nat :=
  let sum := fs.sum
  if sum ≤ t then fs
  else
    let idx := List.range fs.length
    let mine := (idx.map fun l => if prio l = c then fs.getD l 0 else 0).sum
    let want := mine - (sum - t)
    idx.map fun l => if prio l = c then fs.getD l 0 * want / mine else fs.getD l 0

/-- The effective floors of the sixteen logical devices. -/
def State.effFloors (s : State) : List Nat :=
  let t := s.power.ecap - Config.idleFloor
  (List.range 8).foldl (fun fs c => shrinkClass s.power.prio t c fs) ((List.range 16).map s.askedFloor)

/-- A changed effective floor raises its function's power-event interrupt. -/
def State.setFloor (s : State) (l v : Nat) : State :=
  if (s.ld l).efloor = v then s else s.modLd l fun d => { d with efloor := v, powerIrq := true }

/-- The floors are worked out anew. -/
def State.refloor (s : State) : State :=
  let fs := s.effFloors
  let s := (List.range 16).foldl (fun s l => s.setFloor l (fs.getD l 0)) s
  s.modPower fun p => { p with shrunk := (List.range 16).any fun l => decide (fs.getD l 0 < s.askedFloor l) }

/-- A new cap: the management path is told when CLAMPED becomes set. -/
def State.setCap (s : State) (w : Nat) : State :=
  let clamped := decide (w < Config.idleFloor)
  let s := if clamped && !s.power.clamped then { s with told := s.told + 1 } else s
  (s.modPower fun p => { p with pcap := w, ecap := Nat.max w Config.idleFloor, clamped := clamped }).refloor

/-- PCAP_WRITE: the watts stand in the latch's value. -/
def execPcapWrite (s : State) : Out := .next (s.setCap (s.req.val.toNat % 2 ^ 16))

def State.setFprio (s : State) (v : Nat) : State := (s.modPower fun p => { p with fprio := v % 2 ^ 48 }).refloor
def execFprioWrite (s : State) : Out := .next (s.setFprio s.req.val.toNat)

/-- A write below THOT + 5 is ignored. -/
def State.setTalarm (s : State) (v : Nat) : State :=
  if v < s.power.thot + 5 then s else s.modPower fun p => { p with talarm := v }
def execTalarmWrite (s : State) : Out := .next (s.setTalarm (s.req.val.toNat % 2 ^ 8))

/-! ## Cooling a cluster (R301, R378) -/

/-- The Lehr's side of the rail: a change of the effective rail is told to the Gaffer. -/
def State.setLforce (s : State) (cl : Nat) (b : Bool) : State :=
  let c := s.cl cl
  let s' := s.setRail cl c.greq b
  if (c.greq || c.lforce) != (c.greq || b) then s'.lehrMsg cl 1 0 else s'

/-- The Lehr runs from step 3 of the bring-up on (R384). -/
def State.lehrUp (s : State) : Bool := decide (3 ≤ s.boot.step)

/-- The cores that a cluster lets run, and its own hold in the fast throttle: cycles pass before either changes. -/
def State.setLk (s : State) (cl n : Nat) : State := (s.pass cl).modCl cl fun c => { c with lk := n }
def State.setFast (s : State) (cl : Nat) (b : Bool) : State := (s.pass cl).modCl cl fun c => { c with fast := b }

/-- Cycles pass in every cluster, before the fast throttle of all of them changes. -/
def State.passAll (s : State) : State := (s.clusters.map Prod.fst).foldl State.pass s

/-- What step `n` does to a cluster: LFORCE, three times LK, the request of a migration, and the hold in the fast throttle. -/
def State.applyStep (s : State) (cl n : Nat) : State :=
  match n with
  | 1 => s.setLforce cl true
  | 2 => s.setLk cl 3
  | 3 => s.setLk cl 2
  | 4 => s.setLk cl 1
  | 6 => s.setFast cl true
  | _ => s

/-- What undoing step `n` does. -/
def State.undoStep (s : State) (cl n : Nat) : State :=
  match n with
  | 1 => s.setLforce cl false
  | 2 => s.setLk cl 4
  | 3 => s.setLk cl 3
  | 4 => s.setLk cl 2
  | 6 => s.setFast cl false
  | _ => s

/-- The logical devices, by a mask, that draw less than their effective floors: none of the steps touches their clusters. -/
def State.spared (s : State) (mask cl : Nat) : Bool :=
  match s.partOf cl with
  | none => false
  | some l => mask / 2 ^ l % 2 == 1

/-- 100 µs have passed since the last step on a cluster. -/
def Cluster.stepDue (c : Cluster) (tick : Nat) : Bool := c.step == 0 || decide (c.stepTick + 10000 ≤ tick)

/-- The next step on a cluster. Of a device that draws less than its floor, the Lehr only holds a cluster in the fast throttle, and that is
no step for the order of the others (R377). -/
def State.stepUp (s : State) (mask cl : Nat) : State :=
  let c := s.cl cl
  if !c.stepDue s.tick then s
  else if s.spared mask cl then (s.setFast cl true).modCl cl fun c => { c with stepTick := s.tick }
  else if 6 ≤ c.step then s
  else (s.applyStep cl (c.step + 1)).modCl cl fun c => { c with step := c.step + 1, stepTick := s.tick }

/-- The cost of a matrix command: its passes, at AW × WS cycles each (R93). -/
def Cmd.cost (k : Cmd) : Nat :=
  match k.kind with
  | .mma prec _ _ _ _ _ l _ _ _ => nestPasses l * passCost prec
  | _ => 0

/-- The costs of the matrix commands queued and running on a die. -/
def State.dieCost (s : State) (d : Nat) : Nat :=
  ((List.range 12).flatMap fun c => (List.range 8).map fun k => ((s.core ⟨12 * d + c, k⟩).mx.cmds.map Cmd.cost).sum).sum

/-- The prediction of a die's current exceeds its limit under ECAP. -/
def State.dieOver (s : State) (d : Nat) : Bool := decide (Config.currentLimit s.power.ecap < Config.dieCurrent (s.dieCost d))

/-- LEHR_PREDICT: the dies whose predicted current is over its limit are noted, and clusters of each take their next step: the latch
says which (log entry 37). -/
def execLehrPredict (s : State) : Out :=
  let dies := (List.range 16).filter s.dieOver
  event "LEHR_PREDICT" (s.lehrUp && decide (s.power.predictTick + 1000 ≤ s.tick)
      && s.req.hot.all (fun c => dies.contains (c / 12)) && dies.all fun d => s.req.hot.any fun c => c / 12 == d)
    (s.req.hot.eraseDups.foldl (fun s c => s.stepUp s.req.addr c)
      (s.modPower fun p => { p with predicted := dies, predictTick := s.tick }))

/-- An alarm: a cluster at TALARM, or a supply that reports a droop. -/
def State.alarm (s : State) : Bool := s.power.droop || s.clusters.any fun c => decide (s.power.talarm ≤ c.2.temp)

/-- The measured power exceeds its limit under ECAP (R378). -/
def Power.over (p : Power) : Bool := decide (p.ecap < p.measured)

/-- LEHR_MEASURE: temperatures, power and droop as measured. Where the power exceeds its limit, clusters that the latch names take their next
step, and every cluster at THOT does (log entry 37). -/
def execLehrMeasure (s : State) : Out :=
  let r := s.req
  let s' := s.modPower fun p => { p with measured := r.val.toNat, droop := r.ok, measureTick := s.tick }
  let s' := r.temps.foldl (fun s t => s.modCl t.1 fun c => { c with temp := t.2 }) s'
  let warm := (r.temps.map Prod.fst).filter fun c => decide (s.power.thot ≤ (s'.cl c).temp)
  let s' := (r.hot ++ warm).eraseDups.foldl (fun s c => s.stepUp r.addr c) s'
  event "LEHR_MEASURE"
    (s.lehrUp && decide (s.power.measureTick + 10000 ≤ s.tick) && (!r.hot.isEmpty == decide (s.power.ecap < r.val.toNat))
      && (r.temps.map Prod.fst).all (fun c => decide (c < 192)) && r.hot.all fun c => decide (c < 192))
    (s'.modPower fun p => { p with
      alarmEnd := if s'.alarm then none else if p.fast && p.alarmEnd.isNone then some s.tick else p.alarmEnd })

/-- A hold in the fast throttle that is no step of the order (R377). -/
def Cluster.heldOnly (c : Cluster) : Bool := c.fast && decide (c.step < 6)

/-- LEHR_UNDO_STEP: the limits of the last prediction and measurement are met, the cluster is cool, and a millisecond has passed. -/
def execLehrUndoStep (s : State) : Out :=
  let cl := s.req.cl
  let c := s.cl cl
  event "LEHR_UNDO_STEP"
    (s.lehrUp && !s.power.over && !s.power.predicted.contains (cl / 12) && (c.heldOnly || decide (0 < c.step)) && decide (c.temp + 5 < s.power.thot)
      && decide (c.stepTick + 100000 ≤ s.tick))
    (if c.heldOnly then (s.setFast cl false).modCl cl fun c => { c with stepTick := s.tick }
     else (s.undoStep cl c.step).modCl cl fun c => { c with step := c.step - 1, stepTick := s.tick })

/-- FAST_THROTTLE: an alarm throttles every cluster. -/
def execFastThrottle (s : State) : Out :=
  event "FAST_THROTTLE" (s.lehrUp && s.alarm && (!s.power.fast || s.power.alarmEnd.isSome))
    (s.passAll.modPower fun p => { p with fast := true, alarmEnd := none })

/-- FAST_THROTTLE_END: 1 ms after the alarm has ended. -/
def execFastThrottleEnd (s : State) : Out :=
  event "FAST_THROTTLE_END" (s.power.fast && !s.alarm && (match s.power.alarmEnd with | some t => decide (t + 100000 ≤ s.tick) | none => false))
    (s.passAll.modPower fun p => { p with fast := false, alarmEnd := none })

/-! ## Moving a team (R25, R379) -/

/-- The resident contexts of a team. -/
def State.teamLive (s : State) (cl t : Nat) : List CtxId :=
  ((List.range 32).map fun k => (⟨cl, k / 4, k % 4⟩ : CtxId)).filter fun x => (s.ctx x).pr.st != .idle && (s.ctx x).ct.team == t

/-- The saved images of a team. -/
def State.teamSaved (s : State) (cl t : Nat) : List (Nat × Saved) :=
  (s.cl cl).saved.filterMap fun e => match e.2 with
    | some i => if i.ctx.ct.team = t then some (e.1, i) else none
    | none => none

/-- A team's allocation keeps its place within the vault, so that home-alias offsets keep their meaning. -/
def movedBase (target vbase : Nat) : Nat := vaultBase target + vbase % 2 ^ 26

/-- R25 and R315 allow a team to stand on a cluster. -/
def State.teamFits (s : State) (tm : Team) (target : Nat) : Bool :=
  s.eligible tm.launch target && s.fitsVault target (s.lraw tm.launch) (movedBase target tm.vbase)

/-- What the Lehr acts on at a cluster: the prediction for its die or the measurement over its limit, or the cluster at THOT (R378). -/
def State.lehrActs (s : State) (cl : Nat) : Bool :=
  s.power.predicted.contains (cl / 12) || s.power.over || decide (s.power.thot ≤ (s.cl cl).temp)

/-- LEHR_MIGRATE: the step that follows the lowest LK, for each team of the cluster in turn (log entry 36). The team moves to a cooler one;
its resident continuations are pre-empted first. The latch names the devices that draw less than their floors (R377). -/
def execLehrMigrate (cl team target : Nat) (s : State) : Out :=
  match s.team cl team with
  | none => .refused (.notEnabled "LEHR_MIGRATE")
  | some tm =>
    event "LEHR_MIGRATE"
      (decide (cl < 192 ∧ target < 192) && target != cl && s.lehrUp && s.lehrActs cl && !s.spared s.req.addr cl
        && ((s.cl cl).step == 4 || (s.cl cl).step == 5) && (s.cl cl).stepDue s.tick && !((List.range 192).all fun k => decide (s.power.thot ≤ (s.cl k).temp))
        && tm.moving.isNone && !tm.sched && !lPinned (s.lraw tm.launch)
        && !((s.launch tm.launch).any fun v => v.st.isFrozen)
        && decide ((s.cl target).temp + 10 ≤ (s.cl cl).temp) && s.teamFits tm target
        && decide (tm.bound + 5000000 ≤ s.tick) && (match tm.moved with | none => true | some t => decide (t + 20000000 ≤ s.tick)))
      (((s.teamLive cl team).foldl (fun s x => s.askPreempt x .lehr)
        ((s.modCl cl fun c => { c with step := 5, stepTick := s.tick }).setTeam cl team { tm with moving := some target })).lehrMsg cl 2 team)

/-- Nothing that a saved continuation has sent is outstanding: accesses, queue requests, replies (R25). What it holds to send at its
restoration moves with it: the rest of a split MMA, and queue requests not sent (R249, R340). -/
def Saved.still (i : Saved) : Bool :=
  i.ctx.fl.pend.isEmpty && i.ctx.fl.xwaits.isEmpty && i.ctx.queues.all fun q => q.2.all fun o => o.stage == .landed || o.pa.isNone

/-- No packet that left this module carries an operation of a record of the team, merged ones among them (R273). -/
def State.packetsStill (s : State) (cl : Nat) (recs : List Nat) : Bool :=
  s.packets.all fun p => !(p.src == s.modId && (pktContribs p).any fun o => homeCl o.home == cl && recs.contains o.crec)

/-- An image at its new place, under the slot of its job there. -/
def Saved.moved (team old new js : Nat) (i : Saved) : Saved :=
  { i with
    ctx := { i.ctx with ct := { i.ctx.ct with team := team }, pr := { i.ctx.pr with crec := i.ctx.pr.crec - old + new, jslot := js } }
    mx := i.mx.map fun m => { m with cmds := m.cmds.map fun k => { k with crec := k.crec - old + new } } }

/-- A spawner at its new place. -/
def SpawnReq.moved (cl target old new : Nat) (recs : List Nat) (q : SpawnReq) : SpawnReq :=
  { q with origin := q.origin.map fun o =>
      if o.1.cl = cl ∧ recs.contains o.1.crec = true then (⟨target, o.1.crec - old + new⟩, o.2) else o }

/-- Spawns that wait for a team or a record follow their spawners. -/
def State.moveSpawners (s : State) (f : SpawnReq → SpawnReq) : State :=
  { s with
    launches := s.launches.map fun e => (e.1, e.2.map fun v => { v with pendingNew := v.pendingNew.map f })
    clusters := s.clusters.map fun e => (e.1, { e.2 with teams := e.2.teams.map fun t => (t.1, t.2.map fun v => { v with pending := v.pending.map f }) }) }

/-- The allocation's bytes are copied, poison with them. -/
def State.copyVault (s : State) (old new n : Nat) : State :=
  { s with vault := splice s.vault new n (slice s.vault old n new), vbad := spliceBad s.vbad new n (sliceBad s.vbad old n new) }

/-- A team without resident continuations is bound at its new cluster with all that it holds. -/
def State.moveTeam (s : State) (cl team target js : Nat) (tm : Team) : State :=
  let raw := s.lraw tm.launch
  let new := movedBase target tm.vbase
  let at_ (r : Nat) : Nat := r - tm.vbase + new
  let t2 := ((List.range 16).find? fun i => (s.team target i).isNone).getD 0
  let images := s.teamSaved cl team
  let recs := images.map Prod.fst
  let ready := (s.readyList cl).filter fun r => recs.contains r
  let watch := (s.watchList cl).filter fun r => recs.contains r
  let ix := (s.queueOf tm.launch).jobix
  let s := (s.setReady cl ((s.readyList cl).filter fun r => !recs.contains r)).setWatch cl ((s.watchList cl).filter fun r => !recs.contains r)
  let s := s.copyVault tm.vbase new (allocSize raw)
  let s := recs.foldl (fun s r => s.recWr (at_ r) recSAVE 8 (at_ (s.recRd r recSAVE 8))) s
  let s := s.modCl cl fun c => { c with
    saved := c.saved.filter fun e => !recs.contains e.1
    preload := c.preload.filter fun e => !recs.contains e.2.crec
    teams := terase c.teams team
    jobs := tmod { } c.jobs tm.jslot fun j => { j with teams := j.teams - 1, valid := j.valid && decide (1 < j.teams) } }
  let s := images.foldl (fun s e => s.setSaved target (at_ e.1) (some (e.2.moved t2 tm.vbase new js))) s
  let s := s.setTeam target t2 { tm with vbase := new, jslot := js, moving := none, bound := s.tick, moved := some s.tick }
  let s := s.modCl target fun c => { c with
    jobs := tmod { } c.jobs js fun o => { (o.copy ix (tget { } s.jobs ix)) with teams := o.teams + 1 } }
  let s := (s.setReady target (s.readyList target ++ ready.map at_)).setWatch target (s.watchList target ++ watch.map at_)
  s.moveSpawners fun q => q.moved cl target tm.vbase new recs

/-- TEAM_MOVE_COMPLETE: once no continuation of the team is resident and nothing of theirs is under way, the team is copied and
bound at its target. A target that can no longer take it ends the move (log entry 39). -/
def execTeamMoveComplete (cl team vbase : Nat) (s : State) : Out :=
  match s.team cl team with
  | none => .refused (.notEnabled "TEAM_MOVE_COMPLETE")
  | some tm => match tm.moving with
    | none => .refused (.notEnabled "TEAM_MOVE_COMPLETE")
    | some target =>
      let images := s.teamSaved cl team
      match s.slotFor target (s.launchJob tm.launch) with
      | some js =>
        if s.teamFits tm target then
          event "TEAM_MOVE_COMPLETE"
            ((s.teamLive cl team).isEmpty && vbase == movedBase target tm.vbase && images.all (fun e => e.2.still)
              && s.packetsStill cl (images.map Prod.fst))
            (s.moveTeam cl team target js tm)
        else .next (s.setTeam cl team { tm with moving := none })
      | none => .next (s.setTeam cl team { tm with moving := none })

end Sys2Proof.Machine
end

