-- ==== Sys2Proof/Machine/Host.lean ====
section
/-! DEFINITION. Hosts and trust: logical devices and their descriptors, losing and finding a host, freezing, resuming and
destroying a partition, SPDM and TDISP (R347 to R363). The particulars of a request stand in the request latch. -/

namespace Sys2Proof.Machine

/-! ## Whose work (R306, R349) -/

/-- A launch that has started under a logical device. -/
def State.ldLaunch (s : State) (l k : Nat) : Bool :=
  match s.launch k with
  | none => false
  | some v => (s.wq v.queue).part == l && v.st.started

/-- Every core that holds state. -/
def State.coreIds (s : State) : List CoreId := s.clusters.flatMap fun c => c.2.cores.map fun o => ⟨c.1, o.1⟩

/-- The clusters of a partition. -/
def State.partClusters (s : State) (l : Nat) : List Nat := (List.range 192).filter fun c => (s.ld l).clmask / 2 ^ c % 2 == 1

/-- The management path's message to the Gaffers of a partition, raised or ended (R302, R353). -/
def State.tellGaffers (s : State) (l : Nat) (b : Bool) : State :=
  (s.partClusters l).foldl (fun s c => s.modCl c fun k => { k with girqMgmt := b }) s

/-! ## Freezing (R357, R358) -/

/-- Whether an access goes to the host: by the translation that is held, or by the one that a walk would find. -/
def State.goesToHost (s : State) (cl jslot : Nat) (write : Bool) (va : Nat) (held : Option Nat) : Bool :=
  match held with
  | some pa => decide (dramTop ≤ pa)
  | none => match s.walk cl jslot write va with
    | .ok leaf _ => decide (dramTop ≤ leaf.pbase)
    | _ => false

/-- A queue entry's request goes to the host. -/
def State.hostEnt (s : State) (h : Home) (c : Ctx) (e : QEnt) : Bool :=
  e.stage == .waiting && s.goesToHost (homeCl h) c.pr.jslot (!e.kind.isLoad) e.ea (s.entPa h c e)

/-- One queue request that the freeze point finds on its way to the host: a load's datum is a mark, a store is discarded and
gives a saved continuation cause 0x0F. -/
def State.freezeEnt (s : State) (h : Home) (l q : Nat) (e : QEnt) : State :=
  if e.kind.isLoad then s.modHome h fun c => c.landEnt q e 0 ⟨0x0F, l⟩
  else
    let s := s.modHome h fun c => c.setQueue q (replaceEnt (c.queue q) e.serial fun _ => none)
    match h with
    | .live _ => s
    | .saved _ _ => s.deferTrap h 0x0F 0 none l

/-- The queue requests of one continuation. -/
def State.freezeQueues (s : State) (h : Home) (l : Nat) : State :=
  match s.home h with
  | none => s
  | some c => ((List.range 8).foldl (fun s q =>
      ((c.queue q).filter (s.hostEnt h c)).foldl (fun s e => s.freezeEnt h l q e) s) s).wakeHome h

/-- A transfer has a request that goes to the host and has not landed. -/
def State.gHost (s : State) (o : CoreId) (k : Cmd) : Bool :=
  let g := s.gEnv o k k.kind.cdesc
  let reqs := s.gReqs g
  k.kind.transfer.isSome && ((k.aims.any fun a => decide (dramTop ≤ a.2.2))
    || (k.parts.any fun p => p.late.any fun q => q.pa.any fun pa => decide (dramTop ≤ pa))
    || (List.range reqs.length).any fun i =>
      !k.done.contains i && (gNeeds g.raw (s.gWork g k reqs i)).any fun a =>
        s.goesToHost o.cl g.jslot a.2.2 a.1 (s.gXl g a.1 a.2.2))

/-- Transfers of a core that lose the host end in error 0x22. -/
def State.freezeCore (s : State) (o : CoreId) (l : Nat) : State :=
  s.modMx o fun m => { m with cmds := m.cmds.map fun k =>
    if k.err = 0 ∧ (s.gEnv o k k.kind.cdesc).ld = l ∧ s.gHost o k = true then { k with err := 0x22 } else k }

/-- A request that a Marver's entry has still to land goes to the host. -/
def State.mHost (s : State) (cl : Nat) (e : MEnt) : Bool :=
  e.left.any fun i =>
    let q := reqAt e.raw i
    s.goesToHost cl (s.marverJob cl).1 (eBack e.raw) q.1 (s.mWhere cl e.raw q).pa

def State.freezeEntry (s : State) (cl : Nat) (e : MEnt) : MEnt :=
  if e.begun && e.err == 0 && eSpace e.raw == 0 && s.mHost cl e then { e with err := 0x22 } else e

/-- Entries of a cluster's Marvers likewise. -/
def State.freezeMarvers (s : State) (cl l : Nat) : State :=
  if (s.marverJob cl).2 == l then
    s.modCl cl fun c => { c with marvers := c.marvers.map fun m => (m.1, { m.2 with live := m.2.live.map (s.freezeEntry cl) }) }
  else s

def LState.freeze : LState → LState
  | .running => .frozen false
  | .draining => .frozen true
  | o => o

def LState.thaw : LState → LState
  | .frozen false => .running
  | .frozen true => .draining
  | o => o

/-- A partition freezes at this tick. No preload names a record that is frozen (R325). -/
def State.freezePart (s : State) (l : Nat) : State :=
  if (s.ld l).hstate = 2 then s
  else
    let p := s.ldLaunch l
    let live := s.liveOf p
    let saved := s.savedOf p
    let s := live.foldl (fun s x => s.freezeQueues (.live x) l) s
    let s := saved.foldl (fun s e => (s.freezeQueues (.saved e.1 e.2) l).syncSaved (.saved e.1 e.2)) s
    let s := s.coreIds.foldl (fun s o => s.freezeCore o l) s
    let s := (s.clusters.map Prod.fst).foldl (fun s c => s.freezeMarvers c l) s
    let s := saved.foldl (fun s e => s.dropPreload e.1 e.2) s
    let s := live.foldl (fun s x => s.askPreempt x .freeze) s
    let s : State := { s with launches := s.launches.map fun e => (e.1, e.2.map fun v =>
      if (s.wq v.queue).part = l then { v with st := v.st.freeze } else v) }
    let s := (s.clusters.map Prod.fst).foldl (fun s c => s.failDoomed c) s
    (s.tellGaffers l false).modLd l fun d => { d with hstate := 2, park := [], fsess := d.spdm.num }

/-! ## Resuming (R359) -/

/-- Cause 0x0F at the PC it resumes at, once and before any other. -/
def resumeTrap (l : Nat) (ds : List Defer) : List Defer := ⟨0x0F, 0, none, l, false⟩ :: ds.filter fun d => d.cause != 0x0F

/-- A record that the freeze saved is ready, or waits again with its watches armed afresh. -/
def State.resumeRecord (s : State) (l cl crec : Nat) : State :=
  match s.saved cl crec with
  | none => s
  | some i =>
    if s.recRd crec recSTATUS 1 != stFrozen then s
    else
      let c := i.ctx
      let w := c.wait.map fun w => { w with conds := w.conds.map fun k => { k with adv := false } }
      let c : Ctx := { c with wait := w, fl := { c.fl with defer := resumeTrap l c.fl.defer } }
      let s := s.setSaved cl crec (some { i with ctx := c })
      match w with
      | some _ => (s.recWr crec recSTATUS 1 stParked).addWatch cl crec
      | none => ((s.recWr crec recSTATUS 1 stReady).recWr crec recREADYTICK 4 (s.tick % 2 ^ 32)).addReady cl crec

/-- A continuation that the freeze has not yet taken off its context stays, and takes cause 0x0F there. -/
def State.resumeLive (s : State) (l : Nat) (x : CtxId) : State :=
  if (s.ctx x).pr.pre = some .freeze then
    (s.modPr x fun p => { p with pre := none }).modFl x fun f => { f with defer := resumeTrap l f.defer }
  else s

/-- A frozen partition goes on: its launches as they were, those cancelled meanwhile cancelled, and its waiting messages sent on. -/
def State.resumePart (s : State) (l : Nat) : State :=
  if (s.ld l).hstate != 2 then s
  else
    let p := s.ldLaunch l
    let lost := (s.ld l).bound.isNone
    let s := s.modLd l fun d => { d with hstate := b2n lost }
    let s := if lost then ({ s with told := s.told + 1 } : State).tellGaffers l true else s
    let ks := (s.launches.map Prod.fst).filter p
    let s := ks.foldl (fun s k => s.modLaunch k fun v => { v with st := v.st.thaw }) s
    let s := (s.savedOf p).foldl (fun s e => s.resumeRecord l e.1 e.2) s
    let s := (s.liveOf p).foldl (fun s x => s.resumeLive l x) s
    let s : State := { s with packets := s.packets ++ s.waiting, waiting := [] }
    ks.foldl (fun s k => if (s.launch k).any fun v => v.cancelled then s.cancelLaunch k else s) s

/-! ## Destroying (R360) -/

/-- A resident continuation goes with its partition. -/
def State.dropCtx (s : State) (x : CtxId) : State :=
  let s := (s.leaveMx x).modCore x.coreId fun o => { o with run := if o.run = some x.cx then none else o.run }
  s.setCtx x (emptied (s.ctx x))

/-- The messages that a continuation or a waiting handler holds are counted lost. -/
def State.loseMsg (s : State) (tag : Option Nat) : State :=
  match tag with
  | none => s
  | some m => match tget none s.msgs m with
    | none => s
    | some g => ({ s with msgs := terase s.msgs m } : State).addLost g.job 1

/-- The tags that a launch's continuations carry. -/
def State.tagsOf (s : State) (p : Nat → Bool) : List (Option Nat) :=
  ((s.liveOf p).map fun x => (s.ctx x).ct.tag)
    ++ ((s.savedOf p).map fun e => ((s.saved e.1 e.2).bind fun i => i.ctx.ct.tag))
    ++ (s.clusters.flatMap fun c => c.2.teams.flatMap fun t => match t.2 with
        | some tm => if p tm.launch then tm.pending.map SpawnReq.tag else []
        | none => [])
    ++ (s.launches.flatMap fun e => match e.2 with
        | some v => if p e.1 then v.pendingNew.map SpawnReq.tag else []
        | none => [])

/-- A cluster without the work of a logical device. -/
def Cluster.without_ (l : Nat) (p : Nat → Bool) (gone : List Nat) (c : Cluster) : Cluster :=
  let c := if (tget ({ } : JobSlot) c.jobs c.schedSlot).part = l then c.stopMarvers else c
  { c with
    saved := c.saved.filter fun e => !gone.contains e.1
    preload := c.preload.filter fun e => !gone.contains e.2.crec
    teams := c.teams.filter fun t => match t.2 with | some tm => !p tm.launch | none => true
    jobs := c.jobs.filter fun j => j.2.part != l || (!j.2.valid && decide (j.2.teams = 0)) }

/-- A frozen partition is destroyed: its launches end with status 0x0D, and everything it held is freed, its queues' descriptors with
their rings and borrowed slots among it. -/
def State.destroyPart (s : State) (l : Nat) : State :=
  let mine (k : Nat) : Bool := match s.launch k with
    | some v => (s.wq v.queue).part == l
    | none => false
  let gone := (s.savedOf mine).map Prod.snd
  let lost := s.waiting.filter fun p => (s.serving p.job.toNat).any mine
  let s := (s.tagsOf mine).foldl State.loseMsg s
  let s := lost.foldl (fun s p => s.addLost p.job.toNat 1) s
  let s : State := { s with waiting := s.waiting.filter fun p => !(s.serving p.job.toNat).any mine }
  let s := (s.liveOf mine).foldl State.dropCtx s
  let s := (s.clusters.map Prod.fst).foldl (fun s cl =>
    ((s.setReady cl ((s.readyList cl).filter fun r => !gone.contains r)).setWatch cl
        ((s.watchList cl).filter fun r => !gone.contains r)).modCl cl
      (Cluster.without_ l mine gone)) s
  let s : State := { s with
    launches := s.launches.map fun e => (e.1, e.2.map fun v =>
      if mine e.1 then { v with st := .ended 0x0D, reported := true, pendingNew := [] } else v)
    jobs := s.jobs.filter fun e => e.2.part != l || !e.2.valid
    wqs := s.wqs.filter fun e => e.2.part != l }
  (s.modLd l fun d => { d with
    valid := false, hstate := 0, locked := false, park := [], restart := false, ident := d.bound, cert := none, shown := none }).refloor

/-! ## Losing and finding the host (R353 to R356) -/

/-- A logical device becomes LOST: its Gaffers and the management path are told. Its host has to be bound again (R353, R355). -/
def State.goLost (s : State) (l : Nat) : State :=
  let d := s.ld l
  if !d.valid then s
  else if d.hstate = 0 then
    ({ (s.modLd l fun d => { d with hstate := 1, timeouts := 0, bound := none }) with told := s.told + 1 } : State).tellGaffers l true
  else s.modLd l fun d => { d with bound := none }

/-- Drops the translations into the host window that l's job slots hold (R355 step 1). -/
def State.dropHostWindow (s : State) (l : Nat) : State :=
  (s.clusters.map Prod.fst).foldl (fun s c =>
    let js : Tab JobSlot := (s.cl c).jobs
    s.tlbDrop c fun e => decide (hostBase ≤ e.pbase) && (tget { } js e.jslot).part == l) s

/-- The bound host presents the identity that the device had: by its certificate where a session has existed, else by its
fabric-manager host ID (R355). -/
def Ld.sameHost (d : Ld) : Bool :=
  d.bound.isSome && (match d.cert with
    | some c => d.shown == some c
    | none => d.bound == d.ident)

/-- REBIND: the parked writes go to the host in park order, and the device is BOUND again. -/
def State.rebind (s : State) (l : Nat) : State :=
  let d := s.ld l
  if d.tstate != 0 || d.hstate != 1 || !d.sameHost then s.refuse l
  else
    let s := s.dropHostWindow l
    let s := d.park.foldl (fun s w => s.putHost l w.1 w.2) s
    (s.tellGaffers l false).modLd l fun d => { d with hstate := 0, park := [], restart := false }

def execRebind (s : State) : Out := .next (if s.boot.done then s.rebind s.req.ld else s.refuse s.req.ld)

/-! ## Leaving RUN (R363) -/

/-- The interface goes to another TDISP state; leaving RUN freezes the partition. -/
def State.tdisp (s : State) (l st : Nat) : State :=
  let was := (s.ld l).tstate
  let s := s.modLd l fun d => { d with tstate := st }
  if was = 2 ∧ st ≠ 2 then s.freezePart l else s

/-- An error of a locked interface. -/
def State.tdispError (s : State) (l : Nat) : State :=
  if (s.ld l).tstate = 1 ∨ (s.ld l).tstate = 2 then s.tdisp l 3 else s

/-- What a restarted logical device does once its link is up again: REBIND waits for the fabric manager to bind it again (R355,
R356). -/
def State.afterRestart (s : State) (l : Nat) : State :=
  let d := s.ld l
  if d.tstate ≠ 0 then ((s.modLd l fun d => { d with restart := false }).tdispError l).freezePart l
  else if d.hstate ≠ 1 then s.modLd l fun d => { d with restart := false }
  else if d.rstpol then (s.modLd l fun d => { d with restart := false }).freezePart l
  else if d.bound.isNone then s
  else (s.modLd l fun d => { d with restart := false }).rebind l

/-- The identity that a device has once `host` is bound to it: while LOST, that of the host it had; else the new host's, with the
certificate of the sessions so far where it is the same host by its identifier or by what it shows (R355). -/
def Ld.identified (d : Ld) (host : Nat) (shown : Option Nat) : Ld :=
  if d.hstate = 1 then d
  else { d with ident := some host, cert := if d.ident = some host ∨ shown = d.cert then d.cert else none }

/-- A host is bound to a logical device, through a port, and shows a certificate or none. -/
def State.bind (s : State) (l port host : Nat) (shown : Option Nat) : State :=
  s.modLd l fun d => { (d.identified host shown) with bound := some host, port := port % 2, shown := shown }

/-- FM_BIND: `ok` binds and its absence unbinds; `ok2` says that the host shows the certificate that `nonce` identifies. A device in
a warm restart whose link is up goes on then (R356); a bind during the last steps of bring-up waits for DONE (R390). -/
def execFmBind (s : State) : Out :=
  let r := s.req
  event "FM_BIND" (decide (r.ld < 16 ∧ r.port < 2) && decide (5 ≤ s.boot.step))
    (if !r.ok then s.modLd r.ld fun d => { d with bound := none, shown := none }
     else if s.boot.done then
       let s := s.bind r.ld r.port r.val.toNat (if r.ok2 then some r.nonce.toNat else none)
       if (s.ld r.ld).restart && s.ports.contains (r.port % 2) then s.afterRestart r.ld else s
     else { s with boot := { s.boot with binds := s.boot.binds ++ [(r.ld, r.port, r.val.toNat)] } })

/-- Where an offset into a logical device's host-managed memory lies: its DRAM ranges in order (R347). -/
def Ld.hdm (d : Ld) (off n : Nat) : Option Nat :=
  let n0 := d.drlim0 - d.drbase0
  if off + n ≤ n0 then some (d.drbase0 + off)
  else if n0 ≤ off ∧ off - n0 + n ≤ d.drlim1 - d.drbase1 then some (d.drbase1 + (off - n0))
  else none

/-- A host that can reach its logical device. -/
def State.hostHere (s : State) (l : Nat) : Bool :=
  s.boot.done && (s.ld l).valid && (s.ld l).bound.isSome && (s.ld l).hstate != 1

def execHostMemoryWrite (s : State) : Out :=
  let r := s.req
  event "HOST_MEMORY_WRITE" (s.hostHere r.ld && !r.bytes.isEmpty && ((s.ld r.ld).hdm r.addr r.bytes.length).all fun pa => s.chanFree pa r.bytes.length)
    (match (s.ld r.ld).hdm r.addr r.bytes.length with
     | some pa => (s.wrDram pa r.bytes).say true 0
     | none => s.say false 0)

/-- LINK_DOWN: a port's logical devices are LOST. During bring-up the link only retrains (R390). -/
def execLinkDown (s : State) : Out :=
  let p := s.req.port
  let s' : State := { s with ports := s.ports.filter fun q => q != p }
  event "LINK_DOWN" (s.ports.contains p)
    (if !s.boot.done then s
     else ((List.range 16).filter fun l => (s.ld l).bound.isSome && (s.ld l).port == p).foldl (fun s l => s.goLost l) s')

/-- COMPLETION_TIMEOUT: `ok` says that a request has been answered since the last one. -/
def execCompletionTimeout (s : State) : Out :=
  let l := s.req.ld
  let n := if s.req.ok then 1 else (s.ld l).timeouts + 1
  event "COMPLETION_TIMEOUT" ((s.ld l).valid && (s.ld l).hstate == 0)
    (let s := s.modLd l fun d => { d with timeouts := n }
     if 3 ≤ n then s.goLost l else s)

def execHostDeadReport (s : State) : Out :=
  event "HOST_DEAD_REPORT" ((s.ld s.req.ld).valid && (s.ld s.req.ld).hstate == 0) (s.goLost s.req.ld)

def execWarmRestart (s : State) : Out :=
  let l := s.req.ld
  event "WARM_RESTART" (s.boot.done && (s.ld l).valid && (s.ld l).bound.isSome)
    ((s.modLd l fun d => { d with restart := true }).goLost l)

def execLinkUp (s : State) : Out :=
  let p := s.req.port
  let s' : State := { s with ports := if s.ports.contains p then s.ports else s.ports ++ [p] }
  event "LINK_UP" (s.boot.done && decide (p < 2))
    (((List.range 16).filter fun l => (s.ld l).valid && (s.ld l).restart && (s.ld l).port == p).foldl State.afterRestart s')

/-! ## The descriptor (R350, R351) -/

def execFreeze (s : State) : Out :=
  let l := s.req.ld
  .next (if !s.boot.done then s.refuse l else if (s.ld l).valid then s.freezePart l else s)

def State.thaw (s : State) (l : Nat) : State :=
  if (s.ld l).hstate = 2 ∧ (s.ld l).tstate = 0 then s.resumePart l else s.refuse l
def execThaw (s : State) : Out := .next (if s.boot.done then s.thaw s.req.ld else s.refuse s.req.ld)

/-- A write of VALID 0. -/
def State.invalidate_ (s : State) (l : Nat) : State :=
  if (s.ld l).hstate = 2 ∧ (s.ld l).tstate = 0 then s.destroyPart l else s.refuse l
def execPartitionDestroy (s : State) : Out := .next (if s.boot.done then s.invalidate_ s.req.ld else s.refuse s.req.ld)

/-- Two ranges share a byte. -/
def rangesMeet (a b : Nat × Nat) : Bool := decide (a.1 < a.2 ∧ b.1 < b.2 ∧ a.1 < b.2 ∧ b.1 < a.2)
def Ld.ranges (d : Ld) : List (Nat × Nat) := [(d.drbase0, d.drlim0), (d.drbase1, d.drlim1)]

/-- The valid logical devices share no cluster and no DRAM, and their quotas fit, with `d` as descriptor of `l`. -/
def State.ldsOk (s : State) (l : Nat) (d : Ld) : Bool :=
  let others := ((List.range 16).filter fun k => k != l && (s.ld k).valid).map s.ld
  !d.valid || (others.all (fun o => o.clmask &&& d.clmask == 0)
    && (others.all fun o => o.ranges.all fun a => d.ranges.all fun b => !rangesMeet a b)
    && decide (d.cquota + (others.map Ld.cquota).sum ≤ 65536))

/-- A field of the descriptor as a write would leave it. -/
def Ld.put (d : Ld) (off v : Nat) : Ld :=
  let gib (x : Nat) : Nat := x / 2 ^ 30 % 2 ^ 22 * 2 ^ 30
  let mask (i : Nat) : Nat := d.clmask - d.clmask / 2 ^ (64 * i) % 2 ^ 64 * 2 ^ (64 * i) + v % 2 ^ 64 * 2 ^ (64 * i)
  match off with
  | 0x08 => { d with clmask := mask 0 }
  | 0x10 => { d with clmask := mask 1 }
  | 0x18 => { d with clmask := mask 2 }
  | 0x20 => { d with drbase0 := gib v }
  | 0x28 => { d with drlim0 := gib v }
  | 0x30 => { d with drbase1 := gib v }
  | 0x38 => { d with drlim1 := gib v }
  | 0x40 => { d with hmlim := v / 2 ^ 12 % 2 ^ 40 * 2 ^ 12 }
  | 0x48 => { d with floor := v % 2 ^ 16 }
  | 0x50 => { d with cquota := v % 2 ^ 17 }
  | _ => d

/-- A write of LDCTL that R351 lets through; VALID newly set begins an interface never locked. -/
def State.ldctl (s : State) (l v : Nat) : State :=
  let bit (i : Nat) : Bool := v / 2 ^ i % 2 == 1
  let was := (s.ld l).valid
  let s := s.modLd l fun d => { d with
    valid := bit 63, rstpol := bit 40, referr := d.referr && !bit 0, locked := d.locked && was }
  let s := s.refloor
  let s := if bit 34 then s.resumePart l else s
  let s := if bit 33 then s.rebind l else s
  if bit 32 then s.freezePart l else s

/-- A write of one doubleword of a descriptor. -/
def State.ldWrite (s : State) (l off v : Nat) : State :=
  let d := s.ld l
  let bit (i : Nat) : Bool := v / 2 ^ i % 2 == 1
  if !s.boot.done then s.refuse l
  else if off = 0 then
    if d.tstate ≠ 0 then (if bit 32 && !bit 34 && (bit 63 || d.hstate == 2) then s.freezePart l else s.refuse l)
    else if !bit 63 then (if d.hstate = 2 then s.destroyPart l else s.refuse l)
    else if bit 34 && d.hstate != 2 then s.refuse l
    else if !s.ldsOk l { d with valid := true } then s.refuse l
    else s.ldctl l v
  else if d.tstate ≠ 0 then s.refuse l
  else if !s.ldsOk l (d.put off v) then s.refuse l
  else
    let s := s.modLd l fun d => d.put off v
    if off = 0x48 then s.refloor else s

def execLdctlWrite (s : State) : Out :=
  event "LDCTL_WRITE" (decide (s.req.ld < 16)) (s.ldWrite s.req.ld s.req.addr s.req.val.toNat)

/-! ## Attestation (R361, R362) -/

def State.modSpdm (s : State) (l : Nat) (f : Spdm → Spdm) : State := s.modLd l fun d => { d with spdm := f d.spdm }

/-- An answer with bytes that the fused secret decides. -/
def State.sayBytes (s : State) : State := { s.draw with resp := { ok := true, val := 0, bytes := Config.spdmBytes s.draws } }

/-- A response: the alias key signs every one, and exists from step 5 of bring-up on (R361, R384). A module in recovery answers too, with
the measurements recorded (R389). -/
def State.answerSpdm (s : State) (f : State → State) : State := if s.aliasKey || s.boot.recovery then f s else s.say false 0

/-- A request that needs the algorithms agreed. -/
def State.attest (s : State) (l : Nat) (f : State → State) : State :=
  s.answerSpdm fun s => if (s.ld l).spdm.algs then f s else s.say false 0

/-- The session ends; an interface locked under it enters ERROR. -/
def State.expire (s : State) (l : Nat) : State :=
  let lock := (s.ld l).spdm.lock
  let s := s.modSpdm l fun p => { p with session := false, keyex := false, lock := false }
  if lock then s.tdispError l else s

/-- A session has expired: no authenticated message for twice the heartbeat period, or the sequence numbers of its key used up. A
period of 0 means no heartbeat, and a key has 2^64 - 1 sequence numbers (log entry 95). -/
def Spdm.lapsed (p : Spdm) (tick : Nat) : Bool :=
  p.session && ((p.period != 0 && decide (p.last + 2 * p.period ≤ tick)) || decide (2 ^ 64 - 1 ≤ p.seq))

/-- An expired session ends before anything else happens in it. -/
def State.expired (s : State) (l : Nat) : State := if (s.ld l).spdm.lapsed s.tick then s.expire l else s

/-- An authenticated message of the session, where `auth` says that it is one: it renews the session and takes a sequence number. -/
def State.message (s : State) (l : Nat) (auth : Bool) (f : State → State) : State :=
  let s := s.expired l
  if (s.ld l).spdm.session && auth then f (s.modSpdm l fun p => { p with last := s.tick, seq := p.seq + 1 }) else s.say false 0

/-- A request that may stand inside the session or outside: the latch's `ok2` says that it comes as an authenticated message of it. -/
def State.inOrOut (s : State) (l : Nat) (f : State → State) : State := if s.req.ok2 then s.message l true f else f s

/-- A request that `ok` says is an authenticated message of the session. -/
def State.inSession (s : State) (l : Nat) (f : State → State) : State := s.message l s.req.ok f

def execGetVersion (s : State) : Out :=
  .next (s.answerSpdm fun s =>
    (s.modSpdm s.req.ld fun p => { p with version := true, caps := false, algs := false, keyex := false }).say true 0x12)

def execGetCapabilities (s : State) : Out :=
  .next (s.answerSpdm fun s => if (s.ld s.req.ld).spdm.version then (s.modSpdm s.req.ld fun p => { p with caps := true }).say true 0 else s.say false 0)

/-- NEGOTIATE_ALGORITHMS: `ok` says that the requester offers SM3_256, SM2_ECC_SM2_P256 and AEAD_SM4_GCM. -/
def execNegotiateAlgorithms (s : State) : Out :=
  .next (s.answerSpdm fun s => if (s.ld s.req.ld).spdm.caps && s.req.ok then (s.modSpdm s.req.ld fun p => { p with algs := true }).say true 0 else s.say false 0)

def execGetDigests (s : State) : Out := .next (s.attest s.req.ld fun s => s.inOrOut s.req.ld State.sayBytes)
def execGetCertificate (s : State) : Out := .next (s.attest s.req.ld fun s => s.inOrOut s.req.ld State.sayBytes)

def execChallenge (s : State) : Out := .next (s.attest s.req.ld fun s => s.inOrOut s.req.ld State.sayBytes)

/-- A logical device's descriptor and job-table entries, as the bytes that measurement 6 covers. -/
def State.measured6 (s : State) (l : Nat) : Nat :=
  let d := s.ld l
  let own := s.jobs.filter fun e => e.2.part == l
  let fields := [b2n d.valid, d.tstate, d.hstate, d.port, b2n d.rstpol, b2n d.referr
    , (d.park.map fun w => w.2.length).sum, d.clmask, d.drbase0, d.drlim0, d.drbase1, d.drlim1, d.hmlim, d.floor, d.cquota]
    ++ own.flatMap fun e => [e.1, b2n e.2.valid, e.2.jobid, e.2.troot, e.2.red.1, e.2.red.2] ++ e.2.windows.flatMap fun w => [w.1, w.2]
  fields.foldr (fun x acc => x % 2 ^ 192 + 2 ^ 192 * acc) 0

/-- A measurement, where it has been recorded. The sixth covers what stands in the module's tables, which no step of the bring-up records:
a module in recovery has none (R361, R389). -/
def State.measurement (s : State) (l ix : Nat) : Option (BitVec 256) :=
  if ix = 6 then if s.boot.recovery then none else some (Config.digest 6 (s.measured6 l))
  else if 1 ≤ ix ∧ ix ≤ 5 ∧ thas s.meas ix = true then some (tget 0 s.meas ix)
  else none

def execGetMeasurements (s : State) : Out :=
  .next (s.attest s.req.ld fun s => s.inOrOut s.req.ld fun s => match s.measurement s.req.ld s.req.addr with
    | some m => { s with resp := { ok := true, val := s.req.addr, bytes := leBytes 32 m.toNat } }
    | none => s.say false 0)

/-- KEY_EXCHANGE: a device holds one session at a time (log entry 95). -/
def execKeyExchange (s : State) : Out :=
  .next ((s.expired s.req.ld).attest s.req.ld fun s =>
    if (s.ld s.req.ld).spdm.session then s.say false 0
    else (s.modSpdm s.req.ld fun p => { p with keyex := true, period := s.req.len }).sayBytes)

/-- FINISH: `ok` says that the requester's proof is good, `ok2` that it presented a certificate, which `val` identifies. -/
def execFinish (s : State) : Out :=
  let l := s.req.ld
  .next (s.answerSpdm fun s => if (s.ld l).spdm.keyex && s.req.ok then
      ((s.modSpdm l fun p => { p with keyex := false, session := true, last := s.tick, lock := false, num := p.num + 1, seq := 0 }).modLd l fun d =>
        if !s.req.ok2 then d
        else { d with shown := some s.req.val.toNat, cert := if d.hstate = 1 then d.cert else some s.req.val.toNat }).sayBytes
    else s.say false 0)

def execEndSession (s : State) : Out := .next (s.inSession s.req.ld fun s => (s.expire s.req.ld).say true 0)
def execHeartbeat (s : State) : Out := .next (s.inSession s.req.ld fun s => s.say true 0)
/-- KEY_UPDATE: the new key's sequence numbers begin at 0. -/
def execKeyUpdate (s : State) : Out :=
  .next (s.inSession s.req.ld fun s => (s.modSpdm s.req.ld fun p => { p with seq := 0 }).say true 0)

/-- SESSION_EXPIRY: the heartbeat has lapsed, or a key's sequence numbers are exhausted. -/
def execSessionExpiry (s : State) : Out :=
  event "SESSION_EXPIRY" ((s.ld s.req.ld).spdm.lapsed s.tick) (s.expire s.req.ld)

/-- Every session that has lapsed expires. -/
def State.expireAll (s : State) : State := (List.range 16).foldl State.expired s

/-! ## TDISP (R363) -/

def execLockInterfaceRequest (s : State) : Out :=
  let l := s.req.ld
  .next (s.inSession l fun s =>
    if (s.ld l).valid && (s.ld l).tstate == 0 then
      ((s.modLd l fun d => { d with tstate := 1, locked := true }).modSpdm l fun p => { p with lock := true }).say true 0
    else s.say false 0)

/-- The report: CLMASK, the DRAM ranges, HMLIM, the ranges of BAR0 and BAR2, and the digest of measurement 6. -/
def State.report (s : State) (l : Nat) : List Byte :=
  let d := s.ld l
  leBytes 24 d.clmask ++ leBytes 8 d.drbase0 ++ leBytes 8 d.drlim0 ++ leBytes 8 d.drbase1 ++ leBytes 8 d.drlim1 ++ leBytes 8 d.hmlim
    ++ leBytes 8 (Config.barBase l 0) ++ leBytes 8 (Config.barBase l 0 + 2 ^ 16) ++ leBytes 8 (Config.barBase l 2)
    ++ leBytes 8 (Config.barBase l 2 + 2 ^ 24) ++ leBytes 32 (Config.digest 6 (s.measured6 l)).toNat

def execGetDeviceInterfaceReport (s : State) : Out :=
  let l := s.req.ld
  .next (s.inSession l fun s =>
    if (s.ld l).tstate == 1 || (s.ld l).tstate == 2 then { s with resp := { ok := true, val := 0, bytes := s.report l } } else s.say false 0)

def execGetDeviceInterfaceState (s : State) : Out :=
  .next (s.inSession s.req.ld fun s => s.say true (s.ld s.req.ld).tstate)

/-- START_INTERFACE_REQUEST: a frozen partition resumes, under a session newer than any before its freeze (R359). -/
def execStartInterfaceRequest (s : State) : Out :=
  let l := s.req.ld
  .next (s.inSession l fun s =>
    if (s.ld l).tstate == 1 then
      let t := s.modLd l fun d => { d with tstate := 2 }
      (if (s.ld l).fsess < (s.ld l).spdm.num then t.resumePart l else t).say true 0
    else s.say false 0)

def execStopInterfaceRequest (s : State) : Out :=
  let l := s.req.ld
  .next (s.inSession l fun s => ((s.tdisp l 0).modSpdm l fun p => { p with lock := false }).say true 0)

/-- LOCKED_REGISTER_ERROR: an uncorrectable error in a register that the lock covers. -/
def execLockedRegisterError (s : State) : Out :=
  event "LOCKED_REGISTER_ERROR" ((s.ld s.req.ld).tstate == 1 || (s.ld s.req.ld).tstate == 2) (s.tdispError s.req.ld)

end Sys2Proof.Machine
end

