-- ==== Sys2Proof/Machine/Reliab.lean ====
section
/-! DEFINITION. Reliability: errors that storage and transfers meet, the error logs, replays, retirement, die links and
isolation (R364 to R375). -/

namespace Sys2Proof.Machine

/-! ## HEALTH and retirement (R371, R372, R380) -/

/-- 24 hours in ticks of 10 ns, one second, and one millisecond. -/
def dayTicks : Nat := 8640000000000
def secondTicks : Nat := 100000000
def milliTicks : Nat := 100000

def State.modHealth (s : State) (f : Health → Health) : State := { s with health := f s.health }

/-- The management path is told of a retirement. -/
def State.report_ (s : State) : State := { s with told := s.told + 1 }

/-- STATE rises and never falls; every Gaffer learns of a requested replacement. -/
def State.worsen (s : State) (n : Nat) : State :=
  if n ≤ s.health.st then s
  else
    let s := s.modHealth fun h => { h with st := n }
    if n = 2 then (List.range 192).foldl (fun s c => s.lehrMsg c 5 0) s else s

/-- A message to the Gaffers of a cluster's die. -/
def State.dieMsg (s : State) (cl code arg : Nat) : State :=
  (List.range 12).foldl (fun s i => s.lehrMsg (cl / 12 * 12 + i) code arg) s

/-- A retirement that is no core's and no cluster's is told to the Gaffers of its die: which of the codes 3 and 4 and what bits 15 to 8
hold are a free value (R371, R380; log entry 38). -/
def State.retireMsg (s : State) (cl : Nat) : State :=
  let v := (Config.freeWord s.draws).toNat
  (s.report_.dieMsg cl (3 + v % 2) (v / 2 % 256)).draw

/-- Clusters retired. -/
def State.retiredClusters (s : State) : Nat := (s.clusters.filter fun c => c.2.retired).length

/-- A cluster out of service with every core of it. -/
def Cluster.retireWhole (c : Cluster) : Cluster :=
  (List.range 8).foldl (fun c k => c.setCore k { c.core k with retired := true }) { c with retired := true }

/-- A cluster binds no new team; `dead` says that its cores are lost with it. -/
def State.retireCluster (s : State) (cl : Nat) (dead : Bool) : State :=
  if (s.cl cl).retired then s
  else
    let n := ((List.range 8).filter fun k => !((s.cl cl).core k).retired).length
    let s := s.modCl cl fun c => if dead then c.retireWhole else { c with retired := true }
    let s := s.modHealth fun h => { h with clusters := h.clusters - 1, cores := if dead then h.cores - n else h.cores }
    let s := ((s.worsen 1).report_).dieMsg cl 4 0
    if 12 < s.retiredClusters then s.worsen 2 else s

/-- A core takes no new continuation, and those it holds are pre-empted; the last one retires its cluster. -/
def State.retireCore (s : State) (c : CoreId) : State :=
  if (s.core c).retired then s
  else
    let s := s.modCore c fun o => { o with retired := true }
    let s := s.modHealth fun h => { h with cores := h.cores - 1 }
    let s := ((s.worsen 1).report_).dieMsg c.cl 3 c.core
    let s := (List.range 4).foldl (fun s k => s.askPreempt ⟨c.cl, c.core, k⟩ .software) s
    if (List.range 8).all fun k => ((s.cl c.cl).core k).retired then s.retireCluster c.cl false else s

/-- A DRAM channel of a die is retired (R366 step 4). -/
def State.retireChannel (s : State) (key : Nat) : State :=
  if (tget ({ } : Chan) s.chans key).retired then s
  else
    let s : State := { s with chans := tmod { } s.chans key fun c => { c with retired := true } }
    let s := ((s.modHealth fun h => { h with channels := h.channels + 1 }).worsen 1).retireMsg (key / 64 * 12)
    if 16 < s.health.channels then s.worsen 2 else s

/-! ## Storage errors (R364, R365, R369) -/

/-- A record of the array log of a die about a cluster's storage: its syndrome is a free value. -/
def State.arrayLog (s : State) (die kind unit addr : Nat) : State :=
  (s.logAdd die false (logRec kind unit 0 1 addr (Config.syndrome s.draws).toNat)).draw

/-- A vault word that cannot be corrected counts against its granule (R371). -/
def State.granuleError (s : State) (cl off : Nat) : State :=
  let g := off % 2 ^ 26 / 2 ^ 16
  let errs := ((s.cl cl).vaultErrs.filter fun e => decide (s.tick < e.2 + dayTicks)) ++ [(g, s.tick)]
  let s := s.modCl cl fun c => { c with vaultErrs := errs }
  if 2 ≤ (errs.filter fun e => e.1 == g).length ∧ ¬ (s.cl cl).granules.contains g then
    ((s.modCl cl fun c => { c with granules := c.granules ++ [g] }).worsen 1).retireMsg cl
  else s

/-- An L-mem word that cannot be corrected counts against its core (R371). -/
def State.lmemError (s : State) (c : CoreId) : State :=
  let n := (s.core c).lmErrs + 1
  let s := s.modCore c fun o => { o with lmErrs := n }
  if 2 ≤ n then s.retireCore c else s


/-- A flit of a die link fails its CRC and is sent again: the bus log of the lower die takes a record (R364, R368; log entry 44). -/
def State.linkRetry (s : State) (a b : Nat) : State := s.logAdd (Nat.min a b) true (logRec 0x14 (Nat.max a b) 0 1 0 0)

/-- The event counter of a logged error of a cluster (R382). -/
def errCode (fatal : Bool) : Nat := if fatal then 0x106 else 0x105

/-- The spare rows of a die's stack that are in use or that the fuses retire (R365, R385). -/
def State.usedSpares (s : State) (d : Nat) : Nat := (s.remaps.filter fun r => r / 2 ^ 32 == d).length + Config.fusedSpares d

/-- A row of a die's stack: its corrected errors of the last day count, and the eighth remaps it to a spare row, with its contents; the
last spare row asks for a replacement (R365, R372; log entry 47). -/
def State.rowError (s : State) (pa : Nat) : State :=
  let row : Nat := dieOf pa * 2 ^ 32 + Config.rowOf pa % 2 ^ 32
  let errs : List (Nat × Nat) := (s.rowErrs.filter fun e => decide (s.tick < e.2 + dayTicks)) ++ [(row, s.tick)]
  let used := s.usedSpares (dieOf pa)
  if 8 ≤ (errs.filter fun e => e.1 == row).length ∧ used < Config.spareRows (dieOf pa) then
    let s : State := { s with rowErrs := errs.filter fun e => e.1 != row, remaps := s.remaps ++ [row] }
    if used + 1 = Config.spareRows (dieOf pa) then s.worsen 2 else s
  else { s with rowErrs := errs }

/-- An error at a place. A corrected one is written back and logged; an uncorrectable one marks the protected word, whose contents are a free
value from then on (log entry 6). -/
def State.struck (s : State) (w : Struck) (fatal : Bool) : State :=
  let kind := if fatal then 0x02 else 0x01
  match w with
  | .lmem c w =>
    let s := (s.arrayLog (c.cl / 12) kind (coreUnit c) (w * 8)).tallyCl c.cl (errCode fatal) 1
    if fatal then ((s.modCore c fun o => { o with lmem := wrMem o.lmem (w * 8) 8 (Config.poisonData s.draws),
                                                  lbad := (o.lbad ++ [w]).eraseDups }).lmemError c).draw else s
  | .vault w =>
    let cl := vaultCl (w * 8)
    let s := (s.arrayLog (cl / 12) kind (cl % 12 * 16) (w * 8)).tallyCl cl (errCode fatal) 1
    if fatal then (({ s with vault := wrMem s.vault (w * 8) 8 (Config.poisonData s.draws), vbad := (s.vbad ++ [w]).eraseDups } : State).granuleError
      cl (w * 8)).draw else s
  | .dram w =>
    let s := s.arrayLog (dieOf (w * 32)) kind (chanKey (w * 32) % 64) (w * 32)
    if fatal then ({ s with dram := wrMem s.dram (w * 32) 32 (Config.poisonData s.draws), dbad := (s.dbad ++ [w]).eraseDups } : State).draw
    else s.rowError (w * 32)
  | .code cl w =>
    let s := (s.arrayLog (cl / 12) kind (cl % 12 * 16) (w * 8)).tallyCl cl (errCode fatal) 1
    if fatal then (s.modCl cl fun c => { c with code := wrMem c.code (w * 8) 8 (Config.poisonData s.draws)
                                                codeBad := (c.codeBad ++ [w]).eraseDups }).draw else s
  | .tile c t key =>
    let s := (s.arrayLog (c.cl / 12) kind (coreUnit c) key).tallyCl c.cl (errCode fatal) 1
    if fatal then s.modMx c fun m => m.modTile t fun v => { v with img := { v.img with bad := (v.img.bad ++ [key]).eraseDups } } else s
  | .plane c i =>
    let s := (s.arrayLog (c.cl / 12) kind (coreUnit c) 0).tallyCl c.cl (errCode fatal) 1
    if fatal then s.modMx c fun m => { m with planes := m.planes.map fun e => if e.1 = i then (e.1, e.2.map fun l => { l with failed := true }) else e } else s
  | .path c id els =>
    if fatal then s.modMx c fun m => m.modCmd id fun k => { k with
      err := if (k.kind.transfer.isSome || k.kind.isDrain) && k.err == 0 && !k.running then 0x02 else k.err
      bad := if k.kind.isDrain then k.bad ++ els else k.bad } else s
  | .marver cl port =>
    if fatal then s.modMarver cl port fun m => { m with live := match m.live with
      | [] => []
      | e :: t => (if e.err = 0 then { e with err := 0x02 } else e) :: t } else s
  | .link a b => if fatal then s else s.linkRetry a b

/-- A strike of a kind. -/
def State.strike (s : State) (w : Struck) (k : ErrKind) : State :=
  match k with
  | .none => s
  | .corrected => s.struck w false
  | .uncorrectable => s.struck w true

/-- PATROL_SCRUB: the scrubber reads the DRAM codeword (`ok`) or the vault word that the latch's address names, and finds what the
latch says. A channel that is diagnosing holds it (R366). -/
def execPatrolScrub (s : State) : Out :=
  let r := s.req
  event "PATROL_SCRUB" (if r.ok then decide (r.addr < dramTop) && s.chanFree r.addr 1 else decide (r.addr < 2 ^ 34 ∧ r.addr / 2 ^ 26 % 16 < 12))
    (s.strike (if r.ok then .dram (r.addr / 32) else .vault (r.addr / 8)) r.err)

/-! ## The vertical bus (R366) -/

def State.chan (s : State) (key : Nat) : Chan := tget { } s.chans key
def State.modChan (s : State) (key : Nat) (f : Chan → Chan) : State := { s with chans := tmod { } s.chans key f }

/-- A record of the bus log about a transfer at a physical address: its syndrome is a free value. -/
def State.busLog (s : State) (pa kind lane count : Nat) : State :=
  (s.logAdd (dieOf pa) true (logRec kind (chanKey pa % 64) lane count pa (Config.syndrome s.draws).toNat)).draw

/-- A channel whose group has come to its next transfer, or whose transfer has failed its last retry, diagnoses the group. -/
def Chan.diagnose (c : Chan) (pa group tick : Nat) : Chan :=
  { c with addr := pa, diag := some group, diagAt := tick, due := c.due.filter fun g => g != group }

/-- A retry that passes: its record, and the sixteenth of a group in one second makes a diagnosis due. -/
def State.retryPassed (s : State) (pa group n : Nat) : State :=
  let mine := ((s.chan (chanKey pa)).passed.filter fun e => decide (s.tick < e.2 + secondTicks)) ++ [(group, s.tick)]
  let often := decide (16 ≤ (mine.filter fun e => e.1 == group).length)
  (s.busLog pa 0x11 0 n).modChan (chanKey pa) fun c => { c with
    retries := 0, passed := if often then mine.filter fun e => e.1 != group else mine, due := if often then c.due ++ [group] else c.due }

/-- BUS_RETRY: one retry of a channel's transfer, whose physical address is in the request latch; the third that fails brings a
diagnosis. Where a diagnosis of the group is due, this is the group's next transfer, which begins it (log entry 101). The latch's `ok`
says that the transfer serves a request of the cluster `cl`. -/
def execBusRetry (die ch group : Nat) (pass : Bool) (s : State) : Out :=
  let pa := s.req.addr
  let c := s.chan (chanKey pa)
  let n := c.retries + 1
  let s' := if s.req.ok && decide (s.req.cl < 192) then s.tallyCl s.req.cl 0x107 1 else s
  event "BUS_RETRY" (decide (pa < dramTop ∧ group < 8 ∧ chanKey pa = die * 64 + ch) && c.diag.isNone && !c.retired && (c.retries == 0 || c.addr == pa))
    (if c.due.contains group then s.modChan (chanKey pa) fun c => c.diagnose pa group s.tick
     else if pass then s'.retryPassed pa group n
     else s'.modChan (chanKey pa) fun c => if 3 ≤ n then ({ c with retries := n } : Chan).diagnose pa group s.tick else { c with retries := n, addr := pa })

/-- Swaps failing lanes of a channel to free spare lanes, each with its record; answers whether there were enough. -/
def State.swapLanes (s : State) (key pa count : Nat) : List Nat → State × Bool
  | [] => (s, true)
  | l :: t =>
    let n := (s.chan key).swaps.length
    if 8 ≤ n then (s, false)
    else ((s.busLog pa 0x12 (l * 16 + n) count).modChan key fun c => { c with swaps := c.swaps ++ [(l, n)] }).swapLanes key pa count t

/-- BUS_DIAGNOSIS_COMPLETE: after 2 µs the group's failing lanes are swapped and the transfer is issued once more; one that fails, or
lanes without a spare, retire the channel. -/
def execBusDiagnosisComplete (die ch : Nat) (lanes : List Nat) (pass : Bool) (s : State) : Out :=
  let key := die * 64 + ch
  match (s.chan key).diag with
  | none => .refused (.notEnabled "BUS_DIAGNOSIS_COMPLETE")
  | some g =>
    let c := s.chan key
    let r := s.swapLanes key c.addr c.retries lanes
    let s' := r.1.modChan key fun c => { c with diag := none, retries := 0 }
    let s' := if lanes.isEmpty then s' else s'.retireMsg (die * 12)
    event "BUS_DIAGNOSIS_COMPLETE" (lanes.all (fun l => l / 16 == g) && lanes.Nodup && decide (c.diagAt + 200 ≤ s.tick))
      (if r.2 && pass then s' else (s'.busLog c.addr 0x13 0 c.retries).retireChannel key)

/-! ## Reheat replay (R370) -/

/-- A replay of a core in the current millisecond, merged in one record. -/
def State.replayLog (s : State) (c : CoreId) : State :=
  let key := 2 * (c.cl / 12)
  let l : ErrLog := tget { } s.logs key
  let same (r : LogRec) : Bool := r.kind == 0x03 && r.unit == coreUnit c && r.tick / milliTicks == s.tick / milliTicks
  if l.recs.any same then
    { s with logs := tput s.logs key { l with recs := l.recs.map fun r => if same r then { r with count := Nat.min 255 (r.count + 1) } else r } }
  else s.logAdd (c.cl / 12) false (logRec 0x03 (coreUnit c) 0 1 0 0)

/-- A datapath error after its replay: two in 24 hours retire the core. -/
def State.datapathError (s : State) (c : CoreId) : State :=
  let errs := ((s.core c).dpErrs.filter fun t => decide (s.tick < t + dayTicks)) ++ [s.tick]
  let s := s.modCore c fun o => { o with dpErrs := errs }
  let s := s.arrayLog (c.cl / 12) 0x05 (coreUnit c) 0
  if 2 ≤ errs.length then s.retireCore c else s

/-- The command that the matrix datapath works on: a pass under way, or else the oldest drain that has still to read its tile. -/
def Mx.atWork (m : Mx) : Option Cmd :=
  match m.mmaNow with
  | some k => if k.running then some k else m.cmds.find? Cmd.toDrain
  | none => m.cmds.find? Cmd.toDrain

/-- A matrix result is lost: an MMA ends with code 0x07, and a drain's elements are not to be relied on. -/
def State.matrixLost (s : State) (c : CoreId) : State :=
  match (s.core c).mx.atWork with
  | none => s
  | some k => match k.kind with
    | .mma _ _ _ _ _ _ _ _ _ _ => s.failMma c k 0x07
    | _ => s.modMx c fun m => m.modCmd k.id fun k => { k with err := 0x07 }

/-- A register is poisoned, unless a newer producer has it (R116, R203). -/
def Regs.poison (r : Regs) : RegRef → Regs
  | .s n => if n ≠ 0 ∧ (r.sc n).full = true then r.setS n { r.sc n with mark := ⟨0x0C, 0⟩ } else r
  | .a n => if (r.ac n).full = true then r.setA n { r.ac n with mark := ⟨0x0C, 0⟩ } else r
  | .v n => if (r.vc n).full = true then r.setV n { r.vc n with mark := ⟨0x0C, 0⟩ } else r
  | .p _ => r

/-- A vector result is lost: the register that the last vector-unit result was for is poisoned, or the fill that still brings the
result with serial `prod` is marked, so that it arrives poisoned (R370; log entry 45). -/
def Ctx.vectorLost (c : Ctx) (r : RegRef) (prod : Nat) : Ctx :=
  { c with
    regs := c.regs.poison r
    fl := { c.fl with fills := c.fl.fills.map fun f => if f.reg = r ∧ f.prod = prod ∧ prod ≠ 0 then { f with mark := ⟨0x0C, 0⟩ } else f }
    vres := none }

def State.vectorLost (s : State) (x : CtxId) (r : RegRef) (prod : Nat) : State := s.modCtx x fun c => c.vectorLost r prod

/-- REHEAT_REPLAY: the context is that of the matrix command, or the running one with the vector result at hand. -/
def execReheatReplay (c : CoreId) (matrix again : Bool) (s : State) : Out :=
  let cx := if matrix then s.mxCtx c else (s.core c).run
  match cx with
  | none => .refused (.notEnabled "REHEAT_REPLAY")
  | some k =>
    let x : CtxId := ⟨c.cl, c.core, k⟩
    let s' := (s.replayLog c).tally x 0x007 1
    if matrix then event "REHEAT_REPLAY" (s.core c).mx.atWork.isSome (if again then (s'.matrixLost c).datapathError c else s')
    else match (s.ctx x).vres with
      | none => .refused (.notEnabled "REHEAT_REPLAY")
      | some (r, n) => .next (if again then (s'.vectorLost x r n).datapathError c else s')

/-! ## Die links and isolation (R374, R375) -/

/-- Two dies that a die link joins: their rows or their columns differ by one. -/
def adjacentDies (a b : Nat) : Bool :=
  decide (a < 16 ∧ b < 16)
    && ((a / 4 == b / 4 && (a % 4 + 1 == b % 4 || b % 4 + 1 == a % 4)) || (a % 4 == b % 4 && (a / 4 + 1 == b / 4 || b / 4 + 1 == a / 4)))

/-- A die link by its two dies in rising order. -/
def linkOf (a b : Nat) : Nat × Nat := (Nat.min a b, Nat.max a b)
def State.linkUp (s : State) (a b : Nat) : Bool := adjacentDies a b && !s.linksDown.contains (linkOf a b)

/-- The dies that working links join to those of a list, `n` hops on. -/
def State.reach (s : State) : Nat → List Nat → List Nat
  | 0, l => l
  | n + 1, l => s.reach n ((List.range 16).filter fun d => l.contains d || l.any fun e => s.linkUp d e)

/-- Whether a die is joined to both I/O dies. -/
def State.joined (s : State) (d : Nat) : Bool :=
  let r := s.reach 16 [d]
  r.contains (Config.ioDie 0 % 16) && r.contains (Config.ioDie 1 % 16)

/-- The teams of a cluster are lost: their launches will end incomplete, their messages are counted lost and their contexts stop. -/
def State.loseCluster (s : State) (cl : Nat) : State :=
  let c := s.cl cl
  let ls := c.teams.filterMap fun t => t.2.map Team.launch
  let live := ((List.range 32).map fun k => (⟨cl, k / 4, k % 4⟩ : CtxId)).filter fun x => (s.ctx x).pr.st != .idle
  let tags := live.map (fun x => (s.ctx x).ct.tag)
    ++ (c.saved.map fun e => (e.2.map fun i => i.ctx.ct.tag).getD none)
    ++ c.teams.flatMap fun t => match t.2 with | some tm => tm.pending.map SpawnReq.tag | none => []
  let s := tags.foldl State.loseMsg s
  let s := s.modCl cl fun c => { c with teams := c.teams.map fun t => (t.1, t.2.map fun tm => { tm with pending := [] }) }
  let s := ls.foldl (fun s l => s.modLaunch l fun v => { v with incomplete := true }) s
  live.foldl (fun s x => s.askPreempt x .isolation) s

/-- A die is isolated. -/
def State.isolateDie (s : State) (d : Nat) : State :=
  if s.isolated d then s
  else
    let s := s.modHealth fun h => { h with isodies := h.isodies + 2 ^ d }
    let s := (List.range 12).foldl (fun s i => (s.loseCluster (d * 12 + i)).retireCluster (d * 12 + i) true) s
    (s.worsen 2).report_

/-- DIE_LINK_DOWN: the dies that no working path joins to both I/O dies are isolated. -/
def execDieLinkDown (a b : Nat) (s : State) : Out :=
  let s' : State := { s with linksDown := s.linksDown ++ [linkOf a b], rerouting := true, rerouteTick := s.tick }
  let s' := s'.logAdd (Nat.min a b) true (logRec 0x15 (Nat.max a b) 0 3 0 0)
  event "DIE_LINK_DOWN" (s.linkUp a b)
    (((List.range 16).filter fun d => !s'.joined d).foldl State.isolateDie s')

/-- DIE_LINK_REROUTE: held traffic goes on, within 10 µs. -/
def execDieLinkReroute (s : State) : Out := event "DIE_LINK_REROUTE" s.rerouting { s with rerouting := false }

/-- CLUSTER_FAILURE: the cluster is retired and its teams are treated as on an isolated die. -/
def execClusterFailure (cl : Nat) (s : State) : Out :=
  event "CLUSTER_FAILURE" (decide (cl < 192) && !(s.cl cl).failed)
    (((s.loseCluster cl).retireCluster cl true).modCl cl fun c => { c with failed := true })

end Sys2Proof.Machine
end

