-- ==== Sys2Proof/Machine/Boot.lean ====
section
/-! DEFINITION. Bring-up: its seven steps, recovery, and a module reset (R384 to R390). -/

namespace Sys2Proof.Machine

/-! ## Registers of the module (R372, R388, R394) -/

/-- HEALTH as it reads. -/
def State.healthReg (s : State) : Nat :=
  let h := s.health
  h.cores * 2 ^ 48 + h.clusters % 2 ^ 8 * 2 ^ 40 + h.channels % 2 ^ 8 * 2 ^ 32 + h.isodies * 2 ^ 16 + h.st

/-- BOOTSTAT as it reads. -/
def State.bootstat (s : State) : Nat :=
  let b := s.boot
  b.step * 2 ^ 8 + b2n b.recovery * 4 + b2n b.linkerr * 2 + b2n b.done

/-! ## The steps (R384 to R387) -/

def State.modBoot (s : State) (f : Boot → Boot) : State := { s with boot := f s.boot }

/-- The image that a step loads and verifies, by measurement: a step's object, and none for steps that verify nothing. -/
def stepImage (n : Nat) : Option Nat :=
  match n with
  | 1 => some 2
  | 2 => some 5
  | 3 => some 3
  | 5 => some 4
  | _ => none

/-- A measurement is recorded: the digest of what the step measured is a free value. -/
def State.measure (s : State) (ix : Nat) : State := { s.draw with meas := tput s.meas ix (Config.digest ix s.draws) }

/-- A stack has no spare row left after remaps at run time, which the fuses keep (R372, R385). -/
def State.sparesGone (s : State) : Bool :=
  s.remaps.any fun r => decide (Config.spareRows (r / 2 ^ 32) ≤ s.usedSpares (r / 2 ^ 32))

/-- Factory retirements: they count in HEALTH and leave its STATE at 0. Remapped rows are not forgotten. -/
def State.fuses (s : State) : State :=
  let cores := (List.range 1536).filter Config.fusedCore
  let cls := (List.range 192).filter fun c => Config.fusedCluster c || (List.range 8).all fun k => Config.fusedCore (c * 8 + k)
  let chs := (List.range 1024).filter Config.fusedChannel
  let s := cores.foldl (fun s k => s.modCore ⟨k / 8, k % 8⟩ fun o => { o with retired := true }) s
  let s := cls.foldl (fun s c => s.modCl c Cluster.retireWhole) s
  let s := chs.foldl (fun s k => s.modChan k fun c => { c with retired := true }) s
  let out := ((List.range 1536).filter fun k => Config.fusedCore k || Config.fusedCluster (k / 8)).length
  s.modHealth fun h => { h with
    cores := 1536 - out, clusters := 192 - cls.length, channels := chs.length, st := if s.sparesGone then 2 else h.st }

/-- Every cluster on the low rail with LFORCE set, or LFORCE cleared again. -/
def State.allLforce (s : State) (b : Bool) : State :=
  (List.range 192).foldl (fun s c => s.modCl c fun k => { k with lforce := b }) s

/-- Training: a channel's failing lanes are swapped; more than eight retire it, and more than sixteen channels isolate a die. -/
def State.train (s : State) (fails : List (Nat × Nat)) : State :=
  let s := (fails.filter fun f => decide (f.1 < 1024)).foldl (fun s f =>
    if 8 < f.2 then s.retireChannel f.1
    else s.modChan f.1 fun c => { c with swaps := (List.range f.2).map fun i => ((Config.freeWord (s.draws + f.1 * 8 + i)).toNat % 128, i) }) s
  (List.range 16).foldl (fun s d =>
    if 16 < ((List.range 64).filter fun k => (s.chan (d * 64 + k)).retired).length then s.isolateDie d else s) s

/-- A core and a cluster at their reset values, but for their retirement. -/
def Core.cleared (o : Core) : Core := { retired := o.retired }
def Cluster.cleared (c : Cluster) : Cluster :=
  { retired := c.retired, failed := c.failed, lforce := c.lforce, cores := c.cores.map fun o => (o.1, o.2.cleared) }

/-- After training, step 4 clears memory and sets the cluster control space to its reset values. -/
def State.clear (s : State) : State :=
  { s with dram := [], dbad := [], vault := [], vbad := [], clusters := s.clusters.map fun e => (e.1, e.2.cleared) }

/-- The start of a cluster's system reserve (R293). -/
def reserveAt (cl : Nat) : Nat := vaultBase cl + 0x3C00000

/-- Step 5 copies the Gaffer's image to the start of every reserve (R384, R387). -/
def State.loadGaffers (s : State) : State :=
  (List.range 192).foldl (fun s c => { s with vault := wrBytes s.vault (reserveAt c) (Config.gafferImage.take (2 ^ 20 - 64)) }) s

/-- The hand-off block of a cluster: it follows the Gaffer's image in the first 1 MiB of the reserve (R293, R387). -/
def handoffAt (cl : Nat) : Nat := reserveAt cl + Nat.min (roundUp Config.gafferImage.length 64) (2 ^ 20 - 64)
def State.handoff (s : State) (cl : Nat) : State :=
  let m := (tget 0 s.meas 4).toNat
  s.wrVault (handoffAt cl) 64
    (s.healthReg + s.bootstat * 2 ^ 64 + s.tick % 2 ^ 64 * 2 ^ 128 + m * 2 ^ 192 + Config.dramilv.toNat * 2 ^ 448)

/-- A Gaffer's PC and registers at release: it starts at the start of its reserve (R387). -/
def gafferStart (cl : Nat) : GStart :=
  { pc := 2 ^ 34 + reserveAt cl, x10 := cl / 12 * 16 + cl % 12, x11 := 2 ^ 34 + handoffAt cl }

/-- A cluster as its Gaffer is released: no job slot is valid, both its queues are disabled, and SMASK and RAIL hold their reset values. -/
def Cluster.handedOver (c : Cluster) (g : GStart) : Cluster :=
  { c with
    gaffer := some g, gk := 4, lk := 4, greq := false, lforce := false, switching := false, step := 0, trqSize := 0, fqSize := 0
    jobs := c.jobs.map fun j => (j.1, { j.2 with valid := false }) }

/-- Step 7 releases every Gaffer. -/
def State.release (s : State) : State := (List.range 192).foldl (fun s c => s.modCl c fun k => k.handedOver (gafferStart c)) s

/-- The boot ROM is measured before step 1 loads anything. -/
def State.measureRom (s : State) : State := if thas s.meas 1 then s else s.measure 1

/-- Step 7: the hand-off blocks are written and every Gaffer released before DONE is set; binds that waited are made (R387, R390). -/
def State.handOver (s : State) : State :=
  let s := ((List.range 192).foldl State.handoff s).release
  let s := s.boot.binds.foldl (fun s b => s.bind b.1 b.2.1 b.2.2 none) s
  s.modBoot fun b => { b with binds := [], done := true }

/-- One step of bring-up that passes. -/
def State.bootStep (s : State) (n : Nat) (fails : List (Nat × Nat)) : State :=
  let s := match n with
    | 1 => (s.measureRom).measure 2
    | 2 => (s.measure 5).fuses
    | 3 => (s.measure 3).allLforce true
    | 4 => (s.train fails).clear
    | 5 => { (s.measure 4).loadGaffers with aliasKey := true }
    | 7 => s.handOver
    | _ => s
  s.modBoot fun b => { b with step := n }

/-- The ports that train in step 6; one that does not is left down and the management path told. -/
def State.trainPorts (s : State) (up : List Nat) : State :=
  let ps := up.filter fun p => decide (p < 2)
  if ps.eraseDups.length = 2 then { s with ports := ps.eraseDups }
  else { s with ports := ps.eraseDups, told := s.told + 1, boot := { s.boot with linkerr := true } }

/-- The next step of bring-up, with what it finds: `ok` that what it verifies passes, `fails` the failing lanes of channels, `up`
the ports that train. A verification failure leads to recovery. -/
def State.bring (s : State) (ok : Bool) (fails : List (Nat × Nat)) (up : List Nat) : State :=
  let n := s.boot.step + 1
  if s.boot.done || s.boot.recovery then s
  else if (stepImage n).isSome && !ok then (if n = 1 then s.measureRom else s).modBoot fun b => { b with recovery := true, tried := false }
  else if n = 6 then (s.trainPorts up).bootStep 6 fails
  else s.bootStep n fails

/-- The module's own next step: what it finds are free values. -/
def State.bringNext (s : State) : State :=
  s.draw.bring (Config.bootPasses (s.boot.step + 1) s.draws) (Config.laneFails s.draws) (Config.portsUp s.draws)

/-! ## Recovery and reset (R389, R390) -/

/-- RECOVERY_IMAGE: the one replacement for the failing step's object; `ok` says that it verifies. -/
def execRecoveryImage (s : State) : Out :=
  event "RECOVERY_IMAGE" (s.boot.recovery && !s.boot.tried)
    (if s.req.ok then (s.modBoot fun b => { b with recovery := false }).bring true [] [] else s.modBoot fun b => { b with tried := true })

/-- The module as a reset leaves it: bring-up starts at step 1, nothing is measured, what the hosts hold is theirs, and the fuses keep
the remapped rows (R385). The model's own latch, answer and free-value counter stay. -/
def State.rebooted (s : State) : State :=
  { State.reset with
    hosts := s.hosts, hbad := s.hbad, modId := s.modId, domain := s.domain, told := s.told, req := s.req, resp := s.resp, draws := s.draws
    agenda := s.agenda, tick := s.tick, remaps := s.remaps }

/-- MODULE_RESET: at power-on, or on request at any time. -/
def execModuleReset (s : State) : Out := .next s.rebooted

end Sys2Proof.Machine
end

