-- ==== Sys2Proof/Machine/Regs.lean ====
section
/-! DEFINITION. The registers of the cluster control space, of the management space and of the queue descriptors, and the Gaffer's
loads and stores (R70, R163, R285 to R303, R309, R321, R325, R331, R333, R337, R343, R350, R376). -/

namespace Sys2Proof.Machine

def bitsOf (v lo n : Nat) : Nat := v / 2 ^ lo % 2 ^ n
def bitOf (v i : Nat) : Bool := v / 2 ^ i % 2 == 1

/-! ## Event counters (R303, R381, R382) -/

/-- EVSEL with a written value: OVF is cleared by writing 1. -/
def evselPut (old v : Nat) : Nat := v % 2 ^ 18 + (if bitOf old 18 && !bitOf v 18 then 2 ^ 18 else 0)

/-! ## A context's block (R287, R288) -/

/-- CTXCTL as it reads. -/
def Priv.ctxctl (p : Priv) : Nat :=
  let st := match p.st with | .idle => 0 | .ready => 1 | .running => 2 | .stalled => 3 | .parked => 4
  b2n p.err * 2 ^ 19 + b2n p.mb * 2 ^ 18 + b2n p.stopped * 2 ^ 17 + b2n p.stopreq * 2 ^ 16 + p.resume * 2 ^ 9 + st

def State.ctxRead (s : State) (x : CtxId) (k : Nat) : Nat :=
  let c := s.ctx x
  let p := c.pr
  if k < 0x100 then (if cregListed k then readCreg s x c k else 0)
  else match k with
    | 0x800 => p.ctxctl
    | 0x801 => c.pc
    | 0x802 => c.brstate
    | 0x803 => p.jslot
    | 0x804 => p.lwbase
    | 0x805 => p.lwlim
    | 0x806 => p.budget
    | 0x807 => p.qcount
    | 0x808 => p.rbthresh
    | 0x809 => if p.st = .idle then 0 else p.crec
    | 0x81C => p.bpctl
    | k =>
      if 0x810 ≤ k ∧ k ≤ 0x817 then tget 0 c.ct.svcArgs (k - 0x810)
      else if 0x818 ≤ k ∧ k ≤ 0x81B then tget 0 p.bpaddr (k - 0x818)
      else 0

/-- A write of CTXCTL: ERR and RESUME, and then STOPREQ and GO. Whether GO resumes or is refused is judged on the context as it stood
before the write, and a GO that resumes is the one whose resumption counts (R288, R289). -/
def State.writeCtxctl (s : State) (x : CtxId) (v : Nat) : State :=
  let goes := bitOf v 12 && (s.ctx x).pr.stopped && decide (bitsOf v 9 3 < 4)
  let s := s.modPr x fun p => { p with err := p.err && !bitOf v 19, resume := bitsOf v 9 3 }
  if goes then (s.modPr x fun p => { p with stopreq := bitOf v 16 }).writeGo x (bitsOf v 9 3)
  else (s.modPr x fun p => { p with err := p.err || bitOf v 12 }).writeStopreq x (bitOf v 16)

def State.ctxWrite (s : State) (x : CtxId) (k v : Nat) : State :=
  if k < 0x100 then (if cregWritable k && cregListed k then s.writeCreg x k (BitVec.ofNat 64 v) else s)
  else match k with
    | 0x800 => s.writeCtxctl x v
    | 0x801 => s.modCtx x fun c => { c with pc := v / 16 * 16 }
    | 0x802 => s.modCtx x fun c => { c.setBrstate v with dslot := v % 4 }
    | 0x803 => s.modPr x fun p => { p with jslot := v % 16 }
    | 0x804 => s.modPr x fun p => { p with lwbase := v % 2 ^ 20 / 64 * 64 }
    | 0x805 => s.modPr x fun p => { p with lwlim := v % 2 ^ 21 / 64 * 64 }
    | 0x806 => s.modPr x fun p => { p with budget := v }
    | 0x808 => s.modPr x fun p => { p with rbthresh := v }
    | 0x81C => s.modPr x fun p => { p with bpctl := v % 16 }
    | k =>
      if 0x818 ≤ k ∧ k ≤ 0x81B then s.modPr x fun p => { p with bpaddr := tset 0 p.bpaddr (k - 0x818) (v / 16 * 16) }
      else s

/-! ## Job slots and the code-store directory (R291, R295) -/

def JobSlot.read (j : JobSlot) (off : Nat) : Nat :=
  if off = 0 then b2n j.valid * 2 ^ 63 + j.part * 2 ^ 48 + j.jobid
  else if off = 8 then j.troot
  else if 0x10 ≤ off ∧ off < 0x50 then
    let w := tget (0, 0) j.vwin ((off - 0x10) / 16)
    if off % 16 = 0 then w.1 else w.2
  else if off = 0x50 then j.rwbase
  else if off = 0x58 then j.rwlim
  else 0

def JobSlot.write (j : JobSlot) (off v : Nat) : JobSlot :=
  if off = 0 then { j with valid := bitOf v 63, part := bitsOf v 48 4, jobid := v % 2 ^ 16 }
  else if off = 8 then { j with troot := v }
  else if 0x10 ≤ off ∧ off < 0x50 then
    let n := (off - 0x10) / 16
    let w := tget (0, 0) j.vwin n
    { j with vwin := tset (0, 0) j.vwin n (if off % 16 = 0 then (winBits v, w.2) else (w.1, winBits v)) }
  else if off = 0x50 then { j with rwbase := winBits v }
  else if off = 0x58 then { j with rwlim := winBits v }
  else j

/-- A doubleword of a job slot. The counts of its job on this module stand behind the slot's registers (R283; log entry 93). -/
def State.jobRead (s : State) (cl k off : Nat) : Nat :=
  let j : JobSlot := tget { } (s.cl cl).jobs k
  match off with
  | 0x60 => (s.cnt j.jobid).inj
  | 0x68 => (s.cnt j.jobid).cons
  | 0x70 => (s.cnt j.jobid).lost
  | off => j.read off

/-- A directory entry without its reserved bits. -/
def cdirBits (v : Nat) : Nat := bitsOf v 63 1 * 2 ^ 63 + bitsOf v 48 4 * 2 ^ 48 + v % 2 ^ 45

/-! ## The cluster's own registers -/

/-- A head register of a ring of 2^n records as it reads: modulo 2^n (R299, R337). -/
def ringIndex (n i : Nat) : Nat := if 4 ≤ n ∧ n ≤ 12 then i % 2 ^ n else i

/-- GIRQ as it reads (R302). -/
def Cluster.girq (c : Cluster) : Nat :=
  let ovf (t : Tab Nat) : Bool := t.any fun e => bitOf e.2 17 && bitOf e.2 18
  b2n (ringIndex c.trqSize c.trqTail != ringIndex c.trqSize c.trqHead)
    + b2n (ringIndex c.fqSize c.fqTail != ringIndex c.fqSize c.fqHead) * 2 + b2n (ovf c.evsel || c.cores.any fun o => ovf o.2.evsel) * 4
    + b2n c.girqLehr * 8 + b2n c.girqMgmt * 16

/-- The Gaffer's machine external interrupt is pending (R302). -/
def Cluster.extIrq (c : Cluster) : Bool := c.girq &&& c.girqen != 0

/-- SMASK and RAIL as they read (R301). -/
def Cluster.smask (c : Cluster) : Nat := c.ek * 2 ^ 16 + c.lk * 2 ^ 8 + c.gk
def Cluster.railReg (c : Cluster) : Nat :=
  b2n c.switching * 2 ^ 17 + b2n (c.greq || c.lforce) * 2 ^ 16 + b2n c.lforce * 2 ^ 8 + b2n c.greq

/-- PLHINT: the PC of the record preloaded for the selected context (R321). -/
def State.plhint (s : State) (cl : Nat) : Nat :=
  if thas (s.cl cl).preload (s.cl cl).plsel then s.recRd (tget { crec := 0 } (s.cl cl).preload (s.cl cl).plsel).crec recPC 8 / 16 * 16 else 0

/-- PRESTAT: a bit for each context with a request pending. -/
def State.prestat (s : State) (cl : Nat) : Nat :=
  (List.range 32).foldl (fun acc k => acc + b2n ((s.ctx ⟨cl, k / 4, k % 4⟩).pr.pre.isSome) * 2 ^ k) 0

def State.clRead (s : State) (cl off : Nat) : Nat :=
  let c := s.cl cl
  match off with
  | 0x020 => c.smask
  | 0x028 => c.railReg
  | 0x040 => c.trqBase
  | 0x048 => c.trqSize
  | 0x050 => ringIndex c.trqSize c.trqHead
  | 0x058 => ringIndex c.trqSize c.trqTail
  | 0x080 => c.ansRec
  | 0x088 => c.ansV1
  | 0x090 => c.ansV2
  | 0x098 => b2n c.ansStat
  | 0x0C0 => c.girq
  | 0x0C8 => c.girqen
  | 0x0D0 => s.plhint cl
  | 0x0D8 => c.plsel
  | 0x0E8 => s.prestat cl
  | 0x0F0 => c.lmsg
  | 0x108 => c.tlbiva
  | 0x110 => b2n c.tlbiBusy.isSome + b2n c.tlbiErr * 2
  | 0x140 => c.fqBase
  | 0x148 => c.fqSize
  | 0x150 => ringIndex c.fqSize c.fqHead
  | 0x158 => ringIndex c.fqSize c.fqTail
  | 0x168 => b2n c.frErr
  | 0x180 => c.pmSrc
  | 0x188 => c.pmDst
  | 0x190 => c.pmSize + b2n c.pmBusy.isSome * 2 ^ 16 + b2n c.pmErr * 2 ^ 17
  | _ => 0

/-- Contexts whose SVC waits for room in the trap queue try again. -/
def State.wakeSvc (s : State) (cl : Nat) : State := s.mapLive cl fun x => if x.pr.blk = some .svc then x.wake else x

/-- A write of PMCTL: ERR is cleared by writing 1, a SIZE of 3 is ignored, and GO starts a move. -/
def State.writePmctl (s : State) (cl v : Nat) : State :=
  let s := s.modCl cl fun c => { c with pmErr := c.pmErr && !bitOf v 17, pmSize := if v % 4 = 3 then c.pmSize else v % 4 }
  if bitOf v 8 then s.pageMoveGo cl (v % 4) else s

def State.writeFresp (s : State) (cl v : Nat) : State :=
  match bitsOf v 8 2 with
  | 1 => s.respond cl (v % 2 ^ 8) false
  | 2 => s.respond cl (v % 2 ^ 8) true
  | _ => s

def State.clWrite (s : State) (cl off v : Nat) : State :=
  match off with
  | 0x020 => if 1 ≤ v % 8 ∧ v % 8 ≤ 4 then s.modCl cl fun c => { c with gk := v % 8 } else s
  | 0x028 => s.setRail cl (bitOf v 0) (s.cl cl).lforce
  | 0x040 => s.modCl cl fun c => { c with trqBase := v % 2 ^ 34 / 32 * 32 }
  | 0x048 => (s.modCl cl fun c => { c with trqSize := v % 16 }).wakeSvc cl
  | 0x050 => (s.modCl cl fun c => { c with trqHead := v % 2 ^ 12 }).wakeSvc cl
  | 0x080 => s.modCl cl fun c => { c with ansRec := v }
  | 0x088 => s.modCl cl fun c => { c with ansV1 := v }
  | 0x090 => (s.modCl cl fun c => { c with ansV2 := v }).answer cl (s.cl cl).ansV1 v
  | 0x098 => s.modCl cl fun c => { c with ansStat := c.ansStat && !bitOf v 0 }
  | 0x0C8 => s.modCl cl fun c => { c with girqen := v % 32 }
  | 0x0D8 => s.modCl cl fun c => { c with plsel := v % 32 }
  | 0x0E0 => if bitOf v 8 then s.askPreempt ⟨cl, v % 32 / 4, v % 4⟩ .software else s
  | 0x100 => s.tlbiWrite cl ⟨v % 4, (s.cl cl).tlbiva, bitsOf v 16 4, bitsOf v 32 16, bitOf v 2⟩
  | 0x108 => s.modCl cl fun c => { c with tlbiva := v % 2 ^ 57 / 2 ^ 12 * 2 ^ 12 }
  | 0x110 => s.modCl cl fun c => { c with tlbiErr := c.tlbiErr && !bitOf v 1 }
  | 0x140 => s.modCl cl fun c => { c with fqBase := v % 2 ^ 34 / 64 * 64 }
  | 0x148 => s.modCl cl fun c => { c with fqSize := v % 16 }
  | 0x150 => s.modCl cl fun c => { c with fqHead := v % 2 ^ 12 }
  | 0x160 => s.writeFresp cl v
  | 0x168 => s.modCl cl fun c => { c with frErr := c.frErr && !bitOf v 0 }
  | 0x180 => s.modCl cl fun c => { c with pmSrc := v % 2 ^ 52 / 2 ^ 12 * 2 ^ 12 }
  | 0x188 => s.modCl cl fun c => { c with pmDst := v % 2 ^ 52 / 2 ^ 12 * 2 ^ 12 }
  | 0x190 => s.writePmctl cl v
  | _ => s

/-! ## A core's registers and its debug port (R302, R303) -/

/-- DBGSEL, DBGDATA and DBGFE as they read. -/
def State.dbgRead (s : State) (c : CoreId) (off : Nat) : Nat :=
  match off with
  | 0 => (s.core c).dbgsel
  | 8 => if s.dbgOk c then s.dbgValue c else 0
  | 16 => if s.dbgOk c then b2n (s.dbgFull c) else 0
  | _ => 0

def State.dbgWrite (s : State) (c : CoreId) (off v : Nat) : State :=
  match off with
  | 0 => s.modCore c fun o => { o with dbgsel := v % 2 ^ 32 / 2 ^ 8 * 2 ^ 8 + v % 2 ^ 6 }
  | 8 => if s.dbgOk c then s.dbgRegs c fun r => r.dbgPut (s.core c).dbgsel v else s
  | 16 => if s.dbgOk c then
      (s.dbgRegs c fun r => r.dbgFe (s.core c).dbgsel (bitOf v 0)).wake ⟨c.cl, c.core, dbgCtx (s.core c).dbgsel⟩
    else s
  | _ => s

/-- EVSEL or EVCNT of a core with a written value. -/
def State.coreEvWrite (s : State) (c : CoreId) (off v : Nat) : State :=
  let n := off / 8 % 8
  if off < 0x40 then s.modCore c fun o => { o with evsel := tset 0 o.evsel n (evselPut (tget 0 o.evsel n) v) }
  else if off < 0x80 then s.modCore c fun o => { o with evcnt := tset 0 o.evcnt n v }
  else s

/-- The same of the cluster. -/
def State.clEvWrite (s : State) (cl off v : Nat) : State :=
  let n := off / 8 % 16
  if off < 0x80 then s.modCl cl fun o => { o with evsel := tset 0 o.evsel n (evselPut (tget 0 o.evsel n) v) }
  else s.modCl cl fun o => { o with evcnt := tset 0 o.evcnt n v }

def State.coreRead (s : State) (c : CoreId) (off : Nat) : Nat :=
  if off < 0x20000 then s.ctxRead ⟨c.cl, c.core, off / 2 ^ 15⟩ (off % 2 ^ 15 / 8)
  else if off < 0x20040 then tget 0 (s.core c).evsel (off / 8 % 8)
  else if off < 0x20080 then tget 0 (s.core c).evcnt (off / 8 % 8)
  else if 0x30000 ≤ off then s.dbgRead c (off - 0x30000)
  else 0

def State.coreWrite (s : State) (c : CoreId) (off v : Nat) : State :=
  if off < 0x20000 then s.ctxWrite ⟨c.cl, c.core, off / 2 ^ 15⟩ (off % 2 ^ 15 / 8) v
  else if off < 0x30000 then s.coreEvWrite c (off - 0x20000) v
  else s.dbgWrite c (off - 0x30000) v

/-! ## The cluster control space (R285, R286) -/

/-- A register of the cluster control space. -/
def State.ctlRead (s : State) (cl off : Nat) : Nat :=
  if off < 0x1000 then s.clRead cl off
  else if off < 0x2000 then s.jobRead cl ((off - 0x1000) / 0x100) (off % 0x100)
  else if off < 0x2800 then tget 0 (s.cl cl).cdir ((off - 0x2000) / 8)
  else if off < 0x2880 then tget 0 (s.cl cl).evsel ((off - 0x2800) / 8)
  else if off < 0x2900 then tget 0 (s.cl cl).evcnt ((off - 0x2880) / 8)
  else if 0x200000 ≤ off ∧ off < 0x400000 then s.coreRead ⟨cl, (off - 0x200000) / 2 ^ 18⟩ ((off - 0x200000) % 2 ^ 18)
  else 0

def State.ctlWrite (s : State) (cl off v : Nat) : State :=
  if off < 0x1000 then s.clWrite cl off v
  else if off < 0x2000 then
    s.modCl cl fun c => { c with jobs := tmod { } c.jobs ((off - 0x1000) / 0x100) fun j => j.write (off % 0x100) v }
  else if off < 0x2800 then s.modCl cl fun c => { c with cdir := tset 0 c.cdir ((off - 0x2000) / 8) (cdirBits v) }
  else if off < 0x2900 then s.clEvWrite cl (off - 0x2800) v
  else if 0x200000 ≤ off ∧ off < 0x400000 then s.coreWrite ⟨cl, (off - 0x200000) / 2 ^ 18⟩ ((off - 0x200000) % 2 ^ 18) v
  else s

/-- What reading a register does besides: LMSG's read clears its interrupt. -/
def State.ctlTouch (s : State) (cl off : Nat) : State :=
  if off = 0x0F0 then s.modCl cl fun c => { c with girqLehr := false } else s

/-- Whether a register read can be answered now: DBGDATA waits for the engine (R281). -/
def State.ctlReady (s : State) (cl off : Nat) : Bool :=
  let c : CoreId := ⟨cl, (off - 0x200000) / 2 ^ 18⟩
  !(decide (0x200000 ≤ off ∧ off < 0x400000) && (off - 0x200000) % 2 ^ 18 == 0x30008) || !s.dbgOk c || s.dbgReady c

/-! ## The management space and the queue descriptors (R309, R350, R372, R376, R388, R394) -/

/-- LDCTL as it reads. -/
def Ld.ctl (d : Ld) : Nat :=
  b2n d.valid * 2 ^ 63 + d.tstate * 2 ^ 60 + d.hstate * 2 ^ 57 + d.port * 2 ^ 48 + b2n d.rstpol * 2 ^ 40 + b2n d.referr

def Ld.read (d : Ld) (off : Nat) : Nat :=
  match off with
  | 0x00 => d.ctl
  | 0x08 => d.clmask % 2 ^ 64
  | 0x10 => d.clmask / 2 ^ 64 % 2 ^ 64
  | 0x18 => d.clmask / 2 ^ 128 % 2 ^ 64
  | 0x20 => d.drbase0
  | 0x28 => d.drlim0
  | 0x30 => d.drbase1
  | 0x38 => d.drlim1
  | 0x40 => d.hmlim
  | 0x48 => d.floor
  | 0x50 => d.cquota
  | 0x58 => parkBytes d + b2n (decide (64 * 2 ^ 20 ≤ parkBytes d)) * 2 ^ 63
  | _ => 0

/-- A record's four doublewords as one number (R368). -/
def LogRec.words (r : LogRec) : Nat :=
  (r.seq * 2 ^ 48 + r.kind % 2 ^ 8 * 2 ^ 40 + r.die % 16 * 2 ^ 36 + r.unit % 2 ^ 8 * 2 ^ 28 + r.lane % 2 ^ 12 * 2 ^ 16 + r.count % 2 ^ 8 * 2 ^ 8)
    + r.addr % 2 ^ 64 * 2 ^ 64 + r.tick % 2 ^ 64 * 2 ^ 128 + r.detail % 2 ^ 64 * 2 ^ 192

/-- A doubleword of an error log: its records from the oldest on, then the overwrite count and the number of the next record (R367; log
entry 102). -/
def ErrLog.read (l : ErrLog) (off : Nat) : Nat :=
  if off < 0x8000 then ((l.recs[off / 32]?).map LogRec.words).getD 0 / 2 ^ (off % 32 * 8) % 2 ^ 64
  else if off = 0x8000 then l.lost
  else if off = 0x8008 then l.next
  else 0

/-- What the management path reads. -/
def State.mgmtRead (s : State) (off : Nat) : Nat :=
  if 0x10000 ≤ off ∧ off < 0x10800 then (s.ld ((off - 0x10000) / 0x80)).read (off % 0x80)
  else if 0x20030 ≤ off ∧ off < 0x200B0 then (s.ld ((off - 0x20030) / 8)).efloor
  else if 0x200000 ≤ off ∧ off < 0x400000 then (tget ({ } : ErrLog) s.logs ((off - 0x200000) / 0x10000)).read (off % 0x10000)
  else match off with
    | 0x20000 => s.power.pcap
    | 0x20008 => Config.idleFloor % 2 ^ 16
    | 0x20010 => s.power.ecap * 2 ^ 16 + b2n s.power.shrunk * 2 + b2n s.power.clamped
    | 0x20018 => s.power.thot
    | 0x20020 => s.power.talarm
    | 0x20028 => s.power.fprio
    | 0x20100 => s.healthReg
    | 0x20108 => Config.dramilv.toNat
    | 0x20200 => s.bootstat
    | _ => 0

/-- A write of the management path. No register of the management space, and no event, sets the module's number or its fabric domain
(log entry 117). -/
def State.mgmtWrite (s : State) (off v : Nat) : State :=
  if 0x10000 ≤ off ∧ off < 0x10800 then s.ldWrite ((off - 0x10000) / 0x80) (off % 0x80) v
  else match off with
    | 0x20000 => s.setCap (v % 2 ^ 16)
    | 0x20018 => s.modPower fun p => { p with thot := v % 2 ^ 8 }
    | 0x20020 => s.setTalarm (v % 2 ^ 8)
    | 0x20028 => s.setFprio v
    | _ => s

/-- What a queue descriptor reads. -/
def WQueue.read (w : WQueue) (off : Nat) : Nat :=
  match off with
  | 0x00 => b2n w.valid * 2 ^ 63 + b2n w.qerr * 2 ^ 62 + b2n w.resident * 2 ^ 61 + w.part * 2 ^ 48 + w.jobix * 2 ^ 32 + w.ceil * 2 ^ 28
      + w.log2 * 2 ^ 16 + w.vqid
  | 0x08 => w.accepted
  | 0x10 => w.refused
  | 0x18 => w.taken
  | 0x20 => w.borrowed.length
  | 0x28 => w.rbthresh
  | _ => 0

/-- A write of a work-queue descriptor: until bring-up is done, every one is refused (R390). -/
def State.queueWrite (s : State) (q off v : Nat) : State :=
  if !s.boot.done then s.refuse (s.queueBy.getD (s.wq q).part)
  else match off with
  | 0x00 => s.writeQctl q v
  | 0x28 => if s.queueOpen q (s.wq q).part then s.modWq q fun w => { w with rbthresh := v } else s.refuse (s.queueBy.getD (s.wq q).part)
  | 0x30 => if bitOf v 0 then s.writeCancel q else s
  | _ => s

/-- A doubleword of a job-table entry, laid out as a job slot is (R291, R308; log entry 94). -/
def JobEnt.read (j : JobEnt) (off : Nat) : Nat :=
  let w (k : Nat) : Nat × Nat := if k = 4 then j.red else j.windows.getD k (0, 0)
  match off with
  | 0x00 => b2n j.valid * 2 ^ 63 + j.part * 2 ^ 48 + j.jobid
  | 0x08 => j.troot
  | off => if off % 16 = 0 then (w ((off - 0x10) / 16)).1 else (w ((off - 0x10) / 16)).2

/-- BAR0 of a logical device: its valid queue descriptors in order, its job-table entries by index, and EFLOOR (R347, R377; log
entry 94). -/
def State.barRead (s : State) (l off : Nat) : Nat :=
  if off < 0x4000 then (((s.wqs.filter fun e => e.2.valid && e.2.part == l)[off / 64]?).map fun e => e.2.read (off % 64)).getD 0
  else if 0x8000 ≤ off ∧ off < 0xE000 then
    let j : JobEnt := tget { } s.jobs ((off - 0x8000) / 0x60)
    if j.valid ∧ j.part = l then j.read ((off - 0x8000) % 0x60) else 0
  else if off = 0xF000 then (s.ld l).efloor
  else 0

/-- HOST_MEMORY_READ: a read over the management path (`ok3`), of BAR0 of a logical device (`ok2`), each of one doubleword, or of the
device's host-managed memory, where uncorrectable data is answered as such (R347, R350, R367). -/
def execHostMemoryRead (s : State) : Out :=
  let r := s.req
  if r.ok3 then event "HOST_MEMORY_READ" (r.addr % 8 == 0) (s.say true (s.mgmtRead r.addr))
  else if r.ok2 then event "HOST_MEMORY_READ" (s.hostHere r.ld && r.addr % 8 == 0) (s.say true (s.barRead r.ld r.addr))
  else event "HOST_MEMORY_READ" (s.hostHere r.ld && decide (0 < r.len) && ((s.ld r.ld).hdm r.addr r.len).all fun pa => s.chanFree pa r.len)
    (match (s.ld r.ld).hdm r.addr r.len with
     | some pa => if s.dramBad pa r.len then s.say false 0 else { s with resp := { ok := true, val := 0, bytes := rdBytes s.dram pa r.len } }
     | none => s.say false 0)

/-- CONTROL_REGISTER_WRITE: a doubleword of a cluster's control space (clusters 0 to 191), of the management space (192), or of the
queue descriptors (193, at queue * 64). A Gaffer that bring-up has not released writes none (R384). -/
def execControlRegisterWrite (cl off : Nat) (v : BitVec 64) (s : State) : Out :=
  event "CONTROL_REGISTER_WRITE" (off % 8 == 0 && decide (cl ≤ 193) && (decide (192 ≤ cl) || s.released cl))
    (if cl < 192 then (s.pass cl).ctlWrite cl off v.toNat
     else if cl = 192 then s.mgmtWrite off v.toNat
     else if off / 64 < 4096 then s.queueWrite (off / 64) (off % 64) v.toNat else s)

/-! ## What the Gaffer does to records (R26) -/

/-- The records whose STATUS byte a vault write covers. -/
def State.statusHit (s : State) (off n : Nat) : List (Nat × Nat) :=
  s.clusters.flatMap fun c => c.2.saved.filterMap fun e =>
    if e.2.isSome ∧ off ≤ e.1 + recSTATUS ∧ e.1 + recSTATUS < off + n then some (c.1, e.1) else none

/-- A saved record follows the STATUS that has been written: ready, parked with its wait, or neither. Set ready again, it is a rerun for
the preload that its context held (R326). -/
def State.followStatus (s : State) (cl crec : Nat) : State :=
  let st := s.recRd crec recSTATUS 1
  let r := (s.readyList cl).contains crec
  let w := (s.watchList cl).contains crec
  if st = stReady then
    let s := s.modCl cl fun c => { c with preload := c.preload.map fun e => (e.1, { e.2 with rerun := e.2.rerun || e.2.owner == crec }) }
    let s := if w then s.dropWatch cl crec else s
    let s := match s.saved cl crec with
      | some i => s.setSaved cl crec (some { i with ctx := { i.ctx with wait := none } })
      | none => s
    if r then s else (s.recWr crec recREADYTICK 4 (s.tick % 2 ^ 32)).addReady cl crec
  else
    let s := if r then s.dropReady cl crec else s
    if st = stParked then (if w then s else s.addWatch cl crec) else if w then s.dropWatch cl crec else s

/-- The stopped contexts whose records have been marked faulted and that may leave: each does, with CAUSE 5 (R28). One that may not yet
leaves at a later tick. -/
def State.faultHit (s : State) : List CtxId :=
  s.clusters.flatMap fun c => c.2.cores.flatMap fun o => o.2.ctxs.filterMap fun y =>
    let x : CtxId := ⟨c.1, o.1, y.1⟩
    if y.2.pr.st != .idle && y.2.pr.stopped && s.recRd y.2.pr.crec recSTATUS 1 == stFaulted && s.mayLeave x then some x
    else none

/-- They leave. -/
def State.faultLeave (s : State) : State := s.faultHit.foldl (fun s x => s.leave x stFaulted 5) s

/-- The bytes of the save area of a saved continuation (R320). -/
def State.saveBytes (s : State) (cl crec : Nat) : Nat := ((s.saved cl crec).map fun i => saveSize (s.lraw i.ctx.ct.launch)).getD 0

/-- Preloads of records, or of save areas, that a vault write touches are discarded (R325). -/
def State.dropTouched (s : State) (off n : Nat) : State :=
  let hit (cl r : Nat) : Bool := decide (off < r + 64 ∧ r < off + n)
    || decide (off < s.saveOf r + s.saveBytes cl r ∧ s.saveOf r < off + n)
  if s.clusters.any fun c => c.2.preload.any fun e => hit c.1 e.2.crec then
    { s with clusters := s.clusters.map fun c => (c.1, { c.2 with preload := c.2.preload.filter fun e => !hit c.1 e.2.crec }) }
  else s

/-- A Gaffer store to the vault, unchecked by any window. -/
def State.gafferVault (s : State) (off n v : Nat) : State :=
  let s := (s.wrVault off n v).dropTouched off n
  ((s.statusHit off n).foldl (fun s r => s.followStatus r.1 r.2) s).faultLeave

/-! ## The Gaffer's physical address space (R285, R286, R331) -/

/-- Where a Gaffer access goes. -/
inductive GWhere where
  | reg (off : Nat)
  | code (a : Nat)
  | lmem (core a : Nat)
  | vault (off : Nat)
  | dram (pa : Nat)
  | none
  deriving DecidableEq, Repr

def gwhere (cl addr : Nat) : GWhere :=
  if 0xF0000000 ≤ addr ∧ addr < 0xF1000000 then
    let off := addr - 0xF0000000
    if 0x100000 ≤ off ∧ off < 0x200000 then .code (off - 0x100000)
    else if 0x400000 ≤ off ∧ off < 0xC00000 then .lmem ((off - 0x400000) / 2 ^ 20) (off % 2 ^ 20)
    else .reg off
  else if 0x400000000 ≤ addr ∧ addr < 0x800000000 then
    match resolve cl (addr - 0x400000000) with
    | some off => .vault off
    | Option.none => .none
  else if 2 ^ 52 ≤ addr ∧ addr < 2 ^ 52 + dramTop then .dram (addr - 2 ^ 52)
  else .none

/-- The Gaffer's access is one that the space takes: privileged for the cluster control space, aligned, of a size it accepts. -/
def gafferOk (w : GWhere) (mode : GMode) (addr n : Nat) : Bool :=
  let size := (n == 1 || n == 2 || n == 4 || n == 8) && addr % n == 0
  match w with
  | .reg _ => mode != .user && n == 8 && addr % 8 == 0
  | .code _ => mode != .user && size
  | .lmem _ _ => mode != .user && size
  | .vault _ => size
  | .dram _ => size
  | .none => false

def State.gafferLoad (s : State) (cl n : Nat) (w : GWhere) : State :=
  match w with
  | .reg off => let s := s.pass cl; (s.ctlTouch cl off).say true (s.ctlRead cl off)
  | .code a => s.say (!(s.cl cl).codeErr a n) (rdMem (s.cl cl).code a n)
  | .lmem k a => s.say (!(s.core ⟨cl, k⟩).lmemBad a n) (s.rdLmem ⟨cl, k⟩ a n)
  | .vault off => s.say (!s.vaultBad off n) (s.rdVault off n)
  | .dram pa => s.say (!s.dramBad pa n) (rdMem s.dram pa n)
  | .none => s.say false 0

def State.gafferStore (s : State) (cl n v : Nat) (w : GWhere) : State :=
  match w with
  | .reg off => ((s.pass cl).ctlWrite cl off v).say true 0
  | .code a => (s.modCl cl fun c => c.wrCode a n v).say true 0
  | .lmem k a => (s.wrLmem ⟨cl, k⟩ a n v).say true 0
  | .vault off => (s.gafferVault off n v).say true 0
  | .dram pa => (s.wrDram pa (leBytes n v)).say true 0
  | .none => s.say false 0

/-- GAFFER_ACCESS: one load or store of `n` bytes. An access that the space does not take answers with an access fault. A
Gaffer that bring-up has not released makes none (R384). -/
def execGafferAccess (cl : Nat) (mode : GMode) (addr n : Nat) (op : GOp) (s : State) : Out :=
  let w := gwhere cl addr
  if !(decide (cl < 192) && s.released cl) then .refused (.notEnabled "GAFFER_ACCESS")
  else if !gafferOk w mode addr n then .next (s.say false 0)
  else match op with
    | .load => event "GAFFER_ACCESS" (match w with | .reg off => s.ctlReady cl off | .dram pa => s.chanFree pa n | _ => true) (s.gafferLoad cl n w)
    | .store v => event "GAFFER_ACCESS" (match w with | .dram pa => s.chanFree pa n | _ => true) (s.gafferStore cl n (v % 2 ^ (8 * n)) w)

end Sys2Proof.Machine
end

