-- ==== Sys2Proof/Machine/Dispatch.lean ====
section
/-! DEFINITION. One arm for each instruction and event: a direct call of its meaning. -/

namespace Sys2Proof.Machine

def exec (i : Instr) (s : State) : Host.Outcome State Fault Refusal :=
  match i with
  | .nop => Sys2Proof.Machine.execNop s
  | .br p disp => Sys2Proof.Machine.execBr p disp s
  | .bri p sb aa => Sys2Proof.Machine.execBri p sb aa s
  | .call p disp => Sys2Proof.Machine.execCall p disp s
  | .calli p sb aa => Sys2Proof.Machine.execCalli p sb aa s
  | .ret p => Sys2Proof.Machine.execRet p s
  | .bmz p disp => Sys2Proof.Machine.execBmz p disp s
  | .bsel p sd sa aT => Sys2Proof.Machine.execBsel p sd sa aT s
  | .loop p aR => Sys2Proof.Machine.execLoop p aR s
  | .lexit p => Sys2Proof.Machine.execLexit p s
  | .wait p sd aB => Sys2Proof.Machine.execWait p sd aB s
  | .wquiet p sd sT => Sys2Proof.Machine.execWquiet p sd sT s
  | .yield p => Sys2Proof.Machine.execYield p s
  | .spawn p sd sW sP aE => Sys2Proof.Machine.execSpawn p sd sW sP aE s
  | .done p => Sys2Proof.Machine.execDone p s
  | .pont p disp => Sys2Proof.Machine.execPont p disp s
  | .commit p => Sys2Proof.Machine.execCommit p s
  | .abort p => Sys2Proof.Machine.execAbort p s
  | .svc p n => Sys2Proof.Machine.execSvc p n s
  | .trap p n => Sys2Proof.Machine.execTrap p n s
  | .brk p n => Sys2Proof.Machine.execBrk p n s
  | .mfc p sd creg => Sys2Proof.Machine.execMfc p sd creg s
  | .mtc p creg sS => Sys2Proof.Machine.execMtc p creg sS s
  | .tbar p => Sys2Proof.Machine.execTbar p s
  | .permit p mask => Sys2Proof.Machine.execPermit p mask s
  | .add c sd sa sb => Sys2Proof.Machine.execAdd c sd sa sb s
  | .sub c sd sa sb => Sys2Proof.Machine.execSub c sd sa sb s
  | .and c sd sa sb => Sys2Proof.Machine.execAnd c sd sa sb s
  | .or c sd sa sb => Sys2Proof.Machine.execOr c sd sa sb s
  | .xor c sd sa sb => Sys2Proof.Machine.execXor c sd sa sb s
  | .andn c sd sa sb => Sys2Proof.Machine.execAndn c sd sa sb s
  | .shl c sd sa sb => Sys2Proof.Machine.execShl c sd sa sb s
  | .shr c sd sa sb => Sys2Proof.Machine.execShr c sd sa sb s
  | .sar c sd sa sb => Sys2Proof.Machine.execSar c sd sa sb s
  | .mul c sd sa sb => Sys2Proof.Machine.execMul c sd sa sb s
  | .mulh c sd sa sb => Sys2Proof.Machine.execMulh c sd sa sb s
  | .mulhu c sd sa sb => Sys2Proof.Machine.execMulhu c sd sa sb s
  | .div c sd sa sb => Sys2Proof.Machine.execDiv c sd sa sb s
  | .divu c sd sa sb => Sys2Proof.Machine.execDivu c sd sa sb s
  | .rem c sd sa sb => Sys2Proof.Machine.execRem c sd sa sb s
  | .remu c sd sa sb => Sys2Proof.Machine.execRemu c sd sa sb s
  | .min c sd sa sb => Sys2Proof.Machine.execMin c sd sa sb s
  | .max c sd sa sb => Sys2Proof.Machine.execMax c sd sa sb s
  | .minu c sd sa sb => Sys2Proof.Machine.execMinu c sd sa sb s
  | .maxu c sd sa sb => Sys2Proof.Machine.execMaxu c sd sa sb s
  | .cmp c cond pd sa sb => Sys2Proof.Machine.execCmp c cond pd sa sb s
  | .sel c sd sa sb pc => Sys2Proof.Machine.execSel c sd sa sb pc s
  | .addi c sd sa imm => Sys2Proof.Machine.execAddi c sd sa imm s
  | .andi c sd sa imm => Sys2Proof.Machine.execAndi c sd sa imm s
  | .ori c sd sa imm => Sys2Proof.Machine.execOri c sd sa imm s
  | .xori c sd sa imm => Sys2Proof.Machine.execXori c sd sa imm s
  | .shli c sd sa sh => Sys2Proof.Machine.execShli c sd sa sh s
  | .shri c sd sa sh => Sys2Proof.Machine.execShri c sd sa sh s
  | .sari c sd sa sh => Sys2Proof.Machine.execSari c sd sa sh s
  | .li c sd imm => Sys2Proof.Machine.execLi c sd imm s
  | .lih c ext sd imm => Sys2Proof.Machine.execLih c ext sd imm s
  | .clz c sd sa => Sys2Proof.Machine.execClz c sd sa s
  | .popc c sd sa => Sys2Proof.Machine.execPopc c sd sa s
  | .ext c sd sa pos lenm1 => Sys2Proof.Machine.execExt c sd sa pos lenm1 s
  | .ins c sd sa pos lenm1 => Sys2Proof.Machine.execIns c sd sa pos lenm1 s
  | .lea c ad aa sb sh => Sys2Proof.Machine.execLea c ad aa sb sh s
  | .leai c ad aa imm => Sys2Proof.Machine.execLeai c ad aa imm s
  | .amovSToA c ad sS => Sys2Proof.Machine.execAmovSToA c ad sS s
  | .amovAToS c sd aa => Sys2Proof.Machine.execAmovAToS c sd aa s
  | .plog c pd pa pb tt => Sys2Proof.Machine.execPlog c pd pa pb tt s
  | .widf c sd sa n => Sys2Proof.Machine.execWidf c sd sa n s
  | .widfTeam c sd sa => Sys2Proof.Machine.execWidfTeam c sd sa s
  | .widfRank c sd sa => Sys2Proof.Machine.execWidfRank c sd sa s
  | .fadd c f rm sd sa sb => Sys2Proof.Machine.execFadd c f rm sd sa sb s
  | .fsub c f rm sd sa sb => Sys2Proof.Machine.execFsub c f rm sd sa sb s
  | .fmul c f rm sd sa sb => Sys2Proof.Machine.execFmul c f rm sd sa sb s
  | .ffma c f rm sd sa sb => Sys2Proof.Machine.execFfma c f rm sd sa sb s
  | .fmin c f sd sa sb => Sys2Proof.Machine.execFmin c f sd sa sb s
  | .fmax c f sd sa sb => Sys2Proof.Machine.execFmax c f sd sa sb s
  | .fcmp c cond f pd sa sb => Sys2Proof.Machine.execFcmp c cond f pd sa sb s
  | .fcvt c dst src rm sat sd sa => Sys2Proof.Machine.execFcvt c dst src rm sat sd sa s
  | .vadd c t rm sat vd va vb => Sys2Proof.Machine.execVadd c t rm sat vd va vb s
  | .vsub c t rm sat vd va vb => Sys2Proof.Machine.execVsub c t rm sat vd va vb s
  | .vmul c t rm sat vd va vb => Sys2Proof.Machine.execVmul c t rm sat vd va vb s
  | .vfma c t rm sat vd va vb => Sys2Proof.Machine.execVfma c t rm sat vd va vb s
  | .vmin c t vd va vb => Sys2Proof.Machine.execVmin c t vd va vb s
  | .vmax c t vd va vb => Sys2Proof.Machine.execVmax c t vd va vb s
  | .vand c t vd va vb => Sys2Proof.Machine.execVand c t vd va vb s
  | .vor c t vd va vb => Sys2Proof.Machine.execVor c t vd va vb s
  | .vxor c t vd va vb => Sys2Proof.Machine.execVxor c t vd va vb s
  | .vshl c t vd va vb => Sys2Proof.Machine.execVshl c t vd va vb s
  | .vshr c t vd va vb => Sys2Proof.Machine.execVshr c t vd va vb s
  | .vsar c t vd va vb => Sys2Proof.Machine.execVsar c t vd va vb s
  | .vabs c t sat vd va => Sys2Proof.Machine.execVabs c t sat vd va s
  | .vneg c t sat vd va => Sys2Proof.Machine.execVneg c t sat vd va s
  | .vcvt c dst src rm sat vd va h => Sys2Proof.Machine.execVcvt c dst src rm sat vd va h s
  | .vcmp c cond t vd va vb => Sys2Proof.Machine.execVcmp c cond t vd va vb s
  | .vsel c t vd va vb => Sys2Proof.Machine.execVsel c t vd va vb s
  | .vred c op t rm sat vd va => Sys2Proof.Machine.execVred c op t rm sat vd va s
  | .vbcast c t vd sS => Sys2Proof.Machine.execVbcast c t vd sS s
  | .vext c t sd va lane => Sys2Proof.Machine.execVext c t sd va lane s
  | .vins c t vd sS lane => Sys2Proof.Machine.execVins c t vd sS lane s
  | .vperm c vd va vb => Sys2Proof.Machine.execVperm c vd va vb s
  | .vexp2 c t rm vd va => Sys2Proof.Machine.execVexp2 c t rm vd va s
  | .vrcp c t rm vd va => Sys2Proof.Machine.execVrcp c t rm vd va s
  | .vrsq c t rm vd va => Sys2Proof.Machine.execVrsq c t rm vd va s
  | .vamax c pk va => Sys2Proof.Machine.execVamax c pk va s
  | .kpush c va => Sys2Proof.Machine.execKpush c va s
  | .kinv c => Sys2Proof.Machine.execKinv c s
  | .kpop c => Sys2Proof.Machine.execKpop c s
  | .ktop c sd => Sys2Proof.Machine.execKtop c sd s
  | .vld c chk vd a imm => Sys2Proof.Machine.execVld c chk vd a imm s
  | .vst c vs a imm => Sys2Proof.Machine.execVst c vs a imm s
  | .vlds c vd a sS => Sys2Proof.Machine.execVlds c vd a sS s
  | .vsts c vs a sS => Sys2Proof.Machine.execVsts c vs a sS s
  | .vgth c vd a vb => Sys2Proof.Machine.execVgth c vd a vb s
  | .vsct c vs a vb => Sys2Proof.Machine.execVsct c vs a vb s
  | .ldl c sz chk sd a imm => Sys2Proof.Machine.execLdl c sz chk sd a imm s
  | .stl c sz sS a imm => Sys2Proof.Machine.execStl c sz sS a imm s
  | .viota c t vd => Sys2Proof.Machine.execViota c t vd s
  | .viotaRank c t vd => Sys2Proof.Machine.execViotaRank c t vd s
  | .ld c sz o sc chk sd a imm => Sys2Proof.Machine.execLd c sz o sc chk sd a imm s
  | .st c sz o sc sS a imm => Sys2Proof.Machine.execSt c sz o sc sS a imm s
  | .ldv c o sc chk vd a imm => Sys2Proof.Machine.execLdv c o sc chk vd a imm s
  | .stv c o sc vs a imm => Sys2Proof.Machine.execStv c o sc vs a imm s
  | .qld c sz o sc chk q a imm => Sys2Proof.Machine.execQld c sz o sc chk q a imm s
  | .qvld c o sc chk q a imm => Sys2Proof.Machine.execQvld c o sc chk q a imm s
  | .qpop c cls d q => Sys2Proof.Machine.execQpop c cls d q s
  | .qst c sz o sc q sS a imm => Sys2Proof.Machine.execQst c sz o sc q sS a imm s
  | .qvst c o sc q vs a imm => Sys2Proof.Machine.execQvst c o sc q vs a imm s
  | .atadd c w8 o sc sd a sb => Sys2Proof.Machine.execAtadd c w8 o sc sd a sb s
  | .atand c w8 o sc sd a sb => Sys2Proof.Machine.execAtand c w8 o sc sd a sb s
  | .ator c w8 o sc sd a sb => Sys2Proof.Machine.execAtor c w8 o sc sd a sb s
  | .atxor c w8 o sc sd a sb => Sys2Proof.Machine.execAtxor c w8 o sc sd a sb s
  | .atmin c w8 o sc sd a sb => Sys2Proof.Machine.execAtmin c w8 o sc sd a sb s
  | .atmax c w8 o sc sd a sb => Sys2Proof.Machine.execAtmax c w8 o sc sd a sb s
  | .atswp c w8 o sc sd a sb => Sys2Proof.Machine.execAtswp c w8 o sc sd a sb s
  | .atcas c w8 o sc sd a sb => Sys2Proof.Machine.execAtcas c w8 o sc sd a sb s
  | .atincw c w8 o sc sd a sb => Sys2Proof.Machine.execAtincw c w8 o sc sd a sb s
  | .atbadd c w8 o sc sd a sb => Sys2Proof.Machine.execAtbadd c w8 o sc sd a sb s
  | .atfadd c w8 rm o sc sd a sb => Sys2Proof.Machine.execAtfadd c w8 rm o sc sd a sb s
  | .sinit c o sc a sb => Sys2Proof.Machine.execSinit c o sc a sb s
  | .sarv c o sc sd a sb => Sys2Proof.Machine.execSarv c o sc sd a sb s
  | .bfacq c a ring => Sys2Proof.Machine.execBfacq c a ring s
  | .bfrel c a ring => Sys2Proof.Machine.execBfrel c a ring s
  | .gcopy c sc ch a sd => Sys2Proof.Machine.execGcopy c sc ch a sd s
  | .mnest c a => Sys2Proof.Machine.execMnest c a s
  | .mprec c cn sS => Sys2Proof.Machine.execMprec c cn sS s
  | .mwld c t cn a kvm1 => Sys2Proof.Machine.execMwld c t cn a kvm1 s
  | .mma c t nest ovw wrel cn a => Sys2Proof.Machine.execMma c t nest ovw wrel cn a s
  | .mdrn c t clr pkEn pk rm sat sc cn a sS => Sys2Proof.Machine.execMdrn c t clr pkEn pk rm sat sc cn a sS s
  | .mpert c log cn a sV => Sys2Proof.Machine.execMpert c log cn a sV s
  | .mstat c sel sd cn => Sys2Proof.Machine.execMstat c sel sd cn s
  | .xsend c o sc sT a nm1 => Sys2Proof.Machine.execXsend c o sc sT a nm1 s
  | .xst c sz o sc sS a imm => Sys2Proof.Machine.execXst c sz o sc sS a imm s
  | .xld c sz o sc sd a imm => Sys2Proof.Machine.execXld c sz o sc sd a imm s
  | .xred c op ty o sc a sb => Sys2Proof.Machine.execXred c op ty o sc a sb s
  | .regionLengthRollback x => Sys2Proof.Machine.execRegionLengthRollback x s
  | .heldCommandIssue x => Sys2Proof.Machine.execHeldCommandIssue x s
  | .doneComplete x => Sys2Proof.Machine.execDoneComplete x s
  | .launchEnd l => Sys2Proof.Machine.execLaunchEnd l s
  | .push ld off bytes => Sys2Proof.Machine.execPush ld off bytes s
  | .dependenceMet l d => Sys2Proof.Machine.execDependenceMet l d s
  | .launchCheck l => Sys2Proof.Machine.execLaunchCheck l s
  | .teamCreate l cl vbase => Sys2Proof.Machine.execTeamCreate l cl vbase s
  | .itemCreate cl team => Sys2Proof.Machine.execItemCreate cl team s
  | .continuationPlace x crec base => Sys2Proof.Machine.execContinuationPlace x crec base s
  | .contextSelect c => Sys2Proof.Machine.execContextSelect c s
  | .quantumExpiry x => Sys2Proof.Machine.execQuantumExpiry x s
  | .stallTimeout x => Sys2Proof.Machine.execStallTimeout x s
  | .registerFill h n => Sys2Proof.Machine.execRegisterFill h n s
  | .eviction cl => Sys2Proof.Machine.execEviction cl s
  | .waitWake h => Sys2Proof.Machine.execWaitWake h s
  | .waitTimeout h => Sys2Proof.Machine.execWaitTimeout h s
  | .loopIterationEnd x => Sys2Proof.Machine.execLoopIterationEnd x s
  | .accessPerform h n => Sys2Proof.Machine.execAccessPerform h n s
  | .queueDataArrival h q n => Sys2Proof.Machine.execQueueDataArrival h q n s
  | .syncArrival n => Sys2Proof.Machine.execSyncArrival n s
  | .syncErrorArrival n => Sys2Proof.Machine.execSyncErrorArrival n s
  | .ringSlotAcquire c ring => Sys2Proof.Machine.execRingSlotAcquire c ring s
  | .trackerRelease c n => Sys2Proof.Machine.execTrackerRelease c n s
  | .matrixPassStart c => Sys2Proof.Machine.execMatrixPassStart c s
  | .matrixPassRetire c => Sys2Proof.Machine.execMatrixPassRetire c s
  | .tileWindowClose c t => Sys2Proof.Machine.execTileWindowClose c t s
  | .tstatUpdate c t => Sys2Proof.Machine.execTstatUpdate c t s
  | .weightLoadStart c n => Sys2Proof.Machine.execWeightLoadStart c n s
  | .weightLoadLand c n => Sys2Proof.Machine.execWeightLoadLand c n s
  | .drainLand c n => Sys2Proof.Machine.execDrainLand c n s
  | .deferredTrap x => Sys2Proof.Machine.execDeferredTrap x s
  | .gatherSectorLand c ch id req => Sys2Proof.Machine.execGatherSectorLand c ch id req s
  | .gatherTransferComplete c ch id => Sys2Proof.Machine.execGatherTransferComplete c ch id s
  | .marverEntryStart cl port => Sys2Proof.Machine.execMarverEntryStart cl port s
  | .marverEntryLand cl port => Sys2Proof.Machine.execMarverEntryLand cl port s
  | .xsendDeliver k cl => Sys2Proof.Machine.execXsendDeliver k cl s
  | .xstArrival k => Sys2Proof.Machine.execXstArrival k s
  | .xldRequestArrival k => Sys2Proof.Machine.execXldRequestArrival k s
  | .xldReplyArrival k => Sys2Proof.Machine.execXldReplyArrival k s
  | .xredMerge n j => Sys2Proof.Machine.execXredMerge n j s
  | .xredApply k => Sys2Proof.Machine.execXredApply k s
  | .countingWave peers => Sys2Proof.Machine.execCountingWave peers s
  | .packetDrop n => Sys2Proof.Machine.execPacketDrop n s
  | .lossRecordReceive k => Sys2Proof.Machine.execLossRecordReceive k s
  | .breakpointStop x => Sys2Proof.Machine.execBreakpointStop x s
  | .ctxctlStopreq x v => Sys2Proof.Machine.execCtxctlStopreq x v s
  | .contextStop x => Sys2Proof.Machine.execContextStop x s
  | .replay x => Sys2Proof.Machine.execReplay x s
  | .next x => Sys2Proof.Machine.execNext x s
  | .replaynb x => Sys2Proof.Machine.execReplaynb x s
  | .redirect x => Sys2Proof.Machine.execRedirect x s
  | .trapRecordEnqueue cl => Sys2Proof.Machine.execTrapRecordEnqueue cl s
  | .svcAnswer cl v2 => Sys2Proof.Machine.execSvcAnswer cl v2 s
  | .smaskWrite cl gk => Sys2Proof.Machine.execSmaskWrite cl gk s
  | .railWrite cl greq => Sys2Proof.Machine.execRailWrite cl greq s
  | .dbgdataRead c => Sys2Proof.Machine.execDbgdataRead c s
  | .dbgdataWrite c v => Sys2Proof.Machine.execDbgdataWrite c v s
  | .dbgfeWrite c v => Sys2Proof.Machine.execDbgfeWrite c v s
  | .budgetOverrun x => Sys2Proof.Machine.execBudgetOverrun x s
  | .pageWalk cl w => Sys2Proof.Machine.execPageWalk cl w s
  | .faultRecordEnqueue cl => Sys2Proof.Machine.execFaultRecordEnqueue cl s
  | .retry cl tag => Sys2Proof.Machine.execRetry cl tag s
  | .fail cl tag => Sys2Proof.Machine.execFail cl tag s
  | .tlbiPages cl jslot count global => Sys2Proof.Machine.execTlbiPages cl jslot count global s
  | .tlbiJobSlot cl jslot global => Sys2Proof.Machine.execTlbiJobSlot cl jslot global s
  | .tlbiAll cl global => Sys2Proof.Machine.execTlbiAll cl global s
  | .tlbiComplete cl => Sys2Proof.Machine.execTlbiComplete cl s
  | .pageMoveGo cl size => Sys2Proof.Machine.execPageMoveGo cl size s
  | .pageMoveComplete cl => Sys2Proof.Machine.execPageMoveComplete cl s
  | .preempt cl v => Sys2Proof.Machine.execPreempt cl v s
  | .preemptionTake x => Sys2Proof.Machine.execPreemptionTake x s
  | .preload x crec => Sys2Proof.Machine.execPreload x crec s
  | .qctlWrite q v => Sys2Proof.Machine.execQctlWrite q v s
  | .cancel q => Sys2Proof.Machine.execCancel q s
  | .queueMakeResident q => Sys2Proof.Machine.execQueueMakeResident q s
  | .jobTableWrite ld ix e => Sys2Proof.Machine.execJobTableWrite ld ix e s
  | .jobSlotUpdate cl slot => Sys2Proof.Machine.execJobSlotUpdate cl slot s
  | .busRetry die ch group pass => Sys2Proof.Machine.execBusRetry die ch group pass s
  | .busDiagnosisComplete die ch lanes pass => Sys2Proof.Machine.execBusDiagnosisComplete die ch lanes pass s
  | .reheatReplay c matrix again => Sys2Proof.Machine.execReheatReplay c matrix again s
  | .dieLinkDown a b => Sys2Proof.Machine.execDieLinkDown a b s
  | .lehrMigrate cl team target => Sys2Proof.Machine.execLehrMigrate cl team target s
  | .lmsgRead cl => Sys2Proof.Machine.execLmsgRead cl s
  | .controlRegisterWrite cl off v => Sys2Proof.Machine.execControlRegisterWrite cl off v s
  | .gafferAccess cl mode addr n op => Sys2Proof.Machine.execGafferAccess cl mode addr n op s
  | .railChangeComplete cl => Sys2Proof.Machine.execRailChangeComplete cl s
  | .clusterFailure cl => Sys2Proof.Machine.execClusterFailure cl s
  | .teamMoveComplete cl team vbase => Sys2Proof.Machine.execTeamMoveComplete cl team vbase s
  | .reservedOpcode slot word field => Sys2Proof.Machine.execReservedOpcode slot word field s
  | .getVersion => Sys2Proof.Machine.execGetVersion s
  | .getCapabilities => Sys2Proof.Machine.execGetCapabilities s
  | .negotiateAlgorithms => Sys2Proof.Machine.execNegotiateAlgorithms s
  | .getDigests => Sys2Proof.Machine.execGetDigests s
  | .getCertificate => Sys2Proof.Machine.execGetCertificate s
  | .challenge => Sys2Proof.Machine.execChallenge s
  | .getMeasurements => Sys2Proof.Machine.execGetMeasurements s
  | .keyExchange => Sys2Proof.Machine.execKeyExchange s
  | .finish => Sys2Proof.Machine.execFinish s
  | .endSession => Sys2Proof.Machine.execEndSession s
  | .heartbeat => Sys2Proof.Machine.execHeartbeat s
  | .keyUpdate => Sys2Proof.Machine.execKeyUpdate s
  | .sessionExpiry => Sys2Proof.Machine.execSessionExpiry s
  | .lockInterfaceRequest => Sys2Proof.Machine.execLockInterfaceRequest s
  | .getDeviceInterfaceReport => Sys2Proof.Machine.execGetDeviceInterfaceReport s
  | .getDeviceInterfaceState => Sys2Proof.Machine.execGetDeviceInterfaceState s
  | .startInterfaceRequest => Sys2Proof.Machine.execStartInterfaceRequest s
  | .stopInterfaceRequest => Sys2Proof.Machine.execStopInterfaceRequest s
  | .fmBind => Sys2Proof.Machine.execFmBind s
  | .hostMemoryWrite => Sys2Proof.Machine.execHostMemoryWrite s
  | .hostMemoryRead => Sys2Proof.Machine.execHostMemoryRead s
  | .linkDown => Sys2Proof.Machine.execLinkDown s
  | .completionTimeout => Sys2Proof.Machine.execCompletionTimeout s
  | .hostDeadReport => Sys2Proof.Machine.execHostDeadReport s
  | .warmRestart => Sys2Proof.Machine.execWarmRestart s
  | .linkUp => Sys2Proof.Machine.execLinkUp s
  | .rebind => Sys2Proof.Machine.execRebind s
  | .freeze => Sys2Proof.Machine.execFreeze s
  | .thaw => Sys2Proof.Machine.execThaw s
  | .partitionDestroy => Sys2Proof.Machine.execPartitionDestroy s
  | .ldctlWrite => Sys2Proof.Machine.execLdctlWrite s
  | .patrolScrub => Sys2Proof.Machine.execPatrolScrub s
  | .dieLinkReroute => Sys2Proof.Machine.execDieLinkReroute s
  | .lehrPredict => Sys2Proof.Machine.execLehrPredict s
  | .lehrMeasure => Sys2Proof.Machine.execLehrMeasure s
  | .lehrUndoStep => Sys2Proof.Machine.execLehrUndoStep s
  | .fastThrottle => Sys2Proof.Machine.execFastThrottle s
  | .fastThrottleEnd => Sys2Proof.Machine.execFastThrottleEnd s
  | .pcapWrite => Sys2Proof.Machine.execPcapWrite s
  | .fprioWrite => Sys2Proof.Machine.execFprioWrite s
  | .talarmWrite => Sys2Proof.Machine.execTalarmWrite s
  | .moduleReset => Sys2Proof.Machine.execModuleReset s
  | .recoveryImage => Sys2Proof.Machine.execRecoveryImage s
  | .lockedRegisterError => Sys2Proof.Machine.execLockedRegisterError s
  | .waveSumsArrival => Sys2Proof.Machine.execWaveSumsArrival s

end Sys2Proof.Machine
end

