-- ==== Sys2Proof/Machine/Tick.lean ====
section
/-! DEFINITION. The reference tick: the counts that it moves, and what a rule in ticks makes happen at its end (R5, R28, R45, R47, R50,
R51, R294, R306, R308, R311, R342, R343, R352, R362; log entries 4 and 98). -/

namespace Sys2Proof.Machine

/-- The state after an event, unchanged where it cannot happen. -/
def State.tryRun (s : State) (ev : State → Out) : State :=
  match ev s with
  | .next t => t
  | _ => s

/-- Every continuation's home: its context, or its saved image. -/
def State.homes (s : State) : List Home :=
  s.clusters.flatMap fun c =>
    (c.2.cores.flatMap fun o => o.2.ctxs.map fun y => Home.live ⟨c.1, o.1, y.1⟩)
      ++ c.2.saved.filterMap fun e => e.2.map fun _ => Home.saved c.1 e.1

/-! ## Waits (R43 to R47) -/

/-- The test of a wait at the end of a tick: under all-of it latches what it finds, and the first of the ticks at whose end the wait has
been complete in time is noted. -/
def State.noteWait (s : State) (h : Home) : State :=
  match s.home h with
  | none => s
  | some c => match c.wait with
    | none => s
    | some w0 =>
      let w := s.waitOf h w0
      let w' : WaitSt := { w with
        wsat := if w.all && w.quiet.isNone then s.waitSat h c w else w.wsat
        met := if s.waitDone h c w then some (w.met.getD s.tick) else none }
      if s.waitTests h && s.inTime w && decide (w' ≠ w) then s.latch h w' else s

/-- A wait that has been complete for 200 ticks ends, and so does one whose time-out passed as long ago (R45, R47). -/
def State.dueWait (s : State) (h : Home) : State :=
  match s.home h with
  | none => s
  | some c => match c.wait with
    | none => s
    | some w =>
      if w.met.any fun t => decide (t + 200 ≤ s.tick) then s.tryRun (execWaitWake h)
      else if (s.waitOf h w).deadline.any fun t => decide (t + 200 ≤ s.tick) then s.tryRun (execWaitTimeout h)
      else s

/-! ## Writes (R50, R352) -/

/-- Whether a pending access writes the vault. -/
def PKind.isWrite : PKind → Bool
  | .store _ _ => true
  | .storeV _ _ => true
  | .atomic _ _ _ _ => true
  | .sinit _ => true
  | _ => false

/-- A write of the vault 1,000 ticks after its issue. -/
def Pend.overdue (p : Pend) (tick : Nat) : Bool := p.kind.isWrite && decide (p.at_ + 1000 ≤ tick)

/-- The queue stores at `.sy` of a home, by queue, that go to host memory and were issued 2,000 ticks ago (R352). -/
def State.lateStores (s : State) (h : Home) (c : Ctx) : List (Nat × QEnt) :=
  c.queues.flatMap fun q => (q.2.filter fun e => !e.kind.isLoad && e.stage == .waiting && e.sc == .sy && decide (e.at_ + 2000 ≤ s.tick)
    && (s.entPa h c e).all fun pa => decide (dramTop ≤ pa)).map fun e => (q.1, e)

/-- The access to perform for the overdue writes of a home: one of them, or one that stands before one of them or before a late queue store
that releases. -/
def State.overdueAt (s : State) (h : Home) (c : Ctx) : Option Nat :=
  let can (f : Pend → Bool) (i : Nat) : Bool := (c.fl.pend[i]?).any fun p => f p && s.canPerform c p
  let is_ := List.range c.fl.pend.length
  match is_.find? (can fun p => p.overdue s.tick) with
  | some i => some i
  | none => is_.find? (can fun p => (c.fl.pend.any fun w => w.overdue s.tick && decide (p.serial < w.serial))
      || (s.lateStores h c).any fun w => w.2.ord == .rel && decide (p.serial < w.2.serial))

/-- Performs the overdue writes of a home, `n` accesses at most. -/
def State.duePerform (s : State) (h : Home) : Nat → State
  | 0 => s
  | n + 1 => match (s.home h).bind (s.overdueAt h) with
    | none => s
    | some i => (s.tryRun (execAccessPerform h i)).duePerform h n

/-- Whether a queue request must go for a late store to go: it is that store, or stands before it in its queue, or before a release, or
may name its bytes (R63, R65, R202). -/
def QEnt.goesBefore (q : Nat) (e : QEnt) (w : Nat × QEnt) : Bool :=
  e.serial == w.2.serial || (decide (e.serial < w.2.serial)
    && (q == w.1 || w.2.ord == .rel || decide (e.ea % 4096 < w.2.ea % 4096 + w.2.bytes ∧ w.2.ea % 4096 < e.ea % 4096 + e.bytes)))

/-- The first request of a queue that an overdue release, or a late store to the host, waits for. -/
def State.heldBack (s : State) (h : Home) (c : Ctx) (q : Nat) : Option Nat :=
  (List.range (c.queue q).length).find? fun i => ((c.queue q)[i]?).any fun e =>
    e.open_ && ((c.fl.pend.any fun w => w.overdue s.tick && w.releases && decide (e.serial < w.serial))
      || (s.lateStores h c).any (e.goesBefore q))

/-- The walk that translates a queue request of a home, and the cluster that serves it. -/
def walkOf (q i : Nat) : Home → Nat × WalkFor
  | .live x => (x.cl, .queue x q i)
  | .saved cl crec => (cl, .saved cl crec q i)

/-- Translates and performs the requests of a queue that overdue writes of a home wait for, `n` of them at most. -/
def State.dueQueue (s : State) (h : Home) (q : Nat) : Nat → State
  | 0 => s
  | n + 1 => match (s.home h).bind fun c => s.heldBack h c q with
    | none => s
    | some i =>
      let w := walkOf q i h
      let s := (s.tryRun (execPageWalk w.1 w.2)).tryRun (execPageWalk w.1 w.2)
      (s.tryRun (execQueueDataArrival h q i)).dueQueue h q n

/-- Performs what is overdue of a home. Traffic held while a die link is rerouted is late by a fault (R50, R374). -/
def State.dueWrites (s : State) (h : Home) : State :=
  if s.rerouting then s
  else
    let n := ((s.home h).map fun c => c.fl.pend.length).getD 0
    let s := s.duePerform h n
    if (s.home h).any fun c => (c.fl.pend.any fun w => w.overdue s.tick && w.releases) || !(s.lateStores h c).isEmpty then
      ((List.range 8).foldl (fun s q => s.dueQueue h q 16) s).duePerform h n
    else s

/-- The parts of `.sy` transfers that have host memory still to write, 2,000 ticks after the first part: core, channel, identifier,
request, and the writes left (R352). -/
def State.lateParts (s : State) : List (CoreId × Nat × Nat × Nat × Nat) :=
  s.clusters.flatMap fun c => c.2.cores.flatMap fun o => o.2.mx.cmds.flatMap fun k => match k.kind with
    | .gcopy ch id .sy _ => (k.parts.filter fun p => decide (p.at_ + 2000 ≤ s.tick)
        && p.late.any fun g => g.pa.any fun pa => decide (dramTop ≤ pa)).map fun p => (⟨c.1, o.1⟩, ch, id, p.req, p.late.length)
    | _ => []

/-- Lands the rest of a request, in at most `n` further parts. -/
def State.landRest (s : State) (c : CoreId) (ch id req : Nat) : Nat → State
  | 0 => s
  | n + 1 =>
    if ((s.core c).mx.transfer ch id).any fun k => k.parts.any fun p => p.req == req then
      (s.tryRun (execGatherSectorLand c ch id req)).landRest c ch id req n
    else s

/-- Late parts land. -/
def State.dueParts (s : State) : State := s.lateParts.foldl (fun s p => s.landRest p.1 p.2.1 p.2.2.1 p.2.2.2.1 p.2.2.2.2) s

/-- The first arrival that is overdue. -/
def State.overdueArrival (s : State) : Option (Nat × Arrival) :=
  (List.range s.arrivals.length).findSome? fun i => (s.arrivals[i]?).bind fun a => if a.at_ + 1000 ≤ s.tick then some (i, a) else none

/-- Applies overdue arrivals, `n` at most. -/
def State.dueArrivals (s : State) : Nat → State
  | 0 => s
  | n + 1 => match s.overdueArrival with
    | none => s
    | some (i, a) => (s.tryRun (if a.err.isSome then execSyncErrorArrival i else execSyncArrival i)).dueArrivals n

/-! ## Placement (R51) -/

/-- The first place of a cluster for a record. -/
def State.placeFor (s : State) (cl crec : Nat) : Option (CtxId × Nat) :=
  ((List.range 32).map fun k => (⟨cl, k / 4, k % 4⟩ : CtxId)).findSome? fun x => (s.baseFor x crec).map fun b => (x, b)

/-- A cluster's items not yet created whose priority has reached 8 (R36). -/
def State.dueItems (s : State) (cl : Nat) : List Nat :=
  ((s.itemsLeft cl).filter fun t => (s.itemKey t.2).1 == 8).map Prod.fst

/-- While a record or an item of effective priority 8 waits, a park releases its context to it at once. -/
def State.dueEvict (s : State) (cl : Nat) : State :=
  if ((s.readyOf cl).any fun r => s.effPrio r == 8) || !(s.dueItems cl).isEmpty then s.tryRun (execEviction cl) else s

/-- An item whose priority has reached 8 gets its record, where a context could take it. -/
def State.dueCreate (s : State) (cl : Nat) : State := (s.dueItems cl).foldl (fun s t => s.tryRun (execItemCreate cl t)) s

/-- A record whose effective priority has reached 8 takes the context that is free for it. -/
def State.duePlace (s : State) (cl : Nat) : State :=
  match (s.readyOf cl).find? fun r => s.effPrio r == 8 && !s.comesFirst cl (s.recKey r) && (s.placeFor cl r).isSome with
  | none => s
  | some r => match s.placeFor cl r with
    | none => s
    | some (x, b) => s.tryRun (execContinuationPlace x r b)

/-! ## Job slots and queues (R308, R311) -/

/-- A change of the job table reaches a slot after 1,000 ticks at the latest. -/
def State.dueSlots (s : State) : State :=
  s.clusters.foldl (fun s c => c.2.jobs.foldl (fun s j =>
    if j.2.stale.any fun t => decide (t + 1000 ≤ s.tick) then s.tryRun (execJobSlotUpdate c.1 j.1) else s) s) s

/-- A queue becomes resident 1,000 ticks after its first untaken record at the latest. -/
def State.dueResident (s : State) : State :=
  s.wqs.foldl (fun s w => if !w.2.resident && w.2.since.any fun t => decide (t + 1000 ≤ s.tick) then s.tryRun (execQueueMakeResident w.1) else s) s

/-! ## Page moves (R343) -/

/-- The page-move engine of a cluster goes on: a free number of further parts is read and written as they stand. -/
def State.movePages (s : State) (cl : Nat) : State :=
  let c := s.cl cl
  match c.pmBusy with
  | none => s
  | some k =>
    let n := Nat.min (Config.pageMoveSplit s.draws) (c.pmN / 64 - k)
    if s.pmGoes cl (c.pmFrom + 64 * k) (c.pmTo + 64 * k) (64 * n) then
      (s.draw.moveParts cl c.pmFrom c.pmTo k n).modCl cl fun c => { c with pmBusy := some (k + n) }
    else s.draw

/-! ## The tick (R5, R294) -/

/-- BUDGET and the ticks used of a resident continuation that is not stopped. -/
def Priv.ticked (p : Priv) : Priv :=
  if p.st = .idle ∨ p.stopped = true then p
  else { p with used := p.used + 1, budget := p.budget - 1, overrun := p.overrun || p.budget == 1 }

def Core.ticked (o : Core) : Core := { o with ctxs := o.ctxs.map fun e => (e.1, { e.2 with pr := e.2.pr.ticked }) }
def Cluster.ticked (c : Cluster) : Cluster := { c with cores := c.cores.map fun e => (e.1, e.2.ticked) }

/-- The tick count, every BUDGET and the cycles that counters count; contexts of a failed cluster or of an isolated die have stopped
(R371, R374). -/
def State.counted (s : State) : State :=
  { s.draw with
    tick := s.tick + 1
    clusters := s.clusters.map fun e => (e.1, (if s.clusterRuns e.1 then e.2.ticked else e.2).pass s.draws e.1 s.power.fast) }

/-- What a tick brings to the clusters once it has been counted. -/
def State.clustersDue (s : State) : State :=
  (s.clusters.map Prod.fst).foldl (fun s cl => ((((s.dueEvict cl).dueCreate cl).duePlace cl).movePages cl).failDoomed cl) s

/-- Rerouting around a die link lasts 10 µs at most (R374). -/
def State.dueReroute (s : State) : State :=
  if s.rerouting && decide (s.rerouteTick + 1000 ≤ s.tick) then { s with rerouting := false } else s

/-- What has to happen by the end of a tick, once it has been counted. -/
def State.dueAll (s : State) : State :=
  let s := s.homes.foldl (fun s h => (s.dueWait h).dueWrites h) s
  let s := if s.rerouting then s else s.dueParts.dueArrivals s.arrivals.length
  (((((s.dueSlots.dueResident).faultLeave.clustersDue).retireGone).expireAll).dueReroute)

/-- All of that happens at the tick that has been counted: none of it moves TICK (R163). -/
def State.due (s : State) : State := { s.dueAll with tick := s.tick }

/-- The reference tick: waits are tested at the end of the one before, the tick is counted, and what is due happens. -/
def State.ticked (s : State) : State := (s.homes.foldl State.noteWait s).counted.due

end Sys2Proof.Machine
end

