-- ==== Sys2Proof/WellFormed.lean ====
section
/-! DEFINITION. Which instructions are well formed: what the entries allow beyond the widths of the fields, and
that one header kind can carry what the slot asks of its lent byte (R119, R126 to R130). -/

namespace Sys2Proof

/-- A loop flag names a level 0 to 5 (R127). -/
def LoopFlag.ok : LoopFlag → Bool
  | .always => true
  | .first n => decide (n.toNat < 6)
  | .last n => decide (n.toNat < 6)

def Cond.ok (c : Cond) : Bool := c.loop.ok

/-- Clusters, cores and contexts that exist (R4). -/
def CoreId.ok (c : CoreId) : Bool := decide (c.cl < 192 ∧ c.core < 8)
def CtxId.ok (x : CtxId) : Bool := decide (x.cl < 192 ∧ x.core < 8 ∧ x.cx < 4)
def Home.ok : Home → Bool
  | .live x => x.ok
  | .saved cl crec => decide (cl < 192 ∧ crec < 2 ^ 34)

/-- Float types only may ask for a rounding override; integer types and `.add` only for saturation (R178). -/
def vRound (t : VType) (rm : Rm) : Bool := t.isFloat || rm == .rne

/-- What an entry asks of an instruction's fields beyond their widths. -/
def fieldsOk : Instr → Bool
  | .permit _ mask => mask != 0
  | .ext c _ _ pos len => c.ok && decide (pos.toNat + len.toNat + 1 ≤ 64)
  | .ins c _ _ pos len => c.ok && decide (pos.toNat + len.toNat + 1 ≤ 64)
  | .lih c ext _ imm => c.ok && (ext || decide (imm.toNat < 2 ^ 16))
  | .fcvt c dst src _ _ _ _ => c.ok && !(dst == src) && !(dst.isInt && src.isInt)
  | .vadd c t rm _ _ _ _ => c.ok && vRound t rm
  | .vsub c t rm _ _ _ _ => c.ok && vRound t rm
  | .vmul c t rm _ _ _ _ => c.ok && vRound t rm
  | .vfma c t rm _ _ _ _ => c.ok && vRound t rm
  | .vshl c t _ _ _ => c.ok && !t.isFloat
  | .vshr c t _ _ _ => c.ok && !t.isFloat
  | .vsar c t _ _ _ => c.ok && !t.isFloat
  | .vabs c t sat _ _ => c.ok && !(t.isFloat && sat)
  | .vneg c t sat _ _ => c.ok && !(t.isFloat && sat)
  | .vcvt c dst src rm _ _ _ hp =>
    c.ok && !(dst == src) && decide (hp.toNat < vcvtParts dst src) && (dst.isFloat || src.isFloat || rm == .rne)
  | .vcmp c k t _ _ _ => c.ok && !(k == .un && !t.isFloat)
  | .vred c k t rm sat _ _ =>
    c.ok && t.width == 32 && !(t.isFloat && !(k == .add || k == .min || k == .max))
      && (rm == .rne || (k == .add && t.isFloat)) && (!sat || (k == .add && !t.isFloat))
  | .vext c t _ _ _ => c.ok && t.width == 32
  | .vins c t _ _ _ => c.ok && t.width == 32
  | .vexp2 c t _ _ _ => c.ok && t.isFloat
  | .vrcp c t _ _ _ => c.ok && t.isFloat
  | .vrsq c t _ _ _ => c.ok && t.isFloat
  | .viota c t _ => c.ok && !t.isFloat
  | .viotaRank c t _ => c.ok && !t.isFloat && t.width == 32
  | .qpop c cls d _ => c.ok && !(cls && decide (32 ≤ d.toNat))
  | .mdrn c _ _ pkEn pk _ _ _ _ _ _ => c.ok && (pkEn || pk == 0)
  | .mstat c k _ cn => c.ok && !(k == .nest && cn != 0)
  | .xred c k t _ _ _ _ => c.ok && !(t.isFloat && !(k == .add || k == .min || k == .max))
  | .regionLengthRollback x => x.ok | .heldCommandIssue x => x.ok | .doneComplete x => x.ok
  | .push ld off bytes => decide (ld < 16 ∧ off < 2 ^ 24) && decide (bytes.length ≤ 256)
  | .dependenceMet _ d => decide (d < 4)
  | .teamCreate _ cl vbase => decide (cl < 192 ∧ vbase < 2 ^ 34)
  | .itemCreate cl _ => decide (cl < 192)
  | .continuationPlace x crec base => x.ok && decide (crec < 2 ^ 34 ∧ base < 2 ^ 20)
  | .contextSelect c => c.ok | .quantumExpiry x => x.ok | .stallTimeout x => x.ok
  | .registerFill h _ => h.ok | .eviction cl => decide (cl < 192) | .waitWake h => h.ok | .waitTimeout h => h.ok
  | .loopIterationEnd x => x.ok | .accessPerform h _ => h.ok
  | .queueDataArrival h q _ => h.ok && decide (q < 8)
  | .ringSlotAcquire c r => c.ok && decide (r < 8)
  | .trackerRelease c _ => c.ok | .matrixPassStart c => c.ok | .matrixPassRetire c => c.ok
  | .tileWindowClose c t => c.ok && decide (t < 8) | .tstatUpdate c t => c.ok && decide (t < 8)
  | .weightLoadStart c _ => c.ok | .weightLoadLand c _ => c.ok | .drainLand c _ => c.ok | .deferredTrap x => x.ok
  | .gatherSectorLand c ch _ _ => c.ok && decide (ch < 4)
  | .gatherTransferComplete c ch _ => c.ok && decide (ch < 4)
  | .marverEntryStart cl p => decide (cl < 192 ∧ p < 4) | .marverEntryLand cl p => decide (cl < 192 ∧ p < 4)
  | .xsendDeliver _ cl => decide (cl < 192)
  | .breakpointStop x => x.ok | .ctxctlStopreq x _ => x.ok | .contextStop x => x.ok
  | .replay x => x.ok | .next x => x.ok | .replaynb x => x.ok | .redirect x => x.ok
  | .trapRecordEnqueue cl => decide (cl < 192) | .svcAnswer cl _ => decide (cl < 192)
  | .smaskWrite cl _ => decide (cl < 192) | .railWrite cl _ => decide (cl < 192)
  | .dbgdataRead c => c.ok | .dbgdataWrite c _ => c.ok | .dbgfeWrite c _ => c.ok | .budgetOverrun x => x.ok
  | .pageWalk cl _ => decide (cl < 192) | .faultRecordEnqueue cl => decide (cl < 192)
  | .retry cl _ => decide (cl < 192) | .fail cl _ => decide (cl < 192)
  | .tlbiPages cl _ _ _ => decide (cl < 192) | .tlbiJobSlot cl _ _ => decide (cl < 192) | .tlbiAll cl _ => decide (cl < 192)
  | .tlbiComplete cl => decide (cl < 192) | .pageMoveGo cl _ => decide (cl < 192) | .pageMoveComplete cl => decide (cl < 192)
  | .preempt cl _ => decide (cl < 192) | .preemptionTake x => x.ok | .preload x crec => x.ok && decide (crec < 2 ^ 34)
  | .qctlWrite q _ => decide (q < 4096) | .cancel q => decide (q < 4096) | .queueMakeResident q => decide (q < 4096)
  | .jobTableWrite ld ix _ => decide (ld < 16 ∧ ix < 256) | .jobSlotUpdate cl k => decide (cl < 192 ∧ k < 16)
  | .busRetry die ch group _ => decide (die < 16 ∧ ch < 64 ∧ group < 8)
  | .busDiagnosisComplete die ch _ _ => decide (die < 16 ∧ ch < 64)
  | .reheatReplay c _ _ => c.ok | .dieLinkDown a b => decide (a < 16 ∧ b < 16)
  | .lehrMigrate cl _ target => decide (cl < 192 ∧ target < 192) | .lmsgRead cl => decide (cl < 192)
  | .controlRegisterWrite cl off _ => decide (cl ≤ 193 ∧ off < 2 ^ 24)
  | .gafferAccess cl _ _ n _ => decide (cl < 192) && (n == 1 || n == 2 || n == 4 || n == 8)
  | .railChangeComplete cl => decide (cl < 192) | .clusterFailure cl => decide (cl < 192)
  | .teamMoveComplete cl _ vbase => decide (cl < 192 ∧ vbase < 2 ^ 34)
  | .reservedOpcode slot w field => w != 0 && (opListed slot (fldN w 26 6) == field)
  | _ => true

/-- The condition of a slot instruction, for those that carry one. -/
def condOf : Instr → Option Cond
  | .add c _ _ _ => some c | .sub c _ _ _ => some c | .and c _ _ _ => some c | .or c _ _ _ => some c
  | .xor c _ _ _ => some c | .andn c _ _ _ => some c | .shl c _ _ _ => some c | .shr c _ _ _ => some c
  | .sar c _ _ _ => some c | .mul c _ _ _ => some c | .mulh c _ _ _ => some c | .mulhu c _ _ _ => some c
  | .div c _ _ _ => some c | .divu c _ _ _ => some c | .rem c _ _ _ => some c | .remu c _ _ _ => some c
  | .min c _ _ _ => some c | .max c _ _ _ => some c | .minu c _ _ _ => some c | .maxu c _ _ _ => some c
  | .cmp c _ _ _ _ => some c | .sel c _ _ _ _ => some c | .addi c _ _ _ => some c | .andi c _ _ _ => some c
  | .ori c _ _ _ => some c | .xori c _ _ _ => some c | .shli c _ _ _ => some c | .shri c _ _ _ => some c
  | .sari c _ _ _ => some c | .li c _ _ => some c | .lih c _ _ _ => some c | .clz c _ _ => some c | .popc c _ _ => some c
  | .ext c _ _ _ _ => some c | .ins c _ _ _ _ => some c | .lea c _ _ _ _ => some c | .leai c _ _ _ => some c
  | .amovSToA c _ _ => some c | .amovAToS c _ _ => some c | .plog c _ _ _ _ => some c | .widf c _ _ _ => some c
  | .widfTeam c _ _ => some c | .widfRank c _ _ => some c | .fadd c _ _ _ _ _ => some c | .fsub c _ _ _ _ _ => some c
  | .fmul c _ _ _ _ _ => some c | .ffma c _ _ _ _ _ => some c | .fmin c _ _ _ _ => some c | .fmax c _ _ _ _ => some c
  | .fcmp c _ _ _ _ _ => some c | .fcvt c _ _ _ _ _ _ => some c
  | .vadd c _ _ _ _ _ _ => some c | .vsub c _ _ _ _ _ _ => some c | .vmul c _ _ _ _ _ _ => some c | .vfma c _ _ _ _ _ _ => some c
  | .vmin c _ _ _ _ => some c | .vmax c _ _ _ _ => some c | .vand c _ _ _ _ => some c | .vor c _ _ _ _ => some c
  | .vxor c _ _ _ _ => some c | .vshl c _ _ _ _ => some c | .vshr c _ _ _ _ => some c | .vsar c _ _ _ _ => some c
  | .vabs c _ _ _ _ => some c | .vneg c _ _ _ _ => some c | .vcvt c _ _ _ _ _ _ _ => some c | .vcmp c _ _ _ _ _ => some c
  | .vsel c _ _ _ _ => some c | .vred c _ _ _ _ _ _ => some c | .vbcast c _ _ _ => some c | .vext c _ _ _ _ => some c
  | .vins c _ _ _ _ => some c | .vperm c _ _ _ => some c | .vexp2 c _ _ _ _ => some c | .vrcp c _ _ _ _ => some c
  | .vrsq c _ _ _ _ => some c | .vamax c _ _ => some c | .kpush c _ => some c | .kinv c => some c | .kpop c => some c
  | .ktop c _ => some c | .vld c _ _ _ _ => some c | .vst c _ _ _ => some c | .vlds c _ _ _ => some c | .vsts c _ _ _ => some c
  | .vgth c _ _ _ => some c | .vsct c _ _ _ => some c | .ldl c _ _ _ _ _ => some c | .stl c _ _ _ _ => some c
  | .viota c _ _ => some c | .viotaRank c _ _ => some c
  | .ld c _ _ _ _ _ _ _ => some c | .st c _ _ _ _ _ _ => some c | .ldv c _ _ _ _ _ _ => some c | .stv c _ _ _ _ _ => some c
  | .qld c _ _ _ _ _ _ _ => some c | .qvld c _ _ _ _ _ _ => some c | .qpop c _ _ _ => some c | .qst c _ _ _ _ _ _ _ => some c
  | .qvst c _ _ _ _ _ _ => some c | .atadd c _ _ _ _ _ _ => some c | .atand c _ _ _ _ _ _ => some c | .ator c _ _ _ _ _ _ => some c
  | .atxor c _ _ _ _ _ _ => some c | .atmin c _ _ _ _ _ _ => some c | .atmax c _ _ _ _ _ _ => some c | .atswp c _ _ _ _ _ _ => some c
  | .atcas c _ _ _ _ _ _ => some c | .atincw c _ _ _ _ _ _ => some c | .atbadd c _ _ _ _ _ _ => some c
  | .atfadd c _ _ _ _ _ _ _ => some c | .sinit c _ _ _ _ => some c | .sarv c _ _ _ _ _ => some c | .bfacq c _ _ => some c
  | .bfrel c _ _ => some c | .gcopy c _ _ _ _ => some c | .mnest c _ => some c | .mprec c _ _ => some c | .mwld c _ _ _ _ => some c
  | .mma c _ _ _ _ _ _ => some c | .mdrn c _ _ _ _ _ _ _ _ _ _ => some c | .mpert c _ _ _ _ => some c | .mstat c _ _ _ => some c
  | .xsend c _ _ _ _ _ => some c | .xst c _ _ _ _ _ _ => some c | .xld c _ _ _ _ _ _ => some c | .xred c _ _ _ _ _ _ => some c
  | _ => none

/-- Whether an instruction stands in a slot of a bundle; the others are the machine's own steps and the outside world's. -/
def Instr.inSlot (i : Instr) : Bool :=
  (condOf i).isSome || (encodeSlot .none i).isSome || (match i with
    | .reservedOpcode _ _ _ => true
    | _ => false)

/-- Some header kind can carry what a slot instruction asks of its lent byte (R126 to R130). -/
def carried (i : Instr) : Bool :=
  match condOf i with
  | none => true
  | some c =>
    c.ok && [Hdr.none, .extend, .loop, .modifier].any fun h =>
      match encodeSlot h i with
      | some e => !orphan e.slot h e.byte e.word
      | none => false

/-- A well-formed instruction. -/
def Instr.wf (i : Instr) : Bool := fieldsOk i && carried i

end Sys2Proof
end

