-- ==== Sys2Proof/Machine/Issue.lean ====
section
/-! DEFINITION. A turn of the machine: a core issuing its running context's next bundle, the reference tick, an event, a
request, a host's store, an error that a code finds; and the order in which what falls on a bundle boundary is taken (R9,
R33, R39 to R42, R111, R131, R132, R139, R140, R200, R231, R288, R294, R322, R323). -/

namespace Sys2Proof.Machine

/-! ## Bundle-level causes (R41, R127, R131, R140 step 2, R200) -/

/-- Whether the sequencer is in its kernel. -/
def Ctx.inKernel (c : Ctx) : Bool := c.loop.any fun l => l.phase == .ker

/-- The loop flag that a header lends to slot `k`; the lent byte of an unlisted opcode means nothing (R127, R128). -/
def slotFlag (b : Bundle) (k : Nat) (i : Instr) : LoopFlag :=
  match i with
  | .reservedOpcode _ _ false => .always
  | _ => (dCond b.hdr (fld b.w0 (8 * (k - 1)) 8) 0).loop

/-- Whether a slot's loop flag names a level at or above NLEV. -/
def badLevel (c : Ctx) (f : LoopFlag) : Bool :=
  match f, c.loop with
  | .first n, some l => decide (l.nlev ≤ n.toNat)
  | .last n, some l => decide (l.nlev ≤ n.toNat)
  | _, _ => false

/-- What slot 0 may hold while a loop runs: NOP, or LEXIT in the kernel (R41), or one that does nothing, its predicate being false
(R155); an unlisted opcode raises its own cause. -/
def loopAllows (c : Ctx) (i : Instr) : Bool :=
  match i with
  | .nop => true
  | .lexit p => c.inKernel || !c.regs.pv p.toNat
  | .reservedOpcode _ _ _ => true
  | _ => c.loop.isNone

/-- The first bundle-level cause 0x01 of a bundle in a context, as the slot that it is recorded against: slot 0 for a loop byte with both
flags and for loop bits lent outside a kernel bundle, where R127, R128 and R41 leave the slot open (log entry 97). -/
def bundleFault (c : Ctx) (b : Bundle) : Option Nat :=
  if b.hdr = .kind11 then some 0
  else if b.orph.isSome then b.orph
  else if c.dslot ≠ 0 ∧ notDelayed b.c = true then some 0
  else if b.dup.isSome then b.dup
  else if b.hdr = .loop ∧ c.inKernel = false then some 0
  else if badLevel c (slotFlag b 1 b.s) then some 1
  else if badLevel c (slotFlag b 2 b.v) then some 2
  else if badLevel c (slotFlag b 3 b.m) then some 3
  else if b.both || !loopAllows c b.c then some 0
  else none

/-! ## Issuing one bundle -/

/-- The slot meaning of an instruction inside the bundle in flight. -/
def State.runIn (s : State) (i : Instr) : State :=
  match exec i s with
  | .next t => t
  | _ => s

def decodeWords (n : Nat) : Bundle :=
  decodeBundle (BitVec.ofNat 32 n) (BitVec.ofNat 32 (n / 2 ^ 32)) (BitVec.ofNat 32 (n / 2 ^ 64)) (BitVec.ofNat 32 (n / 2 ^ 96))

/-- What a slot runs: nothing where its loop flag holds back a word with a field fault, which then raises nothing (R40). -/
def held (c : Ctx) (f : LoopFlag) (i : Instr) : Instr :=
  match i with
  | .reservedOpcode _ _ _ => if loopRuns c.loop f then i else .nop
  | _ => i

/-- The four slots of a bundle, in order, inside one opened bundle (R8, R139). -/
def State.runBundle (s : State) (x : CtxId) (words : Nat) (b : Bundle) : State :=
  let c := s.ctx x
  ((((s.openBundle x words (isBranch b.c)).runIn b.c).runIn (held c (slotFlag b 1 b.s) b.s)).runIn
    (held c (slotFlag b 2 b.v) b.v)).runIn (held c (slotFlag b 3 b.m) b.m)

/-- Issues a fetched bundle of a context. -/
def State.issueWords (s : State) (x : CtxId) (words : Nat) : State :=
  let b := decodeWords words
  match bundleFault (s.ctx x) b with
  | some k => s.stopBundle (openedBun x (s.ctx x) words (isBranch b.c)) k (.trap 0x01 0)
  | none => closeBundle s (s.runBundle x words b)

/-- A kernel bundle that has been fetched stays in the loop buffer until its LOOP ends (R41, R295). -/
def Ctx.buffered (c : Ctx) (words : Nat) : Ctx :=
  { c with loop := c.loop.map fun l =>
      if l.phase = .ker ∧ l.pos = l.buf.length ∧ l.addr % 2 ^ 64 = c.pc then { l with buf := l.buf ++ [words] } else l }

/-- Whether a context's next bundle comes from its loop buffer. -/
def Ctx.fromBuffer (c : Ctx) : Bool :=
  c.loop.any fun l => l.phase == .ker && decide (l.pos < l.buf.length) && decide (l.addr % 2 ^ 64 = c.pc)

/-- Fetches and issues a context's next bundle; one outside resident code raises cause 0x07, which rolls no region back (R132,
R140 step 1, R224, R298), and an uncorrectable word of the code store cause 0x0C (log entry 100). -/
def State.issueNext (s : State) (x : CtxId) : State :=
  let c := s.ctx x
  if c.fl.holdsAll then s.stall x .acq
  else match s.bundleAt x with
    | none => s.takeTrap x 0x07 0 c.pc c.pc false false c.delayed
    | some words =>
      if !c.fromBuffer && s.fetchBad x.cl c.pr.jslot c.pc then s.stopBundle (openedBun x c words false) 0 (.trap 0x0C c.pc)
      else (s.modCtx x fun c => c.buffered words).issueWords x words

/-! ## What falls on a boundary (R323) -/

/-- The events of a bundle boundary in the order in which they are taken. -/
def boundary (x : CtxId) : List Instr :=
  [.deferredTrap x, .preemptionTake x, .budgetOverrun x, .quantumExpiry x, .loopIterationEnd x, .regionLengthRollback x
   , .breakpointStop x, .contextStop x]

/-- The first of some events that can happen. -/
def State.firstOf (s : State) : List Instr → Option State
  | [] => none
  | i :: rest => match exec i s with
    | .next t => some t
    | _ => s.firstOf rest

/-- Whether a context at a boundary goes on to its next bundle: no pre-emption waits for its engines (R322), and no kernel
iteration waits for its registers (R39). -/
def Ctx.goesOn (c : Ctx) : Bool := !(c.pr.pre.isSome && c.between) && !(c.loop.any fun l => l.due)

/-- A DONE that waits tries again (R31, R345). -/
def State.retryDone (s : State) (x : CtxId) : State := if s.quietCtx x then s.completeDone x else s.stall x .done

/-- The address register that the end of a kernel iteration waits for: the context stalls as on a blocked read (R33, R39). -/
def Ctx.strideWait (c : Ctx) : Option Nat :=
  c.loop.bind fun l => if l.due then l.reads.find? fun r => !(c.regs.ac r).full else none

/-- A core's turn: what falls on the boundary, or else the next bundle. -/
def execIssue (c : CoreId) (s : State) : Host.Outcome State Fault Refusal :=
  match (s.core c).run with
  | none => .refused (.notEnabled "ISSUE")
  | some k =>
    let x : CtxId := ⟨c.cl, c.core, k⟩
    if !s.coreIn c || !(s.ctx x).active || (s.ctx x).pr.st != .running then .refused (.notEnabled "ISSUE")
    else match s.firstOf (boundary x) with
      | some t => .next t
      | none =>
        if (s.ctx x).doneWait then .next (s.retryDone x)
        else match (s.ctx x).strideWait with
          | some r => .next (s.stall x (.reg (.a r)))
          | none => if (s.ctx x).goesOn then .next (({ s with cur := x } : State).issueNext x) else .refused (.notEnabled "ISSUE")

/-! ## Turns -/

/-- A host's store to its own memory. -/
def State.hostStores (s : State) (ld addr : Nat) (b : Byte) : State :=
  { s with hosts := tset [] s.hosts ld (wrMem (s.host ld) addr 1 b.toNat) }

/-- An event of the machine or of the outside: slot instructions run only where a bundle holds them. -/
def execEvent (i : Instr) (s : State) : Host.Outcome State Fault Refusal :=
  if i.inSlot || !i.wf then .refused (.notEnabled "EVENT") else exec i s

def execTurn (t : Turn) (s : State) : Host.Outcome State Fault Refusal :=
  match t with
  | .issue c => execIssue c s
  | .tick => .next s.ticked
  | .event i => execEvent i s
  | .request r i => execEvent i { s with req := r }
  | .hostStore ld addr b => .next (s.hostStores ld addr b)
  | .strike w k => .next (s.strike w k)

/-- A turn that the arbiter draws; where it cannot be, time passes (R5, R391). -/
def State.drawn (s : State) (t : Turn) : State :=
  match execTurn t s with
  | .next u => u
  | _ => s.ticked

/-! ## An instruction where the next step fetches it -/

/-- A lone slot word stands in the slot it is read in; 128 bits are a whole bundle (R111). -/
def bundleOf (nbits w : Nat) : Nat :=
  if nbits = 128 then w % 2 ^ 128
  else match tableSlot (BitVec.ofNat 32 w) with
    | .c => w % 2 ^ 32
    | .s => w % 2 ^ 32 * 2 ^ 32
    | .v => w % 2 ^ 32 * 2 ^ 64
    | .m => w % 2 ^ 32 * 2 ^ 96

/-- A running context at bundle address 0 of job slot 0, at a plain boundary. -/
def Ctx.ready0 (c : Ctx) : Ctx :=
  { c with
    pc := 0, target := none, delay := 0, dslot := 0, loop := none, region := none, wait := none, doneWait := false
    commitSt := none, qres := none
    fl := { c.fl with pend := [], fills := [], defer := [] }
    pr := { c.pr with st := .running, stopped := false, stopreq := false, jslot := 0, pre := none, overrun := false, qcount := 0
                      bpctl := 0, blk := none } }

/-- Core 0 of cluster 0 with its context 0 running, and code page 0 of job slot 0 in data page 0 with the bundle. -/
def Cluster.load0 (c : Cluster) (words : Nat) : Cluster :=
  { c with
    failed := false, switching := false
    cdir := tset 0 c.cdir 0 (2 ^ 63)
    code := wrMem c.code 0 16 words
    codeBad := c.codeBad.filter fun w => decide (2 ≤ w)
    cores := tput c.cores 0 { (c.core 0).setCtx 0 ((c.core 0).ctx 0).ready0 with run := some 0, last := some 0 } }

/-- The instruction where the next step fetches it: a running context, its code and its turn. -/
def State.placeWord (s : State) (nbits w : Nat) : State :=
  { s.modCl 0 (fun c => c.load0 (bundleOf nbits w)) with
    boot := { s.boot with done := true, step := 7, recovery := false, tried := false }
    health := { s.health with isodies := 0 }
    bun := none
    agenda := [.issue ⟨0, 0⟩] }

end Sys2Proof.Machine
end

