-- ==== Sys2Proof/Machine/Step.lean ====
section
/-! DEFINITION. One step of the module, and where a word is placed so that the next step runs it. -/

namespace Sys2Proof.Machine

/-- One step: the turn at the head of the agenda; with no agenda, the next step of an unfinished bring-up (R384), and after
that a turn that the arbiter draws, for the spec fixes no order among independent agents (R5, R391). -/
def step (s : State) : Host.Outcome State Fault Refusal :=
  match s.agenda with
  | t :: rest => execTurn t { s with agenda := rest }
  | [] =>
    if !s.boot.done && !s.boot.recovery then .next s.bringNext
    else .next (s.draw.drawn (Config.arbiter s.draws))

/-- The state with an instruction placed where the next step fetches and runs it. -/
def State.withFetchWord (s : State) (nbits w : Nat) : State := s.placeWord nbits w

end Sys2Proof.Machine
end

