-- ==== Sys2Proof/Safety.lean ====
section
/-! DEFINITION. The terms that claims are stated in: the canonical form of every memory, what a slot of a bundle in flight sees,
what a frame leaves alone, the registers that an instruction writes, and the tables that the statements range over. -/

namespace Sys2Proof.Machine

/-! ## Every memory in its canonical form -/

def Core.memOk (o : Core) : Bool := Memory.wf o.lmem
def Cluster.memOk (c : Cluster) : Bool := Memory.wf c.code && c.cores.all fun e => e.2.memOk
def State.memOk (s : State) : Bool :=
  Memory.wf s.vault && Memory.wf s.dram && s.hosts.all (fun e => Memory.wf e.2) && s.clusters.all fun e => e.2.memOk

/-- Between steps no bundle stands open, and every memory has its canonical form: equal memories are equal data. -/
def State.Inv (s : State) : Prop := s.bun = none ∧ s.memOk = true

/-! ## A slot of the bundle in flight -/

/-- Bundle `b` is in flight, and a slot with condition `c` issues in it (R40, R118, R127). -/
def State.issues (s : State) (b : Bun) (c : Cond) : Prop := s.bun = some b ∧ condRuns c b.pre = true

/-- What that slot sees: the registers as they stood before the bundle (R8). -/
def Bun.env (b : Bun) (c : Cond) : Env := { x := b.x, pre := b.pre, baddr := b.baddr, te := c.te }

/-- The same for a C-slot instruction with predicate `p`. -/
def Bun.cenv (b : Bun) (p : BitVec 3) : Env := b.env (cCond p)

/-! ## The current context at a plain bundle boundary -/

/-- No bundle is in flight, and the current context runs no loop, holds no region, waits for no ATBADD, and stands in no delay
slot. -/
def State.plain (s : State) : Prop :=
  s.bun = none ∧ (s.ctx s.cur).loop = none ∧ (s.ctx s.cur).region = none ∧ (s.ctx s.cur).fl.holdsAll = false
    ∧ (s.ctx s.cur).delay = 0 ∧ (s.ctx s.cur).dslot = 0 ∧ (s.ctx s.cur).target = none

/-- The current context with its next bundle's address. -/
def State.nextPc (s : State) : Nat := ((s.ctx s.cur).pc + 16) % 2 ^ 64

/-- What a C-slot instruction run alone sees. -/
def State.env (s : State) : Env := { x := s.cur, pre := s.ctx s.cur, baddr := (s.ctx s.cur).pc, te := false }

/-- Core `c` is about to issue the next bundle of its running context `k`: nothing falls on the boundary, and neither a waiting DONE, a
loop end that waits for a register, an engine wait nor an unperformed ATBADD holds the context there (R33, R39, R140, R210, R322,
R323). -/
def State.toIssue (s : State) (c : CoreId) (k : Nat) : Prop :=
  let x : CtxId := ⟨c.cl, c.core, k⟩
  (s.core c).run = some k ∧ s.coreIn c = true ∧ (s.ctx x).active = true ∧ (s.ctx x).pr.st = .running ∧ s.firstOf (boundary x) = none
    ∧ (s.ctx x).doneWait = false ∧ (s.ctx x).strideWait = none ∧ (s.ctx x).goesOn = true ∧ (s.ctx x).fl.holdsAll = false

/-! ## Frames -/

/-- Every byte of every memory reads as before. -/
def sameBytes (s t : State) : Prop :=
  (∀ a, rdByte t.vault a = rdByte s.vault a) ∧ (∀ a, rdByte t.dram a = rdByte s.dram a)
    ∧ (∀ ld a, rdByte (t.host ld) a = rdByte (s.host ld) a) ∧ (∀ c a, rdByte (t.core c).lmem a = rdByte (s.core c).lmem a)
    ∧ ∀ k a, rdByte (t.cl k).code a = rdByte (s.cl k).code a

/-- Every byte reads as before but those of one core's L-mem that `p` names. -/
def sameBytesBut (s t : State) (c : CoreId) (p : Nat → Prop) : Prop :=
  (∀ a, rdByte t.vault a = rdByte s.vault a) ∧ (∀ a, rdByte t.dram a = rdByte s.dram a)
    ∧ (∀ ld a, rdByte (t.host ld) a = rdByte (s.host ld) a)
    ∧ (∀ c' a, ¬ (c' = c ∧ p a) → rdByte (t.core c').lmem a = rdByte (s.core c').lmem a)
    ∧ ∀ k a, rdByte (t.cl k).code a = rdByte (s.cl k).code a

/-- Every register but those listed is as before: value, full bit, mark and awaited producer; and the mask stack. -/
def sameRegsBut (ks : List RegRef) (r q : Regs) : Prop :=
  (∀ n, RegRef.s n ∉ ks → q.sc n = r.sc n) ∧ (∀ n, RegRef.a n ∉ ks → q.ac n = r.ac n) ∧ (∀ n, RegRef.v n ∉ ks → q.vc n = r.vc n)
    ∧ (∀ n, RegRef.p n ∉ ks → q.pv n = r.pv n) ∧ q.mask = r.mask ∧ q.depth = r.depth

/-- Everything outside one context is as before, but for the bundle in flight: other contexts, engines, clusters, the module. -/
def sameOutside (s t : State) (x : CtxId) : Prop :=
  (∀ y, y ≠ x → t.ctx y = s.ctx y) ∧ (∀ c, { t.core c with ctxs := [] } = { s.core c with ctxs := [] })
    ∧ (∀ k, { t.cl k with cores := [] } = { s.cl k with cores := [] })
    ∧ { t with clusters := [], bun := none } = { s with clusters := [], bun := none }

/-- Nothing but the listed registers of one context has changed. -/
def onlyRegs (s t : State) (x : CtxId) (ks : List RegRef) : Prop :=
  sameBytes s t ∧ sameOutside s t x ∧ sameRegsBut ks (s.ctx x).regs (t.ctx x).regs
    ∧ { t.ctx x with regs := { } } = { s.ctx x with regs := { } }

/-- The registers of a context, its privileged block and its own control state are as before but for the listed registers; what it
has in flight may have changed. -/
def onlyFlight (s t : State) (x : CtxId) (ks : List RegRef) : Prop :=
  sameBytes s t ∧ sameOutside s t x ∧ sameRegsBut ks (s.ctx x).regs (t.ctx x).regs
    ∧ (t.ctx x).pc = (s.ctx x).pc ∧ (t.ctx x).ct = (s.ctx x).ct ∧ (t.ctx x).pr = (s.ctx x).pr ∧ (t.ctx x).loop = (s.ctx x).loop

/-! ## The destinations of instructions that write nothing but registers -/

/-- The registers that an instruction writes, for those that change nothing else of the machine within their bundle (R113, R117,
R163 to R190). -/
def writesOnly : Instr → Option (List RegRef)
  | .nop => some []
  | .mfc _ sd _ => some [.s sd.toNat]
  | .add _ sd _ _ => some [.s sd.toNat] | .sub _ sd _ _ => some [.s sd.toNat] | .and _ sd _ _ => some [.s sd.toNat]
  | .or _ sd _ _ => some [.s sd.toNat] | .xor _ sd _ _ => some [.s sd.toNat] | .andn _ sd _ _ => some [.s sd.toNat]
  | .shl _ sd _ _ => some [.s sd.toNat] | .shr _ sd _ _ => some [.s sd.toNat] | .sar _ sd _ _ => some [.s sd.toNat]
  | .mul _ sd _ _ => some [.s sd.toNat] | .mulh _ sd _ _ => some [.s sd.toNat] | .mulhu _ sd _ _ => some [.s sd.toNat]
  | .min _ sd _ _ => some [.s sd.toNat] | .max _ sd _ _ => some [.s sd.toNat] | .minu _ sd _ _ => some [.s sd.toNat]
  | .maxu _ sd _ _ => some [.s sd.toNat] | .cmp _ _ pd _ _ => some [.p pd.toNat] | .sel _ sd _ _ _ => some [.s sd.toNat]
  | .addi _ sd _ _ => some [.s sd.toNat] | .andi _ sd _ _ => some [.s sd.toNat] | .ori _ sd _ _ => some [.s sd.toNat]
  | .xori _ sd _ _ => some [.s sd.toNat] | .shli _ sd _ _ => some [.s sd.toNat] | .shri _ sd _ _ => some [.s sd.toNat]
  | .sari _ sd _ _ => some [.s sd.toNat] | .li _ sd _ => some [.s sd.toNat] | .lih _ _ sd _ => some [.s sd.toNat]
  | .clz _ sd _ => some [.s sd.toNat] | .popc _ sd _ => some [.s sd.toNat] | .ext _ sd _ _ _ => some [.s sd.toNat]
  | .ins _ sd _ _ _ => some [.s sd.toNat] | .lea _ ad _ _ _ => some [.a ad.toNat] | .leai _ ad _ _ => some [.a ad.toNat]
  | .amovSToA _ ad _ => some [.a ad.toNat] | .amovAToS _ sd _ => some [.s sd.toNat] | .plog _ pd _ _ _ => some [.p pd.toNat]
  | .widf _ sd _ _ => some [.s sd.toNat] | .widfTeam _ sd _ => some [.s sd.toNat] | .widfRank _ sd _ => some [.s sd.toNat]
  | .fadd _ _ _ sd _ _ => some [.s sd.toNat] | .fsub _ _ _ sd _ _ => some [.s sd.toNat] | .fmul _ _ _ sd _ _ => some [.s sd.toNat]
  | .ffma _ _ _ sd _ _ => some [.s sd.toNat] | .fmin _ _ sd _ _ => some [.s sd.toNat] | .fmax _ _ sd _ _ => some [.s sd.toNat]
  | .fcmp _ _ _ pd _ _ => some [.p pd.toNat] | .fcvt _ _ _ _ _ sd _ => some [.s sd.toNat]
  | .vadd _ _ _ _ vd _ _ => some [.v vd.toNat] | .vsub _ _ _ _ vd _ _ => some [.v vd.toNat] | .vmul _ _ _ _ vd _ _ => some [.v vd.toNat]
  | .vfma _ _ _ _ vd _ _ => some [.v vd.toNat] | .vmin _ _ vd _ _ => some [.v vd.toNat] | .vmax _ _ vd _ _ => some [.v vd.toNat]
  | .vand _ _ vd _ _ => some [.v vd.toNat] | .vor _ _ vd _ _ => some [.v vd.toNat] | .vxor _ _ vd _ _ => some [.v vd.toNat]
  | .vshl _ _ vd _ _ => some [.v vd.toNat] | .vshr _ _ vd _ _ => some [.v vd.toNat] | .vsar _ _ vd _ _ => some [.v vd.toNat]
  | .vabs _ _ _ vd _ => some [.v vd.toNat] | .vneg _ _ _ vd _ => some [.v vd.toNat] | .vcvt _ _ _ _ _ vd _ _ => some [.v vd.toNat]
  | .vcmp _ _ _ vd _ _ => some [.v vd.toNat] | .vsel _ _ vd _ _ => some [.v vd.toNat] | .vred _ _ _ _ _ vd _ => some [.v vd.toNat]
  | .vbcast _ _ vd _ => some [.v vd.toNat] | .vext _ _ sd _ _ => some [.s sd.toNat] | .vins _ _ vd _ _ => some [.v vd.toNat]
  | .vperm _ vd _ _ => some [.v vd.toNat] | .viota _ _ vd => some [.v vd.toNat] | .viotaRank _ _ vd => some [.v vd.toNat]
  | .ktop _ sd => some [.s sd.toNat]
  | _ => none

/-- A cluster without its event counters, which count on beside whatever else happens (R303). -/
def Cluster.bare (c : Cluster) : Cluster :=
  { c with evsel := [], evcnt := [], cores := c.cores.map fun o => (o.1, { o.2 with evsel := [], evcnt := [] }) }

end Sys2Proof.Machine


namespace Sys2Proof.Claim

open Sys2Proof.Machine

/-- The stop `st` of slot `k` noted in the bundle in flight, and nothing else changed. -/
def noted (s : State) (b : Bun) (k : Nat) (st : Stop) : State := { s with bun := some { b with outs := b.outs ++ [(k, st)] } }

/-- One 64-bit result in a scalar register. -/
def putS (s : State) (b : Bun) (sd : BitVec 6) (v : Nat) : State := s.wrReg b.x (.s sd.toNat) v

/-- One result in an address register, in a vector register, in a predicate. -/
def putA (s : State) (b : Bun) (ad : BitVec 4) (v : Nat) : State := s.wrReg b.x (.a ad.toNat) v
def putV (s : State) (b : Bun) (vd : BitVec 5) (v : Nat) : State := s.wrReg b.x (.v vd.toNat) v
def putP (s : State) (b : Bun) (pd : BitVec 3) (v : Bool) : State := s.wrReg b.x (.p pd.toNat) (b2n v)

/-- The integer instructions of two registers with the values that R164 gives them. -/
def integerOps : List ((Cond → BitVec 6 → BitVec 6 → BitVec 6 → Instr) × (Word → Word → Word)) :=
  [ (.add, fun x y => x + y), (.sub, fun x y => x - y), (.and, fun x y => x &&& y), (.or, fun x y => x ||| y)
  , (.xor, fun x y => x ^^^ y), (.andn, fun x y => x &&& ~~~y), (.shl, fun x y => x <<< (y &&& 63).toNat)
  , (.shr, fun x y => x >>> (y &&& 63).toNat), (.sar, fun x y => BitVec.ofInt 64 (x.toInt / 2 ^ (y &&& 63).toNat))
  , (.mul, fun x y => BitVec.ofNat 64 (x.toNat * y.toNat)), (.mulh, fun x y => BitVec.ofInt 64 (x.toInt * y.toInt / 2 ^ 64))
  , (.mulhu, fun x y => BitVec.ofNat 64 (x.toNat * y.toNat / 2 ^ 64)), (.min, fun x y => if x.toInt ≤ y.toInt then x else y)
  , (.max, fun x y => if x.toInt ≥ y.toInt then x else y), (.minu, fun x y => if x ≤ y then x else y), (.maxu, fun x y => if x ≥ y then x else y) ]

/-- The quotients and remainders of R165, signed and unsigned, with its corners. -/
def quotientS (x y : Word) : Word :=
  if y.toInt = 0 then BitVec.ofInt 64 (-1) else if x.toInt = -2 ^ 63 ∧ y.toInt = -1 then x else BitVec.ofInt 64 (x.toInt.tdiv y.toInt)
def remainderS (x y : Word) : Word :=
  if y.toInt = 0 then x else if x.toInt = -2 ^ 63 ∧ y.toInt = -1 then 0 else BitVec.ofInt 64 (x.toInt.tmod y.toInt)
def quotientU (x y : Word) : Word := if y.toNat = 0 then BitVec.ofNat 64 (2 ^ 64 - 1) else BitVec.ofNat 64 (x.toNat / y.toNat)
def remainderU (x y : Word) : Word := if y.toNat = 0 then x else BitVec.ofNat 64 (x.toNat % y.toNat)

def divisionOps : List ((Cond → BitVec 6 → BitVec 6 → BitVec 6 → Instr) × (Word → Word → Word)) :=
  [(.div, quotientS), (.rem, remainderS), (.divu, quotientU), (.remu, remainderU)]

/-- The instructions of one scalar source and an immediate, as pairs of an instruction and what it makes of rd(sA) (R164, R166). -/
def immediateOps (c : Cond) (sd sa : BitVec 6) (imm : BitVec 17) (sh : BitVec 6) : List (Instr × (Word → Word)) :=
  [ (.addi c sd sa imm, fun x => BitVec.ofInt 64 (x.toInt + imm.toInt)), (.andi c sd sa imm, fun x => x &&& imm.signExtend 64)
  , (.ori c sd sa imm, fun x => x ||| imm.signExtend 64), (.xori c sd sa imm, fun x => x ^^^ imm.signExtend 64)
  , (.shli c sd sa sh, fun x => BitVec.ofNat 64 (x.toNat * 2 ^ sh.toNat)), (.shri c sd sa sh, fun x => BitVec.ofNat 64 (x.toNat / 2 ^ sh.toNat))
  , (.sari c sd sa sh, fun x => BitVec.ofInt 64 (x.toInt / 2 ^ sh.toNat)) ]

/-- The scalar float instructions of two sources with the exact value that is rounded (R173). -/
def floatOps : List ((Cond → FFmt → Rm → BitVec 6 → BitVec 6 → BitVec 6 → Instr) × (Rm → FV → FV → FV)) :=
  [ (.fadd, FV.add), (.fsub, fun rm a b => FV.add rm a b.neg), (.fmul, fun _ a b => FV.mul a b) ]

/-- Element `i` of `v` under type `t` is `f i` in an active lane, and that of the old register `o` in an inactive one (R177). -/
def Lanewise (t : VType) (top : Nat) (o : BitVec 1024) (v : Nat) (f : Nat → Nat) : Prop :=
  ∀ i, i < 32 * t.perLane →
    vget (BitVec.ofNat 1024 v) t.width i = if active top (i / t.perLane) then f i % 2 ^ t.width else vget o t.width i

/-- An exact integer as an element: wrapped, or clamped to the type's range under `.sat` (R182). -/
def intElem (t : VType) (sat : Bool) (x : Int) : Nat :=
  let lo : Int := if t.isSigned then -(2 ^ (t.width - 1)) else 0
  let hi : Int := if t.isSigned then 2 ^ (t.width - 1) - 1 else 2 ^ t.width - 1
  let y := if sat then max lo (min hi x) else x
  (y % 2 ^ t.width).toNat

/-- The element-wise instructions of two sources with the element they give (R181 to R184). -/
def vectorOps (t : VType) (rm : Rm) (sat : Bool) : List ((Cond → BitVec 5 → BitVec 5 → BitVec 5 → Instr) × (Nat → Nat → Nat)) :=
  [ (fun c => .vadd c t rm sat, fun a b => if t.isFloat then vputF t rm sat (FV.add rm (vfloat t a) (vfloat t b))
      else intElem t sat (vint t a + vint t b))
  , (fun c => .vsub c t rm sat, fun a b => if t.isFloat then vputF t rm sat (FV.add rm (vfloat t a) (vfloat t b).neg)
      else intElem t sat (vint t a - vint t b))
  , (fun c => .vmul c t rm sat, fun a b => if t.isFloat then vputF t rm sat (FV.mul (vfloat t a) (vfloat t b))
      else intElem t sat (vint t a * vint t b))
  , (fun c => .vmin c t, fun a b => if t.isFloat then vputF t .rne false (fminV (vfloat t a) (vfloat t b))
      else if vint t a ≤ vint t b then a else b)
  , (fun c => .vmax c t, fun a b => if t.isFloat then vputF t .rne false (fmaxV (vfloat t a) (vfloat t b))
      else if vint t a ≥ vint t b then a else b)
  , (fun c => .vand c t, fun a b => a &&& b), (fun c => .vor c t, fun a b => a ||| b), (fun c => .vxor c t, fun a b => a ^^^ b)
  , (fun c => .vshl c t, fun a b => a * 2 ^ (b % t.width)), (fun c => .vshr c t, fun a b => a / 2 ^ (b % t.width))
  , (fun c => .vsar c t, fun a b => (sextN a t.width / 2 ^ (b % t.width) % 2 ^ t.width).toNat) ]

/-- An access of `n` bytes meets R54: inside the context's window and the 2^20 bytes of L-mem. -/
def InWindow (p : Priv) (a n : Nat) : Prop := p.lwbase ≤ a ∧ a + n ≤ p.lwlim ∧ a + n ≤ 2 ^ 20

/-- base + sext(imm, k) * n, modulo 2^64 (R129, R193, R205). -/
def effAddr (base : Word) {k : Nat} (imm : BitVec k) (n : Nat) : Nat := ((base.toNat + imm.toInt * n) % 2 ^ 64).toNat

/-- The lane addresses of VLD and VST, of VLDS and VSTS, of VGTH and VSCT (R194 to R196). -/
def rowAddr (base : Word) (imm : BitVec 14) (i : Nat) : Nat := (effAddr base imm 128 + 4 * i) % 2 ^ 64
def strideAddr (base stride : Word) (i : Nat) : Nat := ((base.toNat + (i : Int) * stride.toInt) % 2 ^ 64).toNat
def offsetAddr (base : Word) (ix : BitVec 1024) (i : Nat) : Nat := (base.toNat + vget ix 32 i) % 2 ^ 64

/-- Every active lane's four bytes are aligned and in the window (R193). -/
def LanesOk (b : Bun) (f : Nat → Nat) : Prop :=
  ∀ i, i < 32 → active b.pre.regs.top i = true → f i % 4 = 0 ∧ InWindow b.pre.pr (f i) 4

/-- A lane-wise load's three forms and a lane-wise store's, given what their registers read: each with its lane addresses. -/
def laneLoads (c : Cond) (vd : BitVec 5) (a : BitVec 4) (imm : BitVec 14) (sS : BitVec 6) (vb : BitVec 5) (base st : Word) (ix : BitVec 1024) :
    List (Instr × (Nat → Nat)) :=
  [(.vld c false vd a imm, rowAddr base imm), (.vlds c vd a sS, strideAddr base st), (.vgth c vd a vb, offsetAddr base ix)]
def laneStores (c : Cond) (vs : BitVec 5) (a : BitVec 4) (imm : BitVec 14) (sS : BitVec 6) (vb : BitVec 5) (base st : Word) (ix : BitVec 1024) :
    List (Instr × (Nat → Nat)) :=
  [(.vst c vs a imm, rowAddr base imm), (.vsts c vs a sS, strideAddr base st), (.vsct c vs a vb, offsetAddr base ix)]

/-- The region of a context, as it stands in its bundle, holds no alias entry over `n` bytes at `a` of a space; so with no region (R222). -/
def NoHit (s : State) (x : CtxId) (sp : Space) (a n : Nat) : Prop :=
  ∀ g, (s.ctx x).region = some g → ∀ al ∈ g.aliases, al.hits sp a n = false

/-- The same for the vault bytes that `n` bytes at `ea` resolve to; bytes that resolve to none hit nothing. -/
def NoVaultHit (s : State) (x : CtxId) (ea n : Nat) : Prop := ∀ off, resolve x.cl ea = some off → NoHit s x .vault off n

/-- What a held store issues as once its region commits: kind, vault offset and bundle address; a store to L-mem is no such access. -/
def heldAccess : HeldSt → Option (PKind × Nat × Nat)
  | .mem .lmem _ _ _ _ => none
  | .mem _ a n v ba => some (.store n v, a, ba)
  | .vec .lmem _ _ _ => none
  | .vec _ ls v ba => some (.storeV ls v, (ls.head?.map Prod.snd).getD 0, ba)
  | .queue _ _ => none

/-- The C-slot's instructions that a false predicate makes do nothing wherever they stand (R118); MFC and MTC only where their register's
number alone does not stop them (R162). -/
def predicated (p : BitVec 3) (sd sa sb : BitVec 6) (aa : BitVec 4) (mask : BitVec 4) (n : BitVec 16) (k : BitVec 12) (disp : BitVec 23) : List Instr :=
  [ .lexit p, .wait p sd aa, .wquiet p sd sa, .yield p, .spawn p sd sa sb aa, .done p, .tbar p, .permit p mask, .svc p n, .trap p n, .brk p n
  , .pont p disp, .commit p, .abort p ]
  ++ (if 0x800 ≤ k.toNat ∨ cregListed k.toNat = true then [.mfc p sd k] else [])
  ++ (if 0x800 ≤ k.toNat ∨ (cregListed k.toNat = true ∧ cregWritable k.toNat = true) then [.mtc p k sa] else [])

/-- Those that it makes do nothing outside delay slots, where they raise cause 0x01 whatever the predicate (R131). -/
def branchClass (p : BitVec 3) (sd sa sb : BitVec 6) (aa : BitVec 4) (disp : BitVec 23) : List Instr :=
  [.br p disp, .call p disp, .bmz p disp, .bri p sb aa, .calli p sb aa, .ret p, .bsel p sd sa aa, .loop p aa]

/-- No region is open, and none was before the bundle; nothing is held. -/
def NoRegion (s : State) (b : Bun) : Prop :=
  b.pre.region = none ∧ (s.ctx b.x).region = none ∧ (s.ctx b.x).heldSt = []

/-- The last access that a context has issued is `p`, its others stand as in `s`, and no byte has changed. -/
def Issued (s t : State) (x : CtxId) (p : Pend) : Prop :=
  sameBytes s t ∧ (t.ctx x).fl.pend = (s.ctx x).fl.pend ++ [p] ∧ (t.ctx x).fl.serial = p.serial ∧ (∀ y, y ≠ x → t.ctx y = s.ctx y)

/-- The destination register of an issued access, if it has one, is empty and waits for the producer `n`; every other register stands. -/
def Awaits (s t : State) (x : CtxId) (k : RegRef) (n : Nat) : Prop :=
  sameRegsBut [k] (s.ctx x).regs (t.ctx x).regs ∧ (t.ctx x).regs.isFull k = false ∧ (t.ctx x).regs.prodOf k = n

/-- The atomics with two operands: their operation (R209 to R211). -/
def atomicOps (w8 : Bool) (rm : Rm) : List ((Cond → Ord → Scope → BitVec 6 → BitVec 4 → BitVec 6 → Instr) × AtOp × Bool) :=
  [ (fun c => .atadd c w8, .add, false), (fun c => .atand c w8, .and, false), (fun c => .ator c w8, .or, false)
  , (fun c => .atxor c w8, .xor, false), (fun c => .atmin c w8, .min, false), (fun c => .atmax c w8, .max, false)
  , (fun c => .atswp c w8, .swp, false), (fun c => .atcas c w8, .cas, true), (fun c => .atincw c w8, .incw, false)
  , (fun c => .atbadd c w8, .badd, true), (fun c => .atfadd c w8 rm, .fadd (if w8 then .f64 else .f32) rm, false) ]

/-- A branch of the bundle in flight is taken to `t`: the pending target and a delay count of 2, and `regs` as the context's registers. -/
def Taken (s u : State) (b : Bun) (t : Nat) (regs : Regs) : Prop :=
  u.ctx b.x = { s.ctx b.x with target := some t, delay := 2, regs := regs } ∧ u.bun = some { b with taken := true } ∧ sameBytes s u
    ∧ ∀ y, y ≠ b.x → u.ctx y = s.ctx y

/-- The current context has gone on to its next bundle. -/
def WentOn (s t : State) : Prop := t.bun = none ∧ (t.ctx s.cur).pc = s.nextPc ∧ (t.ctx s.cur).ct.issued = ((s.ctx s.cur).ct.issued + 1) % 2 ^ 64

/-- The C-slot instructions that roll an open region back as illegal (R148). -/
def illegalInRegion (p : BitVec 3) (sd sa sb : BitVec 6) (aa : BitVec 4) (mask : BitVec 4) (n : BitVec 16) : List Instr :=
  [ .loop p aa, .bsel p sd sa aa, .wait p sd aa, .wquiet p sd sa, .yield p, .spawn p sd sa sb aa, .done p, .tbar p, .permit p mask, .svc p n
  , .mtc p 0x006 sa ]

/-- `i` answers a next state, of which `p` holds. -/
def Does (i : Instr) (s : State) (p : State → Prop) : Prop := ∃ t, exec i s = .next t ∧ p t

/-- A context has stopped on a trap, with the registers `r`, and its record is the cluster's latest (R288, R297). -/
def Stopped (t : State) (x : CtxId) (r : Regs) (cause slot baddr detail : Nat) : Prop :=
  (t.ctx x).pr.stopped = true ∧ (t.ctx x).regs = r ∧ ∃ q, (t.cl x.cl).trapWait.getLast? = some q ∧ q.cause = cause ∧ q.slot = slot
    ∧ q.baddr = baddr ∧ q.detail = detail ∧ q.kind = 0 ∧ q.cx = x.cx ∧ q.core = x.core ∧ q.crec = (t.ctx x).pr.crec

/-- A context has gone back to its region's checkpoint for a cause of R224. -/
def RolledBack (t : State) (x : CtxId) (g : Region) (cause : Nat) : Prop :=
  (t.ctx x).regs = g.ck ∧ (t.ctx x).pc = g.fallback ∧ (t.ctx x).region = none ∧ (t.ctx x).ct.rbcause / 2 ^ 4 % 2 ^ 5 = cause

/-- A refused write of a descriptor (R351): the flag rises, and nothing else of the descriptor changes. -/
def Refused (s t : State) (l : Nat) : Prop := t.ld l = { s.ld l with referr := true }

end Sys2Proof.Claim
end

