-- ==== Sys2Proof/Certificates/Slice0/Obligations.lean ====
section
/-! DEFINITION. The statements for the provers, one definition each; the tables they range over stand in Sys2Proof.Safety, under
Sys2Proof.Claim. A slot statement speaks of a bundle in flight: what the slot's meaning makes of the state, given the values that its
sources read; a statement of an event says where it happens and what it leaves. -/

open Sys2Proof Sys2Proof.Machine Sys2Proof.Claim

/-! ## Reset, invariants and a step -/

/-- Right after reset nothing has been brought up: BOOT reads step 0 and DONE 0, every context is Idle, no job slot is valid, the trap and
fault queues are disabled, no launch is known, and memories list nothing (R384, R388, R389). That TICK starts at 0 is the model's choice: R163
gives it no reset value; so is that an unwritten byte reads 0 where R386 does not say it (log entry 3). -/
def Obligations.ResetState : Prop :=
  State.reset.tick = 0 ∧ State.reset.boot.step = 0 ∧ State.reset.boot.done = false ∧ State.reset.boot.recovery = false
    ∧ (∀ x, (State.reset.ctx x).pr.st = .idle ∧ (State.reset.ctx x).pr.stopped = false)
    ∧ (∀ cl j, (tget ({ } : JobSlot) (State.reset.cl cl).jobs j).valid = false)
    ∧ (∀ cl, (State.reset.cl cl).trqSize = 0 ∧ (State.reset.cl cl).fqSize = 0 ∧ (State.reset.cl cl).trqRoom = false
        ∧ (State.reset.cl cl).gk = 4 ∧ (State.reset.cl cl).greq = false)
    ∧ (∀ l, tget none State.reset.launches l = none) ∧ (∀ q, (tget ({ } : WQueue) State.reset.wqs q).valid = false)
    ∧ (∀ a, rdByte State.reset.vault a = 0) ∧ (∀ a, rdByte State.reset.dram a = 0)
    ∧ ∀ c a, rdByte (State.reset.core c).lmem a = 0

/-- The invariant holds at reset. -/
def Obligations.ResetMeetsInvariant : Prop :=
  State.reset.Inv

/-- Every step from a state that meets the invariant leaves one that meets it: no bundle stands open between steps, and every memory keeps
its canonical form. -/
def Obligations.StepKeepsInvariant : Prop :=
  ∀ s t : State, s.Inv → step s = .next t → t.Inv

/-- No slot instruction ends the machine: it always has a next state (its stop, if it meets one, is part of the bundle), whatever the state.
-/
def Obligations.EverySlotInstructionAnswers : Prop :=
  ∀ (i : Instr) (s : State), i.inSlot = true → ∃ t, exec i s = .next t

/-- A core's turn fetches the bundle at the running context's PC and runs what it decodes to: the four slots in order in one opened bundle,
which then ends. A turn of a core that does not go on, an event of the boundary, an unperformed ATBADD, a word of the code store in error, a
PC outside resident code and a bundle with a bundle-level fault are the cases that other clauses and statements take. The same turn where the
bundle has a bundle-level fault: nothing of it issues, and cause 0x01 is recorded against the slot found first (R140 step 2); and where no
resident page holds the PC: cause 0x07 with the PC as BADDR and DETAIL (R140 step 1, R298), its record naming slot 0, which is the model's
choice (log entry 16). -/
def Obligations.StepRunsTheDecodedBundle : Prop :=
  (∀ (s : State) (c : CoreId) (rest : List Turn) (k words : Nat) (t1 t2 t3 t4 : State),
     let s' := { s with agenda := rest }
     let x : CtxId := ⟨c.cl, c.core, k⟩
     let u := ({ s' with cur := x } : State).modCtx x fun y => y.buffered words
     let b := decodeWords words
     s.agenda = .issue c :: rest → s'.toIssue c k → (s.ctx x).fromBuffer = true ∨ s.fetchBad c.cl (s.ctx x).pr.jslot (s.ctx x).pc = false →
     s'.bundleAt x = some words → bundleFault (u.ctx x) b = none →
     exec b.c (u.openBundle x words (isBranch b.c)) = .next t1 → exec (held (u.ctx x) (slotFlag b 1 b.s) b.s) t1 = .next t2 →
     exec (held (u.ctx x) (slotFlag b 2 b.v) b.v) t2 = .next t3 → exec (held (u.ctx x) (slotFlag b 3 b.m) b.m) t3 = .next t4 →
     step s = .next (closeBundle u t4))
    ∧ (∀ (s : State) (c : CoreId) (rest : List Turn) (k : Nat),
         let s' := { s with agenda := rest }
         let x : CtxId := ⟨c.cl, c.core, k⟩
         let v := ({ s' with cur := x } : State)
         s.agenda = .issue c :: rest → s'.toIssue c k → (s.ctx x).fromBuffer = true ∨ s.fetchBad c.cl (s.ctx x).pr.jslot (s.ctx x).pc = false →
         (s'.bundleAt x = none → step s = .next (v.takeTrap x 0x07 0 (s.ctx x).pc (s.ctx x).pc false false (s.ctx x).delayed))
           ∧ ∀ words n, s'.bundleAt x = some words →
             bundleFault ((v.modCtx x fun y => y.buffered words).ctx x) (decodeWords words) = some n →
             step s = .next ((v.modCtx x fun y => y.buffered words).stopBundle
               (openedBun x ((v.modCtx x fun y => y.buffered words).ctx x) words (isBranch (decodeWords words).c)) n (.trap 0x01 0)))

/-- The turns of the clock and of the bring-up. A tick counts TICK up by one (R163), and BUDGET down by one for each continuation that is
resident in a cluster that runs and not stopped, its ticks used up by one; a BUDGET that falls from 1 to 0 leaves the overrun to the next
boundary (R294); no register and no PC changes as it is counted, and what is due happens after it. With nothing else to do the module takes
the next step of an unfinished bring-up: the step counts, or, where what it verifies fails, the module is in recovery at the step before it;
each step leaves what its row of R384 says; and the last releases every Gaffer with the registers that R387 gives it, LFORCE clear, no job
slot valid and both its queues disabled, and sets DONE. What a step finds is a free value. That contexts of a failed cluster have stopped for
BUDGET, and that a step is one turn, are the model's choices (log entries 4, 7). -/
def Obligations.TicksAndBringUpSteps : Prop :=
  (∀ (s : State) (rest : List Turn), s.agenda = .tick :: rest →
     let s' := { s with agenda := rest }
     let u := (s'.homes.foldl State.noteWait s').counted
     step s = .next u.due ∧ u.tick = s.tick + 1 ∧ u.due.tick = s.tick + 1
       ∧ ∀ x, let c := s.ctx x
         let p := c.pr
         (u.ctx x).regs = c.regs ∧ (u.ctx x).pc = c.pc
           ∧ (s.clusterRuns x.cl = true → p.st ≠ .idle → p.stopped = false →
             (u.ctx x).pr = { p with used := p.used + 1, budget := p.budget - 1, overrun := p.overrun || decide (p.budget = 1) })
           ∧ ((s.clusterRuns x.cl = false ∨ p.st = .idle ∨ p.stopped = true) → (u.ctx x).pr = p))
    ∧ (∀ (s : State), s.agenda = [] → s.boot.done = false → s.boot.recovery = false →
         step s = .next (s.draw.bring (Config.bootPasses (s.boot.step + 1) s.draws) (Config.laneFails s.draws) (Config.portsUp s.draws)))
    ∧ ∀ (s : State) (ok : Bool) (fails : List (Nat × Nat)) (up : List Nat), s.boot.done = false → s.boot.recovery = false → s.boot.step ≤ 6 →
      let n := s.boot.step + 1
      let t := s.bring ok fails up
      t.tick = s.tick
        ∧ (ok = false → n ∈ [1, 2, 3, 5] → t.boot.recovery = true ∧ t.boot.step = s.boot.step ∧ t.boot.done = false ∧ (n = 1 → thas t.meas 1 = true))
        ∧ ((ok = true ∨ n ∈ [4, 6, 7]) → t.boot.recovery = false ∧ t.boot.step = n ∧ t.boot.done = decide (n = 7)
          ∧ (n = 1 → thas t.meas 1 = true ∧ thas t.meas 2 = true) ∧ (n = 2 → thas t.meas 5 = true)
          ∧ (n = 3 → thas t.meas 3 = true ∧ ∀ cl, cl < 192 → (t.cl cl).lforce = true)
          ∧ (n = 4 → t.vault = [] ∧ t.dram = [] ∧ ∀ c a, rdByte (t.core c).lmem a = 0)
          ∧ (n = 5 → thas t.meas 4 = true ∧ t.aliasKey = true)
          ∧ (n = 6 → (∀ p, p ∈ t.ports ↔ p < 2 ∧ p ∈ up) ∧ ((0 ∉ up ∨ 1 ∉ up) → t.told = s.told + 1 ∧ t.boot.linkerr = true))
          ∧ (n = 7 → ∀ cl, cl < 192 → (t.cl cl).gaffer = some (gafferStart cl) ∧ (t.cl cl).lforce = false ∧ (t.cl cl).gk = 4
            ∧ (t.cl cl).trqSize = 0 ∧ (t.cl cl).fqSize = 0 ∧ ∀ j, (tget ({ } : JobSlot) (t.cl cl).jobs j).valid = false))

/-! ## Encoding -/

/-- The words that chapters 05, 08 and 09 write out field by field decode to what they stand for, in each slot. -/
def Obligations.SampleWordsDecode : Prop :=
  let c (p : BitVec 3) : Cond := ⟨p, false, false, .always⟩
  decodeSlot .c .none 0 0x00000000 = .nop ∧ decodeSlot .c .none 0 0x04800004 = .br 1 4 ∧ decodeSlot .c .none 0 0x38000000 = .done 0
    ∧ decodeSlot .s .none 0 0x54100801 = .cmp (c 0) .ne 1 1 0 ∧ decodeSlot .s .none 0 0x040A28C0 = .add (c 0) 5 5 6
    ∧ decodeSlot .v .none 0 0x7C03FC00 = .vld (c 0) false 1 15 0 ∧ decodeSlot .v .modifier 0x18 0x3C102008 = .vcvt (c 0) .s8 .f32 .rtz true 4 1 0
    ∧ decodeSlot .v .extend 0x01 0x8009FC00 = .vst (c 0) 4 15 256 ∧ decodeSlot .v .modifier 0 0x9C180020 = .viota (c 0) .s32 6
    ∧ decodeSlot .m .modifier 0x00 0x040E7910 = .ld (c 0) .s4 .acq .cl false 7 3 16
    ∧ decodeSlot .s .none 0 0x008A28C0 = .reservedOpcode .s 0x008A28C0 false

/-- Decoding what a slot instruction encodes to gives it back, under every header kind that can carry it; and every well-formed slot
instruction that a table row names has such an encoding (R111, R112, R119, R121, R126 to R130). -/
def Obligations.InstructionsRoundTrip : Prop :=
  (∀ (i : Instr) (h : Hdr) (e : Enc), i.wf = true → encodeSlot h i = some e → orphan e.slot h e.byte e.word = false →
      decodeSlot e.slot h e.byte e.word = i)
    ∧ ∀ i : Instr, i.wf = true → i.inSlot = true → (∀ slot w field, i ≠ .reservedOpcode slot w field) →
      ∃ h e, encodeSlot h i = some e ∧ orphan e.slot h e.byte e.word = false ∧ decodeSlot e.slot h e.byte e.word = i

/-! ## Slots, bundles and registers -/

/-- A slot whose condition is false does nothing (R40, R118), whatever the state: of the C-slot every form whose check does not stop it
whatever its predicate, outside delay slots the branch class and LOOP among them (R131). A slot instruction outside a bundle is a bundle that
holds it alone: opened, run and ended. -/
def Obligations.SlotsAndLoneInstructions : Prop :=
  (∀ (i : Instr) (c : Cond) (s : State) (b : Bun), condOf i = some c → s.bun = some b → condRuns c b.pre = false → exec i s = .next s)
    ∧ (∀ (p : BitVec 3) (sd sa sb : BitVec 6) (aa : BitVec 4) (mask : BitVec 4) (n : BitVec 16) (k : BitVec 12) (disp : BitVec 23) (s : State) (b : Bun),
         s.bun = some b → b.pre.regs.pv p.toNat = false →
         (∀ i ∈ predicated p sd sa sb aa mask n k disp, exec i s = .next s)
           ∧ (b.pre.dslot = 0 → ∀ i ∈ branchClass p sd sa sb aa disp, exec i s = .next s))
    ∧ (∀ (i : Instr) (s : State), i.inSlot = true → s.bun = none →
         ∃ br u, exec i (s.openAlone br) = .next u ∧ exec i s = .next (closeBundle s u))

/-- A bundle of a context outside a loop that meets no stop and leaves nothing for its end passes to the next bundle (R149): the count
falls, a pending target is taken when it reaches 0, a taken branch starts it at 2, and ISSUED counts the bundle (R163). -/
def Obligations.BundlePassesOn : Prop :=
  ∀ (s0 s1 : State) (b : Bun),
    let t := closeBundle s0 s1
    let c := s1.ctx b.x
    let d := t.ctx b.x
    s1.bun = some b → b.pre.fl.holdsAll = false → b.outs = [] → b.late = none → b.posts = [] → b.pre.loop = none →
    t.bun = none ∧ d.regs = c.regs ∧ d.ct.issued = (c.ct.issued + 1) % 2 ^ 64 ∧ sameBytes s1 t
      ∧ (b.taken = true → d.pc = (c.pc + 16) % 2 ^ 64 ∧ d.target = c.target ∧ d.delay = c.delay ∧ d.dslot = 2)
      ∧ (b.taken = false → c.delay = 0 → d.pc = (c.pc + 16) % 2 ^ 64 ∧ d.target = c.target ∧ d.delay = 0)
      ∧ (b.taken = false → c.delay = 1 → ∀ a, c.target = some a → d.pc = a ∧ d.target = none ∧ d.delay = 0)
      ∧ ∀ n, b.taken = false → c.delay = n + 2 → d.pc = (c.pc + 16) % 2 ^ 64 ∧ d.target = c.target ∧ d.delay = n + 1

/-- TAKING A TRAP. A bundle whose stop is a trap, outside a region, leaves every register, PC, branch state and byte as they stood before it
(R9, R139); its context stops and keeps its state of R33 (R288); and one record with the cause, the slot, the bundle's address, the job
slot, the record's offset and DELAY joins the cluster's waiting records under the next SEQ (R297 to R299). A bundle that blocks has not
issued: nothing changes but that its context is Stalled for what it waits for (R33, R115, R139). -/
def Obligations.TrapsAndBlocksArePrecise : Prop :=
  (∀ (s0 s1 : State) (b : Bun) (k cause d : Nat),
     let t := closeBundle s0 s1
     let c := s0.ctx b.x
     s0.bun = none → s1.bun = some b → b.pre.fl.holdsAll = false → pickStop b.outs = some (k, .trap cause d) → b.pre.region = none →
     t.bun = none ∧ t.ctx b.x = { c with pr := { c.pr with stopped := true } } ∧ (∀ y, y ≠ b.x → t.ctx y = s0.ctx y) ∧ sameBytes s0 t
       ∧ (t.core b.x.coreId).run ≠ some b.x.cx
       ∧ (t.cl b.x.cl).trapSeq = ((s0.cl b.x.cl).trapSeq + 1) % 65536
       ∧ (t.cl b.x.cl).trapWait = (s0.cl b.x.cl).trapWait ++
           [{ seq := (s0.cl b.x.cl).trapSeq, jslot := c.pr.jslot, rb := false, delay := b.pre.delayed, flag := false, kind := 0
              cx := b.x.cx, core := b.x.core, slot := k, cause := cause, baddr := b.baddr, detail := trapDetail b k cause d
              crec := c.pr.crec }])
    ∧ (∀ (s0 s1 : State) (b : Bun) (k : Nat) (w : Blk),
         let t := closeBundle s0 s1
         let c := s0.ctx b.x
         s0.bun = none → s1.bun = some b → b.pre.fl.holdsAll = false → pickStop b.outs = some (k, .block w) →
         t.bun = none ∧ t.ctx b.x = { c with pr := { c.pr with st := .stalled, blk := some w, parkTick := s0.tick } }
           ∧ (∀ y, y ≠ b.x → t.ctx y = s0.ctx y) ∧ sameBytes s0 t ∧ (∀ i, (t.cl i).trapWait = (s0.cl i).trapWait))

/-- A stop inside an open region rolls it back (R224 to R226): the checkpoint becomes the live registers, the fallback the PC, the branch
state clears, what the region held goes, RBCAUSE records the bundle, the slot and the cause, RBCOUNT counts, and no byte of memory has
changed. A trap's cause is recorded as TCAUSE under the cause 0x09. -/
def Obligations.StopInARegionRollsBack : Prop :=
  ∀ (s0 s1 : State) (b : Bun) (g : Region) (k cause tc : Nat) (st : Stop),
    let t := closeBundle s0 s1
    let c := s0.ctx b.x
    let d := t.ctx b.x
    s0.bun = none → s1.bun = some b → b.pre = c → c.fl.holdsAll = false → pickStop b.outs = some (k, st) → c.region = some g →
    (st = .roll cause tc ∨ (cause = 0x09 ∧ ∃ e, st = .trap tc e)) →
    t.bun = none ∧ d.regs = g.ck ∧ d.pc = g.fallback ∧ d.target = none ∧ d.delay = 0 ∧ d.dslot = 0 ∧ d.region = none ∧ d.heldSt = []
      ∧ d.heldCmd = [] ∧ d.ct.rbcount = (c.ct.rbcount + 1) % 2 ^ 64
      ∧ d.ct.rbcause = b.baddr / 16 % 2 ^ 53 * 2 ^ 11 + k * 2 ^ 9 + cause * 2 ^ 4 + tc
      ∧ sameBytes s0 t ∧ ∀ y, y ≠ b.x → t.ctx y = s0.ctx y

/-- Reading a register in a slot (R9, R113, R115, R203): s0 reads 0 and p0 reads 1; a full unmarked register gives its value; an empty one
blocks, or raises cause 0x03 naming the register where the slot has trap-on-empty; a marked one raises its mark's cause, unless only the empty
registers among a slot's sources are asked for (R140). Writing and filling
a register (R9, R113, R116, R117): a write of s0 or p0 is discarded; a write leaves the named register full, unmarked and waiting for
nothing, with the value; it leaves every other register alone; and a datum of an older producer is discarded. -/
def Obligations.ReadingAndWritingRegisters : Prop :=
  (∀ e : Env, rdS e 0 = .ok 0 ∧ rdP e 0 = true
     ∧ (∀ n, n ≠ 0 → (e.pre.regs.sc n.toNat).full = true → (e.pre.regs.sc n.toNat).mark.cause = 0 → rdS e n = .ok (e.pre.regs.sc n.toNat).val)
     ∧ (∀ n, n ≠ 0 → (e.pre.regs.sc n.toNat).full = false → e.te = false → rdS e n = .error (.block (.reg (.s n.toNat))))
     ∧ (∀ n, n ≠ 0 → (e.pre.regs.sc n.toNat).full = false → e.te = true → rdS e n = .error (.trap 0x03 n.toNat))
     ∧ (∀ n, n ≠ 0 → (e.pre.regs.sc n.toNat).full = true → (e.pre.regs.sc n.toNat).mark.cause ≠ 0 → e.lax = false →
         rdS e n = .error (.trap (e.pre.regs.sc n.toNat).mark.cause (e.pre.regs.sc n.toNat).mark.detail))
     ∧ (∀ n, (e.pre.regs.ac n.toNat).full = true → (e.pre.regs.ac n.toNat).mark.cause = 0 → rdA e n = .ok (e.pre.regs.ac n.toNat).val)
     ∧ (∀ n, (e.pre.regs.ac n.toNat).full = false → rdA e n = .error (if e.te then .trap 0x03 (64 + n.toNat) else .block (.reg (.a n.toNat))))
     ∧ (∀ n, (e.pre.regs.ac n.toNat).full = true → (e.pre.regs.ac n.toNat).mark.cause ≠ 0 → e.lax = false →
         rdA e n = .error (.trap (e.pre.regs.ac n.toNat).mark.cause (e.pre.regs.ac n.toNat).mark.detail))
     ∧ (∀ n, (e.pre.regs.vc n.toNat).full = true → (e.pre.regs.vc n.toNat).mark.cause = 0 → rdV e n = .ok (e.pre.regs.vc n.toNat).val)
     ∧ (∀ n, (e.pre.regs.vc n.toNat).full = true → (e.pre.regs.vc n.toNat).mark.cause ≠ 0 → e.lax = false →
         rdV e n = .error (.trap (e.pre.regs.vc n.toNat).mark.cause (e.pre.regs.vc n.toNat).mark.detail))
     ∧ ∀ n, (e.pre.regs.vc n.toNat).full = false → rdV e n = .error (if e.te then .trap 0x03 (128 + n.toNat) else .block (.reg (.v n.toNat))))
    ∧ (∀ (r : Regs) (k : RegRef) (v : Nat),
         (k = .s 0 ∨ k = .p 0 → r.wr k v = r)
           ∧ (∀ n, n ≠ 0 → (r.wr (.s n) v).sc n = { val := BitVec.ofNat 64 v }) ∧ (∀ n, (r.wr (.a n) v).ac n = { val := BitVec.ofNat 64 v })
           ∧ (∀ n, (r.wr (.v n) v).vc n = { val := BitVec.ofNat 1024 v }) ∧ (∀ n, n ≠ 0 → (r.wr (.p n) v).pv n = (v % 2 == 1))
           ∧ sameRegsBut [k] r (r.wr k v)
           ∧ (∀ p m, ¬ r.prodOf k = p → r.land k p v m = r)
           ∧ ∀ n p m, n ≠ 0 → p ≠ 0 → (r.sc n).prod = p → (r.land (.s n) p v m).sc n = { val := BitVec.ofNat 64 v, mark := m })

/-- The unlisted opcodes are 0x19 to 0x3E in the C-slot, whose 0x3F is the header, 0x31 to 0x3F in the S-slot, 0x28 to 0x3F in the V-slot
and 0x25 to 0x3F in the M-slot: such a word raises cause 0x02, whatever its predicate and lent byte, and its lent byte is no orphan (R145). So
does a word of opcode 0 with any other bit set (R112); that its lent byte is no orphan either is the model's choice (log entry 12). The word 0
is NOP in every slot and does nothing. A word of a listed opcode that names no instruction raises cause 0x01, whatever its predicate (R118,
R119): it is a bad field and never cause 0x02, and such are the C-slot words of formats CN with one of bits 22 to 0 set and the S-slot words of
opcodes 0x01 to 0x14 with one of bits 4 to 0 set. -/
def Obligations.ReservedWordTraps : Prop :=
  (∀ (slot : Slot) (h : Hdr) (byte : BitVec 8) (w : BitVec 32),
     let op := w.toNat / 2 ^ 26
     let last := match slot with | .c => 0x18 | .s => 0x30 | .v => 0x27 | .m => 0x24
     let end_ := match slot with | .c => 0x3E | .s => 0x3F | .v => 0x3F | .m => 0x3F
     (last < op → op ≤ end_ → decodeSlot slot h byte w = .reservedOpcode slot w false ∧ orphan slot h byte w = false)
       ∧ (op = 0 → w ≠ 0 → decodeSlot slot h byte w = .reservedOpcode slot w false ∧ orphan slot h byte w = false)
       ∧ (1 ≤ op → op ≤ last → ∀ k v f, decodeSlot slot h byte w = .reservedOpcode k v f → k = slot ∧ v = w ∧ f = true)
       ∧ (slot = .c → op ∈ [0x05, 0x09, 0x0C, 0x0E, 0x10, 0x11, 0x17] → w.toNat % 2 ^ 23 ≠ 0 → decodeSlot slot h byte w = .reservedOpcode slot w true)
       ∧ (slot = .s → 1 ≤ op → op ≤ 0x14 → w.toNat % 2 ^ 5 ≠ 0 → decodeSlot slot h byte w = .reservedOpcode slot w true)
       ∧ decodeSlot slot h byte 0 = .nop)
    ∧ ∀ (slot : Slot) (w : BitVec 32) (field : Bool) (s : State) (b : Bun), s.bun = some b →
        exec (.reservedOpcode slot w field) s = .next (noted s b slot.num (.trap (if field then 0x01 else 0x02) 0))
          ∧ exec .nop s = .next s

/-! ## The S-slot -/

/-- An integer instruction of two registers issues and writes its result, taken modulo 2^64, and nothing else; none traps on overflow
(R164). The same for the instructions with an immediate (R166). LI, LIH, EXT, INS, CLZ and POPC (R164, R168): the value built, shifted in,
taken out, put in, or counted. -/
def Obligations.IntegerOperations : Prop :=
  (∀ p ∈ integerOps, ∀ (c : Cond) (sd sa sb : BitVec 6) (s : State) (b : Bun) (x y : Word), s.issues b c →
     rdS (b.env c) sa = .ok x → rdS (b.env c) sb = .ok y → exec (p.1 c sd sa sb) s = .next (putS s b sd (p.2 x y).toNat))
    ∧ (∀ (c : Cond) (sd sa sh : BitVec 6) (imm : BitVec 17), ∀ p ∈ immediateOps c sd sa imm sh, ∀ (s : State) (b : Bun) (x : Word),
         s.issues b c → rdS (b.env c) sa = .ok x → exec p.1 s = .next (putS s b sd (p.2 x).toNat))
    ∧ (∀ (c : Cond) (sd sa : BitVec 6) (s : State) (b : Bun) (x d : Word), s.issues b c → rdS (b.env c) sa = .ok x → rdS (b.env c) sd = .ok d →
         (∀ imm, exec (.li c sd imm) s = .next (putS s b sd (imm.signExtend 64).toNat))
           ∧ (∀ imm : BitVec 22, exec (.lih c true sd imm) s = .next (putS s b sd ((d <<< 22) ||| imm.zeroExtend 64).toNat))
           ∧ (∀ imm : BitVec 22, imm.toNat < 2 ^ 16 → exec (.lih c false sd imm) s = .next (putS s b sd ((d <<< 16) ||| imm.zeroExtend 64).toNat))
           ∧ (∀ pos len : BitVec 6, exec (.ext c sd sa pos len) s = .next (putS s b sd (x.toNat / 2 ^ pos.toNat % 2 ^ (len.toNat + 1))))
           ∧ (∀ pos len : BitVec 6, pos.toNat + len.toNat + 1 ≤ 64 → ∃ v : Word, exec (.ins c sd sa pos len) s = .next (putS s b sd v.toNat)
               ∧ ∀ i, i < 64 → v.getLsbD i = if pos.toNat ≤ i ∧ i ≤ pos.toNat + len.toNat then x.getLsbD (i - pos.toNat) else d.getLsbD i)
           ∧ (∃ n, exec (.clz c sd sa) s = .next (putS s b sd n) ∧ n ≤ 64 ∧ (∀ i, i < n → x.getLsbD (63 - i) = false)
               ∧ (n < 64 → x.getLsbD (63 - n) = true))
           ∧ exec (.popc c sd sa) s = .next (putS s b sd ((List.range 64).countP fun i => x.getLsbD i)))

/-- DIV, REM, DIVU and REMU complete on all operands, the zero divisor and the overflow among them: none traps (R165). Each marks its
destination empty under a fresh serial and leaves the result of R165 to fill it (R115, R135): every byte, every other register, the pc, the
control state and every other context stand. A division into s0 changes nothing. -/
def Obligations.Division : Prop :=
  (∀ (c : Cond) (sd sa sb : BitVec 6) (s : State) (b : Bun) (x y : Word), s.issues b c →
     rdS (b.env c) sa = .ok x → rdS (b.env c) sb = .ok y →
     let done (v : Word) : State := s.modCtx b.x fun k => k.later (.s sd.toNat) v.toNat
     exec (.div c sd sa sb) s = .next (done (quotientS x y)) ∧ exec (.rem c sd sa sb) s = .next (done (remainderS x y))
       ∧ exec (.divu c sd sa sb) s = .next (done (quotientU x y)) ∧ exec (.remu c sd sa sb) s = .next (done (remainderU x y)))
  ∧ ∀ p ∈ divisionOps, ∀ (c : Cond) (sd sa sb : BitVec 6) (s : State) (b : Bun) (x y : Word), s.issues b c →
    rdS (b.env c) sa = .ok x → rdS (b.env c) sb = .ok y →
    (sd = 0 → ∃ t, exec (p.1 c sd sa sb) s = .next t ∧ onlyFlight s t b.x [] ∧ ∀ z, t.ctx z = s.ctx z)
      ∧ (sd ≠ 0 → ∃ t, exec (p.1 c sd sa sb) s = .next t ∧ onlyFlight s t b.x [.s sd.toNat] ∧ (∀ z, z ≠ b.x → t.ctx z = s.ctx z)
        ∧ ((t.ctx b.x).regs.sc sd.toNat).full = false
        ∧ ((t.ctx b.x).regs.sc sd.toNat).prod = (s.ctx b.x).fl.serial + 1 ∧ (t.ctx b.x).fl.serial = (s.ctx b.x).fl.serial + 1
        ∧ (t.ctx b.x).fl.fills = (s.ctx b.x).fl.fills ++
            [{ reg := .s sd.toNat, prod := (s.ctx b.x).fl.serial + 1, val := (p.2 x y).toNat }])

/-- CMP, SEL, PLOG and FCMP (R167, R170, R174); predicates are read as they stood before the bundle. -/
def Obligations.ComparingAndSelecting : Prop :=
  ∀ (c : Cond) (s : State) (b : Bun) (sd sa sb : BitVec 6) (pd pa pb : BitVec 3) (tt : BitVec 4) (x y : Word), s.issues b c →
    rdS (b.env c) sa = .ok x → rdS (b.env c) sb = .ok y →
    exec (.cmp c .eq pd sa sb) s = .next (putP s b pd (decide (x = y)))
      ∧ exec (.cmp c .ne pd sa sb) s = .next (putP s b pd (decide (x ≠ y)))
      ∧ exec (.cmp c .lt pd sa sb) s = .next (putP s b pd (decide (x.toInt < y.toInt)))
      ∧ exec (.cmp c .ge pd sa sb) s = .next (putP s b pd (decide (x.toInt ≥ y.toInt)))
      ∧ exec (.cmp c .ltu pd sa sb) s = .next (putP s b pd (decide (x.toNat < y.toNat)))
      ∧ exec (.cmp c .geu pd sa sb) s = .next (putP s b pd (decide (x.toNat ≥ y.toNat)))
      ∧ exec (.cmp c .tst pd sa sb) s = .next (putP s b pd (decide (x &&& y ≠ 0)))
      ∧ exec (.cmp c .ntst pd sa sb) s = .next (putP s b pd (decide (x &&& y = 0)))
      ∧ exec (.sel c sd sa sb pa) s = .next (putS s b sd (if b.pre.regs.pv pa.toNat then x else y).toNat)
      ∧ exec (.plog c pd pa pb tt) s
          = .next (putP s b pd (tt.getLsbD (2 * b2n (b.pre.regs.pv pa.toNat) + b2n (b.pre.regs.pv pb.toNat))))
      ∧ ∀ f, let u := fval f x; let v := fval f y
        exec (.fcmp c .eq f pd sa sb) s = .next (putP s b pd (u.eq v)) ∧ exec (.fcmp c .lt f pd sa sb) s = .next (putP s b pd (u.lt v))
          ∧ exec (.fcmp c .le f pd sa sb) s = .next (putP s b pd (u.lt v || u.eq v))
          ∧ exec (.fcmp c .un f pd sa sb) s = .next (putP s b pd (u.isNan || v.isNan))
          ∧ exec (.fcmp c .ne f pd sa sb) s = .next (putP s b pd (!u.eq v))

/-- LEA, LEAI and AMOV (R169). WIDF (R20, R21, R171): a field, the team's dense ordinal or the rank of rd(sA), or of the context's own
identifier for s0, under the layout of its launch; a field number not below F raises cause 0x01. -/
def Obligations.AddressesAndWorkIdentifiers : Prop :=
  (∀ (c : Cond) (s : State) (b : Bun) (ad aa : BitVec 4) (sb sd : BitVec 6) (sh : BitVec 3) (imm : BitVec 21) (a y : Word), s.issues b c →
     rdA (b.env c) aa = .ok a → rdS (b.env c) sb = .ok y →
     exec (.lea c ad aa sb sh) s = .next (putA s b ad ((a.toNat + y.toNat * 2 ^ sh.toNat) % 2 ^ 64))
       ∧ exec (.leai c ad aa imm) s = .next (putA s b ad (zextI (a.toNat + imm.toInt) 64))
       ∧ exec (.amovSToA c ad sb) s = .next (putA s b ad y.toNat) ∧ exec (.amovAToS c sd aa) s = .next (putS s b sd a.toNat))
    ∧ (∀ (c : Cond) (s : State) (b : Bun) (sd sa : BitVec 6) (n : BitVec 3) (w : Nat), s.issues b c →
         let raw := s.lraw b.pre.ct.launch
         (sa = 0 ∧ w = b.pre.ct.wid ∨ sa ≠ 0 ∧ ∃ x, rdS (b.env c) sa = .ok x ∧ w = x.toNat) →
         (n.toNat < lNF raw → exec (.widf c sd sa n) s = .next (putS s b sd (w / 2 ^ widthFrom raw (n.toNat + 1) % 2 ^ lWidth raw n.toNat)))
           ∧ (lNF raw ≤ n.toNat → exec (.widf c sd sa n) s = .next (noted s b 1 (.trap 0x01 0)))
           ∧ exec (.widfTeam c sd sa) s = .next (putS s b sd (teamOrdinal raw w))
           ∧ exec (.widfRank c sd sa) s = .next (putS s b sd (teamRank raw w)))

/-- Scalar floating point never traps and keeps no flags (R172, R173, R175): the exact result is rounded once in the slot's mode, FFMA adds
the old destination, the lesser and the greater order -0 below +0 and pass a lone NaN over, and FCVT converts by its types. -/
def Obligations.ScalarFloatingPoint : Prop :=
  ∀ (c : Cond) (s : State) (b : Bun) (f : FFmt) (rm : Rm) (sd sa sb : BitVec 6) (x y z : Word), s.issues b c →
    rdS (b.env c) sa = .ok x → rdS (b.env c) sb = .ok y → rdS (b.env c) sd = .ok z →
    (∀ p ∈ floatOps, exec (p.1 c f rm sd sa sb) s = .next (putS s b sd ((fmtOf f).conv rm false (p.2 rm (fval f x) (fval f y))).bits))
      ∧ exec (.ffma c f rm sd sa sb) s
          = .next (putS s b sd ((fmtOf f).conv rm false (FV.add rm (FV.mul (fval f x) (fval f y)) (fval f z))).bits)
      ∧ exec (.fmin c f sd sa sb) s = .next (putS s b sd ((fmtOf f).conv .rne false (fminV (fval f x) (fval f y))).bits)
      ∧ exec (.fmax c f sd sa sb) s = .next (putS s b sd ((fmtOf f).conv .rne false (fmaxV (fval f x) (fval f y))).bits)
      ∧ ∀ dst src sat, exec (.fcvt c dst src rm sat sd sa) s = .next (putS s b sd (cvtResult dst rm sat (cvtSource src x)))

/-- THE FRAME of every instruction that writes only registers: whatever its slot meets, every register but its destination, the mask stack,
PC, the branch state, the privileged block, the continuation's control state, every other context, every engine and every byte of memory are
as before (R113, R117, R163 to R190). -/
def Obligations.OnlyTheDestinationChanges : Prop :=
  ∀ (i : Instr) (ks : List RegRef) (s t : State) (b : Bun), writesOnly i = some ks → s.bun = some b → exec i s = .next t →
    onlyRegs s t b.x ks

/-! ## The V-slot -/

/-- An element-wise instruction writes its element of R181 to R183 in every active lane, keeps the old element in every inactive lane, and
changes nothing else; the old destination is read only where some lane is inactive (R177). VFMA adds the old element, rounded once; VABS and
VNEG; VSEL takes a where the old element has a bit set (R181, R182, R183, R185). -/
def Obligations.VectorElementwise : Prop :=
  (∀ (t : VType) (rm : Rm) (sat : Bool), ∀ p ∈ vectorOps t rm sat, ∀ (c : Cond) (vd va vb : BitVec 5) (s : State) (b : Bun) (x y o : BitVec 1024),
     s.issues b c → rdV (b.env c) va = .ok x → rdV (b.env c) vb = .ok y → rdOld (b.env c) vd false = .ok o →
     ∃ v, exec (p.1 c vd va vb) s = .next (putV s b vd v)
       ∧ Lanewise t b.pre.regs.top o v fun i => p.2 (vget x t.width i) (vget y t.width i))
  ∧ ∀ (t : VType) (rm : Rm) (sat : Bool) (c : Cond) (vd va vb : BitVec 5) (s : State) (b : Bun) (x y o : BitVec 1024),
    s.issues b c → rdV (b.env c) va = .ok x → rdV (b.env c) vb = .ok y → rdV (b.env c) vd = .ok o →
    (∃ v, exec (.vfma c t rm sat vd va vb) s = .next (putV s b vd v)
        ∧ Lanewise t b.pre.regs.top o v fun i =>
          let e := vget x t.width i; let f := vget y t.width i; let g := vget o t.width i
          if t.isFloat then vputF t rm sat (FV.add rm (FV.mul (vfloat t e) (vfloat t f)) (vfloat t g))
          else intElem t sat (vint t e * vint t f + vint t g))
      ∧ (∃ v, exec (.vabs c t sat vd va) s = .next (putV s b vd v)
        ∧ Lanewise t b.pre.regs.top o v fun i =>
          if t.isFloat then vputF t .rne false (vfloat t (vget x t.width i)).abs else intElem t sat (vint t (vget x t.width i)).natAbs)
      ∧ (∃ v, exec (.vneg c t sat vd va) s = .next (putV s b vd v)
        ∧ Lanewise t b.pre.regs.top o v fun i =>
          if t.isFloat then vputF t .rne false (vfloat t (vget x t.width i)).neg else intElem t sat (-vint t (vget x t.width i)))
      ∧ ∃ v, exec (.vsel c t vd va vb) s = .next (putV s b vd v)
        ∧ Lanewise t b.pre.regs.top o v fun i => if vget o t.width i ≠ 0 then vget x t.width i else vget y t.width i

/-- VCMP writes all ones where its condition holds and zero elsewhere; VPERM, VBCAST, VIOTA and the lane ranks (R184, R188 to R190). VEXT
takes a lane out, VINS puts one in whatever the mask, KTOP reads the top mask (R180, R189). -/
def Obligations.VectorCompareAndLaneMoves : Prop :=
  (∀ (t : VType) (c : Cond) (vd va vb : BitVec 5) (sS : BitVec 6) (s : State) (b : Bun) (x y o : BitVec 1024) (z : Word),
     s.issues b c → rdV (b.env c) va = .ok x → rdV (b.env c) vb = .ok y → rdOld (b.env c) vd false = .ok o → rdS (b.env c) sS = .ok z →
     let top := b.pre.regs.top
     (∀ k, ∃ v, exec (.vcmp c k t vd va vb) s = .next (putV s b vd v)
         ∧ Lanewise t top o v fun i =>
           let e := vget x t.width i; let f := vget y t.width i
           if (if t.isFloat then vcmpF k (vfloat t e) (vfloat t f) else vcmpI k (vint t e) (vint t f)) then 2 ^ t.width - 1 else 0)
       ∧ (∃ v, exec (.vperm c vd va vb) s = .next (putV s b vd v) ∧ Lanewise .z32 top o v fun i => vget x 32 (vget y 32 i % 32))
       ∧ (∃ v, exec (.vbcast c t vd sS) s = .next (putV s b vd v) ∧ Lanewise t top o v fun _ => z.toNat % 2 ^ t.width)
       ∧ (∃ v, exec (.viota c t vd) s = .next (putV s b vd v) ∧ Lanewise t top o v fun i => i)
       ∧ ∃ v, exec (.viotaRank c t vd) s = .next (putV s b vd v)
         ∧ Lanewise t top o v fun i => (List.range i).countP fun k => active top k)
    ∧ (∀ (c : Cond) (vd va lane : BitVec 5) (sd sS : BitVec 6) (s : State) (b : Bun) (x o : BitVec 1024) (z : Word),
         s.issues b c → rdV (b.env c) va = .ok x → rdV (b.env c) vd = .ok o → rdS (b.env c) sS = .ok z →
         exec (.vext c .s32 sd va lane) s = .next (putS s b sd (zextI (sextN (vget x 32 lane.toNat) 32) 64))
           ∧ (∀ t, t = .z32 ∨ t = .f32 → exec (.vext c t sd va lane) s = .next (putS s b sd (vget x 32 lane.toNat)))
           ∧ (∀ t, ∃ v, exec (.vins c t vd sS lane) s = .next (putV s b vd v)
             ∧ ∀ i, i < 32 → vget (BitVec.ofNat 1024 v) 32 i = if i = lane.toNat then z.toNat % 2 ^ 32 else vget o 32 i)
           ∧ exec (.ktop c sd) s = .next (putS s b sd b.pre.regs.top))

/-- VCVT (R186): with kd and ks elements a lane, a narrowing writes part h of its destination from all of its source, a widening all of its
destination from part h of its source; mask bit e div kmin governs conversion e, and every other element stands. VRED writes one value to
every lane, whatever the mask: an integer sum exactly and then wrapped or clamped, a float combination in the fixed tree of adjacent pairs,
each inactive lane giving the identity (R187). -/
def Obligations.VectorConversionAndReduction : Prop :=
  (∀ (dst src : VType) (rm : Rm) (sat : Bool) (c : Cond) (vd va h : BitVec 5) (s : State) (b : Bun) (x o : BitVec 1024),
     s.issues b c → rdV (b.env c) va = .ok x → rdOld (b.env c) vd (decide (1 < vcvtParts dst src)) = .ok o →
     dst ≠ src → h.toNat < vcvtParts dst src →
     let kmin := min dst.perLane src.perLane
     ∃ v, exec (.vcvt c dst src rm sat vd va h) s = .next (putV s b vd v)
       ∧ (∀ e, e < 32 * kmin →
         let de := if src.perLane < dst.perLane then 32 * kmin * h.toNat + e else e
         let se := if src.perLane < dst.perLane then e else 32 * kmin * h.toNat + e
         vget (BitVec.ofNat 1024 v) dst.width de
           = if active b.pre.regs.top (e / kmin) then vcvtE dst src rm sat (vget x src.width se) % 2 ^ dst.width else vget o dst.width de)
       ∧ ∀ de, de < 32 * dst.perLane → src.perLane < dst.perLane → (de < 32 * kmin * h.toNat ∨ 32 * kmin * h.toNat + 32 * kmin ≤ de) →
         vget (BitVec.ofNat 1024 v) dst.width de = vget o dst.width de)
    ∧ (∀ (op : RedOp) (t : VType) (rm : Rm) (sat : Bool) (c : Cond) (vd va : BitVec 5) (s : State) (b : Bun) (x : BitVec 1024),
         s.issues b c → rdV (b.env c) va = .ok x → t.width = 32 →
         let lanes := (List.range 32).map fun i => if active b.pre.regs.top i then vget x 32 i else redIdentity op t
         let one := if t.isFloat then
             (let l1 := pairUp (redNodeF op rm) lanes; let l2 := pairUp (redNodeF op rm) l1; let l3 := pairUp (redNodeF op rm) l2
              let l4 := pairUp (redNodeF op rm) l3; (pairUp (redNodeF op rm) l4).headD 0)
           else match op with
             | .add => intElem t sat ((lanes.map (vint t)).sum)
             | .min => lanes.foldl (fun a e => if vint t e < vint t a then e else a) (redIdentity .min t)
             | .max => lanes.foldl (fun a e => if vint t a < vint t e then e else a) (redIdentity .max t)
             | .and => lanes.foldl (fun a e => a &&& e) (2 ^ 32 - 1)
             | .or => lanes.foldl (fun a e => a ||| e) 0
             | .xor => lanes.foldl (fun a e => a ^^^ e) 0
         ∃ v, exec (.vred c op t rm sat vd va) s = .next (putV s b vd v) ∧ ∀ i, i < 32 → vget (BitVec.ofNat 1024 v) 32 i = one % 2 ^ 32)

/-- The mask stack (R177, R180): KPUSH pushes the lanes that are not zero under the top mask, KINV turns the top within its enclosing mask,
KPOP drops it; a full stack for KPUSH and an empty one for KINV and KPOP raise cause 0x01. -/
def Obligations.MaskStack : Prop :=
  ∀ (c : Cond) (va : BitVec 5) (s : State) (b : Bun) (x : BitVec 1024), s.issues b c → rdV (b.env c) va = .ok x →
    let r := b.pre.regs
    let d := r.depth
    let change (f : Regs → Regs) : State := s.modCtx b.x fun k => { k with regs := f k.regs }
    (d ≠ 15 → ∃ m, exec (.kpush c va) s = .next (change fun q => { q with mask := tset 0 q.mask (d + 1) m, depth := d + 1 })
        ∧ ∀ i, i < 32 → active m i = (active (r.entry d) i && decide (vget x 32 i ≠ 0)))
      ∧ (d = 15 → exec (.kpush c va) s = .next (noted s b 2 (.trap 0x01 0)))
      ∧ (d ≠ 0 → ∃ m, exec (.kinv c) s = .next (change fun q => { q with mask := tset 0 q.mask d m })
        ∧ ∀ i, i < 32 → active m i = (active (r.entry (d - 1)) i && !active (r.entry d) i))
      ∧ (d ≠ 0 → exec (.kpop c) s = .next (change fun q => { q with depth := d - 1 }))
      ∧ (d = 0 → exec (.kinv c) s = .next (noted s b 2 (.trap 0x01 0)) ∧ exec (.kpop c) s = .next (noted s b 2 (.trap 0x01 0)))

/-- VEXP2, VRCP and VRSQ mark their destination empty and leave the rounded values to fill it, with the old elements where no lane is
active; VAMAX of a matrix-bound context offers each active lane's magnitude to a peak register, and otherwise raises cause 0x01 (R106 to
R110, R191, R192). Inside a region VAMAX rolls it back; that it does so also for a context that is not matrix-bound is the model's choice (log
entry 96). -/
def Obligations.TranscendentalsAndPeaks : Prop :=
  ∀ (t : VType) (rm : Rm) (c : Cond) (vd va : BitVec 5) (pk : BitVec 3) (s : State) (b : Bun) (x o : BitVec 1024), s.issues b c →
    rdV (b.env c) va = .ok x → rdOld (b.env c) vd false = .ok o →
    (∀ p ∈ ([(.vexp2, exp2), (.vrcp, rcp), (.vrsq, rsq)] : List ((Cond → VType → Rm → BitVec 5 → BitVec 5 → Instr) × (FV → FV))),
      ∃ u v, exec (p.1 c t rm vd va) s = .next u ∧ (∀ z, z ≠ b.x → u.ctx z = s.ctx z) ∧ ((u.ctx b.x).regs.vc vd.toNat).full = false
        ∧ sameRegsBut [.v vd.toNat] (s.ctx b.x).regs (u.ctx b.x).regs
        ∧ (u.ctx b.x).fl.fills = (s.ctx b.x).fl.fills ++ [{ reg := .v vd.toNat, prod := (s.ctx b.x).fl.serial + 1, val := v }]
        ∧ Lanewise t b.pre.regs.top o v fun i => vputF t rm false (p.2 (vfloat t (vget x t.width i))))
      ∧ (b.pre.region = none → b.pre.pr.mb = true → ∃ v, exec (.vamax c pk va) s
            = .next (s.modMx b.x.coreId fun m => { m with pk := tset 0 m.pk pk.toNat v })
          ∧ v = (List.range 32).foldl (fun acc i =>
              if active b.pre.regs.top i then pkOffer acc (vfloat .f32 (vget x 32 i)) else acc) (tget 0 (s.core b.x.coreId).mx.pk pk.toNat))
      ∧ (b.pre.region = none → b.pre.pr.mb = false → exec (.vamax c pk va) s = .next (noted s b 2 (.trap 0x01 0)))
      ∧ (b.pre.region.isSome = true → exec (.vamax c pk va) s = .next (noted s b 2 (.roll 0x07 0)))

/-! ## The V-slot's accesses to L-mem -/

/-- LDL and STL outside a region, aligned and in the window (R193, R194): the load extends its bytes by its size code, and marks its
register poisoned where they are uncorrectable (R203); the store writes its low bytes at the same effective address, and every other byte of
every memory reads as before. -/
def Obligations.ScalarLmemAccess : Prop :=
  ∀ (c : Cond) (chk : Bool) (sd sS : BitVec 6) (a : BitVec 4) (imm : BitVec 14) (s : State) (b : Bun) (base v : Word), s.issues b c →
    b.pre.fl.acq = [] → NoRegion s b → rdA (b.env c) a = .ok base → rdS (b.env c) sS = .ok v →
    (∀ sz : LSz, let ea := effAddr base imm sz.bytes
      ea % sz.bytes = 0 → InWindow b.pre.pr ea sz.bytes →
      exec (.ldl c sz chk sd a imm) s = .next (s.wrMarked b.x (.s sd.toNat) (extend sz (s.rdLmem b.x.coreId ea sz.bytes))
        (if (s.core b.x.coreId).lmemBad ea sz.bytes then ⟨0x0C, ea⟩ else { })))
      ∧ ∀ sz : SSz, let ea := effAddr base imm sz.bytes
        ea % sz.bytes = 0 → InWindow b.pre.pr ea sz.bytes →
        ∃ t, exec (.stl c sz sS a imm) s = .next t ∧ t.rdLmem b.x.coreId ea sz.bytes = v.toNat % 256 ^ sz.bytes
          ∧ sameBytesBut s t b.x.coreId (fun q => ea ≤ q ∧ q < ea + sz.bytes) ∧ ∀ y, t.ctx y = s.ctx y

/-- A misaligned LDL or STL raises cause 0x04, and an aligned one outside the window cause 0x05, with the address as DETAIL, before any
effect (R193, R298), a store of a region once no alias entry lies over its bytes (R224); and one behind an unperformed acquire holds its
bundle (R202). A lane-wise access with a misaligned active lane raises
cause 0x04 for the first one, and otherwise one with an active lane outside the window cause 0x05 for the first one; inactive lanes raise
nothing (R177, R193). -/
def Obligations.LmemAccessFaults : Prop :=
  (∀ (c : Cond) (chk : Bool) (sd sS : BitVec 6) (a : BitVec 4) (imm : BitVec 14) (s : State) (b : Bun) (base v : Word), s.issues b c →
     rdA (b.env c) a = .ok base → rdS (b.env c) sS = .ok v →
     (b.pre.fl.acq = [] → ∀ sz : LSz, let ea := effAddr base imm sz.bytes
       (ea % sz.bytes ≠ 0 → exec (.ldl c sz chk sd a imm) s = .next (noted s b 2 (.trap 0x04 ea)))
         ∧ (ea % sz.bytes = 0 → ¬ InWindow b.pre.pr ea sz.bytes → exec (.ldl c sz chk sd a imm) s = .next (noted s b 2 (.trap 0x05 ea))))
       ∧ (b.pre.fl.acq = [] → ∀ sz : SSz, let ea := effAddr base imm sz.bytes
         NoHit s b.x .lmem ea sz.bytes → (ea % sz.bytes ≠ 0 → exec (.stl c sz sS a imm) s = .next (noted s b 2 (.trap 0x04 ea)))
           ∧ (ea % sz.bytes = 0 → ¬ InWindow b.pre.pr ea sz.bytes → exec (.stl c sz sS a imm) s = .next (noted s b 2 (.trap 0x05 ea))))
       ∧ (b.pre.fl.acq ≠ [] → (∀ sz, exec (.ldl c sz chk sd a imm) s = .next (noted s b 2 (.block .acq)))
           ∧ ∀ sz, exec (.stl c sz sS a imm) s = .next (noted s b 2 (.block .acq))))
    ∧ (∀ (c : Cond) (vd vb : BitVec 5) (a : BitVec 4) (imm : BitVec 14) (sS : BitVec 6) (s : State) (b : Bun) (base st : Word) (ix v : BitVec 1024),
         s.issues b c → b.pre.fl.acq = [] →
         rdA (b.env c) a = .ok base → rdS (b.env c) sS = .ok st → rdV (b.env c) vb = .ok ix → rdV (b.env c) vd = .ok v →
         ∀ p ∈ laneLoads c vd a imm sS vb base st ix ++ laneStores c vd a imm sS vb base st ix,
           (∀ i, i < 32 → active b.pre.regs.top i = true → NoHit s b.x .lmem (p.2 i) 4) →
           (∀ i, i < 32 → active b.pre.regs.top i = true → p.2 i % 4 ≠ 0 →
               (∀ j, j < i → active b.pre.regs.top j = true → p.2 j % 4 = 0) → exec p.1 s = .next (noted s b 2 (.trap 0x04 (p.2 i))))
             ∧ ∀ i, i < 32 → active b.pre.regs.top i = true → ¬ InWindow b.pre.pr (p.2 i) 4 →
               (∀ j, j < 32 → active b.pre.regs.top j = true → p.2 j % 4 = 0) →
               (∀ j, j < i → active b.pre.regs.top j = true → InWindow b.pre.pr (p.2 j) 4) → exec p.1 s = .next (noted s b 2 (.trap 0x05 (p.2 i))))

/-- VLD, VLDS and VGTH outside a region give every active lane the four bytes at its address, and change nothing but their register (R193 to
R196) and the counters that count the cycles of their bank conflicts (R61); where some active lane's bytes are uncorrectable the register is
marked. VST, VSTS and VSCT outside a region: every byte that an
active lane writes takes the value of the highest such lane, and every other byte of every memory reads as before (R194 to R196); no context
changes. -/
def Obligations.LaneLoadsAndStores : Prop :=
  (∀ (c : Cond) (vd vb : BitVec 5) (a : BitVec 4) (imm : BitVec 14) (sS : BitVec 6) (s : State) (b : Bun) (base st : Word) (ix o : BitVec 1024),
     s.issues b c → b.pre.fl.acq = [] → NoRegion s b →
     rdA (b.env c) a = .ok base → rdS (b.env c) sS = .ok st → rdV (b.env c) vb = .ok ix → rdOld (b.env c) vd false = .ok o →
     ∀ p ∈ laneLoads c vd a imm sS vb base st ix, LanesOk b p.2 →
       ∃ v m, exec p.1 s = .next ((s.conflicts (b.env c) p.2).wrMarked b.x (.v vd.toNat) v m)
         ∧ (∀ i, i < 32 → vget (BitVec.ofNat 1024 v) 32 i
             = if active b.pre.regs.top i then s.rdLmem b.x.coreId (p.2 i) 4 else vget o 32 i)
         ∧ ((∀ i, i < 32 → active b.pre.regs.top i = true → (s.core b.x.coreId).lmemBad (p.2 i) 4 = false) → m = { })
         ∧ (∀ i, i < 32 → active b.pre.regs.top i = true → (s.core b.x.coreId).lmemBad (p.2 i) 4 = true → m.cause = 0x0C))
    ∧ (∀ (c : Cond) (vs vb : BitVec 5) (a : BitVec 4) (imm : BitVec 14) (sS : BitVec 6) (s : State) (b : Bun) (base st : Word) (ix v : BitVec 1024),
         s.issues b c → b.pre.fl.acq = [] → NoRegion s b →
         rdA (b.env c) a = .ok base → rdS (b.env c) sS = .ok st → rdV (b.env c) vb = .ok ix → rdV (b.env c) vs = .ok v →
         ∀ p ∈ laneStores c vs a imm sS vb base st ix, LanesOk b p.2 →
           ∃ t, exec p.1 s = .next t ∧ (∀ y, t.ctx y = s.ctx y)
             ∧ (∀ i q, i < 32 → active b.pre.regs.top i = true → p.2 i ≤ q → q < p.2 i + 4 →
                 (∀ j, i < j → j < 32 → active b.pre.regs.top j = true → ¬ (p.2 j ≤ q ∧ q < p.2 j + 4)) →
                 (rdByte (t.core b.x.coreId).lmem q).toNat = vget v 8 (4 * i + (q - p.2 i)))
             ∧ sameBytesBut s t b.x.coreId fun q => ∃ i, i < 32 ∧ active b.pre.regs.top i = true ∧ p.2 i ≤ q ∧ q < p.2 i + 4)

/-- Inside a region a store is held, and no byte of memory changes (R199, R221, R222): one whose bytes overlap an alias entry rolls the
region back with cause 0x02, before any other check (R224), and one that finds no free entry with cause 0x03; VSTS and VSCT take one entry
for each active lane. What a lower slot of the bundle has entered or held counts. -/
def Obligations.RegionHoldsStores : Prop :=
  ∀ (c : Cond) (sz : SSz) (sS : BitVec 6) (vs vb : BitVec 5) (a : BitVec 4) (imm : BitVec 14) (s : State) (b : Bun) (g : Region)
      (base st : Word) (ix v : BitVec 1024), s.issues b c → b.pre.fl.acq = [] → b.pre.region.isSome = true → (s.ctx b.x).region = some g →
    rdA (b.env c) a = .ok base → rdS (b.env c) sS = .ok st → rdV (b.env c) vb = .ok ix → rdV (b.env c) vs = .ok v →
    (let ea := effAddr base imm sz.bytes
     ((∃ al ∈ g.aliases, al.hits .lmem ea sz.bytes = true) → exec (.stl c sz sS a imm) s = .next (noted s b 2 (.roll 0x02 0)))
      ∧ (NoHit s b.x .lmem ea sz.bytes → ea % sz.bytes = 0 → InWindow b.pre.pr ea sz.bytes →
        if 64 ≤ (s.ctx b.x).heldSt.length then exec (.stl c sz sS a imm) s = .next (noted s b 2 (.roll 0x03 0))
        else exec (.stl c sz sS a imm) s = .next (s.modCtx b.x fun k => { k with heldSt := k.heldSt ++ [.mem .lmem ea sz.bytes st.toNat b.baddr] })))
      ∧ (∀ p ∈ laneStores c vs a imm sS vb base st ix, (∃ i, i < 32 ∧ active b.pre.regs.top i = true ∧ ∃ al ∈ g.aliases, al.hits .lmem (p.2 i) 4 = true) →
        exec p.1 s = .next (noted s b 2 (.roll 0x02 0)))
      ∧ ∀ p ∈ laneStores c vs a imm sS vb base st ix, LanesOk b p.2 →
        (∀ i, i < 32 → active b.pre.regs.top i = true → NoHit s b.x .lmem (p.2 i) 4) →
        (s.ctx b.x).heldSt.length + 32 ≤ 64 →
        ∃ t hs, exec p.1 s = .next t ∧ sameBytes s t ∧ (t.ctx b.x).heldSt = (s.ctx b.x).heldSt ++ hs ∧ (t.ctx b.x).regs = (s.ctx b.x).regs
          ∧ (p.1 = .vst c vs a imm → hs.length = 1)
          ∧ (p.1 = .vsts c vs a sS ∨ p.1 = .vsct c vs a vb → hs.length = (List.range 32).countP fun i => active b.pre.regs.top i)

/-! ## The M-slot's accesses -/

/-- LD and ST outside a region, aligned and covered by a vault window, issue: an access of the resolved offset with the annotation of its
order field joins the context's accesses, and no byte changes until it is performed; LD leaves its register empty for the access to fill,
and LD of s0 fills nothing (R55, R56, R73, R115, R205). LDV and STV outside a region with some lane active (R206): the base aligned to 8 and
every active lane covered, one access with the resolved offsets of exactly the active lanes issues. With no lane active both complete and
change nothing, once the base is aligned and the four bytes there covered; otherwise they raise cause 0x04 or 0x05. -/
def Obligations.VaultAccessesIssue : Prop :=
  (∀ (c : Cond) (o : Ord) (sc : Scope) (chk : Bool) (sd sS : BitVec 6) (a : BitVec 4) (imm : BitVec 14) (s : State) (b : Bun) (base v : Word)
       (off : Nat), s.issues b c → b.pre.fl.acq = [] → NoRegion s b →
     rdA (b.env c) a = .ok base → rdS (b.env c) sS = .ok v →
     let n := (s.ctx b.x).fl.serial
     (∀ sz : LSz, let ea := effAddr base imm sz.bytes
       ea % sz.bytes = 0 → s.vaultCheck b.x ea sz.bytes = some off → ∃ t, exec (.ld c sz o sc chk sd a imm) s = .next t
         ∧ (sd ≠ 0 → Awaits s t b.x (.s sd.toNat) (n + 1)
           ∧ Issued s t b.x { serial := n + 2, kind := .load sz, addr := off, ord := loadOrd o, sc := sc, dst := some (.s sd.toNat, n + 1)
                              baddr := b.baddr, ea := ea, at_ := s.tick, delay := (s.ctx b.x).delayed })
         ∧ (sd = 0 → (t.ctx b.x).regs = (s.ctx b.x).regs
           ∧ Issued s t b.x { serial := n + 1, kind := .load sz, addr := off, ord := loadOrd o, sc := sc, dst := none, baddr := b.baddr, ea := ea
                              at_ := s.tick, delay := (s.ctx b.x).delayed }))
       ∧ ∀ sz : SSz, let ea := effAddr base imm sz.bytes
         ea % sz.bytes = 0 → s.vaultCheck b.x ea sz.bytes = some off → ∃ t, exec (.st c sz o sc sS a imm) s = .next t
           ∧ (t.ctx b.x).regs = (s.ctx b.x).regs
           ∧ Issued s t b.x { serial := n + 1, kind := .store sz.bytes v.toNat, addr := off, ord := storeOrd o, sc := sc, dst := none
                              baddr := b.baddr, ea := ea, at_ := s.tick, delay := (s.ctx b.x).delayed })
    ∧ (∀ (c : Cond) (o : Ord) (sc : Scope) (chk : Bool) (vd : BitVec 5) (a : BitVec 4) (imm : BitVec 14) (s : State) (b : Bun) (base : Word)
           (old v : BitVec 1024) (f : Nat → Nat), s.issues b c → b.pre.fl.acq = [] → NoRegion s b →
         rdA (b.env c) a = .ok base → rdOld (b.env c) vd false = .ok old → rdV (b.env c) vd = .ok v →
         let ea := effAddr base imm 128
         let n := (s.ctx b.x).fl.serial
         let ls := ((List.range 32).filter fun i => active b.pre.regs.top i).map fun i => (i, f i)
         ea % 8 = 0 → ls ≠ [] → (∀ i, i < 32 → active b.pre.regs.top i = true → s.vaultCheck b.x ((ea + 4 * i) % 2 ^ 64) 4 = some (f i)) →
         (∃ t, exec (.stv c o sc vd a imm) s = .next t ∧ (t.ctx b.x).regs = (s.ctx b.x).regs ∧ ∃ p, Issued s t b.x p ∧ p.serial = n + 1
             ∧ p.kind = .storeV ls v ∧ p.ord = storeOrd o ∧ p.sc = sc ∧ p.dst = none)
           ∧ ∃ t, exec (.ldv c o sc chk vd a imm) s = .next t ∧ Awaits s t b.x (.v vd.toNat) (n + 1)
             ∧ ∃ p, Issued s t b.x p ∧ p.serial = n + 2 ∧ p.kind = .loadV ls old ∧ p.ord = loadOrd o ∧ p.sc = sc ∧ p.dst = some (.v vd.toNat, n + 1))
    ∧ (∀ (c : Cond) (o : Ord) (sc : Scope) (chk : Bool) (vd : BitVec 5) (a : BitVec 4) (imm : BitVec 14) (s : State) (b : Bun) (base : Word)
           (old v : BitVec 1024), s.issues b c → b.pre.fl.acq = [] → NoRegion s b →
         rdA (b.env c) a = .ok base → rdOld (b.env c) vd false = .ok old → rdV (b.env c) vd = .ok v →
         (∀ i, i < 32 → active b.pre.regs.top i = false) →
         let ea := effAddr base imm 128
         ∀ i ∈ [Instr.ldv c o sc chk vd a imm, .stv c o sc vd a imm],
           (ea % 8 = 0 → (s.vaultCheck b.x ea 4).isSome = true → exec i s = .next s)
             ∧ (ea % 8 ≠ 0 → exec i s = .next (noted s b 3 (.trap 0x04 ea)))
             ∧ (ea % 8 = 0 → s.vaultCheck b.x ea 4 = none → exec i s = .next (noted s b 3 (.trap 0x05 ea))))

/-- The checks of a direct vault access (R55, R56, R202, R204 to R206, R209, R212, R213): a misaligned address raises cause 0x04 and one that
does not resolve or lies outside the windows 0x05, for LDV and STV that of the first such active lane; an unperformed acquire holds the
bundle; inside a region an annotated access, every atomic, SARV and SINIT roll it back as illegal, but a store that hits an alias entry does
so with cause 0x02 first (R224). A fabric operation that cannot name its place stops before any packet exists: a reserved target word raises
cause 0x01, a misaligned address 0x04, a module outside the domain, a vault that does not exist, a base outside the window or a job slot that
is not in use (R291) 0x05; inside a region all four roll it back as illegal (R223, R271 to R274). -/
def Obligations.AccessFaults : Prop :=
  (∀ (c : Cond) (w8 : Bool) (o : Ord) (sc : Scope) (rm : Rm) (chk : Bool) (sd sb : BitVec 6) (a : BitVec 4) (imm : BitVec 14) (sz : LSz) (s : State)
       (b : Bun) (base v d : Word), s.issues b c → rdA (b.env c) a = .ok base → rdS (b.env c) sb = .ok v → rdS (b.env c) sd = .ok d →
     let ea := effAddr base imm sz.bytes
     let n := if w8 then 8 else 4
     (b.pre.fl.acq ≠ [] → exec (.ld c sz o sc chk sd a imm) s = .next (noted s b 3 (.block .acq))
         ∧ ∀ p ∈ atomicOps w8 rm, exec (p.1 c o sc sd a sb) s = .next (noted s b 3 (.block .acq)))
       ∧ (b.pre.fl.acq = [] → b.pre.region = none →
         (ea % sz.bytes ≠ 0 → exec (.ld c sz o sc chk sd a imm) s = .next (noted s b 3 (.trap 0x04 ea)))
           ∧ (ea % sz.bytes = 0 → s.vaultCheck b.x ea sz.bytes = none →
             exec (.ld c sz o sc chk sd a imm) s = .next (noted s b 3 (.trap 0x05 ea)))
           ∧ ∀ p ∈ atomicOps w8 rm,
             (base.toNat % n ≠ 0 → exec (p.1 c o sc sd a sb) s = .next (noted s b 3 (.trap 0x04 base.toNat)))
               ∧ (base.toNat % n = 0 → s.vaultCheck b.x base.toNat n = none →
                 exec (p.1 c o sc sd a sb) s = .next (noted s b 3 (.trap 0x05 base.toNat))))
       ∧ (b.pre.fl.acq = [] → b.pre.region.isSome = true →
         (o ≠ .plain → exec (.ld c sz o sc chk sd a imm) s = .next (noted s b 3 (.roll 0x07 0)))
           ∧ ∀ p ∈ atomicOps w8 rm, exec (p.1 c o sc sd a sb) s = .next (noted s b 3 (.roll 0x07 0))))
    ∧ (∀ (c : Cond) (o : Ord) (sc : Scope) (chk : Bool) (sd sb : BitVec 6) (vd : BitVec 5) (a : BitVec 4) (imm : BitVec 14) (sz : SSz) (s : State)
           (b : Bun) (base v : Word) (old x : BitVec 1024), s.issues b c → rdA (b.env c) a = .ok base → rdS (b.env c) sb = .ok v →
         rdOld (b.env c) vd false = .ok old → rdV (b.env c) vd = .ok x →
         let ea := effAddr base imm sz.bytes
         let ev := effAddr base imm 128
         let at_ (i : Nat) : Nat := (ev + 4 * i) % 2 ^ 64
         let lane (i : Nat) : Prop := i < 32 ∧ active b.pre.regs.top i = true
         let laneHit : Prop := ∃ i, lane i ∧ ¬ NoVaultHit s b.x (at_ i) 4
         let stops (i : Instr) (st : Stop) : Prop := exec i s = .next (noted s b 3 st)
         (b.pre.fl.acq ≠ [] → ∀ i ∈ [Instr.st c sz o sc sb a imm, .ldv c o sc chk vd a imm, .stv c o sc vd a imm, .sarv c o sc sd a sb
             , .sinit c o sc a sb], stops i (.block .acq))
           ∧ (b.pre.fl.acq = [] → (b.pre.region = none ∨ o = .plain) →
             (NoVaultHit s b.x ea sz.bytes → (ea % sz.bytes ≠ 0 → stops (.st c sz o sc sb a imm) (.trap 0x04 ea))
                 ∧ (ea % sz.bytes = 0 → s.vaultCheck b.x ea sz.bytes = none → stops (.st c sz o sc sb a imm) (.trap 0x05 ea)))
               ∧ (ev % 8 ≠ 0 → stops (.ldv c o sc chk vd a imm) (.trap 0x04 ev) ∧ (¬ laneHit → stops (.stv c o sc vd a imm) (.trap 0x04 ev)))
               ∧ ∀ i, ev % 8 = 0 → lane i → s.vaultCheck b.x (at_ i) 4 = none → (∀ j, j < i → lane j → s.vaultCheck b.x (at_ j) 4 ≠ none) →
                 stops (.ldv c o sc chk vd a imm) (.trap 0x05 (at_ i)) ∧ (¬ laneHit → stops (.stv c o sc vd a imm) (.trap 0x05 (at_ i))))
           ∧ (b.pre.fl.acq = [] → (¬ NoVaultHit s b.x ea sz.bytes → stops (.st c sz o sc sb a imm) (.roll 0x02 0))
             ∧ (laneHit → stops (.stv c o sc vd a imm) (.roll 0x02 0)))
           ∧ (b.pre.fl.acq = [] → b.pre.region = none → ∀ i ∈ [Instr.sarv c o sc sd a sb, .sinit c o sc a sb],
             (base.toNat % 16 ≠ 0 → stops i (.trap 0x04 base.toNat))
               ∧ (base.toNat % 16 = 0 → s.vaultCheck b.x base.toNat 16 = none → stops i (.trap 0x05 base.toNat)))
           ∧ (b.pre.fl.acq = [] → b.pre.region.isSome = true →
             (∀ i ∈ [Instr.sarv c o sc sd a sb, .sinit c o sc a sb], stops i (.roll 0x07 0))
               ∧ (o ≠ .plain → stops (.ldv c o sc chk vd a imm) (.roll 0x07 0)
                 ∧ (NoVaultHit s b.x ea sz.bytes → stops (.st c sz o sc sb a imm) (.roll 0x07 0))
                 ∧ (¬ laneHit → stops (.stv c o sc vd a imm) (.roll 0x07 0)))))
    ∧ (∀ (c : Cond) (o : Ord) (sc : Scope) (sd sT : BitVec 6) (a : BitVec 4) (imm : BitVec 8) (nm1 : BitVec 3) (op : RedOp) (ty : XTy) (sz : LSz) (s : State)
           (b : Bun) (base v : Word), s.issues b c → b.pre.fl.acq = [] → rdA (b.env c) a = .ok base → rdS (b.env c) sT = .ok v →
         let ea := effAddr base imm sz.bytes
         let x := base.toNat
         let t := v.toNat
         let k := nm1.toNat + 1
         let stops (i : Instr) (st : Stop) : Prop := exec i s = .next (noted s b 3 st)
         let bad (q : Nat) : Prop := 2 ^ 44 ≤ q ∨ q / 2 ^ 34 % 2 ^ 10 ∉ s.domain ∨ 12 ≤ q / 2 ^ 26 % 16 ∨ (s.jobSlot b.x).valid = false
         (b.pre.region = none →
           (ea % sz.bytes ≠ 0 → stops (.xld c sz o sc sd a imm) (.trap 0x04 ea))
             ∧ (ea % sz.bytes = 0 → bad ea → stops (.xld c sz o sc sd a imm) (.trap 0x05 ea))
             ∧ (∀ z : SSz, let es := effAddr base imm z.bytes
               (es % z.bytes ≠ 0 → stops (.xst c z o sc sT a imm) (.trap 0x04 es))
                 ∧ (es % z.bytes = 0 → bad es → stops (.xst c z o sc sT a imm) (.trap 0x05 es)))
             ∧ (x % ty.bytes ≠ 0 → stops (.xred c op ty o sc a sT) (.trap 0x04 x))
             ∧ (x % ty.bytes = 0 → bad x → stops (.xred c op ty o sc a sT) (.trap 0x05 x))
             ∧ (targetOk t = false → stops (.xsend c o sc sT a nm1) (.trap 0x01 0))
             ∧ (targetOk t = true → (x % 8 ≠ 0 → stops (.xsend c o sc sT a nm1) (.trap 0x04 x))
               ∧ (x % 8 = 0 → ¬ InWindow b.pre.pr x (8 * k) → stops (.xsend c o sc sT a nm1) (.trap 0x05 x))
               ∧ (x % 8 = 0 → InWindow b.pre.pr x (8 * k) → (s.jobSlot b.x).valid = false → stops (.xsend c o sc sT a nm1) (.trap 0x05 x))
               ∧ (x % 8 = 0 → InWindow b.pre.pr x (8 * k) → (s.jobSlot b.x).valid = true → t % 2 ^ 10 ∉ s.domain →
                 stops (.xsend c o sc sT a nm1) (.trap 0x05 t))))
           ∧ (b.pre.region.isSome = true → exec (.xld c sz o sc sd a imm) s = .next (noted s b 3 (.roll 0x07 0))
             ∧ exec (.xred c op ty o sc a sT) s = .next (noted s b 3 (.roll 0x07 0)) ∧ exec (.xsend c o sc sT a nm1) s = .next (noted s b 3 (.roll 0x07 0))
             ∧ ∀ k : SSz, exec (.xst c k o sc sT a imm) s = .next (noted s b 3 (.roll 0x07 0))))

/-- Every atomic, SARV and SINIT issue outside a region, aligned and covered (R209 to R213): the read-modify-write joins the context's
accesses with its operands cut to its size, its register left empty, and nothing of memory changed until it is performed. -/
def Obligations.AtomicsIssue : Prop :=
  ∀ (c : Cond) (w8 : Bool) (o : Ord) (sc : Scope) (rm : Rm) (sd sb : BitVec 6) (a : BitVec 4) (s : State) (b : Bun) (base v d : Word) (off : Nat),
    s.issues b c → b.pre.fl.acq = [] → b.pre.region = none →
    rdA (b.env c) a = .ok base → rdS (b.env c) sb = .ok v → rdS (b.env c) sd = .ok d → sd ≠ 0 →
    let n := (s.ctx b.x).fl.serial
    let w := if w8 then 8 else 4
    (base.toNat % w = 0 → s.vaultCheck b.x base.toNat w = some off → ∀ p ∈ atomicOps w8 rm, ∃ t, exec (p.1 c o sc sd a sb) s = .next t
        ∧ Awaits s t b.x (.s sd.toNat) (n + 1) ∧ Issued s t b.x
          { serial := n + 2, kind := .atomic p.2.1 w (v.toNat % 256 ^ w) (if p.2.2 then d.toNat % 256 ^ w else 0), addr := off, ord := o, sc := sc
            dst := some (.s sd.toNat, n + 1), baddr := b.baddr, ea := base.toNat, at_ := s.tick, delay := (s.ctx b.x).delayed })
      ∧ (base.toNat % 16 = 0 → s.vaultCheck b.x base.toNat 16 = some off →
        (∃ t, exec (.sarv c o sc sd a sb) s = .next t ∧ Awaits s t b.x (.s sd.toNat) (n + 1) ∧ Issued s t b.x
          { serial := n + 2, kind := .atomic .sarv 16 (v.toNat % 2 ^ 32) 0, addr := off, ord := o, sc := sc, dst := some (.s sd.toNat, n + 1)
            baddr := b.baddr, ea := base.toNat, at_ := s.tick, delay := (s.ctx b.x).delayed })
          ∧ ∃ t, exec (.sinit c o sc a sb) s = .next t ∧ (t.ctx b.x).regs = (s.ctx b.x).regs ∧ Issued s t b.x
            { serial := n + 1, kind := .sinit (v.toNat % 2 ^ 32), addr := off, ord := storeOrd o, sc := sc, dst := none, baddr := b.baddr
              ea := base.toNat, at_ := s.tick, delay := (s.ctx b.x).delayed })

/-- ACCESS_PERFORM of a context's oldest access (R65, R73, R203, R205, R206, R209 to R213): a store writes its bytes; a load sends what it
reads to its register; an atomic reads and writes its location at once, and sends the old value; on bytes that are marked uncorrectable it
writes nothing. STV writes each of its lanes and LDV sends what its lanes read over its old elements (R206); a load without a register sends
nothing; and ATBADD sends p7 too: 1 where its bound kept it from adding (R210). What an atomic makes of the old value, at the cases that
R210 tabulates and at the ends of the range. -/
def Obligations.AccessesPerform : Prop :=
  (∀ (x : CtxId) (s : State) (p : Pend) (rest : List Pend), (s.ctx x).fl.pend = p :: rest → s.canPerform (s.ctx x) p = true →
     s.clusterRuns x.cl = true → s.isolated (p.addr / 2 ^ 30) = false → p.ovr = [] →
     ∃ t, exec (.accessPerform (.live x) 0) s = .next t ∧ (t.ctx x).fl.pend = rest
       ∧ (∀ n v, p.kind = .store n v → t.rdVault p.addr n = v % 256 ^ n ∧ ∀ q, (q < p.addr ∨ p.addr + n ≤ q) → rdByte t.vault q = rdByte s.vault q)
       ∧ (∀ sz r m, p.kind = .load sz → p.dst = some (r, m) → (∀ q, rdByte t.vault q = rdByte s.vault q)
           ∧ ∃ f, (t.ctx x).fl.fills = (s.ctx x).fl.fills ++ [f] ∧ f.reg = r ∧ f.prod = m ∧ f.val = extend sz (s.rdVault p.addr sz.bytes)
             ∧ (s.vaultBad p.addr sz.bytes = false → f.mark = Mark.mk 0 0) ∧ (s.vaultBad p.addr sz.bytes = true → f.mark.cause = 0x0C))
       ∧ (∀ sz, p.kind = .load sz → p.dst = none → (∀ q, rdByte t.vault q = rdByte s.vault q) ∧ (t.ctx x).fl.fills = (s.ctx x).fl.fills
           ∧ (t.ctx x).regs = (s.ctx x).regs)
       ∧ (∀ ls v, p.kind = .storeV ls v → ls.Pairwise (fun g h => g.2 + 4 ≤ h.2 ∨ h.2 + 4 ≤ g.2) →
           (∀ l ∈ ls, t.rdVault l.2 4 = vget v 32 l.1) ∧ ∀ q, (∀ l ∈ ls, q < l.2 ∨ l.2 + 4 ≤ q) → rdByte t.vault q = rdByte s.vault q)
       ∧ (∀ ls old r m, p.kind = .loadV ls old → p.dst = some (r, m) → (ls.map Prod.fst).Nodup → (∀ q, rdByte t.vault q = rdByte s.vault q)
           ∧ ∃ f, (t.ctx x).fl.fills = (s.ctx x).fl.fills ++ [f] ∧ f.reg = r ∧ f.prod = m
             ∧ (∀ i, i < 32 → (∀ l ∈ ls, l.1 ≠ i) → vget (BitVec.ofNat 1024 f.val) 32 i = vget old 32 i)
             ∧ (∀ l ∈ ls, l.1 < 32 → vget (BitVec.ofNat 1024 f.val) 32 l.1 = s.rdVault l.2 4)
             ∧ ((∀ l ∈ ls, s.vaultBad l.2 4 = false) → f.mark = Mark.mk 0 0) ∧ ((∃ l ∈ ls, s.vaultBad l.2 4 = true) → f.mark.cause = 0x0C))
       ∧ (∀ n u d, p.kind = .atomic .badd n u d → s.vaultBad p.addr n = false →
           ∃ f, (t.ctx x).fl.fills = (s.ctx x).fl.fills ++ [f] ∧ f.p7 = some (decide (d < s.rdVault p.addr n + u)))
       ∧ (∀ op n u d r m, p.kind = .atomic op n u d → op ≠ .sarv → p.dst = some (r, m) →
           (∃ f, (t.ctx x).fl.fills = (s.ctx x).fl.fills ++ [f] ∧ f.reg = r ∧ f.prod = m ∧ f.val = s.rdVault p.addr n)
             ∧ (s.vaultBad p.addr n = false → ∀ v, atNew op n (s.rdVault p.addr n) u d = some v →
               t.rdVault p.addr n = v % 256 ^ n ∧ ∀ q, (q < p.addr ∨ p.addr + n ≤ q) → rdByte t.vault q = rdByte s.vault q)
             ∧ ((s.vaultBad p.addr n = true ∨ atNew op n (s.rdVault p.addr n) u d = none) → ∀ q, rdByte t.vault q = rdByte s.vault q))
       ∧ (∀ u d r m, p.kind = .atomic .sarv 16 u d → p.dst = some (r, m) → s.vaultBad p.addr 16 = false →
           t.rdVault p.addr 16 = arrive (s.rdVault p.addr 16) u % 2 ^ 128
             ∧ ∃ f ∈ (t.ctx x).fl.fills, f.reg = r ∧ f.prod = m ∧ f.val = genOf (arrive (s.rdVault p.addr 16) u))
       ∧ ∀ u, p.kind = .sinit u → t.rdVault p.addr 16 = u % 2 ^ 32)
    ∧ ((∀ n old u d, atNew .add n old u d = some ((old + u) % 2 ^ (8 * n)) ∧ atNew .swp n old u d = some u
           ∧ atNew .incw n old u d = some (if u ≤ old then 0 else old + 1)
           ∧ atNew .badd n old u d = (if old + u ≤ d then some (old + u) else none)
           ∧ atNew .cas n old u d = (if old = d then some u else none))
         ∧ (∀ n old u d, atNew .min n old u d = some (if sextN u (8 * n) < sextN old (8 * n) then u else old)
           ∧ atNew .max n old u d = some (if sextN old (8 * n) < sextN u (8 * n) then u else old))
         ∧ atNew .incw 4 3 8 0 = some 4 ∧ atNew .incw 4 8 8 0 = some 0 ∧ atNew .incw 4 12 8 0 = some 0
         ∧ atNew .incw 4 0xFFFFFFFE 0xFFFFFFFF 0 = some 0xFFFFFFFF ∧ atNew .incw 4 0xFFFFFFFF 0xFFFFFFFF 0 = some 0
         ∧ atNew .badd 4 5 3 8 = some 8 ∧ atNew .badd 4 5 4 8 = none ∧ atNew .badd 4 8 0 8 = some 8 ∧ atNew .badd 4 9 0 8 = none
         ∧ atNew .badd 4 0xFFFFFFFF 1 0xFFFFFFFF = none ∧ atNew .min 4 0xFFFFFFFF 0 0 = some 0xFFFFFFFF ∧ atNew .max 4 0xFFFFFFFF 0 0 = some 0
         ∧ atNew (.fadd .f32 .rne) 4 0x3F800000 0x33800000 0 = some 0x3F800000 ∧ atNew (.fadd .f32 .rup) 4 0x3F800000 0x33800000 0 = some 0x3F800001)

/-- An arrival at a sync word (R67): COUNT grows by n, and where it reaches a nonzero TARGET the generation advances by the multiples taken
out, modulo 65,536; with TARGET 0 a COUNT past its width sets OVF. An error arrival (R68) sets ERR and STATUS, advances the generation by one
and leaves COUNT; later arrivals count normally and ERR stays set. -/
def Obligations.SyncWordArrivals : Prop :=
  ∀ target count gen status err ovf n, target < 2 ^ 32 → count < 2 ^ 32 → gen < 2 ^ 16 → status < 2 ^ 8 → err < 2 → ovf < 2 →
    let w (c g st e o : Nat) : Nat := target + c * 2 ^ 32 + g * 2 ^ 64 + st * 2 ^ 80 + e * 2 ^ 88 + o * 2 ^ 89
    (target ≠ 0 → target ≤ count + n →
        arrive (w count gen status err ovf) n = w ((count + n) % target) ((gen + (count + n) / target) % 65536) status err ovf)
      ∧ (target ≠ 0 → count + n < target → arrive (w count gen status err ovf) n = w (count + n) gen status err ovf)
      ∧ (target = 0 → arrive (w count gen status err ovf) n = w ((count + n) % 2 ^ 32) gen status err (if 2 ^ 32 ≤ count + n then 1 else ovf))
      ∧ ∀ e, e < 256 → arriveErr (w count gen status err ovf) e = w count ((gen + 1) % 65536) e 1 ovf

/-- A push joins the tail of its queue with its kind, address and data, and a full queue raises cause 0x01 before any other check; an access
under a job slot not in use raises 0x05 (R291), a misaligned address 0x04 and one with bits 63 to 57 set 0x06 (R63, R64, R207). QPOP takes
the oldest load entry (R64, R208): its datum at once where it has arrived, with its mark; otherwise the destination is left empty and the
entry fills it. A queue with no load entry and a class that does not match raise cause 0x01. That 0x05 of the job slot comes before 0x04 and
0x06 is the model's choice (log entry 108). -/
def Obligations.AccessQueues : Prop :=
  (∀ (c : Cond) (o : Ord) (sc : Scope) (q : BitVec 3) (sS : BitVec 6) (vs : BitVec 5) (a : BitVec 4) (imm : BitVec 11) (s : State) (b : Bun)
       (base v : Word) (w : BitVec 1024), s.issues b c → b.pre.fl.acq = [] → b.pre.region = none →
     rdA (b.env c) a = .ok base → rdS (b.env c) sS = .ok v → rdV (b.env c) vs = .ok w →
     let pushes : List (Instr × QKind × Nat × Nat) :=
       ([.z1, .z2, .z4, .z8, .s1, .s2, .s4] : List LSz).map (fun sz => (.qld c sz o sc false q a imm, .ld, sz.bytes, 0))
         ++ ([.b1, .b2, .b4, .b8] : List SSz).map (fun sz => (.qst c sz o sc q sS a imm, .st, sz.bytes, v.toNat % 256 ^ sz.bytes))
         ++ [(.qvld c o sc false q a imm, .vld, 128, 0), (.qvst c o sc q vs a imm, .vst, 128, w.toNat)]
     ∀ p ∈ pushes, let ea := effAddr base imm p.2.2.1
       (occupancy (b.pre.queue q.toNat) < 16 → (s.jobSlot b.x).valid = true → ea % p.2.2.1 = 0 → ea < 2 ^ 57 →
           ∃ t ent, exec p.1 s = .next t ∧ sameBytes s t ∧ (t.ctx b.x).regs = (s.ctx b.x).regs
             ∧ (t.ctx b.x).queue q.toNat = (s.ctx b.x).queue q.toNat ++ [ent] ∧ ent.kind = p.2.1 ∧ ent.bytes = p.2.2.1 ∧ ent.ea = ea
             ∧ ent.data = p.2.2.2 ∧ ent.stage = .waiting ∧ ent.serial = (s.ctx b.x).fl.serial + 1
             ∧ ent.ord = (if p.2.1.isLoad then loadOrd o else storeOrd o)
             ∧ ∀ r, r ≠ q.toNat → (t.ctx b.x).queue r = (s.ctx b.x).queue r)
         ∧ (16 ≤ occupancy (b.pre.queue q.toNat) → exec p.1 s = .next (noted s b 3 (.trap 0x01 0)))
         ∧ (occupancy (b.pre.queue q.toNat) < 16 → (s.jobSlot b.x).valid = false → exec p.1 s = .next (noted s b 3 (.trap 0x05 ea)))
         ∧ (occupancy (b.pre.queue q.toNat) < 16 → (s.jobSlot b.x).valid = true → ea % p.2.2.1 ≠ 0 → exec p.1 s = .next (noted s b 3 (.trap 0x04 ea)))
         ∧ (occupancy (b.pre.queue q.toNat) < 16 → (s.jobSlot b.x).valid = true → ea % p.2.2.1 = 0 → 2 ^ 57 ≤ ea → exec p.1 s = .next (noted s b 3 (.trap 0x06 ea))))
    ∧ (∀ (c : Cond) (cls : Bool) (d : BitVec 6) (q : BitVec 3) (s : State) (b : Bun), s.issues b c → b.pre.fl.acq = [] → b.pre.region = none →
         s.ctx b.x = b.pre →
         let r : RegRef := if cls then .v d.toNat else .s d.toNat
         let oldest := (b.pre.queue q.toNat).find? fun t => t.kind.isLoad && t.here
         (oldest = none → exec (.qpop c cls d q) s = .next (noted s b 3 (.trap 0x01 0)))
           ∧ ∀ e, oldest = some e →
             (e.kind ≠ (if cls then .vld else .ld) → exec (.qpop c cls d q) s = .next (noted s b 3 (.trap 0x01 0)))
               ∧ (e.kind = (if cls then .vld else .ld) → e.stage = .landed → ∃ t, exec (.qpop c cls d q) s = .next t
                 ∧ (t.ctx b.x).regs = ((s.wrMarked b.x r e.data e.mark).ctx b.x).regs
                 ∧ (t.ctx b.x).queue q.toNat = (b.pre.queue q.toNat).filter fun u => u.serial != e.serial)
               ∧ (e.kind = (if cls then .vld else .ld) → e.stage ≠ .landed → r ≠ .s 0 → ∃ t, exec (.qpop c cls d q) s = .next t
                 ∧ Awaits s t b.x r (b.pre.fl.serial + 1)
                 ∧ (t.ctx b.x).queue q.toNat = (b.pre.queue q.toNat).map fun u =>
                   if u.serial = e.serial then { u with popped := some (r, b.pre.fl.serial + 1), rpop := false } else u))

/-- BFACQ of a matrix-bound context joins its ring's acquisitions and leaves its register empty; BFREL publishes the slot whose base its
register holds, which a BFACQ had acquired: its PMAP bit is set and nobody holds it (R71, R72, R214). Not matrix-bound, a disabled ring, no
slot base and a slot not acquired raise cause 0x01. -/
def Obligations.TileRingStages : Prop :=
  ∀ (c : Cond) (a : BitVec 4) (n : BitVec 3) (s : State) (b : Bun), s.issues b c → b.pre.fl.acq = [] → b.pre.region = none →
    let r := (s.core b.x.coreId).mx.ring n.toNat
    let k := (s.ctx b.x).fl.serial + 1
    (b.pre.pr.mb = false ∨ r.scount = 0 → exec (.bfacq c a n) s = .next (noted s b 3 (.trap 0x01 0))
        ∧ exec (.bfrel c a n) s = .next (noted s b 3 (.trap 0x01 0)))
      ∧ (b.pre.pr.mb = true → r.scount ≠ 0 →
        (∃ t, exec (.bfacq c a n) s = .next t ∧ sameBytes s t ∧ Awaits s t b.x (.a a.toNat) k
            ∧ (t.core b.x.coreId).mx.ring n.toNat = { r with waiting := r.waiting ++ [.bfacq b.x.cx a.toNat k] })
          ∧ ∀ v : Word, rdA (b.env c) a = .ok v →
            (∀ i, i < r.scount → 0 < r.ssize → v.toNat = r.base + i * r.ssize * 64 → tget 0 r.owner i = 1 →
              ∃ t, exec (.bfrel c a n) s = .next t ∧ sameBytes s t ∧ (∀ y, t.ctx y = s.ctx y)
                ∧ (t.core b.x.coreId).mx.ring n.toNat = ({ r with pmap := r.pmap ||| 2 ^ i, owner := terase r.owner i } : Ring).settle 64)
              ∧ ((∀ i, i < r.scount → v.toNat ≠ r.base + i * r.ssize * 64) → exec (.bfrel c a n) s = .next (noted s b 3 (.trap 0x01 0)))
              ∧ ∀ i, i < r.scount → 0 < r.ssize → v.toNat = r.base + i * r.ssize * 64 → tget 0 r.owner i ≠ 1 →
                exec (.bfrel c a n) s = .next (noted s b 3 (.trap 0x01 0)))

/-! ## The M-slot's engine commands and fabric operations -/

/-- MPREC, MNEST and MPERT of a matrix-bound context outside a region with no held command: PREC takes an accepted value, the shadow nest
the table at an aligned descriptor in the window, and the tile's perturbation its place, operand and log flag (R232, R239, R240, R243,
R252). MSTAT, once no committed command is still to issue (R230), reads TSTAT when every drain it reports has landed, PREC, the counts of
weight loads issued and released, and whether a shadow nest stands (R254, R255); a tile that the launch does not declare raises cause 0x01,
and so does any engine instruction of a context that is not matrix-bound (R232). -/
def Obligations.MatrixSetupAndStatus : Prop :=
  (∀ (c : Cond) (log : Bool) (cn : BitVec 3) (a : BitVec 4) (sS : BitVec 6) (s : State) (b : Bun) (base v : Word), s.issues b c →
     b.pre.pr.mb = true → NoRegion s b → b.pre.heldCmd = [] →
     rdA (b.env c) a = .ok base → rdS (b.env c) sS = .ok v →
     (cn.toNat < s.tilesOf b.pre → precOk v.toNat = true → exec (.mprec c cn sS) s
         = .next (s.modMx b.x.coreId fun m => { m with prec := tset 0 m.prec cn.toNat v.toNat }))
       ∧ (cn.toNat < s.tilesOf b.pre → precOk v.toNat = false → exec (.mprec c cn sS) s = .next (noted s b 3 (.trap 0x01 0)))
       ∧ (s.tilesOf b.pre ≤ cn.toNat → exec (.mprec c cn sS) s = .next (noted s b 3 (.trap 0x01 0)))
       ∧ (base.toNat % 32 = 0 → InWindow b.pre.pr base.toNat 32 → nestOk (s.rdLmem b.x.coreId base.toNat 32) = true →
         exec (.mnest c a) s = .next (s.modMx b.x.coreId fun m => { m with shadow := some (nestOf (s.rdLmem b.x.coreId base.toNat 32)) }))
       ∧ (cn.toNat < s.tilesOf b.pre → base.toNat < 2 ^ 13 → exec (.mpert c log cn a sS) s = .next (s.modMx b.x.coreId fun m =>
         { m with pert := tput m.pert cn.toNat (some ⟨base.toNat % 32, base.toNat / 32, v.toNat, log, m.nextId⟩) })))
    ∧ (∀ (c : Cond) (sd : BitVec 6) (cn : BitVec 3) (s : State) (b : Bun), s.issues b c →
         let m := (s.core b.x.coreId).mx
         let free : Prop := b.pre.region.isSome = true ∨ (s.ctx b.x).heldCmd = []
         (b.pre.pr.mb = true → free → cn.toNat < s.tilesOf b.pre →
             (∀ v, tstatAt s b.x.coreId cn.toNat b.pre.ct.issued = (v, true) → exec (.mstat c .tstat sd cn) s = .next (putS s b sd v))
               ∧ (∀ v, tstatAt s b.x.coreId cn.toNat b.pre.ct.issued = (v, false) → exec (.mstat c .tstat sd cn) s = .next (noted s b 3 (.block .mstat)))
               ∧ exec (.mstat c .prec sd cn) s = .next (putS s b sd (tget 0 m.prec cn.toNat))
               ∧ exec (.mstat c .wload sd cn) s = .next (putS s b sd (m.wiss * 2 ^ 32 + m.wrel)))
           ∧ (b.pre.pr.mb = true → free → s.tilesOf b.pre ≤ cn.toNat → ∀ sel, sel ≠ .nest →
             exec (.mstat c sel sd cn) s = .next (noted s b 3 (.trap 0x01 0)))
           ∧ (b.pre.pr.mb = true → free → exec (.mstat c .nest sd 0) s = .next (putS s b sd (b2n m.shadow.isSome)))
           ∧ (b.pre.pr.mb = true → ¬ free → ∀ sel, exec (.mstat c sel sd cn) s = .next (noted s b 3 (.block .held)))
           ∧ (b.pre.pr.mb = false → ∀ sel, exec (.mstat c sel sd cn) s = .next (noted s b 3 (.trap 0x01 0)))
           ∧ (b.pre.pr.mb = false → ∀ a sS k base v, b.pre.fl.acq = [] → rdA (b.env c) a = .ok base → rdS (b.env c) sS = .ok v →
             ∀ log t nest ovw wrel clr pkEn pk rm sat sc ch, ∀ i ∈ [Instr.mprec c cn sS, .mnest c a, .mwld c t cn a k, .mma c t nest ovw wrel cn a
               , .mdrn c t clr pkEn pk rm sat sc cn a sS, .mpert c log cn a sS, .gcopy c sc ch a sd], exec i s = .next (noted s b 3 (.trap 0x01 0))))

/-- MWLD, MMA, MDRN and GCOPY of a matrix-bound context outside a region, with room in the tracker and their operands' checks passed, enter
the dependence tracker at the issue count, held back where an earlier command overlaps them, and no byte of memory changes until they run
(R235, R241, R246, R250, R263, R266). A weight load takes the next load number. An MMA runs its one pass or, with `nest`, the passes of the
shadow nest, which becomes the live one, and opens a window on each tile they name; without a shadow nest it raises cause 0x01 (R243 to R246).
A drain with clear opens a window on its tile, and GCOPY returns its channel's next identifier, which stays within 16 of the oldest incomplete
transfer's (R257, as read in log entry 133). Each command carries all that its word and its descriptor give it. -/
def Obligations.EngineCommandsIssue : Prop :=
  ∀ (c : Cond) (t clr pkEn : Bool) (nest ovw wrel : Bool) (cn : BitVec 3) (a : BitVec 4) (k : BitVec 8) (pk : BitVec 3) (rm : Rm) (sat : Bool) (sc : Scope)
      (ch : BitVec 2) (sd sS : BitVec 6) (s : State) (b : Bun) (base v : Word), s.issues b c → s.ctx b.x = b.pre → b.pre.pr.mb = true → b.pre.fl.acq = [] →
    b.pre.region = none → b.pre.heldCmd = [] → b.pre.heldSt = [] → rdA (b.env c) a = .ok base → rdS (b.env c) sS = .ok v →
    let m := (s.core b.x.coreId).mx
    let raw := s.rdLmem b.x.coreId base.toNat 32
    let prec := tget 0 m.prec cn.toNat
    let entered (u : State) (q : Cmd) : Prop := sameBytes s u ∧ q.id = m.nextId ∧ q.count = b.pre.ct.issued ∧ q.baddr = b.baddr ∧ q.ctx = b.x.cx
      ∧ q.hold = m.cmds.any (fun o => q.conflicts o) ∧ (u.core b.x.coreId).mx.cmds = m.cmds ++ [q] ∧ (u.core b.x.coreId).mx.nextId = m.nextId + 1
    m.cmds.length < 32 →
    (base.toNat % 32 = 0 → InWindow b.pre.pr base.toNat 32 → cn.toNat < s.tilesOf b.pre →
      (∀ o, wldOperand s b.x b.pre t (k.toNat + 1) prec raw true = .ok o → ∃ u q, exec (.mwld c t cn a k) s = .next u ∧ entered u q
          ∧ q.kind = .mwld m.wiss prec (xor t (pTW prec)) (k.toNat + 1) o.2 (m.ring o.2.ring).nextResv
          ∧ (u.core b.x.coreId).mx.wiss = (m.wiss + 1) % 2 ^ 32)
        ∧ (∀ o l, actOperand s b.x b.pre t prec raw true = .ok o → (if nest then m.shadow else some oneLevel) = some l →
          nestSpan l ≤ (m.ring o.2.ring).scount →
          (∀ k ∈ nestTiles cn.toNat l, k < s.tilesOf b.pre ∧ pAMODE (tget 0 m.prec k) = pAMODE prec ∧ (m.tile k).openAt b.pre.ct.issued < 2) →
          ∃ u q, exec (.mma c t nest ovw wrel cn a) s = .next u ∧ entered u q
            ∧ q.kind = .mma prec (xor t (pTA prec)) ovw wrel cn.toNat o.2 l b.pre.ct.padv b.pre.ct.padb (m.ring o.2.ring).nextResv
            ∧ q.close = b.pre.ct.issued + (16 + nestPasses l * passCost prec)
            ∧ (∀ k ∈ nestTiles cn.toNat l,
                ((u.core b.x.coreId).mx.tile k).openAt b.pre.ct.issued = (m.tile k).openAt b.pre.ct.issued + 1)
            ∧ (nest = true → (u.core b.x.coreId).mx.shadow = none ∧ (u.core b.x.coreId).mx.live = some l)
            ∧ (nest = false → (u.core b.x.coreId).mx.shadow = m.shadow ∧ (u.core b.x.coreId).mx.live = m.live))
        ∧ (∀ o, actOperand s b.x b.pre t prec raw true = .ok o → m.shadow = none →
            exec (.mma c t true ovw wrel cn a) s = .next (noted s b 3 (.trap 0x01 0)))
        ∧ (∀ o, drnOperand s b.x b.pre t prec raw true = .ok o → (clr = true → (m.tile cn.toNat).openAt b.pre.ct.issued < 2) →
          ∃ u q, exec (.mdrn c t clr pkEn pk rm sat sc cn a sS) s = .next u ∧ entered u q ∧ q.writes = o.1
            ∧ q.kind = .mdrn prec (xor t (pTDRN prec)) clr (if pkEn then some pk.toNat else none) rm sat sc cn.toNat o.2
                (if sS = 0 then none else some (v.toNat % 2 ^ 32)) (m.tile cn.toNat).lastDrain
            ∧ q.close = b.pre.ct.issued + 80
            ∧ ((u.core b.x.coreId).mx.tile cn.toNat).openAt b.pre.ct.issued = (m.tile cn.toNat).openAt b.pre.ct.issued + b2n clr))
      ∧ ∀ r, base.toNat % 64 = 0 → InWindow b.pre.pr base.toNat 256 → r = s.rdLmem b.x.coreId base.toNat 256 →
        chkGcopy s b.x b.pre { heldOf (.gcopy c sc ch a sd) (b.env c) base.toNat 0 r with dst := some (sd.toNat, 0) } = .ok () →
        gRingOk (m.ring (gDring r)) r = true → m.outstanding ch.toNat < 16 →
        (tget 0 m.nextid ch.toNat + 2 ^ 32 - tget 0 m.donebelow ch.toNat) % 2 ^ 32 < 16 → ∃ u q, exec (.gcopy c sc ch a sd) s = .next u ∧ entered u q
          ∧ q.kind = .gcopy ch.toNat (tget 0 m.nextid ch.toNat) sc ⟨gResolve b.x r, b.pre.ct.padv, b.pre.ct.padb⟩
          ∧ tget 0 (u.core b.x.coreId).mx.nextid ch.toNat = (tget 0 m.nextid ch.toNat + 1) % 2 ^ 32
          ∧ (u.ctx b.x).regs = b.pre.regs.wr (.s sd.toNat) (tget 0 m.nextid ch.toNat)

/-- XSEND, XST, XLD and XRED outside a region, under a job slot in use, issue one packet each with its destination module, its place there,
its size and its data, and nothing leaves or changes in memory until the access is performed; XLD leaves its register empty, and into s0
changes no register (R271 to R274). -/
def Obligations.FabricOperationsIssue : Prop :=
  ∀ (c : Cond) (o : Ord) (sc : Scope) (sd sT : BitVec 6) (a : BitVec 4) (imm : BitVec 8) (nm1 : BitVec 3) (op : RedOp) (ty : XTy) (s : State) (b : Bun)
      (base v : Word), s.issues b c → b.pre.fl.acq = [] → NoRegion s b → (s.jobSlot b.x).valid = true →
    rdA (b.env c) a = .ok base → rdS (b.env c) sT = .ok v →
    let n := (s.ctx b.x).fl.serial
    let sent (u : State) (q : Packet) (kind : PktKind) (dst size : Nat) (data : List Word) : Prop := (∃ p, Issued s u b.x p ∧ p.kind = .fabric q)
      ∧ q.kind = kind ∧ q.job.toNat = (s.jobSlot b.x).jobid % 2 ^ 16 ∧ q.src = s.modId ∧ q.dst = dst ∧ q.size = size ∧ q.data = data ∧ q.count = 1
    let good (ea k : Nat) : Prop := ea % k = 0 ∧ ea < 2 ^ 44 ∧ ea / 2 ^ 34 % 2 ^ 10 ∈ s.domain ∧ ea / 2 ^ 26 % 16 < 12
    (∀ sz : SSz, let ea := effAddr base imm sz.bytes
      good ea sz.bytes → ∃ u q, exec (.xst c sz o sc sT a imm) s = .next u ∧ (u.ctx b.x).regs = (s.ctx b.x).regs
        ∧ sent u q .xst (ea / 2 ^ 34 % 2 ^ 10) sz.bytes [BitVec.ofNat 64 (v.toNat % 2 ^ (8 * sz.bytes))] ∧ q.voff = ea % 2 ^ 34)
      ∧ (∀ sz : LSz, let ea := effAddr base imm sz.bytes
        good ea sz.bytes → ∃ u q, exec (.xld c sz o sc sd a imm) s = .next u
          ∧ (sd ≠ 0 → Awaits s u b.x (.s sd.toNat) (n + 1)) ∧ (sd = 0 → (u.ctx b.x).regs = (s.ctx b.x).regs)
          ∧ sent u q .xldReq (ea / 2 ^ 34 % 2 ^ 10) sz.bytes [] ∧ q.voff = ea % 2 ^ 34 ∧ q.reg = sd.toNat ∧ q.lsz = sz)
      ∧ (good base.toNat ty.bytes → ∃ u q, exec (.xred c op ty o sc a sT) s = .next u ∧ (u.ctx b.x).regs = (s.ctx b.x).regs
        ∧ sent u q .xred (base.toNat / 2 ^ 34 % 2 ^ 10) ty.bytes [BitVec.ofNat 64 (xredData ty v.toNat)] ∧ q.op = op ∧ q.ty = ty
        ∧ q.voff = base.toNat % 2 ^ 34)
      ∧ (let k := nm1.toNat + 1
        targetOk v.toNat = true → base.toNat % 8 = 0 → InWindow b.pre.pr base.toNat (8 * k) → v.toNat % 2 ^ 10 ∈ s.domain →
        ∃ u q, exec (.xsend c o sc sT a nm1) s = .next u ∧ (u.ctx b.x).regs = (s.ctx b.x).regs
          ∧ sent u q .xsend (v.toNat % 2 ^ 10) (8 * k)
            ((List.range k).map fun i => BitVec.ofNat 64 (s.rdLmem b.x.coreId base.toNat (8 * k) / 2 ^ (64 * i)))
          ∧ q.hidx = v.toNat / 2 ^ 24 % 2 ^ 12 ∧ q.clu = v.toNat / 2 ^ 10 % 2 ^ 8 ∧ q.core = v.toNat / 2 ^ 18 % 2 ^ 4)

/-! ## The C-slot -/

/-- BR, CALL and BMZ outside delay slots (R149, R150): where the predicate is true, and for BMZ the top mask is 0, the target is the
bundle's address plus 16 times the displacement, modulo 2^64, with a delay count of 2; CALL writes s62 with the address after the second
delay slot; one that is not taken sets nothing. BRI, CALLI and RET take the sum of their registers, or s62, as the target; one that is no
bundle address raises cause 0x04 (R132, R151). -/
def Obligations.Branches : Prop :=
  (∀ (p : BitVec 3) (disp : BitVec 23) (s : State) (b : Bun), s.bun = some b → b.pre.dslot = 0 →
     let t := ((b.baddr + 16 * disp.toInt) % 2 ^ 64).toNat
     let regs := (s.ctx b.x).regs
     (b.pre.regs.pv p.toNat = true → (∃ u, exec (.br p disp) s = .next u ∧ Taken s u b t regs)
         ∧ (∃ u, exec (.call p disp) s = .next u ∧ Taken s u b t (regs.wr (.s 62) ((b.baddr + 48) % 2 ^ 64)))
         ∧ (b.pre.regs.top = 0 → ∃ u, exec (.bmz p disp) s = .next u ∧ Taken s u b t regs)
         ∧ (b.pre.regs.top ≠ 0 → exec (.bmz p disp) s = .next s))
       ∧ (b.pre.regs.pv p.toNat = false → exec (.br p disp) s = .next s ∧ exec (.call p disp) s = .next s ∧ exec (.bmz p disp) s = .next s))
    ∧ (∀ (p : BitVec 3) (sb : BitVec 6) (aa : BitVec 4) (s : State) (b : Bun) (x y z : Word), s.bun = some b → b.pre.dslot = 0 →
         b.pre.regs.pv p.toNat = true → rdA (b.cenv p) aa = .ok x → rdS (b.cenv p) sb = .ok y → rdS (b.cenv p) 62 = .ok z →
         let t := (x.toNat + y.toNat) % 2 ^ 64
         let regs := (s.ctx b.x).regs
         (t % 16 = 0 → (∃ u, exec (.bri p sb aa) s = .next u ∧ Taken s u b t regs)
             ∧ ∃ u, exec (.calli p sb aa) s = .next u ∧ Taken s u b t (regs.wr (.s 62) ((b.baddr + 48) % 2 ^ 64)))
           ∧ (t % 16 ≠ 0 → exec (.bri p sb aa) s = .next (noted s b 0 (.trap 0x04 t)) ∧ exec (.calli p sb aa) s = .next (noted s b 0 (.trap 0x04 t)))
           ∧ (z.toNat % 16 = 0 → ∃ u, exec (.ret p) s = .next u ∧ Taken s u b z.toNat regs)
           ∧ (z.toNat % 16 ≠ 0 → exec (.ret p) s = .next (noted s b 0 (.trap 0x04 z.toNat))))

/-- A branch-class instruction or LOOP in a delay slot raises cause 0x01 whatever its predicate (R131). The C-slot instructions that a
region does not admit roll it back as illegal operations before they have any effect, in any order of their own checks (R148, R159, R216,
R223). -/
def Obligations.IllegalPlaces : Prop :=
  (∀ (p : BitVec 3) (disp : BitVec 23) (sd sa sb : BitVec 6) (aa : BitVec 4) (s : State) (b : Bun), s.bun = some b → b.pre.dslot ≠ 0 →
     ∀ i ∈ ([.br p disp, .call p disp, .bmz p disp, .bri p sb aa, .calli p sb aa, .ret p, .bsel p sd sa aa, .loop p aa] : List Instr),
       exec i s = .next (noted s b 0 (.trap 0x01 0)))
    ∧ (∀ (p : BitVec 3) (sd sa sb : BitVec 6) (aa : BitVec 4) (mask : BitVec 4) (n : BitVec 16) (disp : BitVec 23) (s : State) (b : Bun),
         s.bun = some b → b.pre.regs.pv p.toNat = true → b.pre.dslot = 0 → b.pre.region.isSome = true →
         (∀ i ∈ illegalInRegion p sd sa sb aa mask n, exec i s = .next (noted s b 0 (.roll 0x07 0)))
           ∧ exec (.pont p disp) s = .next (noted s b 0 (.roll 0x07 0)))

/-- BSEL (R48, R153): the first entry of the table at aT whose bound is at least the count gives the target, sD takes the bound less the
count, and the padding registers the count and the bound; where no bound is, the overflow target, and sD what the count exceeds the largest
bound by. The context's own writes of the table have been performed, and it awaits no acquire. -/
def Obligations.BucketSelect : Prop :=
  ∀ (p : BitVec 3) (sd sa : BitVec 6) (aT : BitVec 4) (s : State) (b : Bun) (d t : Word) (off n : Nat), s.bun = some b → b.pre.dslot = 0 →
    b.pre.regs.pv p.toNat = true → b.pre.region = none → b.pre.fl.acq = [] → ownWritten s b.pre off 16 = true →
    ownWritten s b.pre off (16 + 16 * n) = true → rdS (b.cenv p) sa = .ok d → rdA (b.cenv p) aT = .ok t →
    t.toNat % 16 = 0 → s.vaultCheck b.x t.toNat 16 = some off → s.vaultCheck b.x t.toNat (16 + 16 * n) = some off →
    s.vaultBad off 16 = false → s.vaultBad off (16 + 16 * n) = false → 1 ≤ n → n ≤ 64 → s.rdVault off 8 = n →
    (∀ i, i < n → s.rdVault (off + 16 * (i + 1) + 4) 4 = 0) →
    let bound (i : Nat) : Nat := s.rdVault (off + 16 * (i + 1)) 4
    let go (tgt v : Nat) (u : State) (pv pb : Nat) : Prop :=
      u.ctx b.x = { s.ctx b.x with target := some tgt, delay := 2, regs := (s.ctx b.x).regs.wr (.s sd.toNat) v
                                   ct := { (s.ctx b.x).ct with padv := pv, padb := pb } } ∧ u.bun = some { b with taken := true } ∧ sameBytes s u
    (∀ i, i < n → d.toNat ≤ bound i → (∀ j, j < i → bound j < d.toNat) → s.rdVault (off + 16 * (i + 1) + 8) 8 % 16 = 0 →
        ∃ u, exec (.bsel p sd sa aT) s = .next u ∧ go (s.rdVault (off + 16 * (i + 1) + 8) 8) (bound i - d.toNat) u (d.toNat % 2 ^ 32) (bound i))
      ∧ ∀ k, k < n → (∀ j, j < n → bound j < d.toNat) → (∀ j, j < n → bound j ≤ bound k) → s.rdVault (off + 8) 8 % 16 = 0 →
        ∃ u, exec (.bsel p sd sa aT) s = .next u
          ∧ go (s.rdVault (off + 8) 8) (d.toNat - bound k) u (s.ctx b.x).ct.padv (s.ctx b.x).ct.padb

/-- A LOOP alone in its bundle, outside a loop and a region, whose record is aligned, in the window and valid, starts the sequencer (R38,
R39): at the prologue if it has one, else at the kernel if every trip count it uses is not 0, with all counters at 0; one that has nothing
to run goes on after LOOP. LEXIT in a kernel bundle ends the loop with this iteration; elsewhere it raises cause 0x01 (R41).
LOOP_ITERATION_END (R39): the lowest level whose counter has still to rise rises, those below return to 0, its strides are added, and the
kernel starts again; after the last iteration, or after LEXIT, the epilogue runs, or the program goes on after LOOP. -/
def Obligations.HardwareLoops : Prop :=
  (∀ (p : BitVec 3) (aR : BitVec 4) (s : State) (a : Word), s.plain → (s.ctx s.cur).regs.pv p.toNat = true → (s.ctx s.cur).heldSt = [] →
     rdA s.env aR = .ok a → a.toNat % 64 = 0 → InWindow (s.ctx s.cur).pr a.toNat 256 →
     let r := s.rdLmem s.cur.coreId a.toNat 256
     let l := loopOf r s.nextPc
     let runs := (l.trips.take l.nlev).all fun t => t != 0
     1 ≤ l.nlev → l.nlev ≤ 6 → 1 ≤ l.klen → l.klen ≤ 64 → loopReserved r = true → l.ker % 16 = 0 → (l.plen = 0 ∨ l.pro % 16 = 0) →
     (l.elen = 0 ∨ l.epi % 16 = 0) →
     ∃ t, exec (.loop p aR) s = .next t ∧ t.bun = none ∧ sameBytes s t ∧ (t.ctx s.cur).regs = (s.ctx s.cur).regs
       ∧ (l.plen ≠ 0 → (t.ctx s.cur).loop = some { l with phase := .pro } ∧ (t.ctx s.cur).pc = l.pro)
       ∧ (l.plen = 0 → runs = true → (t.ctx s.cur).loop = some { l with phase := .ker } ∧ (t.ctx s.cur).pc = l.ker)
       ∧ (l.plen = 0 → runs = false → l.elen ≠ 0 → (t.ctx s.cur).loop = some { l with phase := .epi } ∧ (t.ctx s.cur).pc = l.epi)
       ∧ (l.plen = 0 → runs = false → l.elen = 0 → (t.ctx s.cur).loop = none ∧ (t.ctx s.cur).pc = s.nextPc))
    ∧ ((∀ (p : BitVec 3) (s : State) (l : LoopSt), s.bun = none → (s.ctx s.cur).fl.holdsAll = false → (s.ctx s.cur).regs.pv p.toNat = true →
           (s.ctx s.cur).loop = some l → l.phase = .ker → ∃ t l', exec (.lexit p) s = .next t ∧ (t.ctx s.cur).loop = some l' ∧ l'.lexit = true)
         ∧ (∀ (p : BitVec 3) (s : State) (b : Bun), s.issues b (cCond p) →
           (b.pre.loop = none ∨ ∃ l, b.pre.loop = some l ∧ l.phase ≠ .ker) → exec (.lexit p) s = .next (noted s b 0 (.trap 0x01 0)))
         ∧ ∀ (x : CtxId) (s : State) (l : LoopSt), let c := s.ctx x
           c.active = true → c.loop = some l → l.due = true → (∀ n, (c.regs.ac n).full = true ∧ (c.regs.ac n).mark.cause = 0) →
           ∃ t, exec (.loopIterationEnd x) s = .next t ∧ sameBytes s t ∧ (∀ y, y ≠ x → t.ctx y = s.ctx y)
             ∧ (∀ j, l.lexit = false → j < l.nlev → l.nlev ≤ 6 → l.counters.getD j 0 + 1 < l.trips.getD j 0 →
                 (∀ i, i < j → ¬ l.counters.getD i 0 + 1 < l.trips.getD i 0) →
                 ∃ l', (t.ctx x).loop = some l' ∧ l'.phase = l.phase ∧ l'.pos = 0 ∧ l'.due = false
                   ∧ (∀ i, i < 6 → l'.counters.getD i 0 = if i < j then 0 else if i = j then l.counters.getD i 0 + 1 else l.counters.getD i 0)
                   ∧ ∀ e, l.strides.filter (fun e => e.level == j) = [e] →
                     ((t.ctx x).regs.ac e.reg).val = BitVec.ofInt 64 ((c.regs.ac e.reg).val.toNat + e.step))
             ∧ ((l.lexit = true ∨ ∀ i, i < l.nlev → ¬ l.counters.getD i 0 + 1 < l.trips.getD i 0) →
                 (t.ctx x).regs = c.regs ∧ (l.elen = 0 → (t.ctx x).loop = none ∧ (t.ctx x).pc = l.ret)
                   ∧ (l.elen ≠ 0 → ∃ l', (t.ctx x).loop = some l' ∧ l'.phase = .epi ∧ l'.pos = 0 ∧ (t.ctx x).pc = l.epi % 2 ^ 64)))

/-- WAIT (R43, R44, R65, R156): with every condition's own check passed and the context's own writes of the words it tests performed, a
first test that completes writes its bits to sD and goes on; a time-out of 0 with no completion writes the bits and 16, and sets WTO;
otherwise the context goes on to the next bundle and parks there with its conditions armed. -/
def Obligations.Waits : Prop :=
  ∀ (p : BitVec 3) (sd : BitVec 6) (aB : BitVec 4) (s : State) (a : Word), s.plain → (s.ctx s.cur).regs.pv p.toNat = true →
    (s.ctx s.cur).heldSt = [] → rdA s.env aB = .ok a → a.toNat % 16 = 0 → InWindow (s.ctx s.cur).pr a.toNat 80 →
    let x := s.cur
    let blk := s.rdLmem x.coreId a.toNat 80
    let w := waitOf s blk sd.toNat (s.ctx x).pc
    let sat := testAll s (.live x) (s.ctx x) w.conds 0
    blk / 2 ^ 5 % 2 ^ 27 = 0 → blk / 2 ^ 64 % 2 ^ 64 = 0 → w.conds.forM (condCheck s s.env) = .ok () →
    w.conds.all (condSettled s s.env) = true → ∃ t, exec (.wait p sd aB) s = .next t ∧ WentOn s t ∧ sameBytes s t
      ∧ (modeMet w.all w.conds.length sat = true → (t.ctx x).regs = (s.ctx x).regs.wr (.s sd.toNat) sat ∧ (t.ctx x).ct.wto = false
          ∧ (t.ctx x).wait = (s.ctx x).wait)
      ∧ (modeMet w.all w.conds.length sat = false → w.deadline = some s.tick →
          (t.ctx x).regs = (s.ctx x).regs.wr (.s sd.toNat) (sat + 16) ∧ (t.ctx x).ct.wto = true)
      ∧ (modeMet w.all w.conds.length sat = false → w.deadline ≠ some s.tick → (t.ctx x).regs = (s.ctx x).regs
          ∧ (t.ctx x).wait = some { w with wsat := sat } ∧ (t.ctx x).pr.st = .parked ∧ (t.core x.coreId).run ≠ some x.cx)

/-- WQUIET (R278 to R280, R282): it waits until its context's fabric operations have left; then a time-out of 0 writes 16 to sD and sets WTO;
otherwise the context parks until a later wave finds its job quiet; a tagged continuation raises cause 0x01. That the context parks at the
WQUIET's own bundle, none of which has taken effect, and that the bundle issues again with the wait's result is read from R9 and R280 (log
entry 106). YIELD (R35, R157): another Ready context takes the core; else, where work waits in the cluster, no context of it is Idle, R28
lets the continuation leave and it is no item of a schedule (R270), it suspends, its record ready; else it runs on with a fresh quantum. That
an item not yet created counts as work that waits, at its launch's priority, is the model's choice (log entry 84). NOP does nothing (R112). -/
def Obligations.QuietWaitAndYield : Prop :=
  ∀ (p : BitVec 3) (sd sT : BitVec 6) (s : State) (v : Word), s.plain → (s.ctx s.cur).regs.pv p.toNat = true → rdS s.env sT = .ok v →
    let x := s.cur
    ((s.ctx x).ct.tag = none → (s.ctx x).fl.fabricLeft = false → ∃ t, exec (.wquiet p sd sT) s = .next t ∧ (t.ctx x).pr.st = .stalled
        ∧ (t.ctx x).pc = (s.ctx x).pc ∧ (t.ctx x).regs = (s.ctx x).regs ∧ sameBytes s t)
      ∧ ((s.ctx x).ct.tag = none → (s.ctx x).fl.fabricLeft = true → ∃ t, exec (.wquiet p sd sT) s = .next t ∧ sameBytes s t
        ∧ (∀ r, (s.ctx x).quietEnd (s.ctx x).pc = some r → WentOn s t ∧ (t.ctx x).regs = (s.ctx x).regs.wr (.s sd.toNat) r
            ∧ (t.ctx x).ct.wto = decide (16 ≤ r))
        ∧ ((s.ctx x).quietEnd (s.ctx x).pc = none → v.toNat = 0 → WentOn s t ∧ (t.ctx x).regs = (s.ctx x).regs.wr (.s sd.toNat) 16
            ∧ (t.ctx x).ct.wto = true)
        ∧ ((s.ctx x).quietEnd (s.ctx x).pc = none → v.toNat ≠ 0 → (t.ctx x).pr.st = .parked ∧ (t.ctx x).pc = (s.ctx x).pc
            ∧ (t.ctx x).regs = (s.ctx x).regs ∧ (t.ctx x).ct = (s.ctx x).ct ∧ t.bun = none ∧ ∃ w q, (t.ctx x).wait = some w ∧ w.quiet = some q ∧ w.sd = sd.toNat
            ∧ q.job = (s.jobSlot x).jobid ∧ q.since = s.waves
            ∧ w.deadline = (if v.toNat < 2 ^ 32 - 1 then some (s.tick + v.toNat) else none)))
      ∧ ((s.ctx x).ct.tag ≠ none → ∃ t r, exec (.wquiet p sd sT) s = .next t ∧ (t.cl x.cl).trapWait = (s.cl x.cl).trapWait ++ [r] ∧ r.cause = 0x01
        ∧ (t.ctx x).pr.stopped = true)
      ∧ (∃ t, exec (.yield p) s = .next t ∧ t.bun = none ∧ (s.otherReady x = true → WentOn s t ∧ (t.ctx x).pr.st = .ready
            ∧ (t.core x.coreId).run = none ∧ sameBytes s t)
          ∧ (s.otherReady x = false → (s.workWaits x.cl (s.ctx x).ct.prio = false ∨ s.anyIdle x.cl = true ∨ s.mayLeave x = false
              ∨ s.scheduled x = true) → WentOn s t ∧ (t.ctx x).pr.st = (s.ctx x).pr.st ∧ (t.ctx x).pr.qcount = 0 ∧ sameBytes s t)
          ∧ (s.otherReady x = false → s.workWaits x.cl (s.ctx x).ct.prio = true → s.anyIdle x.cl = false → s.mayLeave x = true →
              s.scheduled x = false → (t.ctx x).pr.st = .idle ∧ (t.core x.coreId).run ≠ some x.cx
              ∧ (∃ l, (t.cl x.cl).ready = l ++ [(s.ctx x).pr.crec])
              ∧ ∃ img, t.saved x.cl (s.ctx x).pr.crec = some img ∧ img.fresh = false ∧ img.ctx.pc = s.nextPc))
      ∧ ∃ t, exec .nop s = .next t ∧ WentOn s t ∧ sameBytes s t ∧ (t.ctx x).regs = (s.ctx x).regs

/-- DONE retires a continuation with nothing outstanding: its context is Idle at once; otherwise the context is Stalled at its DONE until
everything it issued has completed (R31, R33, R345); that this takes in the direct accesses, the fabric operations that have still to leave, the spawns
and the service call, more than R31 lists, is read from R31 (log entry 25). SPAWN (R30, R157) into a live team with a free record makes the continuation:
the team counts one more, the record joins the ready list, and sD fills with 0; with no free record it makes none and sD fills with 1; into
a team that is not live it waits at the module dispatcher, and sD stays empty. That any free record serves it, also where items of the team
are still to be created, is the model's choice (log entry 86). -/
def Obligations.DoneAndSpawn : Prop :=
  ∀ (p : BitVec 3) (sD sW sP : BitVec 6) (aE : BitVec 4) (s : State) (w pr e a1 a2 a3 a4 : Word), s.plain → (s.ctx s.cur).regs.pv p.toNat = true →
    rdS s.env sW = .ok w → rdS s.env sP = .ok pr → rdA s.env aE = .ok e → rdS s.env 1 = .ok a1 → rdS s.env 2 = .ok a2 → rdS s.env 3 = .ok a3 →
    rdS s.env 4 = .ok a4 → e.toNat % 16 = 0 →
    let x := s.cur
    let c := s.ctx x
    (s.quietCtx x = true → ∃ t, exec (.done p) s = .next t ∧ t.bun = none ∧ (t.ctx x).pr.st = .idle ∧ (t.core x.coreId).run ≠ some x.cx)
      ∧ (s.quietCtx x = false → ∃ t, exec (.done p) s = .next t ∧ WentOn s t ∧ (t.ctx x).pr.st = .stalled ∧ (t.ctx x).doneWait = true ∧ sameBytes s t)
      ∧ let wid := w.toNat % 2 ^ widthFrom (s.lraw c.ct.launch) 0
        let filled (t : State) (v : Nat) : Prop := sameRegsBut [.s sD.toNat] c.regs (t.ctx x).regs
          ∧ (sD ≠ 0 → s.homeOf x.cl c.pr.crec = some (.live x) → (t.ctx x).regs.isFull (.s sD.toNat) = false
              ∧ (t.ctx x).fl.fills = c.fl.fills ++ [({ reg := .s sD.toNat, prod := (t.ctx x).regs.prodOf (.s sD.toNat), val := v } : Fill)])
        (∀ cl k tm, s.findTeam c.ct.launch (teamKey (s.lraw c.ct.launch) wid) = some (cl, k) → s.team cl k = some tm → tm.free = [] →
          ∃ t, exec (.spawn p sD sW sP aE) s = .next t ∧ WentOn s t ∧ sameBytes s t ∧ t.team cl k = some tm ∧ filled t 1)
        ∧ (∀ v, s.findTeam c.ct.launch (teamKey (s.lraw c.ct.launch) wid) = none → s.launch c.ct.launch = some v → c.ct.tag = none →
          ∃ t v' q, exec (.spawn p sD sW sP aE) s = .next t ∧ WentOn s t ∧ sameBytes s t ∧ t.launch c.ct.launch = some v'
            ∧ v'.pendingNew = v.pendingNew ++ [q] ∧ q.wid = wid ∧ q.prio = min pr.toNat c.ct.prio ∧ q.entry = e.toNat
            ∧ q.args = [a1.toNat, a2.toNat, a3.toNat, a4.toNat] ∧ sameRegsBut [.s sD.toNat] c.regs (t.ctx x).regs
            ∧ (sD = 0 → q.origin = none) ∧ (sD ≠ 0 → (t.ctx x).regs.isFull (.s sD.toNat) = false ∧ (t.ctx x).fl.fills = c.fl.fills
              ∧ q.origin = some (⟨x.cl, c.pr.crec⟩, sD.toNat, (t.ctx x).regs.prodOf (.s sD.toNat))))
        ∧ ∀ cl k tm i rest, s.findTeam c.ct.launch (teamKey (s.lraw c.ct.launch) wid) = some (cl, k) →
        s.team cl k = some tm → tm.free = i :: rest → tm.launch = c.ct.launch →
        ∃ t tm', exec (.spawn p sD sW sP aE) s = .next t ∧ WentOn s t ∧ filled t 0 ∧ t.team cl k = some tm' ∧ tm'.live = tm.live + 1 ∧ tm'.free = rest
          ∧ (∃ l, (t.cl cl).ready = l ++ [recAddr (s.lraw tm.launch) tm.vbase i] ∧ ((s.cl cl).ready = [] → l = []))
          ∧ ∃ img, t.saved cl (recAddr (s.lraw tm.launch) tm.vbase i) = some img ∧ img.fresh = true ∧ img.ctx.pc = e.toNat
            ∧ img.ctx.ct.prio = min pr.toNat c.ct.prio ∧ (img.ctx.regs.sc 1).val = a1 ∧ (img.ctx.regs.sc 4).val = a4

/-- TBAR issues an arrival that counts once earlier accesses are performed (R158); PERMIT of a matrix-bound context advances the named stage
counters modulo 2^32 (R159); SVC leaves s1 and s2 empty, keeps its arguments and issues its record, and blocks while one is unanswered or
the trap queue has no room (R160, R299). SVC, TRAP and BRK alone in their bundles (R160, R161): SVC goes on with s1 and s2 empty, its record
sent after the accesses that it follows, and its arguments kept; TRAP and BRK stop the context before the next bundle with causes 0x0A and
0x09, their number as DETAIL, and nothing written; BRK is passed over once after REPLAYNB. -/
def Obligations.ArrivalsCallsAndTraps : Prop :=
  (∀ (p : BitVec 3) (mask : BitVec 4) (n : BitVec 16) (s : State) (b : Bun), s.issues b (cCond p) → b.pre.region = none → b.pre.fl.acq = [] →
     (∃ u, exec (.tbar p) s = .next u ∧ (u.ctx b.x).regs = (s.ctx b.x).regs ∧ Issued s u b.x
         { serial := (s.ctx b.x).fl.serial + 1, kind := .tbar, addr := 0, ord := .rel, sc := .cl, dst := none, baddr := b.baddr
           at_ := s.tick, delay := (s.ctx b.x).delayed })
       ∧ (b.pre.pr.mb = true → ∃ u, exec (.permit p mask) s = .next u ∧ sameBytes s u ∧ (∀ y, u.ctx y = s.ctx y)
         ∧ ∀ i, i < 4 → tget 0 (u.core b.x.coreId).mx.stage i
           = if mask.getLsbD i then (tget 0 (s.core b.x.coreId).mx.stage i + 1) % 2 ^ 32 else tget 0 (s.core b.x.coreId).mx.stage i)
       ∧ (b.pre.pr.mb = false → exec (.permit p mask) s = .next (noted s b 0 (.trap 0x01 0)))
       ∧ ∀ a : List Word, [1, 2, 3, 4, 5, 6, 7, 8].mapM (fun k => rdS (b.cenv p) (BitVec.ofNat 6 k)) = .ok a →
         (b.pre.ct.svcOpen = false → (s.cl b.x.cl).svcRoom = true →
             exec (.svc p n) s = .next (s.post (.svc n.toNat a)))
           ∧ ((b.pre.ct.svcOpen = true ∨ (s.cl b.x.cl).svcRoom = false) → exec (.svc p n) s = .next (noted s b 0 (.block .svc))))
    ∧ (∀ (p : BitVec 3) (n : BitVec 16) (s : State), s.plain → (s.ctx s.cur).regs.pv p.toNat = true →
         let x := s.cur
         let c := s.ctx x
         let stop (t : State) (cause : Nat) : Prop := t.bun = none ∧ sameBytes s t ∧ t.ctx x = { c with pr := { c.pr with stopped := true } }
           ∧ ∃ r, (t.cl x.cl).trapWait = (s.cl x.cl).trapWait ++ [r] ∧ r.cause = cause ∧ r.detail = n.toNat ∧ r.baddr = c.pc ∧ r.slot = 0 ∧ r.kind = 0
             ∧ r.crec = c.pr.crec ∧ r.cx = x.cx ∧ r.core = x.core
         (∃ t, exec (.trap p n) s = .next t ∧ stop t 0x0A)
           ∧ (c.pr.nb = false → ∃ t, exec (.brk p n) s = .next t ∧ stop t 0x09)
           ∧ (c.pr.nb = true → ∃ t, exec (.brk p n) s = .next t ∧ WentOn s t ∧ (t.ctx x).regs = c.regs ∧ sameBytes s t)
           ∧ ∀ a : List Word, [1, 2, 3, 4, 5, 6, 7, 8].mapM (fun k => rdS s.env (BitVec.ofNat 6 k)) = .ok a → c.fl.acq = [] → c.ct.svcOpen = false →
             (s.cl x.cl).svcRoom = true →
             ∃ t, exec (.svc p n) s = .next t ∧ WentOn s t ∧ sameBytes s t ∧ (t.ctx x).ct.svcOpen = true ∧ ((t.ctx x).regs.sc 1).full = false
               ∧ ((t.ctx x).regs.sc 2).full = false ∧ sameRegsBut [.s 1, .s 2] c.regs (t.ctx x).regs
               ∧ (∀ i, i < 8 → tget 0 (t.ctx x).ct.svcArgs i = (a.getD i 0).toNat)
               ∧ (t.ctx x).fl.pend = c.fl.pend ∧ ∃ r, (t.cl x.cl).trapWait = (s.cl x.cl).trapWait ++ [r] ∧ r.kind = 1 ∧ r.cause = 0x0A
               ∧ r.detail = n.toNat ∧ r.baddr = c.pc ∧ r.slot = 0 ∧ r.crec = c.pr.crec ∧ r.after = c.fl.serial + 1)

/-- MFC (R163): each listed register reads what the rule gives it; the engines' read only for the matrix-bound context, a peak register once
no committed command and no closed drain has still to reach it (R106, R230). MTC writes PADV, PADB, a peak register or a ring at the end of
its bundle. A number of 0x800 or above raises cause 0x08 in either, with the number as DETAIL (R162); an unlisted one, a read-only one for
MTC and a core-owned one of a context that is not matrix-bound raise 0x01. A region admits MFC, and MTC rolls it back (R148). MTC alone in
its bundle: PADV and PADB take the low 32 bits, a peak register its value, and a ring its three fields, emptied (R70, R163). -/
def Obligations.ControlRegisters : Prop :=
  (∀ (p : BitVec 3) (sd sS : BitVec 6) (k : BitVec 12) (s : State) (b : Bun) (v : Word), s.issues b (cCond p) → rdS (b.cenv p) sS = .ok v →
     let c := b.pre
     let m := (s.core b.x.coreId).mx
     let reads (n : BitVec 12) (val : Nat) : Prop := exec (.mfc p sd n) s = .next (putS s b sd val)
     reads 0x000 c.ct.wid ∧ reads 0x001 s.tick ∧ reads 0x002 c.ct.issued
       ∧ reads 0x003 (b.x.cl / 12 * 2 ^ 10 + b.x.cl % 12 * 2 ^ 6 + b.x.core * 2 ^ 3 + b.x.cx) ∧ reads 0x004 c.ct.launch
       ∧ reads 0x006 c.ct.padv ∧ reads 0x007 c.ct.padb ∧ reads 0x008 c.ct.rbcause ∧ reads 0x009 c.ct.rbcount
       ∧ (∀ tm, s.team b.x.cl c.ct.team = some tm → reads 0x005 tm.phase)
       ∧ (c.pr.mb = true → c.region.isSome = true ∨ (s.ctx b.x).heldCmd = [] → ∀ n, n < 8 → peakSettled m n c.ct.issued = true →
           reads (BitVec.ofNat 12 (0x010 + n)) (tget 0 m.pk n))
       ∧ (c.pr.mb = true → ∀ n, n < 8 → reads (BitVec.ofNat 12 (0x020 + 2 * n)) (tget ({ } : Ring) m.rings n).lo
           ∧ reads (BitVec.ofNat 12 (0x021 + 2 * n)) (tget ({ } : Ring) m.rings n).pmap)
       ∧ (c.pr.mb = true → ∀ n, n < 4 → reads (BitVec.ofNat 12 (0x018 + n)) (tget 0 m.donebelow n))
       ∧ (c.pr.mb = false → 0x010 ≤ k.toNat → k.toNat ≤ 0x02F → exec (.mfc p sd k) s = .next (noted s b 0 (.trap 0x01 0))
         ∧ (c.region = none → exec (.mtc p k sS) s = .next (noted s b 0 (.trap 0x01 0))))
       ∧ (0x800 ≤ k.toNat → exec (.mfc p sd k) s = .next (noted s b 0 (.trap 0x08 k.toNat))
         ∧ (c.region = none → exec (.mtc p k sS) s = .next (noted s b 0 (.trap 0x08 k.toNat))))
       ∧ (c.region.isSome = true → 0x800 ≤ k.toNat ∨ (cregListed k.toNat = true ∧ cregWritable k.toNat = true) →
         exec (.mtc p k sS) s = .next (noted s b 0 (.roll 0x07 0)))
       ∧ (cregListed k.toNat = false → k.toNat < 0x800 → exec (.mfc p sd k) s = .next (noted s b 0 (.trap 0x01 0)))
       ∧ (cregWritable k.toNat = false → k.toNat < 0x800 → exec (.mtc p k sS) s = .next (noted s b 0 (.trap 0x01 0)))
       ∧ (c.region = none → k = 0x006 ∨ k = 0x007 → exec (.mtc p k sS) s = .next (s.post (.creg k.toNat v)))
       ∧ (c.region = none → c.pr.mb = true → (s.ctx b.x).heldCmd = [] → 0x010 ≤ k.toNat → k.toNat ≤ 0x017 → v.toNat ≤ 0x7F800000 →
         peakSettled m (k.toNat - 0x010) c.ct.issued = true → exec (.mtc p k sS) s = .next (s.post (.creg k.toNat v))))
    ∧ (∀ (p : BitVec 3) (sS : BitVec 6) (s : State) (v : Word), s.plain → (s.ctx s.cur).regs.pv p.toNat = true → rdS s.env sS = .ok v →
         let x := s.cur
         let c := s.ctx x
         (∃ t, exec (.mtc p 0x006 sS) s = .next t ∧ WentOn s t ∧ (t.ctx x).ct.padv = v.toNat % 2 ^ 32 ∧ (t.ctx x).regs = c.regs)
           ∧ (∃ t, exec (.mtc p 0x007 sS) s = .next t ∧ WentOn s t ∧ (t.ctx x).ct.padb = v.toNat % 2 ^ 32 ∧ (t.ctx x).regs = c.regs)
           ∧ (c.pr.mb = true → c.heldCmd = [] → ∀ n, n < 8 → (v.toNat ≤ 0x7F800000 ∨ v.toNat = 0x80000000) →
             peakSettled (s.core x.coreId).mx n c.ct.issued = true →
             ∃ t, exec (.mtc p (BitVec.ofNat 12 (0x010 + n)) sS) s = .next t ∧ WentOn s t ∧ tget 0 (t.core x.coreId).mx.pk n = v.toNat % 2 ^ 31)
           ∧ (c.pr.mb = true → c.heldCmd = [] → ∀ n, n < 8 → ringFree (s.core x.coreId).mx n = true →
             let ss := v.toNat / 2 ^ 20 % 2 ^ 12
             let sc := v.toNat / 2 ^ 38 % 2 ^ 7
             v.toNat % 2 ^ 6 = 0 → ss ≠ 0 → sc ≤ 64 → v.toNat % 2 ^ 20 + sc * ss * 64 ≤ 2 ^ 20 → v.toNat / 2 ^ 32 % 2 ^ 6 = 0 →
             ∃ t, exec (.mtc p (BitVec.ofNat 12 (0x020 + 2 * n)) sS) s = .next t ∧ WentOn s t
               ∧ (t.core x.coreId).mx.ring n = { base := v.toNat % 2 ^ 20, ssize := ss, scount := sc }))

/-- PONT opens a region with the live registers as its checkpoint (R216); COMMIT makes what it held ordinary, in program order: each byte of
L-mem that held stores write holds what the last of them writes, as loads of the region read it before (R83), and no other byte has changed;
the held vault stores become pending accesses, one after the other; a held queue store waits in its queue to be sent, and a load that has
been sent takes the stores before it along (R65); a held command is the count's and may issue, and the region is gone (R217, R230); ABORT
rolls it back with cause 0x01 (R218). Outside a region COMMIT and ABORT raise cause 0x01. -/
def Obligations.Regions : Prop :=
  ∀ (p : BitVec 3) (disp : BitVec 23) (s : State), s.bun = none → (s.ctx s.cur).regs.pv p.toNat = true → (s.ctx s.cur).loop = none →
    (s.ctx s.cur).fl.holdsAll = false → (s.ctx s.cur).dslot = 0 → (s.ctx s.cur).delay = 0 →
    let x := s.cur
    let c := s.ctx x
    (c.region = none → c.heldSt = [] → c.heldCmd = [] → ∃ t, exec (.pont p disp) s = .next t ∧ WentOn s t ∧ sameBytes s t
        ∧ (t.ctx x).regs = c.regs ∧ (t.ctx x).region
          = some { fallback := ((c.pc + 16 * disp.toInt) % 2 ^ 64).toNat, pont := c.pc, rlen := 0, ck := c.regs, aliases := [], qserial := c.fl.serial })
      ∧ (∀ g, c.region = some g → allCompared c = true → ∃ t, exec (.commit p) s = .next t ∧ WentOn s t ∧ (t.ctx x).region = none
        ∧ (t.ctx x).heldSt = [] ∧ (t.ctx x).regs = c.regs
        ∧ sameBytesBut s t x.coreId (fun q => (heldByte .lmem q c.heldSt).isSome = true)
        ∧ (∀ q v, heldByte .lmem q c.heldSt = some v → (rdByte (t.core x.coreId).lmem q).toNat = v)
        ∧ (let out := c.heldSt.filterMap heldAccess
           ∃ ps, (t.ctx x).fl.pend = c.fl.pend ++ ps ∧ ps.length = out.length ∧ ∀ (i : Nat) k a ba, out[i]? = some (k, a, ba) →
             ∃ q, ps[i]? = some q ∧ q.kind = k ∧ q.addr = a ∧ q.baddr = ba ∧ q.serial = c.fl.serial + 1 + i ∧ q.ord = .plain ∧ q.dst = none)
        ∧ (∀ q, ∀ e ∈ c.queue q, e.stage = .held →
          { e with rpush := false, rpop := false, stage := .waiting, pa := none, at_ := s.tick } ∈ (t.ctx x).queue q)
        ∧ (∀ q pa, ∀ e ∈ c.queue q, e.kind.isLoad = true → e.stage = .waiting → e.pa = some pa →
          { e with rpush := false, rpop := false, ovr := e.over c pa } ∈ (t.ctx x).queue q)
        ∧ (∀ q, ∀ e ∈ (t.ctx x).queue q, e.rpush = false ∧ e.rpop = false ∧ e.stage ≠ .held)
        ∧ (t.ctx x).heldCmd.length = c.heldCmd.length ∧ ∀ (i : Nat) h, c.heldCmd[i]? = some h → ∃ u, (t.ctx x).heldCmd[i]? = some u ∧ u.region = false
          ∧ u.count = c.ct.issued ∧ u.cbaddr = c.pc ∧ u.instr = h.instr ∧ u.base = h.base ∧ u.sval = h.sval ∧ u.raw = h.raw)
      ∧ (∀ g, c.region = some g → ∃ t, exec (.abort p) s = .next t ∧ t.bun = none ∧ sameBytes s t ∧ (t.ctx x).regs = g.ck
        ∧ (t.ctx x).pc = g.fallback ∧ (t.ctx x).region = none ∧ (t.ctx x).heldSt = [] ∧ (t.ctx x).ct.rbcause / 2 ^ 4 % 2 ^ 5 = 0x01)
      ∧ ∀ b : Bun, b.pre.region = none → b.pre.regs.pv p.toNat = true →
        exec (.commit p) { s with bun := some b } = .next (noted { s with bun := some b } b 0 (.trap 0x01 0))
          ∧ exec (.abort p) { s with bun := some b } = .next (noted { s with bun := some b } b 0 (.trap 0x01 0))

/-! ## Events of contexts and of work -/

/-- Contexts at their boundaries (R33 to R36, R44 to R47, R116, R224, R230, R256, R279, R280, R345): selection by rotation, the end of a
quantum, a stalled context giving way, DONE completing in a Running context or waking one that gave way, a fill landing where its producer
is still the newest, a wait ending by its test in time or latching what it finds, or ending by its time-out, a held command issuing, and a
region that has run too long. A WQUIET that has ended leaves its result for its bundle, which issues again. That its losses are compared
when its context wakes and that their record names slot 0 is read from R280 and R298 (log entries 23, 16, 106). -/
def Obligations.ContextEvents : Prop :=
  ∀ (s : State) (x : CtxId), let c := s.ctx x
    (∀ o k, s.nextReady o = some k → (s.core o).run = none → s.coreIn o = true → Does (.contextSelect o) s fun t =>
        (t.core o).run = some k ∧ (t.core o).last = some k ∧ (t.ctx ⟨o.cl, o.core, k⟩).pr.st = .running
          ∧ (t.ctx ⟨o.cl, o.core, k⟩).pr.qcount = 0 ∧ (t.ctx ⟨o.cl, o.core, k⟩).regs = (s.ctx ⟨o.cl, o.core, k⟩).regs ∧ sameBytes s t)
      ∧ (c.active = true → c.pr.st = .running → 4096 ≤ c.pr.qcount → c.region = none → c.between = true → c.fl.defer = [] → c.pr.pre = none →
        c.pr.overrun = false → c.doneWait = false → Does (.quantumExpiry x) s fun t =>
        (s.otherReady x = true → (t.ctx x).pr.st = .ready ∧ (t.core x.coreId).run = none ∧ (t.ctx x).regs = c.regs)
          ∧ (s.otherReady x = false → s.workWaits x.cl c.ct.prio = false → t.ctx x = { c with pr := { c.pr with qcount := 0 } }))
      ∧ (c.active = true → c.pr.st = .stalled → s.otherReady x = true → Does (.stallTimeout x) s fun t =>
        t.ctx x = { c with pr := { c.pr with st := .parked, parkTick := s.tick } } ∧ (t.core x.coreId).run = none)
      ∧ (c.active = true → c.doneWait = true → s.quietCtx x = true →
        (c.pr.st = .running → Does (.doneComplete x) s fun t => (t.ctx x).pr.st = .idle ∧ (t.core x.coreId).run ≠ some x.cx)
          ∧ (c.pr.blk.isSome = true → (c.pr.st = .stalled → Does (.doneComplete x) s fun t =>
              t.ctx x = { c with pr := { c.pr with st := .running, blk := none } })
            ∧ (c.pr.st = .parked → Does (.doneComplete x) s fun t => t.ctx x = { c with pr := { c.pr with st := .ready, blk := none } })))
      ∧ (∀ h i d f, s.home h = some d → d.fl.fills[i]? = some f → Does (.registerFill h i) s fun t =>
        h = .live x → (t.ctx x).fl.fills = listDrop c.fl.fills i ∧ ∀ n, n ≠ 0 → f.reg = .s n → f.prod ≠ 0 →
          (t.ctx x).regs.sc n = if (c.regs.sc n).prod = f.prod then { val := BitVec.ofNat 64 f.val, mark := f.mark } else c.regs.sc n)
      ∧ (∀ w, c.wait = some w → w.quiet = none → let sat := testAll s (.live x) c w.conds w.wsat
        s.inTime w = true → (modeMet w.all w.conds.length sat = true → Does (.waitWake (.live x)) s fun t => (t.ctx x).wait = none
          ∧ (t.ctx x).regs = c.regs.wr (.s w.sd) sat ∧ (t.ctx x).ct.wto = false ∧ (c.pr.st = .parked → (t.ctx x).pr.st = .ready))
        ∧ (modeMet w.all w.conds.length sat = false → w.all = true → sat ≠ w.wsat → Does (.waitWake (.live x)) s fun t =>
          t.ctx x = { c with wait := some { w with wsat := sat } }))
      ∧ (∀ w q, c.wait = some w → w.quiet = some q → q.found = true → s.inTime w = true → let lost := (q.last.map fun l => l.2.2).getD 0
        Does (.waitWake (.live x)) s fun t => (t.ctx x).wait = none ∧ (t.ctx x).pc = c.pc ∧ sameBytes s t
          ∧ (lost ≤ (s.cnt q.job).reported → (t.ctx x).regs = c.regs ∧ (t.ctx x).qres = some (w.baddr, 1)
              ∧ (c.pr.st = .parked → (t.ctx x).pr.st = .ready))
          ∧ ((s.cnt q.job).reported < lost → Stopped t x c.regs 0x0E 0 w.baddr (lost - (s.cnt q.job).reported)))
      ∧ (∀ w d, c.wait = some w → w.deadline = some d → d < s.tick → w.met = none →
        Does (.waitTimeout (.live x)) s fun t => (t.ctx x).wait = none ∧ (c.pr.st = .parked → (t.ctx x).pr.st = .ready)
          ∧ (w.quiet = none → (t.ctx x).regs = c.regs.wr (.s w.sd) (w.wsat + 16) ∧ (t.ctx x).ct.wto = true)
          ∧ (w.quiet.isSome = true → (t.ctx x).regs = c.regs ∧ (t.ctx x).qres = some (w.baddr, 16)))
      ∧ (∀ h rest, c.heldCmd = h :: rest → h.region = false → s.clusterRuns x.cl = true → ((heldGo h.instr).2 = true → (s.core x.coreId).mx.trackerRoom = true) →
        (∀ u, (heldGo h.instr).1 s x h h.count = .ok u → Does (.heldCommandIssue x) s fun t =>
          (t.ctx x).heldCmd = (u.ctx x).heldCmd.tail ∧ (t.core x.coreId).mx = (u.core x.coreId).mx ∧ sameBytes u t)
          ∧ ∀ cause d, (heldGo h.instr).1 s x h h.count = .error (.trap cause d) → Does (.heldCommandIssue x) s fun t =>
            (t.ctx x).heldCmd = [] ∧ (t.core x.coreId).mx = (s.core x.coreId).mx
              ∧ (t.ctx x).fl.defer = c.fl.defer ++ [⟨cause, 0, some h.cbaddr, if cause = 0x01 then h.cdetail else d, h.cdelay⟩])
      ∧ (∀ g, c.active = true → c.pr.st = .running → c.region = some g → 4096 ≤ g.rlen → c.turning = false → Does (.regionLengthRollback x) s fun t =>
        RolledBack t x g 0x06 ∧ sameBytes s t)

/-- Traps at a boundary, stops, and the four ways to go on (R231, R248, R275, R288, R289, R294): a deferred trap, a breakpoint with the
region left open and a spent budget each stop the context with their record; STOPREQ stops it and holds it; REPLAY, NEXT, REPLAYNB and
REDIRECT resume a stopped context at its PC or after it, and set ERR for one that is not stopped. Pre-emption, leaving, preloading and
placing (R26 to R29, R36, R317, R318, R321 to R325): a request waits at its context until a boundary; one that finds a region open rolls it
back first; one that is taken saves the continuation, or retires it for a cancel; the longest parked continuation leaves where work waits
that its context could take and no context is Idle; a preload names its record and copies into L-mem that no window and no frame covers; and the record
served first takes an Idle context, with its frame's window and its PC from the record. That REPLAY, NEXT and REDIRECT end the suppression of
a breakpoint is read from R289 and R231 (log entry 17); that the longest parked is the one that leaves among those whose context could take
the work, and where preloads lie, are the model's choices (log entries 75, 99). -/
def Obligations.StopAndPlacementEvents : Prop :=
  (∀ (s : State) (x : CtxId), let c := s.ctx x
     (∀ d rest, c.fl.defer = d :: rest → c.active = true → c.doneWait = false → c.turning = false → c.region = none → Does (.deferredTrap x) s fun t =>
         Stopped t x c.regs d.cause d.slot (d.baddr.getD c.pc) d.detail ∧ (t.ctx x).fl.defer = rest ∧ (t.ctx x).pc = c.pc)
       ∧ (∀ n, c.pr.breakAt c.pc = some n → c.active = true → c.pr.st = .running → c.pr.nb = false → c.doneWait = false → c.turning = false →
         Does (.breakpointStop x) s fun t =>
         Stopped t x c.regs 0x09 0 c.pc n ∧ (t.ctx x).region = c.region ∧ (t.ctx x).pc = c.pc ∧ sameBytes s t)
       ∧ (c.active = true → c.pr.overrun = true → c.region = none → c.between = true → c.pr.pre = none → c.fl.defer = [] → c.doneWait = false →
         Does (.budgetOverrun x) s fun t => Stopped t x c.regs 0x0B 0 c.pc c.pr.used ∧ (t.ctx x).pr.overrun = false)
       ∧ (∀ v, s.released x.cl = true → Does (.ctxctlStopreq x v) s fun t => (t.ctx x).pr.stopreq = v ∧ (t.ctx x).regs = c.regs ∧ (t.ctx x).pc = c.pc
         ∧ (v = true → (c.pr.st = .ready ∨ c.pr.st = .stalled ∨ c.pr.st = .parked) → (t.ctx x).pr.stopped = true))
       ∧ (c.active = true → c.pr.stopreq = true → Does (.contextStop x) s fun t =>
         t.ctx x = { c with pr := { c.pr with stopped := true } } ∧ (t.core x.coreId).run ≠ some x.cx)
       ∧ (∀ n i, s.released x.cl = true → (n, i) ∈ ([(0, .replay x), (1, .next x), (2, .replaynb x), (3, .redirect x)] : List (Nat × Instr)) →
         (c.pr.stopped = false → Does i s fun t => t.ctx x = { c with pr := { c.pr with resume := n, err := true } })
           ∧ (c.pr.stopped = true → c.pr.stopreq = false → c.loop = none → Does i s fun t =>
             (t.ctx x).pr.stopped = false ∧ (t.ctx x).regs = c.regs ∧ (t.ctx x).ct = c.ct ∧ (t.ctx x).pr.resume = n ∧ sameBytes s t
               ∧ (t.ctx x).pr.nb = decide (n = 2)
               ∧ (n = 0 ∨ n = 2 → (t.ctx x).pc = c.pc ∧ (t.ctx x).target = c.target ∧ (t.ctx x).delay = c.delay)
               ∧ (n = 1 → (c.delay = 0 → (t.ctx x).pc = (c.pc + 16) % 2 ^ 64) ∧ ∀ a, c.delay = 1 → c.target = some a → (t.ctx x).pc = a)
               ∧ (n = 3 → (t.ctx x).pc = c.pc ∧ (t.ctx x).target = none ∧ (t.ctx x).delay = 0))
           ∧ (c.pr.stopped = true → c.pr.stopreq = true → Does i s fun t => (t.ctx x).pr.stopped = true ∧ (t.ctx x).pr.goPend = true)))
    ∧ (∀ (s : State) (x : CtxId), let c := s.ctx x
         (∀ (cl : Nat) (v : BitVec 64), s.released cl = true → let y : CtxId := ⟨cl, v.toNat % 32 / 4, v.toNat % 32 % 4⟩
             (v.getLsbD 8 = false → exec (.preempt cl v) s = .next s)
               ∧ (v.getLsbD 8 = true → (s.ctx y).pr.st ≠ .idle → (s.ctx y).pr.pre = none → Does (.preempt cl v) s fun t =>
                 t.ctx y = { s.ctx y with pr := { (s.ctx y).pr with pre := some .software } })
               ∧ (v.getLsbD 8 = true → (s.ctx y).pr.st = .idle → exec (.preempt cl v) s = .next s))
           ∧ (∀ src, c.pr.pre = some src → c.active = true → c.between = true ∨ c.pr.st = .parked → c.fl.defer = [] → s.clusterRuns x.cl = true →
             (∀ g, c.region = some g → Does (.preemptionTake x) s fun t => RolledBack t x g 0x0A ∧ (t.ctx x).pr.pre = some src ∧ sameBytes s t)
               ∧ (c.region = none → c.doneWait = false → c.heldCmd = [] → s.enginesHalt x = true → s.marversHalt x = true →
                 (src = .cancel → c.performed = true) → Does (.preemptionTake x) s fun t => (t.ctx x).pr.st = .idle ∧ (t.core x.coreId).run ≠ some x.cx
                   ∧ (src ≠ .cancel → ∃ img, t.saved x.cl c.pr.crec = some img ∧ img.fresh = false ∧ img.ctx.regs = c.regs ∧ img.ctx.pc = c.pc
                     ∧ img.ctx.ct = c.ct ∧ img.base = c.pr.fbase ∧ img.size = c.pr.flen)))
           ∧ (∀ cl k, s.victim cl = some k → s.anyIdle cl = false → let y : CtxId := ⟨cl, k / 4, k % 4⟩
             Does (.eviction cl) s fun t => (t.ctx y).pr.st = .idle ∧ ∃ img, t.saved cl (s.ctx y).pr.crec = some img ∧ img.ctx.regs = (s.ctx y).regs)
           ∧ (∀ crec, c.pr.st ≠ .idle → (s.readyOf x.cl).contains crec = true → Does (.preload x crec) s fun t => ∃ p,
             tget { crec := 0 } (t.cl x.cl).preload (x.core * 4 + x.cx) = p ∧ p.crec = crec ∧ p.owner = c.pr.crec ∧ (∀ y, t.ctx y = s.ctx y)
               ∧ sameBytesBut s t x.coreId (fun a => p.base ≤ a ∧ a < p.base + p.size)
               ∧ ∀ k, k < 4 → p.size ≠ 0 → let o := (s.core x.coreId).ctx k
                 o.pr.st = .idle ∨ ((o.pr.fbase + o.pr.flen ≤ p.base ∨ p.base + p.size ≤ o.pr.fbase)
                   ∧ (o.pr.lwlim ≤ p.base ∨ p.base + p.size ≤ o.pr.lwbase)))
           ∧ (∀ crec base i, s.saved x.cl crec = some i → (s.readyOf x.cl).contains crec = true →
             s.mayPlaceAt x crec base = true → s.comesFirst x.cl (s.recKey crec) = false →
             Does (.continuationPlace x crec base) s fun t => (t.ctx x).pr.st = .ready ∧ (t.ctx x).pc = s.recRd crec recPC 8 / 16 * 16
               ∧ (t.ctx x).ct.wid = s.recRd crec recWID 8 ∧ (t.ctx x).pr.lwbase = base ∧ (t.ctx x).pr.lwlim = base + i.size ∧ (t.ctx x).pr.fbase = base
                   ∧ (t.ctx x).pr.flen = i.size
               ∧ t.saved x.cl crec = none ∧ (t.cl x.cl).ready.contains crec = false
               ∧ (i.fresh = true → ((t.ctx x).regs.ac 15).val = BitVec.ofNat 64 base ∧ ∀ n, (t.ctx x).regs.sc n = i.ctx.regs.sc n)))

/-- The push window, the queue descriptors and the job table (R308 to R312, R351, R384): a whole record joins its queue's ring, or borrows a
cullet slot, or is refused and counted; a push that is not accepted counts in the device's log; QCTL and CANCEL take what their writer may
write, and QCTL no 257th valid descriptor of a device (that it is refused is the model's choice, log entry 94); the job table takes what
R351 lets through (what a push is taken in, and which job-table writes are taken, are read from R308 to R312 and R351, log entries 27, 29);
a cancel empties its queue; a queue with a record is made resident; and a changed entry reaches its slots. Launches from the head of a queue
to their completion (R19, R22, R30, R305 to R307, R313 to R316): a dependence is met once; the next Head is taken and runs, or ends with its
lowest status; a team is bound where it fits, with its job slot and allocation; an item becomes a ready record that starts at ENTRY; and an
ended launch is reported once, with its arrival at CSYNC. That a spawn's team is bound before the next ordinal and that a schedule out of
the rules of R269 drains its launch with status 0x06 are the model's readings (log entry 30), and so are an item's key and that an item that
stands for a context keeps the next from being created (log entry 84). -/
def Obligations.QueueAndLaunchEvents : Prop :=
  (∀ (s : State),
     (∀ ld off bytes, ld < 16 → off < 2 ^ 24 → bytes ≠ [] →
         (s.pushOpen ld = false → Does (.push ld off bytes) s fun t => (t.ld ld).errs = (s.ld ld).errs + 1 ∧ t.wqs = s.wqs)
           ∧ ∀ q, s.pushOpen ld = true → s.queuesNamed ld (off / 256) = [q] →
             (off % 256 ≠ 0 ∨ bytes.length ≠ 256 → Does (.push ld off bytes) s fun t => t.wq q = { s.wq q with qerr := true })
               ∧ (off % 256 = 0 → bytes.length = 256 →
                 ((s.wq q).ring.length < 2 ^ (s.wq q).log2 → (s.wq q).borrowed = [] → Does (.push ld off bytes) s fun t =>
                     (t.wq q).ring = (s.wq q).ring ++ [leNat bytes] ∧ (t.wq q).accepted = ((s.wq q).accepted + 1) % 2 ^ 64)
                   ∧ ((2 ^ (s.wq q).log2 ≤ (s.wq q).ring.length ∨ (s.wq q).borrowed ≠ []) →
                     (s.borrowedBy ld < (s.ld ld).cquota → Does (.push ld off bytes) s fun t =>
                         (t.wq q).borrowed = (s.wq q).borrowed ++ [leNat bytes] ∧ (t.wq q).accepted = ((s.wq q).accepted + 1) % 2 ^ 64)
                       ∧ ((s.ld ld).cquota ≤ s.borrowedBy ld → Does (.push ld off bytes) s fun t =>
                         t.wq q = { s.wq q with refused := ((s.wq q).refused + 1) % 2 ^ 64 }))))
       ∧ (∀ q (v : BitVec 64), q < 4096 → let part := v.toNat / 2 ^ 48 % 2 ^ 4
         let takes : Prop := s.queueOpen q part = true ∧ (v.getLsbD 63 = true → s.queuesOf part q < 256)
         (takes → Does (.qctlWrite q v) s fun t =>
             (t.wq q).valid = v.getLsbD 63 ∧ (t.wq q).part = part ∧ (t.wq q).jobix = v.toNat / 2 ^ 32 % 2 ^ 8
               ∧ (t.wq q).ceil = v.toNat / 2 ^ 28 % 2 ^ 3 ∧ (t.wq q).log2 = v.toNat / 2 ^ 16 % 2 ^ 4 ∧ (t.wq q).vqid = v.toNat % 2 ^ 16
               ∧ (t.wq q).ring = (s.wq q).ring)
           ∧ (¬ takes → Does (.qctlWrite q v) s fun t => Refused s t ((s.queueBy).getD part) ∧ t.wqs = s.wqs))
       ∧ (∀ q, q < 4096 → (s.queueOpen q (s.wq q).part = true → Does (.cancel q) s fun t => (t.wq q).ring = [] ∧ (t.wq q).borrowed = [])
           ∧ (s.queueOpen q (s.wq q).part = false → Does (.cancel q) s fun t => Refused s t ((s.queueBy).getD (s.wq q).part) ∧ t.wqs = s.wqs))
       ∧ (∀ q, (s.wq q).resident = false → (s.wq q).ring ≠ [] → (s.wqs.filter fun e => e.2.resident).length < 1024 →
         Does (.queueMakeResident q) s fun t => t.wq q = { s.wq q with resident := true, lastUsed := s.tick })
       ∧ (∀ ld ix e, ld < 16 → ix < 256 →
         (s.jobWriteOk ld ix (entryOf e) = true → Does (.jobTableWrite ld ix e) s fun t => tget { } t.jobs ix = entryOf e ∧ t.lds = s.lds)
           ∧ (s.jobWriteOk ld ix (entryOf e) = false → Does (.jobTableWrite ld ix e) s fun t => t.jobs = s.jobs
             ∧ t.ld ld = { s.ld ld with referr := true, errs := (s.ld ld).errs + 1 }))
       ∧ ∀ cl slot ix, let o : JobSlot := tget { } (s.cl cl).jobs slot
         o.ix = some ix → 0 < o.teams → o.stale.isSome = true → Does (.jobSlotUpdate cl slot) s fun t =>
           let n : JobSlot := tget { } (t.cl cl).jobs slot
           let e : JobEnt := tget { } s.jobs ix
           n.valid = e.valid ∧ n.jobid = e.jobid ∧ n.troot = e.troot ∧ n.rwbase = e.red.1 ∧ n.rwlim = e.red.2 ∧ n.teams = o.teams ∧ n.stale = none)
    ∧ (∀ (s : State) (l : Nat) (v : Launch), s.launch l = some v →
         (∀ d k, v.deps[d]? = some k → v.st = .head → k.met = false → (k.adv = true ∨ genOf (s.rdVault k.off 16) ≠ k.gen) →
             Does (.dependenceMet l d) s fun t => ∃ w k', t.launch l = some w ∧ w.deps[d]? = some k' ∧ k'.met = true
               ∧ k'.err = (decide (s.rdVault k.off 16 / 2 ^ 88 % 2 = 1) && !k.errok))
           ∧ (s.nextHead = some l → v.reported = false → (∃ i, i ≤ s.launches.length
               ∧ s.launch i = none) → let st := checkStatus (s.launchJob l) v.raw (v.deps.any fun d => d.err)
             Does (.launchCheck l) s fun t => ∃ w, t.launch l = some w ∧ w.raw = v.raw ∧ (st = 0 → w.st = .running) ∧ (st ≠ 0 → w.st = .ended st)
               ∧ (t.wq v.queue).taken = ((s.wq v.queue).taken + 1) % 2 ^ 64)
           ∧ (∀ cl vbase key own js, s.createKey l = some (key, own) → s.slotFor cl (s.launchJob l) = some js → s.bestCluster l = some cl →
             s.fitsVault cl v.raw vbase = true →
             (∀ k, s.createsFirst k l = true → (s.createKey k).isSome = true → s.bestCluster k = none) →
             (lSchedv v.raw = true → s.schedOk cl (lSched v.raw) = false → Does (.teamCreate l cl vbase) s fun t =>
                 t.launch l = some { v with bad := 0x06, st := .draining })
               ∧ ((lSchedv v.raw = false ∨ s.schedOk cl (lSched v.raw) = true) → Does (.teamCreate l cl vbase) s fun t =>
                 (∃ w, t.launch l = some w ∧ w.liveTeams = v.liveTeams + 1 ∧ w.nextTeam = v.nextTeam + b2n own)
                   ∧ ∃ k tm, t.team cl k = some tm ∧ tm.launch = l ∧ tm.key = key ∧ tm.vbase = vbase ∧ tm.jslot = js ∧ tm.bound = s.tick
                     ∧ tm.items = (if own then teamSize v.raw else 0)))
           ∧ (∀ cl team tm i rest, s.team cl team = some tm → tm.launch = l → tm.free = i :: rest → tm.nextItem < tm.items → tm.moving = none →
             (v.st = .running ∨ v.st = .draining) → s.clusterRuns cl = true →
             let crec := recAddr v.raw tm.vbase i
             let u := (s.setTeam cl team { tm with nextItem := tm.nextItem + 1 }).newRecord cl team
               { wid := itemWid v.raw tm.key tm.nextItem, prio := s.launchPrio l, entry := lEntry v.raw, args := [], tag := none, origin := none }
             (u.markItem cl crec).placeable cl crec = true → s.comesFirst cl (s.itemKey tm) = false → s.itemStands cl (s.launchPrio l) = false →
             Does (.itemCreate cl team) s fun t => (∃ q, (t.cl cl).ready = q ++ [crec] ∧ ((s.cl cl).ready = [] → q = []))
               ∧ (∃ tm', t.team cl team = some tm' ∧ tm'.nextItem = tm.nextItem + 1 ∧ tm'.free = rest)
               ∧ ∃ img, t.saved cl crec = some img ∧ img.fresh = true ∧ img.ctx.pc = lEntry v.raw ∧ img.ctx.pr.mb = lMB v.raw
                 ∧ img.ctx.ct.wid = itemWid v.raw tm.key tm.nextItem ∧ (img.ctx.regs.ac 13).val = BitVec.ofNat 64 (lArgp v.raw))
           ∧ ∀ st, s.launchOver l v = some st → (s.ld (s.queueOf l).part).hstate ≠ 2 → s.storesLanded (s.launchJob l).jobid = true →
             s.dispGoes (s.launchJob l) (complWrites l st s.tick v) = true →
             Does (.launchEnd l) s fun t => t.launch l = some { v with st := .ended st, reported := true, tick := s.tick }
               ∧ (lCompl v.raw = 0 → sameBytes s t)
               ∧ (lCsync v.raw ≠ 0 → vaultRef (s.launchJob l) (lCsync v.raw) 16 16 = true →
                 ∃ a, t.arrivals = s.arrivals ++ [a] ∧ a.lmem = none ∧ a.addr = lCsync v.raw ∧ a.n = 1 ∧ a.err = none ∧ a.owner = none))

/-! ## Events of the engines and of the fabric -/

/-- The tracker, the matrix engine and the rings (R71, R105, R136 to R138, R241, R242, R245 to R248, R255, R266): an operation held back is
released once nothing before it conflicts; a weight load takes its plane, is read and lands there, failed where its source is uncorrectable,
which raises its error code 0x01; a pass starts on a published slot with its load landed, writes only its command's open writes, and each
pass or the last releases its loads; a failed load ends the MMA; the write whose window closed first takes effect; a landed drain's bits
reach TSTAT once it has arrived; a drain stores nothing outside its rows and its scales, whole or in parts (R198), and stays in the tracker
until its arrival; and the oldest acquisition takes a free slot. Each names the command's entries of the tracker by their number and leaves
every other entry as it stands. That a copy, as it is released, and a weight load, as it starts, may have read some aligned 8-byte parts of
an L-mem source is the model's reading of R198 (log entry 107), as it is that a load whose number lies behind WREL never starts (log entry
112) and that a pass reads its slot where it retires (log entry 113); so is the trap 0x0D that carries a failed load's code (log entry 118).
-/
def Obligations.MatrixEvents : Prop :=
  ∀ (s : State) (c : CoreId), let m := (s.core c).mx
    let after (t : State) : Mx := (t.core c).mx
    let with_ (t : State) (id : Nat) (f : Cmd → Cmd) : Prop := (after t).cmds = m.cmds.map fun q => if q.id = id then f q else q
    let without (t : State) (id : Nat) : Prop := (after t).cmds = m.cmds.filter fun q => q.id != id
    (∀ i k, m.cmds[i]? = some k → k.hold = true → (∀ o ∈ m.cmds.take i, k.conflicts o = false) → Does (.trackerRelease c i) s fun t =>
        (k.kind.isCopy = false → with_ t k.id (fun q => { q with hold := false }))
        ∧ (∃ early : Cmd → Tab Nat, (∀ q, ∀ e ∈ early q, e.2 = rdMem (s.core c).lmem (8 * e.1) 8)
            ∧ (k.kind.isCopy = true → with_ t k.id (fun q => { q with hold := false, early := early q })))
        ∧ { after t with cmds := m.cmds } = m ∧ sameBytes s t ∧ ∀ y, t.ctx y = s.ctx y)
      ∧ (∀ i k w prec t kv d slot, m.cmds[i]? = some k → k.kind = .mwld w prec t kv d slot → k.running = false → s.cmdFree c k = true →
        s.clusterRuns c.cl = true → (w + 2 ^ 32 - m.wrel) % 2 ^ 32 < 2 → (d.space = 2 → (m.ring d.ring).published slot = true) →
        Does (.weightLoadStart c i) s fun u =>
          (∃ early : Cmd → Tab Nat, (∀ q, ∀ e ∈ early q, e.2 = rdMem (s.core c).lmem (8 * e.1) 8)
            ∧ with_ u k.id (fun q => { q with running := true, early := early q })) ∧ { after u with cmds := m.cmds } = m ∧ sameBytes s u
                ∧ ∀ y, u.ctx y = s.ctx y)
      ∧ (∀ i k w prec t kv d slot, m.cmds[i]? = some k → k.kind = .mwld w prec t kv d slot → k.running = true →
        s.clusterRuns c.cl = true →
        let sb := (m.ring d.ring).slotBase ((m.ring d.ring).resvSlot slot)
        let sh := wldShape t kv (effN (pWW prec))
        let rs := elemRanges d sh.1 sh.2.1 (containerBits (pWFMT prec) (pWW prec)) ++
          (if fmtMx (pWFMT prec) then scaleRanges d sh.1 sh.2.1 sh.2.2 else [])
        Does (.weightLoadLand c i) s fun u => without u k.id ∧ sameBytes s u ∧ (after u).wrel = m.wrel ∧ (after u).tiles = m.tiles
          ∧ ∃ ld, tget none (after u).planes (w % 2) = some ld ∧ ld.w = w ∧ ld.fmt = pWFMT prec ∧ ld.width = pWW prec ∧ ld.kv = kv
            ∧ ld.rne = pARND prec ∧ ld.vals = readWeights (s.spaceRd c k.early d.space sb) prec t kv d
            ∧ (ld.failed = true ↔ ∃ r ∈ rs, s.spaceBad c d.space sb r = true)
            ∧ (ld.failed = true → ∃ e ∈ (u.ctx (cmdCtx c k)).fl.defer, e.cause = 0x0D ∧ e.detail = engineDetail k.baddr 0x01))
      ∧ (∀ k ld prec t ovw wrel n d l pv pb slot, s.clusterRuns c.cl = true → m.mmaNow = some k → m.loadNow = some ld → k.kind = .mma prec t ovw wrel n d l pv pb slot →
        (k.running = false → s.cmdFree c k = true → (m.ring d.ring).published (slot + passSlot l k.next) = true →
          (loadErr prec ld = 0 → Does (.matrixPassStart c) s fun u => with_ u k.id (fun q => { q with running := true })
              ∧ (after u).wrel = m.wrel ∧ (after u).rings = m.rings ∧ sameBytes s u ∧ ∀ y, u.ctx y = s.ctx y)
            ∧ (loadErr prec ld ≠ 0 → Does (.matrixPassStart c) s fun u => without u k.id ∧ sameBytes s u
              ∧ (after u).wrel = (m.wrel + owedReleases l wrel k.next) % 2 ^ 32
              ∧ ∃ e ∈ (u.ctx (cmdCtx c k)).fl.defer, e.cause = 0x0D ∧ e.detail = engineDetail k.baddr (loadErr prec ld)))
          ∧ (k.running = true → let sb := (m.ring d.ring).slotBase ((m.ring d.ring).resvSlot (slot + passSlot l k.next))
            ((∃ b ∈ actRanges prec t d, s.spaceBad c 2 sb b = true) → Does (.matrixPassRetire c) s fun u => without u k.id ∧ sameBytes s u
                ∧ (after u).wrel = (m.wrel + owedReleases l wrel k.next) % 2 ^ 32
                ∧ ∃ e ∈ (u.ctx (cmdCtx c k)).fl.defer, e.cause = 0x0D ∧ e.detail = engineDetail k.baddr 0x06)
              ∧ ((∀ b ∈ actRanges prec t d, s.spaceBad c 2 sb b = false) → Does (.matrixPassRetire c) s fun u => sameBytes s u
                ∧ (k.next + 1 = nestPasses l → without u k.id ∧ (after u).wrel = (m.wrel + b2n wrel) % 2 ^ 32)
                ∧ (k.next + 1 ≠ nestPasses l → (after u).wrel = (m.wrel + b2n (passSwaps l k.next)) % 2 ^ 32
                  ∧ with_ u k.id (fun q => { q with running := false, next := q.next + 1 }))
                ∧ ∀ g, ((after u).tile g).img = (m.tile g).img
                  ∧ ∀ w ∈ ((after u).tile g).writes, w.cmd ≠ k.id → w ∈ (m.tile g).writes)))
      ∧ (∀ t w, s.clusterRuns c.cl = true → (m.tile t).first = some w → w.ready = true → w.close ≤ s.mxCount c → (∀ k ∈ m.cmds, k.awaits t = true → w.close ≤ k.count) →
        Does (.tileWindowClose c t) s fun u => ((after u).tile t).img = w.onto (m.tile t).img
          ∧ ((after u).tile t).writes = (m.tile t).writes.filter (fun o => !(o.cmd == w.cmd))
          ∧ ((after u).tile t).stats = (m.tile t).stats ++ [(w.close, w.sat, w.flushed)]
          ∧ (∀ g, g ≠ t → (after u).tile g = m.tile g) ∧ (after u).cmds = m.cmds ∧ sameBytes s u ∧ ∀ y, u.ctx y = s.ctx y)
      ∧ (∀ t p rest, s.clusterRuns c.cl = true → (m.tile t).tspend = p :: rest → p.landed = true → p.at_ ≤ s.mxCount c → (∀ a ∈ s.arrivals, a.owner ≠ some (c, p.cmd)) →
        Does (.tstatUpdate c t) s fun u => ((after u).tile t).tstat = p.bits ∧ ((after u).tile t).tspend = rest
          ∧ (∀ g, g ≠ t → (after u).tile g = m.tile g) ∧ (after u).cmds = m.cmds ∧ sameBytes s u ∧ ∀ y, u.ctx y = s.ctx y)
      ∧ (∀ i k prec t clr pk rm sat sc n d scale prev, s.clusterRuns c.cl = true → m.cmds[i]? = some k →
        k.kind = .mdrn prec t clr pk rm sat sc n d scale prev →
        let sh := if t then (d.ncol, 32) else (32, d.ncol)
        let sb := if d.space < 2 then 0 else (m.ring d.ring).slotBase (k.got.getD 0)
        let out (a : Nat) : Prop := ∀ r ∈ elemRanges d sh.1 sh.2 (storeBits d.fmt d.wcode) ++ scaleRanges d sh.1 sh.2 true,
          a < sb + r.1 ∨ sb + r.1 + r.2 ≤ a
        let spares (u : State) (out : Nat → Prop) : Prop := (∀ a, d.space ≠ 1 ∨ out a → rdByte u.vault a = rdByte s.vault a)
          ∧ ∀ q a, d.space = 1 ∨ q ≠ c ∨ out a → rdByte (u.core q).lmem a = rdByte (s.core q).lmem a
        let whole (u : State) : Prop := (∀ p ∈ ((after u).tile n).tspend, p.cmd = k.id → p.landed = true)
          ∧ (d.syncen = true → (∀ q ∈ (after u).cmds, q.id = k.id → q.running = true ∧ q.parts = [])
            ∧ ∃ a, u.arrivals = s.arrivals ++ [a] ∧ a.addr = d.sync ∧ a.owner = some (c, k.id) ∧ a.lmem = (if d.syncsp then none else some c))
          ∧ (d.syncen = false → without u k.id ∧ u.arrivals = s.arrivals)
        let inPart (u : State) : Prop := u.arrivals = s.arrivals ∧ ∀ q ∈ (after u).cmds, q.id = k.id → ∃ p, q.parts = [p] ∧ p.late ≠ []
        let stand (u : State) : Prop := (after u).cmds.filter (fun q => q.id != k.id) = m.cmds.filter (fun q => q.id != k.id)
        (k.running = false → k.parts = [] → s.cmdFree c k = true → (m.tile n).readyAt k.count = true → (d.space = 2 → k.got.isSome = true) →
            Does (.drainLand c i) s fun u => stand u ∧ spares u out ∧ (whole u ∨ inPart u))
          ∧ ∀ p rest, k.parts = p :: rest → Does (.drainLand c i) s fun u => stand u ∧ spares u (fun a => ∀ g ∈ p.late, sb + g.addr ≠ a)
            ∧ (whole u ∨ inPart u))
      ∧ ∀ ring a rest, let r := m.ring ring
        s.clusterRuns c.cl = true → r.waiting = a :: rest → r.occ < r.scount → Does (.ringSlotAcquire c ring) s fun u => let q := (after u).ring ring
          q.occ = r.occ + 1 ∧ q.tail = (r.tail + 1) % r.scount ∧ q.waiting = rest ∧ q.pmap = clearBit r.pmap r.tail ∧ q.head = r.head
            ∧ sameBytes s u ∧ (∀ g, g ≠ ring → (after u).ring g = m.ring g)
            ∧ (∀ cx reg prod, a = .bfacq cx reg prod → (u.ctx ⟨c.cl, c.core, cx⟩).fl.fills = (s.ctx ⟨c.cl, c.core, cx⟩).fl.fills
              ++ [{ reg := .a reg, prod := prod, val := r.base + r.tail * r.ssize * 64 }] ∧ (after u).cmds = m.cmds)
            ∧ ∀ id, a = .cmd id → with_ u id (fun q => { q with got := some r.tail }) ∧ ∀ y, u.ctx y = s.ctx y

/-- Queue data, arrivals, transfers, Marvers and replays (R63 to R69, R83, R207, R208, R257, R265, R268 to R270, R338, R340, R370): a
request is performed in its queue's order, the earlier ones of its queue being sent by then, and a load reads the region's stores that stand
before it; arrivals reach their words; a transfer's request lands, whole or in parts, or ends it, and its identifier passes into DONEBELOW;
an entry starts on its turn, lands request by request around those that wait on a fault, and leaves once all have landed or it has failed;
and a replay is logged, its result lost where it fails again. In which parts a request lands, that an entry lands request by request, and
which register a failed replay marks, with cause 0x0C and detail 0, are the model's readings (log entries 45, 64, 65). -/
def Obligations.TransferEvents : Prop :=
  ∀ (s : State),
    (∀ x q i e pa, let c := s.ctx x
        let ld := (tget ({ } : JobSlot) (s.cl x.cl).jobs c.pr.jslot).part
        let read := overlay (e.over c pa) (rdMem s.dram pa e.bytes) e.bytes
        s.clusterRuns x.cl = true → (c.queue q)[i]? = some e → s.entPa (.live x) c e = some pa → s.queueReady (.live x) c (c.queue q) i e pa = true →
        (∀ o ∈ c.queue q, o.unchecked c = false) →
        (e.kind.isLoad = true → s.physReads ld pa e.bytes = true → e.popped = none →
            Does (.queueDataArrival (.live x) q i) s fun t => sameBytes s t ∧ ∃ d ∈ (t.ctx x).queue q, d.serial = e.serial ∧ d.stage = .landed
              ∧ (pa + e.bytes ≤ dramTop → d.data = if e.kind = .ld then extend e.lsz read else read))
          ∧ (e.kind.isLoad = false → s.physTakes ld pa e.bytes = true → Does (.queueDataArrival (.live x) q i) s fun t =>
            (∀ d ∈ (t.ctx x).queue q, d.serial ≠ e.serial)
              ∧ (pa < dramTop → s.dramGone pa e.bytes = false → rdMem t.dram pa e.bytes = e.data % 256 ^ e.bytes
                ∧ ∀ a, (a < pa ∨ pa + e.bytes ≤ a) → rdByte t.dram a = rdByte s.dram a)))
      ∧ (∀ i a, s.arrivals[i]? = some a → s.isolated (a.addr / 2 ^ 30) = false →
        let old := match a.lmem with | some c => s.rdLmem c a.addr 16 | none => s.rdVault a.addr 16
        let new (t : State) : Nat := match a.lmem with | some c => t.rdLmem c a.addr 16 | none => t.rdVault a.addr 16
        (a.err = none → Does (.syncArrival i) s fun t => new t = arrive old a.n % 2 ^ 128 ∧ t.arrivals = listDrop s.arrivals i)
          ∧ ∀ e, a.err = some e → Does (.syncErrorArrival i) s fun t => new t = arriveErr old e % 2 ^ 128 ∧ t.arrivals = listDrop s.arrivals i)
      ∧ (∀ c ch id k, s.clusterRuns c.cl = true → (s.core c).mx.transfer ch id = some k → let g := s.gEnv c k k.kind.cdesc
        let reqs := s.gReqs g
        (∀ req, let w := s.gWork g k reqs req
          let err := s.gFail g (cmdCtx c k) (reqs.getD req []) w
          s.reqReady c k g.raw reqs req = true → (gDsp g.raw = 3 → k.got.isSome = true) →
            (err ≠ 0 → Does (.gatherSectorLand c ch id req) s fun t => sameBytes s t ∧ ∀ q ∈ (t.core c).mx.cmds, q.id = k.id → q.err = err)
              ∧ (err = 0 → s.gWorkGoes g w = true → Does (.gatherSectorLand c ch id req) s fun t => ∀ q ∈ (t.core c).mx.cmds, q.id = k.id →
                  req ∈ q.done ∨ ∃ p ∈ q.parts, p.req = req ∧ p.late ≠ []))
          ∧ (∀ req p, k.parts.find? (fun p => p.req == req) = some p → k.err = 0 → let err := firstErr (p.late.map (s.gPutErr g))
            (err ≠ 0 → Does (.gatherSectorLand c ch id req) s fun t => sameBytes s t ∧ ∀ q ∈ (t.core c).mx.cmds, q.id = k.id → q.err = err)
            ∧ (err = 0 → s.gTakes g (splitParts s.draws p.late).1 = true → Does (.gatherSectorLand c ch id req) s fun t =>
              ((splitParts s.draws p.late).2 = [] → ∀ q ∈ (t.core c).mx.cmds, q.id = k.id → req ∈ q.done ∧ ∀ o ∈ q.parts, o.req ≠ req)
                ∧ ((splitParts s.draws p.late).2 ≠ [] → ∀ q ∈ (t.core c).mx.cmds, q.id = k.id → ∀ o ∈ q.parts, o.req = req →
                  o.late = (splitParts s.draws p.late).2)))
          ∧ ((k.err ≠ 0 ∨ k.done.length = reqCount g.raw reqs k) → (∀ a ∈ s.arrivals, a.owner ≠ some (c, k.id)) →
            Does (.gatherTransferComplete c ch id) s fun t => (∀ q ∈ (t.core c).mx.cmds, q.id ≠ k.id)
              ∧ (tget 0 (s.core c).mx.donebelow ch = id → tget [] (s.core c).mx.completed ch = [] →
                tget 0 (t.core c).mx.donebelow ch = (id + 1) % 2 ^ 32)))
      ∧ (∀ cl port, let m := s.marver cl port
        let e := s.schedEntry m.list m.pos
        s.clusterRuns cl = true → (m.pos < m.count → m.paused = [] → s.itemLeaves cl = false → (∀ q ∈ m.live, q.begun = true) →
          (∀ k ∈ eServed e, s.coreServes cl port e k = true) →
            Does (.marverEntryStart cl port) s fun t => (t.marver cl port).pos = m.pos + 1 ∧ sameBytes s t
              ∧ ∃ q, (t.marver cl port).live = m.live ++ [q] ∧ q.ix = m.pos ∧ q.raw = e)
          ∧ ∀ q, s.mReady cl m = some q →
            (s.mCode cl q ≠ 0 → Does (.marverEntryLand cl port) s fun t => sameBytes s t ∧ ∀ o ∈ (t.marver cl port).live, o.ix ≠ q.ix)
              ∧ (s.mCode cl q = 0 → s.mRoom cl q (s.mNow cl q) = true →
                let q' : MEnt := { q with done := q.done ++ s.mNow cl q
                                          landed := q.landed + ((s.mNow cl q).map fun i => (reqAt q.raw i).2).sum }
                (q.left ≠ [] → s.mNow cl q ≠ []) ∧ (∀ i ∈ s.mNow cl q, i ∉ q.done ∧ ∀ f ∈ q.faults, f.1 ≠ i) ∧ Does (.marverEntryLand cl port) s fun t =>
                  (q'.left = [] → ∀ o ∈ (t.marver cl port).live, o.ix ≠ q.ix)
                    ∧ (q'.left ≠ [] → ∀ o ∈ (t.marver cl port).live, o.ix = q.ix → o = q')))
      ∧ ∀ c matrix again cx, (if matrix then s.mxCtx c else (s.core c).run) = some cx → (matrix = true → (s.core c).mx.atWork.isSome = true) →
        (matrix = false → (s.ctx ⟨c.cl, c.core, cx⟩).vres.isSome = true) →
        let x : CtxId := ⟨c.cl, c.core, cx⟩
        Does (.reheatReplay c matrix again) s fun t => sameBytes s t
          ∧ (again = false → (t.ctx x).regs = (s.ctx x).regs ∧ (t.core c).mx = (s.core c).mx
            ∧ ∃ r ∈ (tget ({ } : ErrLog) t.logs (2 * (c.cl / 12))).recs, r.kind = 0x03 ∧ r.unit = coreUnit c)
          ∧ (again = true → matrix = false → (t.ctx x).vres = none
            ∧ (∀ r prod, prod ≠ 0 → (s.ctx x).vres = some (r, prod) → ∀ f ∈ (t.ctx x).fl.fills, f.reg = r → f.prod = prod → f.mark = ⟨0x0C, 0⟩)
            ∧ (∀ n prod, (s.ctx x).vres = some (.v n, prod) → ((s.ctx x).regs.vc n).full = true → (t.ctx x).regs.vc n =
              { (s.ctx x).regs.vc n with mark := ⟨0x0C, 0⟩ })
            ∧ ∀ n prod, n ≠ 0 → (s.ctx x).vres = some (.s n, prod) → ((s.ctx x).regs.sc n).full = true → (t.ctx x).regs.sc n =
              { (s.ctx x).regs.sc n with mark := ⟨0x0C, 0⟩ })

/-- Packets between modules (R84, R271 to R280, R373): a store, a request, a reply and a reduction that arrive are checked against the job's
windows, counted and performed, and a reply that brings a violation gives its context cause 0x05; a packet to another module leaves this
one; two reductions of one place that no packet of their path stands between merge and carry both counts and both origins; a message starts
a handler of the serving launch, or is counted lost where no launch serves, no handler stands or its cluster does not run; a dropped packet
is recorded and its loss counted at its destination, a lost reply filling its register with the loss mark; and a wave's sums reach each
waiting context. That a loss is recorded in the bus log of one die is the model's choice (log entry 19); that a lost reply's mark has detail
1 is read from R280 and R373 (log entry 24). -/
def Obligations.FabricEvents : Prop :=
  ∀ (s : State),
    (∀ p : Packet, p.dst = s.modId → p.src ≠ s.modId → let j := p.job.toNat
        let d := (p.data.headD 0).toNat
        (p.kind = .xst → Does (.xstArrival (.peer p)) s fun t => (t.cnt j).cons = ((s.cnt j).cons + 1) % 2 ^ 64
            ∧ ((s.jobEnt j).holds p.voff p.size = true → s.isolated (p.voff / 2 ^ 30) = false → t.rdVault p.voff p.size = d % 256 ^ p.size
              ∧ ∀ a, (a < p.voff ∨ p.voff + p.size ≤ a) → rdByte t.vault a = rdByte s.vault a)
            ∧ ((s.jobEnt j).holds p.voff p.size = false → sameBytes s t))
          ∧ (p.kind = .xldReq → Does (.xldRequestArrival (.peer p)) s fun t => sameBytes s t ∧ ∃ q, t.packets = s.packets ++ [q] ∧ q.kind = .xldRep
            ∧ q.src = p.dst ∧ q.dst = p.src ∧ q.reg = p.reg ∧ q.prod = p.prod
            ∧ ((s.jobEnt j).holds p.voff p.size = false → q.mark = 0x05)
            ∧ ((s.jobEnt j).holds p.voff p.size = true → s.vaultBad p.voff p.size = true → q.mark = 0x0C)
            ∧ ((s.jobEnt j).holds p.voff p.size = true → s.vaultBad p.voff p.size = false → q.mark = 0
              ∧ q.data = [BitVec.ofNat 64 (s.rdVault p.voff p.size)]))
          ∧ (p.kind = .xldRep → Does (.xldReplyArrival (.peer p)) s fun t => (t.cnt j).cons = ((s.cnt j).cons + 1) % 2 ^ 64
            ∧ ∀ x w, s.homeOf (homeCl p.home) p.crec = some (.live x) → (s.ctx x).fl.xwaits = [w] → w.prod = p.prod → p.prod ≠ 0 → p.reg ≠ 0 →
              ((s.ctx x).regs.sc p.reg).prod = p.prod → p.mark = 0 →
              (t.ctx x).regs.sc p.reg = { val := BitVec.ofNat 64 (extend p.lsz d) } ∧ (t.ctx x).fl.xwaits = [])
          ∧ (p.kind = .xldRep → p.mark = 0x05 → Does (.xldReplyArrival (.peer p)) s fun t => ∀ x, s.homeOf (homeCl p.home) p.crec = some (.live x) →
            ∃ e ∈ (t.ctx x).fl.defer, e.cause = 0x05 ∧ e.detail = p.src * 2 ^ 34 + p.voff)
          ∧ (p.kind = .xred → Does (.xredApply (.peer p)) s fun t => (t.cnt j).cons = ((s.cnt j).cons + p.count) % 2 ^ 64
            ∧ ((s.jobEnt j).reduces p.voff p.size = true → s.vaultBad p.voff p.size = false →
              t.rdVault p.voff p.size = redApply p.op p.ty (s.rdVault p.voff p.size) d % 256 ^ p.size)
            ∧ (((s.jobEnt j).reduces p.voff p.size = false ∨ s.vaultBad p.voff p.size = true) → sameBytes s t))
          ∧ (p.kind = .xsend →
            ((s.serving j = none
                ∨ ∃ l v, s.serving j = some l ∧ s.launch l = some v ∧ v.st.isFrozen = false ∧ (lHcount v.raw ≤ p.hidx
                  ∨ s.handlerTeam l p.clu = none ∨ ∃ h, s.handlerTeam l p.clu = some h ∧ s.clusterRuns h.1 = false)) →
                ∀ cl, Does (.xsendDeliver (.peer p) cl) s fun t => (t.cnt j).lost = ((s.cnt j).lost + 1) % 2 ^ 64)
              ∧ (∀ l v, s.serving j = some l → s.launch l = some v → v.st.isFrozen = true → ∀ cl, Does (.xsendDeliver (.peer p) cl) s fun t =>
                t.waiting = s.waiting ++ [p])
              ∧ ∀ l v h entry tm i rest, s.serving j = some l → s.launch l = some v → v.st.isFrozen = false → p.hidx < lHcount v.raw →
                s.handlerTeam l p.clu = some h → s.clusterRuns h.1 = true → s.handlerEntry l p.hidx = some entry →
                s.team h.1 h.2.1 = some tm → tm.launch = l → tm.free = i :: rest → Does (.xsendDeliver (.peer p) h.1) s fun t =>
                  let crec := recAddr v.raw tm.vbase i
                  (∃ q, (t.cl h.1).ready = q ++ [crec]) ∧ ∃ img, t.saved h.1 crec = some img ∧ img.ctx.pc = entry
                    ∧ img.ctx.ct.tag = some s.freeMsg ∧ (p.data ≠ [] → (img.ctx.regs.sc 1).val = p.data.headD 0))
          ∧ (Does (.lossRecordReceive (.peer p)) s fun t => (t.cnt j).lost = ((s.cnt j).lost + p.count) % 2 ^ 64
            ∧ (∃ r, (tget ({ } : ErrLog) t.logs (2 * fabricDie + 1)).recs.getLast? = some r ∧ r.kind = 0x16 ∧ r.count = Nat.min 255 p.count
              ∧ r.addr = pktAddr p)
            ∧ ∀ x w, p.kind = .xldRep → s.homeOf (homeCl p.home) p.crec = some (.live x) → (s.ctx x).fl.xwaits = [w] → w.prod = p.prod →
              p.prod ≠ 0 → p.reg ≠ 0 → ((s.ctx x).regs.sc p.reg).prod = p.prod → (t.ctx x).regs.sc p.reg = { val := 0, mark := ⟨0x0E, 1⟩ }))
      ∧ (∀ i p, s.packets[i]? = some p → p.dst ≠ s.modId → s.inOrder (.net i) = true →
        (p.kind = .xst → Does (.xstArrival (.net i)) s fun t => t.packets = listDrop s.packets i ∧ sameBytes s t)
          ∧ (p.kind = .xldReq → Does (.xldRequestArrival (.net i)) s fun t => t.packets = listDrop s.packets i ∧ sameBytes s t)
          ∧ (p.kind = .xldRep → Does (.xldReplyArrival (.net i)) s fun t => t.packets = listDrop s.packets i ∧ sameBytes s t)
          ∧ (p.kind = .xred → Does (.xredApply (.net i)) s fun t => t.packets = listDrop s.packets i ∧ sameBytes s t)
          ∧ (p.kind = .xsend → ∀ cl, Does (.xsendDeliver (.net i) cl) s fun t => t.packets = listDrop s.packets i ∧ sameBytes s t))
      ∧ (∀ i j a b, s.packets[i]? = some a → s.packets[j]? = some b → i ≠ j → a.kind = .xred → b.kind = .xred → a.job = b.job → a.src = b.src →
        a.dst = b.dst → a.voff = b.voff → a.op = b.op → a.ty = b.ty → s.noneBetween a i j = true → Does (.xredMerge i j) s fun t =>
          ∃ m, t.packets = listDrop (listSet s.packets i m) j ∧ m.count = a.count + b.count ∧ m.voff = a.voff
            ∧ m.also = a.also ++ ⟨b.home, b.crec, b.baddr, b.prod, b.delay⟩ :: b.also
            ∧ m.data = [BitVec.ofNat 64 (redMerge a.op a.ty (a.data.headD 0).toNat (b.data.headD 0).toNat)])
      ∧ (∀ i p, s.packets[i]? = some p → Does (.packetDrop i) s fun t => t.packets = listDrop s.packets i
        ∧ t.lossRecs = if p.dst = s.modId ∨ (p.src = s.modId ∧ p.count = 1) then s.lossRecs ++ [p] else s.lossRecs)
      ∧ (∀ peers, s.waveTick + 100 ≤ s.tick → Does (.countingWave peers) s fun t => t.waves = s.waves + 1 ∧ t.waveTick = s.tick
        ∧ ∃ w, t.waveFlight = s.waveFlight ++ [w] ∧ w.num = s.waves)
      ∧ ∀ w rest, s.waveFlight = w :: rest → Does .waveSumsArrival s fun t => t.waveFlight = rest
        ∧ ∀ x v q, (s.ctx x).wait = some v → v.quiet = some q → (t.ctx x).wait = some { v with quiet := some (if q.found then q else q.see w) }

/-! ## Events of the Gaffer, of the module and of hosts -/

/-- The trap queue, answers, the mask and the rail, the debug port, the register spaces and the Gaffer's accesses (R281, R285 to R287, R297
to R302, R380): the oldest record is written and TRQTAIL advances; an answer fills s1 and s2 or sets ANSSTAT; the debug port reaches the
registers of a stopped context; and an access of a Gaffer that has been released, of a size or mode that the space does not take, answers
with a fault; a Gaffer that bring-up has not released does none of this (R384). Event counters, which count on meanwhile, stand aside.
 That the management space and the queue descriptors are written as the spaces 192 and 193, and that a descriptor write of another writer
is refused, are the model's choices (log entries 52, 94). -/
def Obligations.GafferEvents : Prop :=
  ∀ (s : State) (cl : Nat) (v : BitVec 64), let k := s.cl cl
    (∀ r rest, k.trapWait = r :: rest → k.trqRoom = true → s.recordReady cl r = true → let at_ := ringAt cl k.trqBase (32 * (k.trqTail % 2 ^ k.trqSize))
        s.isolated (at_ / 2 ^ 30) = false → Does (.trapRecordEnqueue cl) s fun t => (t.cl cl).trapWait = rest
          ∧ (t.cl cl).trqTail = (k.trqTail + 1) % 2 ^ k.trqSize ∧ t.rdVault at_ 32 = r.words % 2 ^ 256
          ∧ ∀ a, (a < at_ ∨ at_ + 32 ≤ a) → rdByte t.vault a = rdByte s.vault a)
      ∧ (s.released cl = true → let crec := (resolve cl k.ansRec).getD k.ansRec
        (s.homeOf cl crec = none → Does (.svcAnswer cl v) s fun t => (t.cl cl).ansStat = true ∧ (t.cl cl).ansV2 = v.toNat)
          ∧ (∀ x, s.homeOf cl crec = some (.live x) → (s.ctx x).ct.svcOpen = true → Does (.svcAnswer cl v) s fun t => (t.ctx x).ct.svcOpen = false
            ∧ (t.ctx x).fl.fills = (s.ctx x).fl.fills ++ [{ reg := .s 1, prod := (s.ctx x).ct.svcProd1, val := k.ansV1 }
              , { reg := .s 2, prod := (s.ctx x).ct.svcProd2, val := v.toNat }])
          ∧ ∀ x, s.homeOf cl crec = some (.live x) → (s.ctx x).ct.svcOpen = false → Does (.svcAnswer cl v) s fun t =>
            (t.cl cl).ansStat = true ∧ ∀ y, t.ctx y = s.ctx y)
      ∧ (∀ n : BitVec 3, s.released cl = true → (1 ≤ n.toNat ∧ n.toNat ≤ 4 → Does (.smaskWrite cl n) s fun t =>
          (t.cl cl).bare = { k.bare with gk := n.toNat })
        ∧ (n.toNat = 0 ∨ 4 < n.toNat → exec (.smaskWrite cl n) s = .next s))
      ∧ (∀ g, s.released cl = true → Does (.railWrite cl g) s fun t =>
        (t.cl cl).bare = { k.bare with greq := g, switching := k.switching || ((k.greq || k.lforce) != (g || k.lforce)) })
      ∧ (k.switching = true → Does (.railChangeComplete cl) s fun t => t.cl cl = { k with switching := false })
      ∧ (s.released cl = true → Does (.lmsgRead cl) s fun t => t.resp.val = k.lmsg ∧ (t.cl cl).girqLehr = false ∧ (t.cl cl).lmsg = k.lmsg)
      ∧ (∀ c, s.released c.cl = true → let sel := (s.core c).dbgsel
        let y : CtxId := ⟨c.cl, c.core, dbgCtx sel⟩
        let n := dbgReg sel
        (s.dbgOk c = false → (Does (.dbgdataRead c) s fun t => t.resp.ok = false ∧ t.resp.val = 0)
            ∧ exec (.dbgdataWrite c v) s = .next s ∧ exec (.dbgfeWrite c v) s = .next s)
          ∧ (s.dbgOk c = true → s.dbgReady c = true → Does (.dbgdataRead c) s fun t => t.resp.ok = true ∧ t.resp.val = s.dbgValue c ∧ sameBytes s t)
          ∧ (s.dbgOk c = true → dbgObj sel = 0 → n ≠ 0 →
            (Does (.dbgdataWrite c v) s fun t => ((t.ctx y).regs.sc n).val = v ∧ ((t.ctx y).regs.sc n).full = ((s.ctx y).regs.sc n).full
                ∧ sameRegsBut [.s n] (s.ctx y).regs (t.ctx y).regs)
              ∧ Does (.dbgfeWrite c v) s fun t => ((t.ctx y).regs.sc n).full = v.getLsbD 0 ∧ ((t.ctx y).regs.sc n).val = ((s.ctx y).regs.sc n).val
                ∧ sameRegsBut [.s n] (s.ctx y).regs (t.ctx y).regs))
      ∧ (cl < 192 → k.gaffer.isSome = true → ∀ mode addr n, let w := gwhere cl addr
        (gafferOk w mode addr n = false → ∀ op, Does (.gafferAccess cl mode addr n op) s fun t => t.resp.ok = false ∧ sameBytes s t)
          ∧ (∀ o a, w = .lmem o a → gafferOk w mode addr n = true →
            (Does (.gafferAccess cl mode addr n .load) s fun t => t.resp.val = s.rdLmem ⟨cl, o⟩ a n ∧ sameBytes s t)
              ∧ ∀ d, Does (.gafferAccess cl mode addr n (.store d)) s fun t => t.rdLmem ⟨cl, o⟩ a n = d % 2 ^ (8 * n)
                ∧ sameBytesBut s t ⟨cl, o⟩ fun q => a ≤ q ∧ q < a + n)
          ∧ ∀ off, w = .vault off → gafferOk w mode addr n = true →
            Does (.gafferAccess cl mode addr n .load) s fun t => t.resp.val = s.rdVault off n ∧ t.resp.ok = !s.vaultBad off n ∧ sameBytes s t)
      ∧ (s.released cl = false → ∀ (n : BitVec 3) (tag : BitVec 8) (js : BitVec 4) (m : BitVec 16) (size : BitVec 2) (g : Bool) (o x : Nat),
          ∀ i ∈ ([.svcAnswer cl v, .smaskWrite cl n, .railWrite cl g, .lmsgRead cl, .dbgdataRead ⟨cl, o⟩, .dbgdataWrite ⟨cl, o⟩ v, .dbgfeWrite ⟨cl, o⟩ v
            , .ctxctlStopreq ⟨cl, o, x⟩ g, .replay ⟨cl, o, x⟩, .next ⟨cl, o, x⟩, .replaynb ⟨cl, o, x⟩, .redirect ⟨cl, o, x⟩, .preempt cl v, .retry cl tag
            , .fail cl tag, .tlbiPages cl js m g, .tlbiJobSlot cl js g, .tlbiAll cl g, .pageMoveGo cl size] : List Instr), ∃ r, exec i s = .refused r)
      ∧ (cl < 192 → s.released cl = true →
        (Does (.controlRegisterWrite cl 0x040 v) s fun t => (t.cl cl).bare = { k.bare with trqBase := v.toNat % 2 ^ 34 / 32 * 32 })
        ∧ ∀ o x, o < 8 → x < 4 → Does (.controlRegisterWrite cl (0x200000 + o * 2 ^ 18 + x * 2 ^ 15 + 8 * 0x801) v) s fun t =>
          t.ctx ⟨cl, o, x⟩ = { s.ctx ⟨cl, o, x⟩ with pc := v.toNat / 16 * 16 })
      ∧ (Does (.controlRegisterWrite 192 0x20018 v) s fun t => t.power.thot = v.toNat % 2 ^ 8)
      ∧ ∀ q, q < 4096 → (s.queueOpen q (s.wq q).part = true → Does (.controlRegisterWrite 193 (64 * q + 0x28) v) s fun t =>
            t.wq q = { s.wq q with rbthresh := v.toNat })
          ∧ (s.queueOpen q (s.wq q).part = false → Does (.controlRegisterWrite 193 (64 * q + 0x28) v) s fun t =>
            Refused s t ((s.queueBy).getD (s.wq q).part) ∧ t.wqs = s.wqs)

/-- Walks, faults and their answers, invalidation and page moves (R329 to R343): a miss arrives, and one of the first eight is walked; a
walk that finds a leaf gives its request the translation, sends it where nothing precedes it, and changes no register and no byte, and one
that faults leaves its request waiting on its tag; the oldest fault record is written; RETRY and FAIL free an outstanding tag, and any other
sets FRSTAT; an invalidation empties the TLBs of what it names and is done, its BUSY clear, once every access that used one of them has been
performed; and a page move starts where both pages are aligned and backed. -/
def Obligations.TranslationEvents : Prop :=
  ∀ (s : State) (cl : Nat), let k := s.cl cl
    (∀ x q pos e, s.clusterRuns cl = true → x.cl = cl → ((s.ctx x).queue q)[pos]? = some e → s.mayWalkQ x (s.ctx x) ((s.ctx x).queue q) pos e = true →
        let w : WalkFor := .queue x q pos
        let walk := s.walk cl (s.ctx x).pr.jslot (!e.kind.isLoad) e.ea
        let fault (sub level entry : Nat) := (s.walkedFor x).detect cl
          (queueFault x (s.ctx x) q (queuePos ((s.ctx x).queue q) pos) e (e.rpush && (s.ctx x).region.isSome) sub level entry)
        (((s.missesOf cl).take 8).contains w = true → (∀ y, (s.ctx y).doomed = false) →
            (∀ leaf tables, walk = .ok leaf tables → (∀ o ∈ (s.ctx x).queue q, o.unchecked (s.ctx x) = false) → Does (.pageWalk cl w) s fun t => sameBytes s t
                ∧ (∀ y, (t.ctx y).regs = (s.ctx y).regs ∧ (t.ctx y).pc = (s.ctx y).pc ∧ (t.ctx y).ct = (s.ctx y).ct)
                ∧ ∃ d ∈ (t.ctx x).queue q, d.serial = e.serial ∧ d.stage = .waiting
                  ∧ t.entPa (.live x) (t.ctx x) d = some (leaf.pbase + e.ea % 2 ^ leaf.log)
                  ∧ (pos = 0 → e.ord ≠ .rel → (∀ r, ∀ o ∈ (s.ctx x).queue r, o.serial < e.serial → o.stage = .landed) →
                    d.pa = some (leaf.pbase + e.ea % 2 ^ leaf.log)))
              ∧ ∀ sub level entry u tag, walk = .fault sub level entry → (s.ctx x).region = none → fault sub level entry = some (u, tag) →
                Does (.pageWalk cl w) s fun t => sameBytes s t ∧ ∃ d ∈ (t.ctx x).queue q, d.serial = e.serial ∧ d.stage = .faulted tag)
          ∧ ((s.missesOf cl).contains w = false →
            ((∃ leaf tables, walk = .ok leaf tables) ∨ ∃ sub level entry u tag, walk = .fault sub level entry ∧ fault sub level entry = some (u, tag)) →
            Does (.pageWalk cl w) s fun t => t.cl cl = { k with walks := s.missesOf cl ++ [w] } ∧ sameBytes s t ∧ ∀ y, t.ctx y = s.ctx y))
      ∧ (∀ f rest, k.faultWait = f :: rest → ringRoom k.fqSize k.fqHead k.fqTail = true →
        let at_ := ringAt cl k.fqBase (64 * (k.fqTail % 2 ^ k.fqSize))
        s.isolated (at_ / 2 ^ 30) = false → Does (.faultRecordEnqueue cl) s fun t => (t.cl cl).faultWait = rest
          ∧ (t.cl cl).fqTail = (k.fqTail + 1) % 2 ^ k.fqSize ∧ t.rdVault at_ 64 = f.words % 2 ^ 512
          ∧ ∀ a, (a < at_ ∨ at_ + 64 ≤ a) → rdByte t.vault a = rdByte s.vault a)
      ∧ (∀ tag : BitVec 8, s.released cl = true → ((s.fault cl tag.toNat).isSome = true →
            (Does (.retry cl tag) s fun t => t.fault cl tag.toNat = none ∧ sameBytes s t
                ∧ ∀ x q, x.cl = cl → ∀ d ∈ (t.ctx x).queue q, d.stage ≠ .faulted tag.toNat)
              ∧ Does (.fail cl tag) s fun t => t.fault cl tag.toNat = none ∧ sameBytes s t
                ∧ ∀ o, o.cl = cl → ∀ q ∈ (s.core o).mx.cmds, (∃ f ∈ q.faults, f.2 = tag.toNat) →
                  ∃ u ∈ (t.core o).mx.cmds, u.id = q.id ∧ u.err = 0x20)
        ∧ (s.fault cl tag.toNat = none → ∀ i ∈ ([.retry cl tag, .fail cl tag] : List Instr), Does i s fun t => t.cl cl = { k with frErr := true }))
      ∧ (cl < 192 → s.released cl = true → ∀ (js : BitVec 4) (n : BitVec 16) (g : Bool),
        (k.tlbiBusy = none → (Does (.tlbiPages cl js n g) s fun t => (t.cl cl).tlbiBusy = some ⟨0, k.tlbiva, js.toNat, n.toNat, g⟩
              ∧ ∀ e ∈ (t.cl cl).stlb, e.jslot = js.toNat → ¬ (e.vbase < k.tlbiva + (if n.toNat = 0 then 1 else n.toNat) * 4096
                  ∧ k.tlbiva < e.vbase + 2 ^ e.log))
            ∧ (Does (.tlbiJobSlot cl js g) s fun t => (t.cl cl).tlbiBusy.isSome = true ∧ ∀ e ∈ (t.cl cl).stlb, e.jslot ≠ js.toNat)
            ∧ Does (.tlbiAll cl g) s fun t => (t.cl cl).tlbiBusy.isSome = true ∧ (t.cl cl).stlb = [])
          ∧ (k.tlbiBusy.isSome = true → ∀ i ∈ ([.tlbiPages cl js n g, .tlbiJobSlot cl js g, .tlbiAll cl g] : List Instr),
            Does i s fun t => t.cl cl = { k with tlbiErr := true }))
      ∧ (∀ b, k.tlbiBusy = some b → s.tlbiSettled cl b = true → Does (.tlbiComplete cl) s fun t => (t.cl cl).tlbiBusy = none ∧ sameBytes s t)
      ∧ (∀ size : BitVec 2, s.released cl = true → let n := pmBytes size.toNat
        (k.pmBusy.isSome = true → exec (.pageMoveGo cl size) s = .next s)
          ∧ (k.pmBusy = none → size.toNat ≠ 3 →
            (k.pmSrc % n = 0 ∧ k.pmDst % n = 0 ∧ s.pmBacked cl k.pmSrc n = true ∧ s.pmBacked cl k.pmDst n = true → Does (.pageMoveGo cl size) s fun t =>
                (t.cl cl).pmBusy.isSome = true ∧ (t.cl cl).pmN = n ∧ (t.cl cl).pmFrom = k.pmSrc ∧ (t.cl cl).pmTo = k.pmDst)
              ∧ (k.pmSrc % n ≠ 0 ∨ k.pmDst % n ≠ 0 ∨ s.pmBacked cl k.pmSrc n = false ∨ s.pmBacked cl k.pmDst n = false →
                Does (.pageMoveGo cl size) s fun t => (t.cl cl).pmErr = true ∧ (t.cl cl).pmBusy = none ∧ sameBytes s t)))
      ∧ ∀ b, k.pmBusy = some b → s.pmGoes cl k.pmFrom k.pmTo k.pmN = true → Does (.pageMoveComplete cl) s fun t => (t.cl cl).pmBusy = none

/-- Errors and retirement, cooling and the cap, and bring-up (R25, R301, R364 to R366, R371, R374, R376 to R380, R384, R389, R390): a
transfer is retried at most three times and then diagnosed, or at once where its group's passed retries have made a diagnosis due; the lanes
are swapped 2 µs later at the earliest, and a channel that stays bad or lacks spare lanes is retired; a lost die link is taken out; a failed
cluster is retired; a scrubbed word that cannot be corrected is marked; the Lehr, which runs from step 3 of the bring-up on, takes its
steps one after the other and undoes them, a measurement over its limit forcing one; a team moves as a whole; and a reset leaves bring-up at
its start. That a retry is the transfer that begins a due diagnosis, the order of the Lehr's steps with a move for each team in its place,
which clusters a prediction or a measurement names, that a move is given up only where its target no longer fits and that it keeps the
allocation's offset, and what a reset keeps are the model's readings (log entries 101, 36, 37, 39, 48). -/
def Obligations.ReliabilityEvents : Prop :=
  ∀ (s : State), let r := s.req
    (∀ die ch group pass, let pa := r.addr; let c := s.chan (chanKey pa)
        pa < dramTop → chanKey pa = die * 64 + ch → group < 8 → c.diag = none → c.retired = false → (c.retries = 0 ∨ c.addr = pa) →
        Does (.busRetry die ch group pass) s fun t =>
          let d := t.chan (chanKey pa)
          (group ∈ c.due → d = { c with addr := pa, diag := some group, diagAt := s.tick, due := c.due.filter fun g => g != group })
            ∧ (group ∉ c.due → pass = true → d.retries = 0 ∧ d.diag = none
              ∧ ∃ r ∈ (tget ({ } : ErrLog) t.logs (2 * dieOf pa + 1)).recs, r.kind = 0x11 ∧ r.addr = pa ∧ r.count = c.retries + 1)
            ∧ (group ∉ c.due → pass = false → d.retries = c.retries + 1 ∧ d.addr = pa ∧ d.diag = if 2 ≤ c.retries then some group else none))
      ∧ (∀ die ch lanes pass g, let c := s.chan (die * 64 + ch)
        c.diag = some g → (∀ l ∈ lanes, l / 16 = g) → lanes.Nodup → c.diagAt + 200 ≤ s.tick → Does (.busDiagnosisComplete die ch lanes pass) s fun t =>
          let d := t.chan (die * 64 + ch)
          d.diag = none ∧ (pass = true → c.swaps.length + lanes.length ≤ 8 → d.retired = c.retired ∧ d.swaps.map Prod.fst = c.swaps.map Prod.fst ++ lanes)
            ∧ (pass = false ∨ 8 < c.swaps.length + lanes.length → d.retired = true))
      ∧ (∀ a b, s.linkUp a b = true → Does (.dieLinkDown a b) s fun t => t.linksDown = s.linksDown ++ [linkOf a b] ∧ t.rerouting = true
        ∧ t.rerouteTick = s.tick ∧ t.linkUp a b = false)
      ∧ (s.rerouting = true → Does .dieLinkReroute s fun t => t = { s with rerouting := false })
      ∧ (r.ok = true → r.addr < dramTop → s.chanFree r.addr 1 = true → Does .patrolScrub s fun t => (r.err = .none → t = s)
        ∧ (r.err = .uncorrectable → r.addr / 32 ∈ t.dbad
          ∧ ∀ a, (a < r.addr / 32 * 32 ∨ r.addr / 32 * 32 + 32 ≤ a) → rdByte t.dram a = rdByte s.dram a) ∧ (r.err = .corrected → t.dbad = s.dbad
              ∧ t.dram = s.dram))
      ∧ (∀ cl, cl < 192 → (s.cl cl).failed = false → Does (.clusterFailure cl) s fun t => (t.cl cl).failed = true ∧ (t.cl cl).retired = true
        ∧ t.clusterRuns cl = false)
      ∧ (∀ cl team target tm, s.team cl team = some tm → cl < 192 → target < 192 → target ≠ cl → 3 ≤ s.boot.step →
        (s.cl cl).step = 4 ∨ (s.cl cl).step = 5 → (s.cl cl).stepDue s.tick = true → s.lehrActs cl = true → s.spared r.addr cl = false →
        (∃ k, k < 192 ∧ (s.cl k).temp < s.power.thot) → tm.moving = none → tm.sched = false → lPinned (s.lraw tm.launch) = false →
        (∀ v, s.launch tm.launch = some v → v.st.isFrozen = false) → (s.cl target).temp + 10 ≤ (s.cl cl).temp → s.teamFits tm target = true →
        tm.bound + 5000000 ≤ s.tick → (∀ u, tm.moved = some u → u + 20000000 ≤ s.tick) → Does (.lehrMigrate cl team target) s fun t =>
          t.team cl team = some { tm with moving := some target } ∧ (t.cl cl).lmsg = 2 + team % 256 * 256 ∧ (t.cl cl).girqLehr = true
            ∧ (t.cl cl).stepTick = s.tick ∧ (t.cl cl).step = 5)
      ∧ (∀ cl team vbase tm target js, s.team cl team = some tm → tm.moving = some target → target ≠ cl →
        s.slotFor target (s.launchJob tm.launch) = some js →
        (s.teamFits tm target = false → Does (.teamMoveComplete cl team vbase) s fun t =>
            t.team cl team = some { tm with moving := none } ∧ sameBytes s t)
          ∧ (s.teamFits tm target = true → (∀ e ∈ s.teamSaved cl team, e.2.still = true) → s.teamLive cl team = [] →
            vbase = movedBase target tm.vbase → s.packetsStill cl ((s.teamSaved cl team).map Prod.fst) = true →
            Does (.teamMoveComplete cl team vbase) s fun t => t.team cl team = none
              ∧ ∃ k u, t.team target k = some u ∧ u.launch = tm.launch ∧ u.key = tm.key ∧ u.vbase = vbase ∧ u.jslot = js ∧ u.live = tm.live
                ∧ u.moving = none ∧ u.moved = some s.tick))
      ∧ (3 ≤ s.boot.step → s.power.predictTick + 1000 ≤ s.tick → (∀ c ∈ r.hot, c < 192 ∧ s.dieOver (c / 12) = true) →
        (∀ d, d < 16 → s.dieOver d = true → ∃ c ∈ r.hot, c / 12 = d) → Does .lehrPredict s fun t =>
        t.power = { s.power with predicted := (List.range 16).filter s.dieOver, predictTick := s.tick }
          ∧ ∀ c, r.hot = [c] → (s.cl c).stepDue s.tick = true → s.spared r.addr c = false → (s.cl c).step < 6 →
            (t.cl c).step = (s.cl c).step + 1 ∧ (t.cl c).stepTick = s.tick)
      ∧ (3 ≤ s.boot.step → s.power.measureTick + 10000 ≤ s.tick → (r.hot ≠ [] ↔ s.power.ecap < r.val.toNat) → (∀ e ∈ r.temps, e.1 < 192) →
        (∀ c ∈ r.hot, c < 192) → Does .lehrMeasure s fun t =>
        t.power.measured = r.val.toNat ∧ t.power.droop = r.ok ∧ t.power.measureTick = s.tick ∧ t.power.thot = s.power.thot
          ∧ ∀ c, (r.hot = [c] ∧ r.temps = [] ∨ r.hot = [] ∧ ∃ d, r.temps = [(c, d)] ∧ s.power.thot ≤ d) → (s.cl c).stepDue s.tick = true →
            s.spared r.addr c = false → (s.cl c).step < 6 → (t.cl c).step = (s.cl c).step + 1 ∧ (t.cl c).stepTick = s.tick)
      ∧ (let c := s.cl r.cl
        3 ≤ s.boot.step → s.power.measured ≤ s.power.ecap → s.power.predicted.contains (r.cl / 12) = false → c.heldOnly = false → 0 < c.step →
        c.temp + 5 < s.power.thot → c.stepTick + 100000 ≤ s.tick → Does .lehrUndoStep s fun t =>
          (t.cl r.cl).step = c.step - 1 ∧ (t.cl r.cl).stepTick = s.tick ∧ (c.step = 2 → (t.cl r.cl).lk = 4) ∧ (c.step = 3 → (t.cl r.cl).lk = 3)
            ∧ (c.step = 1 → (t.cl r.cl).lforce = false))
      ∧ (3 ≤ s.boot.step → s.alarm = true → s.power.fast = false → Does .fastThrottle s fun t => t.power = { s.power with fast := true, alarmEnd := none })
      ∧ (∀ u, s.power.fast = true → s.alarm = false → s.power.alarmEnd = some u → u + 100000 ≤ s.tick → Does .fastThrottleEnd s fun t =>
        t.power = { s.power with fast := false, alarmEnd := none })
      ∧ (Does .pcapWrite s fun t => let w := r.val.toNat % 2 ^ 16
        t.power.pcap = w ∧ t.power.ecap = max w Config.idleFloor ∧ t.power.clamped = decide (w < Config.idleFloor)
          ∧ t.told = s.told + b2n (t.power.clamped && !s.power.clamped))
      ∧ (Does .fprioWrite s fun t => t.power.fprio = r.val.toNat % 2 ^ 48 ∧ t.power.ecap = s.power.ecap)
      ∧ (let w := r.val.toNat % 2 ^ 8
        (w < s.power.thot + 5 → exec .talarmWrite s = .next s)
          ∧ (s.power.thot + 5 ≤ w → Does .talarmWrite s fun t => t.power = { s.power with talarm := w }))
      ∧ (Does .moduleReset s fun t => t.boot = State.reset.boot ∧ t.clusters = [] ∧ t.vault = [] ∧ t.dram = [] ∧ t.launches = [] ∧ t.hosts = s.hosts
        ∧ t.modId = s.modId)
      ∧ (s.boot.recovery = true → s.boot.tried = false →
        (r.ok = false → exec .recoveryImage s = .next { s with boot := { s.boot with tried := true } })
        ∧ (r.ok = true → Does .recoveryImage s fun t => t.boot.recovery = false ∧ (s.boot.done = false → t.boot.step = s.boot.step + 1)))

/-- Hosts and partitions (R347 to R360, R390): a host is bound and unbound; it reads and writes its own DRAM ranges and nothing else; losing
its link, three time-outs, a report or a warm restart make its device LOST and unbind it; a device whose host has been bound again and shows
the identity it had is BOUND; FREEZE freezes, THAW resumes and VALID 0 destroys a partition where its states allow that, and otherwise the
write is refused; a link that comes up takes a restarted device on as its TSTATE and RSTPOL say (R356); and a descriptor takes what R351
lets through. That a loss clears the binding, that an unbinding is an FM_BIND without `ok`, that an access outside the ranges is answered as
failed, the order in which one write's bits act, and the certificate shown with a bind are the model's readings (log entries 40, 41, 95). -/
def Obligations.HostEvents : Prop :=
  ∀ (s : State), let r := s.req
    let l := r.ld
    let d := s.ld l
    let shows : Option Nat := if r.ok2 then some r.nonce.toNat else none
    let is_ (bound cert shown : Option Nat) : Prop := bound.isSome = true ∧ (∀ c, cert = some c → shown = some c) ∧ (cert = none → bound = d.ident)
    (l < 16 → r.port < 2 → 5 ≤ s.boot.step → (r.ok = false → Does .fmBind s fun t => t.ld l = { d with bound := none, shown := none })
        ∧ (r.ok = true → s.boot.done = true → d.restart = false ∨ s.ports.contains r.port = false → Does .fmBind s fun t =>
          (t.ld l).bound = some r.val.toNat ∧ (t.ld l).port = r.port ∧ (t.ld l).shown = shows ∧ (t.ld l).hstate = d.hstate)
        ∧ (r.ok = true → s.boot.done = true → d.restart = true → s.ports.contains r.port = true → d.tstate = 0 → d.hstate = 1 → d.rstpol = false →
          (is_ (some r.val.toNat) d.cert shows → Does .fmBind s fun t => (t.ld l).hstate = 0 ∧ (t.ld l).park = [] ∧ (t.ld l).restart = false)
            ∧ (¬ is_ (some r.val.toNat) d.cert shows → Does .fmBind s fun t => (t.ld l).hstate = 1 ∧ (t.ld l).referr = true ∧ (t.ld l).park = d.park))
        ∧ (r.ok = true → s.boot.done = false → Does .fmBind s fun t => t.boot.binds = s.boot.binds ++ [(l, r.port, r.val.toNat)] ∧ t.ld l = d))
      ∧ (s.hostHere l = true → r.bytes ≠ [] → (∀ pa, d.hdm r.addr r.bytes.length = some pa → s.chanFree pa r.bytes.length = true) → Does .hostMemoryWrite s fun t =>
        (d.hdm r.addr r.bytes.length = none → t.resp.ok = false ∧ sameBytes s t)
          ∧ ∀ pa, d.hdm r.addr r.bytes.length = some pa → s.dramGone pa r.bytes.length = false → t.resp.ok = true ∧ rdBytes t.dram pa r.bytes.length = r.bytes
            ∧ t.vault = s.vault ∧ ∀ a, (a < pa ∨ pa + r.bytes.length ≤ a) → rdByte t.dram a = rdByte s.dram a)
      ∧ (r.ok2 = false → r.ok3 = false → s.hostHere l = true → 0 < r.len → (∀ pa, d.hdm r.addr r.len = some pa → s.chanFree pa r.len = true) →
        Does .hostMemoryRead s fun t => sameBytes s t ∧ (d.hdm r.addr r.len = none → t.resp.ok = false)
          ∧ ∀ pa, d.hdm r.addr r.len = some pa → (s.dramBad pa r.len = true → t.resp.ok = false)
            ∧ (s.dramBad pa r.len = false → t.resp.ok = true ∧ t.resp.bytes = rdBytes s.dram pa r.len))
      ∧ (r.addr % 8 = 0 → (r.ok3 = true → Does .hostMemoryRead s fun t => t.resp.ok = true ∧ t.resp.val = s.mgmtRead r.addr ∧ sameBytes s t)
        ∧ (r.ok3 = false → r.ok2 = true → s.hostHere l = true → Does .hostMemoryRead s fun t =>
          t.resp.ok = true ∧ t.resp.val = s.barRead l r.addr ∧ sameBytes s t))
      ∧ (s.ports.contains r.port = true → (s.boot.done = false → exec .linkDown s = .next s)
        ∧ (s.boot.done = true → Does .linkDown s fun t => t.ports = s.ports.filter (fun q => q != r.port)
          ∧ ∀ k, k < 16 → (s.ld k).bound.isSome = true → (s.ld k).port = r.port → (s.ld k).valid = true → (s.ld k).hstate = 0 → (t.ld k).hstate = 1))
      ∧ (d.valid = true → d.hstate = 0 →
        (let n := if r.ok then 1 else d.timeouts + 1
         (n < 3 → Does .completionTimeout s fun t => t.ld l = { d with timeouts := n })
           ∧ (3 ≤ n → Does .completionTimeout s fun t => t.ld l = { d with hstate := 1, timeouts := 0, bound := none } ∧ t.told = s.told + 1))
          ∧ Does .hostDeadReport s fun t => t.ld l = { d with hstate := 1, timeouts := 0, bound := none } ∧ t.told = s.told + 1)
      ∧ (s.boot.done = true → d.valid = true → d.bound.isSome = true → Does .warmRestart s fun t => (t.ld l).restart = true ∧ (t.ld l).bound = none
        ∧ (t.ld l).hstate = if d.hstate = 0 then 1 else d.hstate)
      ∧ (s.boot.done = true → r.port < 2 → (Does .linkUp s fun t => t.ports.contains r.port = true)
        ∧ (l < 16 → d.valid = true → d.restart = true → d.port = r.port →
          (∀ k, k < 16 → k ≠ l → ¬ ((s.ld k).valid = true ∧ (s.ld k).restart = true ∧ (s.ld k).port = r.port)) →
          (d.tstate ≠ 0 → Does .linkUp s fun t => (t.ld l).hstate = 2 ∧ (t.ld l).restart = false ∧ (d.tstate ≤ 2 → (t.ld l).tstate = 3))
            ∧ (d.tstate = 0 → d.hstate ≠ 1 → Does .linkUp s fun t => t.ld l = { d with restart := false })
            ∧ (d.tstate = 0 → d.hstate = 1 → d.rstpol = true → Does .linkUp s fun t => (t.ld l).hstate = 2 ∧ (t.ld l).park = []
              ∧ (t.ld l).restart = false)
            ∧ (d.tstate = 0 → d.hstate = 1 → d.rstpol = false → d.bound = none → Does .linkUp s fun t => t.ld l = d)
            ∧ (d.tstate = 0 → d.hstate = 1 → d.rstpol = false → d.bound.isSome = true →
              (is_ d.bound d.cert d.shown → Does .linkUp s fun t => (t.ld l).hstate = 0 ∧ (t.ld l).park = [] ∧ (t.ld l).restart = false)
                ∧ (¬ is_ d.bound d.cert d.shown → Does .linkUp s fun t => (t.ld l).hstate = 1 ∧ (t.ld l).referr = true ∧ (t.ld l).park = d.park))))
      ∧ (s.boot.done = false → ∀ i ∈ ([.rebind, .freeze, .thaw, .partitionDestroy] : List Instr), Does i s fun t => Refused s t l ∧ sameBytes s t)
      ∧ (s.boot.done = true → d.tstate = 0 → d.hstate = 1 → is_ d.bound d.cert d.shown → Does .rebind s fun t =>
        (t.ld l).hstate = 0 ∧ (t.ld l).park = [] ∧ (t.ld l).restart = false ∧ (t.ld l).bound = d.bound)
      ∧ (s.boot.done = true → (d.tstate ≠ 0 ∨ d.hstate ≠ 1 ∨ ¬ is_ d.bound d.cert d.shown) → Does .rebind s fun t => Refused s t l ∧ sameBytes s t)
      ∧ (s.boot.done = true → d.valid = true → d.hstate ≠ 2 → Does .freeze s fun t => (t.ld l).hstate = 2 ∧ (t.ld l).park = []
        ∧ ∀ k v w, s.launch k = some v → (s.wq v.queue).part = l → v.st = .running → t.launch k = some w → w.st = .frozen false)
      ∧ (s.boot.done = true → (d.hstate = 2 ∧ d.tstate = 0 →
          (Does .thaw s fun t => ((t.ld l).hstate = if d.bound.isSome then 0 else 1) ∧ t.told = s.told + b2n d.bound.isNone)
            ∧ Does .partitionDestroy s fun t => (t.ld l).valid = false ∧ (t.ld l).hstate = 0)
        ∧ (d.hstate ≠ 2 ∨ d.tstate ≠ 0 → ∀ i ∈ ([.thaw, .partitionDestroy] : List Instr), Does i s fun t => Refused s t l ∧ sameBytes s t))
      ∧ (l < 16 → (s.boot.done = false → Does .ldctlWrite s fun t => Refused s t l)
        ∧ (s.boot.done = true → r.addr = 0x40 →
          (d.tstate ≠ 0 ∨ s.ldsOk l (d.put 0x40 r.val.toNat) = false → Does .ldctlWrite s fun t => Refused s t l)
            ∧ (d.tstate = 0 → s.ldsOk l (d.put 0x40 r.val.toNat) = true → Does .ldctlWrite s fun t =>
              t.ld l = { d with hmlim := r.val.toNat / 2 ^ 12 % 2 ^ 40 * 2 ^ 12 }))
        ∧ (s.boot.done = true → r.addr = 0 →
          ((d.tstate ≠ 0 ∧ (r.val.getLsbD 32 = false ∨ r.val.getLsbD 34 = true ∨ (r.val.getLsbD 63 = false ∧ d.hstate ≠ 2)))
            ∨ (d.tstate = 0 ∧ d.hstate ≠ 2 ∧ (r.val.getLsbD 63 = false ∨ r.val.getLsbD 34 = true))) →
            Does .ldctlWrite s fun t => Refused s t l ∧ sameBytes s t))

/-- Attestation and the interface's states (R359, R361 to R363, R389): each SPDM request is answered once the alias key stands, or in
recovery, and what it needs is agreed, and refused before; one that comes as a message of the session is taken as such; a session begins
with FINISH and ends with END_SESSION or its expiry; an authenticated message restarts its period and takes a sequence number, and
KEY_UPDATE begins them again; LOCK leads to LOCKED, START to RUN, where a partition frozen under an earlier session resumes, STOP back to
UNLOCKED, and a session's end or a register error under the lock to ERROR, which freezes a running partition. What an answer's bytes are is
left open but for the measurements and the interface report. That a device holds one session, that a period of 0 means no heartbeat and that
a key has 2^64 - 1 sequence numbers is the model's choice (log entry 95); so are the order of negotiation with its reset by GET_VERSION and
a report in LOCKED and RUN alone (log entry 42), and that ERROR from LOCKED freezes nothing (log entry 43). -/
def Obligations.AttestationEvents : Prop :=
  ∀ (s : State), let r := s.req
    let l := r.ld
    let d := s.ld l
    let p := d.spdm
    let no (i : Instr) : Prop := Does i s fun t => t.resp.ok = false
    let signs : Prop := s.aliasKey = true ∨ s.boot.recovery = true
    let lapsed : Prop := p.session = true ∧ ((p.period ≠ 0 ∧ p.last + 2 * p.period ≤ s.tick) ∨ 2 ^ 64 - 1 ≤ p.seq)
    let inIt : List Instr := [.endSession, .heartbeat, .keyUpdate, .lockInterfaceRequest, .getDeviceInterfaceReport
      , .getDeviceInterfaceState, .startInterfaceRequest, .stopInterfaceRequest]
    (¬ signs → ∀ i ∈ ([.getVersion, .getCapabilities, .negotiateAlgorithms, .getDigests, .getCertificate, .challenge, .getMeasurements
        , .keyExchange, .finish] : List Instr), no i)
      ∧ (signs → Does .getVersion s fun t => t.resp.ok = true ∧ (t.ld l).spdm.version = true ∧ (t.ld l).spdm.algs = false)
      ∧ (p.version = false → no .getCapabilities)
      ∧ (signs → p.version = true → Does .getCapabilities s fun t => t.resp.ok = true ∧ (t.ld l).spdm = { p with caps := true })
      ∧ ((p.caps = false ∨ r.ok = false) → no .negotiateAlgorithms)
      ∧ (signs → p.caps = true → r.ok = true → Does .negotiateAlgorithms s fun t => t.resp.ok = true ∧ (t.ld l).spdm = { p with algs := true })
      ∧ (p.algs = false → ∀ i ∈ ([.getDigests, .getCertificate, .challenge, .getMeasurements, .keyExchange] : List Instr), no i)
      ∧ (signs → p.algs = true →
        (r.ok2 = false → (∀ i ∈ ([.getDigests, .getCertificate, .challenge] : List Instr), Does i s fun t => t.resp.ok = true ∧ t.lds = s.lds)
            ∧ ∀ m, s.measurement l r.addr = some m → Does .getMeasurements s fun t => t.resp.ok = true ∧ t.resp.bytes = leBytes 32 m.toNat
              ∧ t.lds = s.lds)
          ∧ (r.ok2 = true → p.session = true → ¬ lapsed →
            (∀ i ∈ ([.getDigests, .getCertificate, .challenge] : List Instr), Does i s fun t => t.resp.ok = true
              ∧ (t.ld l).spdm = { p with last := s.tick, seq := p.seq + 1 })
            ∧ ∀ m, s.measurement l r.addr = some m → Does .getMeasurements s fun t => t.resp.ok = true ∧ t.resp.bytes = leBytes 32 m.toNat
              ∧ (t.ld l).spdm = { p with last := s.tick, seq := p.seq + 1 })
          ∧ (r.ok2 = true → p.session = false → ∀ i ∈ ([.getDigests, .getCertificate, .challenge, .getMeasurements] : List Instr), no i)
          ∧ (s.measurement l r.addr = none → no .getMeasurements)
          ∧ (p.session = false → Does .keyExchange s fun t => t.resp.ok = true ∧ (t.ld l).spdm = { p with keyex := true, period := r.len })
          ∧ (p.session = true → ¬ lapsed → no .keyExchange))
      ∧ ((p.keyex = false ∨ r.ok = false) → no .finish)
      ∧ (signs → p.keyex = true → r.ok = true → Does .finish s fun t => t.resp.ok = true
        ∧ (t.ld l).spdm = { p with keyex := false, session := true, last := s.tick, lock := false, num := p.num + 1, seq := 0 }
        ∧ (r.ok2 = true → (t.ld l).shown = some r.val.toNat ∧ (t.ld l).cert = if d.hstate = 1 then d.cert else some r.val.toNat)
        ∧ (r.ok2 = false → (t.ld l).shown = d.shown ∧ (t.ld l).cert = d.cert))
      ∧ ((p.session = false ∨ (r.ok = false ∧ ¬ lapsed)) → ∀ i ∈ inIt, Does i s fun t => t.resp.ok = false ∧ t.lds = s.lds)
      ∧ (lapsed → ∀ i ∈ inIt, Does i s fun t => t.resp.ok = false ∧ (t.ld l).spdm.session = false)
      ∧ (p.session = true → ¬ lapsed → r.ok = true →
        (Does .endSession s fun t => t.resp.ok = true ∧ (t.ld l).spdm.session = false ∧ (p.lock = true → (d.tstate = 1 ∨ d.tstate = 2) → (t.ld l).tstate = 3))
          ∧ (Does .heartbeat s fun t => t.resp.ok = true ∧ (t.ld l).spdm = { p with last := s.tick, seq := p.seq + 1 })
          ∧ (Does .keyUpdate s fun t => t.resp.ok = true ∧ (t.ld l).spdm = { p with last := s.tick, seq := 0 })
          ∧ (d.valid = true → d.tstate = 0 → Does .lockInterfaceRequest s fun t => t.resp.ok = true ∧ (t.ld l).tstate = 1 ∧ (t.ld l).spdm.lock = true)
          ∧ (d.tstate ≠ 0 ∨ d.valid = false → no .lockInterfaceRequest)
          ∧ ((d.tstate = 1 ∨ d.tstate = 2) → Does .getDeviceInterfaceReport s fun t => t.resp.ok = true ∧ t.resp.bytes = s.report l)
          ∧ (¬ (d.tstate = 1 ∨ d.tstate = 2) → no .getDeviceInterfaceReport)
          ∧ (Does .getDeviceInterfaceState s fun t => t.resp.ok = true ∧ t.resp.val = d.tstate)
          ∧ (d.tstate = 1 → Does .startInterfaceRequest s fun t => t.resp.ok = true ∧ (t.ld l).tstate = 2
            ∧ (d.hstate = 2 → (t.ld l).hstate = if d.fsess < p.num then b2n d.bound.isNone else 2))
          ∧ (d.tstate ≠ 1 → no .startInterfaceRequest)
          ∧ Does .stopInterfaceRequest s fun t => t.resp.ok = true ∧ (t.ld l).tstate = 0 ∧ (d.tstate = 2 → (t.ld l).hstate = 2))
      ∧ (lapsed → Does .sessionExpiry s fun t => (t.ld l).spdm.session = false
        ∧ (p.lock = true → (d.tstate = 1 ∨ d.tstate = 2) → (t.ld l).tstate = 3))
      ∧ ((d.tstate = 1 ∨ d.tstate = 2) → Does .lockedRegisterError s fun t => (t.ld l).tstate = 3 ∧ (d.tstate = 2 → (t.ld l).hstate = 2))
end

