-- ==== Sys2Proof/Laws/Tables.lean ====
section
/-! SUPPORT. Laws of the sparse tables: reading after a write, and the canonical form that every table operation keeps. -/

namespace Sys2Proof.Machine

variable {α : Type}

theorem tget_tput_same (d : α) (t : Tab α) (k : Nat) (v : α) : tget d (tput t k v) k = v := by
  induction t with
  | nil => simp [tput, tget]
  | cons e t ih =>
    obtain ⟨j, w⟩ := e
    by_cases h : k < j
    · simp [tput, h, tget]
    · by_cases h' : k = j <;> simp [tput, h, h', tget, ih]

theorem tget_tput_other (d : α) (t : Tab α) {k k' : Nat} (v : α) (hk : k' ≠ k) : tget d (tput t k v) k' = tget d t k' := by
  induction t with
  | nil => simp [tput, tget, hk]
  | cons e t ih =>
    obtain ⟨j, w⟩ := e
    by_cases h : k < j
    · simp [tput, h, tget, hk]
    · by_cases h' : k = j
      · subst h'; simp [tput, tget, hk]
      · simp [tput, h, h', tget, ih]

theorem tget_tput (d : α) (t : Tab α) (k k' : Nat) (v : α) : tget d (tput t k v) k' = if k' = k then v else tget d t k' := by
  by_cases h : k' = k
  · simp [h, tget_tput_same]
  · simp [h, tget_tput_other]

theorem tget_terase_same (d : α) (t : Tab α) (k : Nat) : tget d (terase t k) k = d := by
  induction t with
  | nil => rfl
  | cons e t ih =>
    obtain ⟨j, w⟩ := e
    by_cases h : k = j <;> simp [terase, h, tget]
    · subst h; exact ih
    · exact ih

theorem tget_terase_other (d : α) (t : Tab α) {k k' : Nat} (hk : k' ≠ k) : tget d (terase t k) k' = tget d t k' := by
  induction t with
  | nil => rfl
  | cons e t ih =>
    obtain ⟨j, w⟩ := e
    by_cases h : k = j
    · subst h; simp [terase, tget, hk, ih]
    · simp [terase, h, tget, ih]

theorem tget_tset [DecidableEq α] (d : α) (t : Tab α) (k k' : Nat) (v : α) :
    tget d (tset d t k v) k' = if k' = k then v else tget d t k' := by
  unfold tset
  split
  · rename_i h
    by_cases hk : k' = k
    · subst hk; simp [h, tget_terase_same]
    · simp [hk, tget_terase_other]
  · simp [tget_tput]

theorem tget_tset_same [DecidableEq α] (d : α) (t : Tab α) (k : Nat) (v : α) : tget d (tset d t k v) k = v := by simp [tget_tset]

theorem tget_tset_other [DecidableEq α] (d : α) (t : Tab α) {k k' : Nat} (v : α) (hk : k' ≠ k) :
    tget d (tset d t k v) k' = tget d t k' := by simp [tget_tset, hk]

theorem tget_tmod (d : α) (t : Tab α) (k k' : Nat) (f : α → α) :
    tget d (tmod d t k f) k' = if k' = k then f (tget d t k) else tget d t k' := by simp [tmod, tget_tput]

/-! ## The canonical form -/

theorem keysAbove_tput {b k : Nat} {t : Tab α} (v : α) (hb : b < k) (h : keysAbove b t = true) : keysAbove b (tput t k v) = true := by
  induction t with
  | nil => simp [tput, keysAbove, hb]
  | cons e t ih =>
    obtain ⟨j, w⟩ := e
    simp only [keysAbove, List.all_cons, Bool.and_eq_true, decide_eq_true_eq] at h ih
    by_cases h1 : k < j
    · simp [tput, h1, keysAbove, hb, h.1]; simpa using h.2
    · by_cases h2 : k = j
      · simp [tput, h2, keysAbove, h.1]; simpa using h.2
      · simp [tput, h1, h2, keysAbove, h.1]; simpa [keysAbove] using ih h.2

theorem keysAbove_terase {b : Nat} {t : Tab α} (k : Nat) (h : keysAbove b t = true) : keysAbove b (terase t k) = true := by
  induction t with
  | nil => rfl
  | cons e t ih =>
    obtain ⟨j, w⟩ := e
    simp only [keysAbove, List.all_cons, Bool.and_eq_true, decide_eq_true_eq] at h ih
    by_cases h1 : k = j
    · have := ih h.2
      simp only [terase, h1, if_true, keysAbove]
      exact h1 ▸ this
    · have := ih h.2
      simp only [terase, h1, if_false, keysAbove, List.all_cons, Bool.and_eq_true, decide_eq_true_eq]
      exact ⟨h.1, this⟩

theorem keysAbove_mono {a b : Nat} {t : Tab α} (hab : a ≤ b) (h : keysAbove b t = true) : keysAbove a t = true := by
  simp only [keysAbove, List.all_eq_true, decide_eq_true_eq] at *
  exact fun e he => Nat.lt_of_le_of_lt hab (h e he)

theorem rising_tput {t : Tab α} (k : Nat) (v : α) (h : rising t = true) : rising (tput t k v) = true := by
  induction t with
  | nil => simp [tput, rising, keysAbove]
  | cons e t ih =>
    obtain ⟨j, w⟩ := e
    simp only [rising, Bool.and_eq_true] at h
    by_cases h1 : k < j
    · simp only [tput, h1, if_true, rising, Bool.and_eq_true]
      refine ⟨?_, h⟩
      simp only [keysAbove, List.all_cons, Bool.and_eq_true, decide_eq_true_eq]
      exact ⟨h1, keysAbove_mono (Nat.le_of_lt h1) h.1⟩
    · by_cases h2 : k = j
      · subst h2; simpa [tput, rising] using h
      · simp only [tput, h1, h2, if_false, rising, Bool.and_eq_true]
        exact ⟨keysAbove_tput v (by omega) h.1, ih h.2⟩

theorem rising_terase {t : Tab α} (k : Nat) (h : rising t = true) : rising (terase t k) = true := by
  induction t with
  | nil => rfl
  | cons e t ih =>
    obtain ⟨j, w⟩ := e
    simp only [rising, Bool.and_eq_true] at h
    by_cases h1 : k = j
    · simpa [terase, h1] using h1 ▸ ih h.2
    · simp [terase, h1, rising, keysAbove_terase k h.1, ih h.2]

theorem mem_tput {t : Tab α} {k : Nat} {v : α} {e : Nat × α} (h : e ∈ tput t k v) : e = (k, v) ∨ e ∈ t := by
  induction t with
  | nil => simpa [tput] using h
  | cons f t ih =>
    obtain ⟨j, w⟩ := f
    by_cases h1 : k < j
    · simpa [tput, h1] using h
    · by_cases h2 : k = j
      · simp only [tput, h2, if_false, if_true, lt_irrefl, List.mem_cons] at h ⊢
        rcases h with h | h
        · exact .inl h
        · exact .inr (.inr h)
      · simp only [tput, h1, h2, if_false, List.mem_cons] at h ⊢
        rcases h with h | h
        · exact .inr (.inl h)
        · rcases ih h with h | h
          · exact .inl h
          · exact .inr (.inr h)

theorem mem_terase {t : Tab α} {k : Nat} {e : Nat × α} (h : e ∈ terase t k) : e ∈ t := by
  induction t with
  | nil => exact h
  | cons f t ih =>
    obtain ⟨j, w⟩ := f
    by_cases h1 : k = j
    · simp only [terase, h1, if_true] at h
      exact List.mem_cons_of_mem _ (ih (h1 ▸ h))
    · simp only [terase, h1, if_false, List.mem_cons] at h ⊢
      exact h.imp_right ih

theorem twf_tset [DecidableEq α] {d : α} {t : Tab α} (k : Nat) (v : α) (h : twf d t = true) : twf d (tset d t k v) = true := by
  simp only [twf, Bool.and_eq_true, List.all_eq_true, decide_eq_true_eq] at *
  unfold tset
  split
  · exact ⟨rising_terase k h.1, fun e he => h.2 e (mem_terase he)⟩
  · rename_i hv
    refine ⟨rising_tput k v h.1, fun e he => ?_⟩
    rcases mem_tput he with rfl | he
    · exact hv
    · exact h.2 e he

theorem twf_nil [DecidableEq α] (d : α) : twf d ([] : Tab α) = true := rfl

/-- In a canonical table an entry is what its key reads as. -/
theorem tget_of_mem {d : α} {t : Tab α} (h : rising t = true) {e : Nat × α} (he : e ∈ t) : tget d t e.1 = e.2 := by
  induction t with
  | nil => cases he
  | cons f t ih =>
    obtain ⟨j, w⟩ := f
    simp only [rising, Bool.and_eq_true] at h
    rcases List.mem_cons.1 he with rfl | he'
    · simp [tget]
    · have hj : j < e.1 := by
        have := h.1
        simp only [keysAbove, List.all_eq_true, decide_eq_true_eq] at this
        exact this e he'
      have hne : ¬ e.1 = j := by omega
      simp [tget, hne, ih h.2 he']

/-- A canonical table reads the same once filtered, at the keys that are kept. -/
theorem tget_filter (d : α) (t : Tab α) (p : Nat → Bool) (k : Nat) :
    tget d (t.filter fun e => p e.1) k = if p k then tget d t k else d := by
  induction t with
  | nil => simp [tget]
  | cons e t ih =>
    obtain ⟨j, w⟩ := e
    by_cases hj : p j
    · by_cases hk : k = j
      · subst hk; simp [List.filter, hj, tget]
      · simp [List.filter, hj, tget, hk, ih]
    · by_cases hk : k = j
      · subst hk; simp [List.filter, hj, ih]
      · simp [List.filter, hj, tget, hk, ih]

theorem rising_filter {t : Tab α} (p : Nat × α → Bool) (h : rising t = true) : rising (t.filter p) = true := by
  induction t with
  | nil => rfl
  | cons e t ih =>
    obtain ⟨j, w⟩ := e
    simp only [rising, Bool.and_eq_true] at h
    by_cases hj : p (j, w)
    · simp only [List.filter, hj, rising, Bool.and_eq_true]
      refine ⟨?_, ih h.2⟩
      simp only [keysAbove, List.all_eq_true, decide_eq_true_eq] at *
      exact fun e he => h.1 e (List.mem_of_mem_filter he)
    · simp only [List.filter, hj]
      exact ih h.2

theorem rising_append {s t : Tab α} (hs : rising s = true) (ht : rising t = true)
    (h : ∀ e ∈ s, ∀ f ∈ t, e.1 < f.1) : rising (s ++ t) = true := by
  induction s with
  | nil => exact ht
  | cons e s ih =>
    obtain ⟨j, w⟩ := e
    simp only [rising, Bool.and_eq_true, List.cons_append] at *
    refine ⟨?_, ih hs.2 fun e he => h e (List.mem_cons_of_mem _ he)⟩
    simp only [keysAbove, List.all_append, Bool.and_eq_true, List.all_eq_true, decide_eq_true_eq] at *
    exact ⟨hs.1, fun f hf => h (j, w) (List.mem_cons_self ..) f hf⟩

theorem tget_append (d : α) (s t : Tab α) (k : Nat) : tget d (s ++ t) k = if s.any (fun e => e.1 == k) then tget d s k else tget d t k := by
  induction s with
  | nil => simp
  | cons e s ih =>
    obtain ⟨j, w⟩ := e
    by_cases h : k = j
    · subst h; simp [tget]
    · have : (j == k) = false := by simpa using fun h' : j = k => h h'.symm
      simp only [List.cons_append, tget, h, if_false, ih, List.any_cons, this, Bool.false_or]

end Sys2Proof.Machine
end

