-- ==== Sys2Proof/Laws/Memory.lean ====
section
/-! SUPPORT. Laws of memories: a byte read after a write, a wide read of what was written, and the canonical form that every
operation on a memory keeps. -/

namespace Sys2Proof.Machine

theorem rdByte_wrByte (m : Memory) (a a' : Nat) (b : Byte) : rdByte (wrByte m a b) a' = if a' = a then b else rdByte m a' := by
  simp [rdByte, wrByte, tget_tset]

/-- A write leaves every byte outside its range alone. -/
theorem rdByte_wrMem_outside (m : Memory) (a n v a' : Nat) (h : a' < a ∨ a + n ≤ a') : rdByte (wrMem m a n v) a' = rdByte m a' := by
  induction n generalizing m a v with
  | zero => rfl
  | succ n ih =>
    have hne : ¬ a' = a := by omega
    rw [wrMem, ih _ _ _ (by omega), rdByte_wrByte, if_neg hne]

/-- Byte `i` of a write. -/
theorem rdByte_wrMem_inside (m : Memory) (a n v i : Nat) (h : i < n) : rdByte (wrMem m a n v) (a + i) = BitVec.ofNat 8 (v / 256 ^ i) := by
  induction n generalizing m a v i with
  | zero => omega
  | succ n ih =>
    cases i with
    | zero => rw [wrMem, rdByte_wrMem_outside _ _ _ _ _ (by omega)]; simp [rdByte_wrByte]
    | succ i =>
      have e : a + (i + 1) = a + 1 + i := by omega
      rw [wrMem, e, ih _ _ _ _ (by omega), Nat.div_div_eq_div_mul, Nat.pow_succ, Nat.mul_comm]

/-- Two memories that agree on a range read the same there. -/
theorem rdMem_congr (m m' : Memory) (a n : Nat) (h : ∀ i, i < n → rdByte m (a + i) = rdByte m' (a + i)) : rdMem m a n = rdMem m' a n := by
  induction n generalizing a with
  | zero => rfl
  | succ n ih =>
    rw [rdMem, rdMem, show rdByte m a = rdByte m' a by simpa using h 0 (by omega),
      ih (a + 1) fun i hi => by have := h (i + 1) (by omega); rwa [show a + (i + 1) = a + 1 + i by omega] at this]

theorem rdMem_wrMem_outside (m : Memory) (a n v a' n' : Nat) (h : a' + n' ≤ a ∨ a + n ≤ a') :
    rdMem (wrMem m a n v) a' n' = rdMem m a' n' :=
  rdMem_congr _ _ _ _ fun i hi => rdByte_wrMem_outside _ _ _ _ _ (by omega)

/-- A read after a write to the same place gives the value written. -/
theorem rdMem_wrMem_same (m : Memory) (a n v : Nat) : rdMem (wrMem m a n v) a n = v % 256 ^ n := by
  induction n generalizing m a v with
  | zero => simp [rdMem, Nat.mod_one]
  | succ n ih =>
    rw [wrMem, rdMem, rdByte_wrMem_outside _ _ _ _ _ (by omega), rdByte_wrByte, if_pos rfl, ih, BitVec.toNat_ofNat,
      show 256 ^ (n + 1) = 256 * 256 ^ n by rw [Nat.pow_succ, Nat.mul_comm], Nat.mod_mul]

theorem wf_wrByte (m : Memory) (a : Nat) (b : Byte) (h : Memory.wf m = true) : Memory.wf (wrByte m a b) = true := twf_tset a b h

theorem wf_wrMem (m : Memory) (a n v : Nat) (h : Memory.wf m = true) : Memory.wf (wrMem m a n v) = true := by
  induction n generalizing m a v with
  | zero => exact h
  | succ n ih => exact ih _ _ _ (wf_wrByte m a _ h)

theorem wf_wrBytes (m : Memory) (a : Nat) (bs : List Byte) (h : Memory.wf m = true) : Memory.wf (wrBytes m a bs) = true := by
  induction bs generalizing m a with
  | nil => exact h
  | cons b bs ih => exact ih _ _ (wf_wrByte m a b h)

theorem rdByte_wrBytes_outside (m : Memory) (a : Nat) (bs : List Byte) (a' : Nat) (h : a' < a ∨ a + bs.length ≤ a') :
    rdByte (wrBytes m a bs) a' = rdByte m a' := by
  induction bs generalizing m a with
  | nil => rfl
  | cons b bs ih =>
    simp only [List.length_cons] at h
    have hne : ¬ a' = a := by omega
    rw [wrBytes, ih _ _ (by omega), rdByte_wrByte, if_neg hne]

theorem wf_nil : Memory.wf [] = true := rfl

theorem wf_iff (m : Memory) : Memory.wf m = true ↔ rising m = true ∧ ∀ e ∈ m, e.2 ≠ 0 := by
  simp [Memory.wf, twf]

theorem wf_filter (m : Memory) (p : Nat × Byte → Bool) (h : Memory.wf m = true) : Memory.wf (m.filter p) = true := by
  rw [wf_iff] at *
  exact ⟨rising_filter p h.1, fun e he => h.2 e (List.mem_of_mem_filter he)⟩

/-- The keys of a slice moved by one distance still rise. -/
theorem rising_shift (m : Memory) (lo dst : Nat) (h : rising m = true) (hlo : ∀ e ∈ m, lo ≤ e.1) :
    rising (m.map fun e => (e.1 - lo + dst, e.2)) = true := by
  induction m with
  | nil => rfl
  | cons e m ih =>
    obtain ⟨j, w⟩ := e
    simp only [rising, Bool.and_eq_true, List.map_cons] at *
    refine ⟨?_, ih h.2 fun e he => hlo e (List.mem_cons_of_mem _ he)⟩
    have hj := hlo (j, w) (List.mem_cons_self ..)
    simp only [keysAbove, List.all_eq_true, decide_eq_true_eq, List.mem_map] at *
    rintro _ ⟨e, he, rfl⟩
    have h1 := h.1 e he
    simp only at hj ⊢
    omega

theorem wf_slice (m : Memory) (lo n dst : Nat) (h : Memory.wf m = true) : Memory.wf (slice m lo n dst) = true := by
  have hf := wf_filter m (fun e => decide (lo ≤ e.1 ∧ e.1 < lo + n)) h
  rw [wf_iff] at *
  refine ⟨rising_shift _ lo dst hf.1 fun e he => ?_, ?_⟩
  · have := List.of_mem_filter he
    simp only [decide_eq_true_eq] at this
    exact this.1
  · simp only [slice, List.mem_map]
    rintro _ ⟨e, he, rfl⟩
    exact hf.2 e he

theorem wf_splice (m new : Memory) (lo n : Nat) (h : Memory.wf m = true) (hn : Memory.wf new = true) :
    Memory.wf (splice m lo n new) = true := by
  have h1 := wf_filter m (fun e => decide (e.1 < lo)) h
  have h2 := wf_filter new (fun e => decide (lo ≤ e.1 ∧ e.1 < lo + n)) hn
  have h3 := wf_filter m (fun e => decide (lo + n ≤ e.1)) h
  rw [wf_iff] at *
  refine ⟨rising_append (rising_append h1.1 h2.1 ?_) h3.1 ?_, ?_⟩
  · intro e he f hf
    have he' := List.of_mem_filter he
    have hf' := List.of_mem_filter hf
    simp only [decide_eq_true_eq] at he' hf'
    omega
  · intro e he f hf
    have hf' := List.of_mem_filter hf
    rcases List.mem_append.1 he with he | he <;>
    · have he' := List.of_mem_filter he
      simp only [decide_eq_true_eq] at he' hf'
      omega
  · intro e he
    simp only [splice, List.mem_append] at he
    rcases he with (he | he) | he
    · exact h1.2 e he
    · exact h2.2 e he
    · exact h3.2 e he

theorem wf_foldl_wrMem {β : Type} (l : List β) (f g k : β → Nat) (m : Memory) (h : Memory.wf m = true) :
    Memory.wf (l.foldl (fun m e => wrMem m (f e) (k e) (g e)) m) = true := by
  induction l generalizing m with
  | nil => exact h
  | cons e l ih => exact ih _ (wf_wrMem m _ _ _ h)

theorem wf_putBytes (m : Memory) (a n v : Nat) (h : Memory.wf m = true) : Memory.wf (putBytes m a n v) = true := by
  induction n generalizing m a v with
  | zero => exact h
  | succ n ih =>
    refine ih _ _ _ ?_
    split
    · exact h
    · exact wf_wrByte m a _ h

theorem wf_areaMem (fs : List (Nat × Nat × Nat)) : Memory.wf (areaMem fs) = true := by
  induction fs with
  | nil => exact wf_nil
  | cons f fs ih => exact wf_putBytes _ _ _ _ ih

/-- Writing a whole area of the vault keeps its form. -/
theorem wf_putArea (s : State) (lo n : Nat) (fs : List (Nat × Nat × Nat)) (h : Memory.wf s.vault = true) :
    Memory.wf (s.putArea lo n fs).vault = true := wf_splice _ _ _ _ h (wf_areaMem fs)

end Sys2Proof.Machine
end

