-- ==== Sys2Proof/Laws/State.lean ====
section
/-! SUPPORT. Laws of the state: what each accessor reads after each update, one lemma per field per update. -/

namespace Sys2Proof.Machine

/-! ## Clusters, cores and contexts -/

@[simp] theorem cl_setCl (s : State) (k j : Nat) (c : Cluster) : (s.setCl k c).cl j = if j = k then c else s.cl j := by
  simp [State.cl, State.setCl, tget_tput]

@[simp] theorem cl_modCl (s : State) (k j : Nat) (f : Cluster → Cluster) : (s.modCl k f).cl j = if j = k then f (s.cl k) else s.cl j := by
  simp [State.modCl]

@[simp] theorem cluster_core_setCore (c : Cluster) (k j : Nat) (o : Core) : (c.setCore k o).core j = if j = k then o else c.core j := by
  simp [Cluster.core, Cluster.setCore, tget_tput]

@[simp] theorem core_ctx_setCtx (o : Core) (k j : Nat) (v : Ctx) : (o.setCtx k v).ctx j = if j = k then v else o.ctx j := by
  simp [Core.ctx, Core.setCtx, tget_tput]

theorem coreId_eq (a b : CoreId) : a = b ↔ a.cl = b.cl ∧ a.core = b.core := by
  cases a; cases b; simp

theorem ctxId_eq (a b : CtxId) : a = b ↔ a.coreId = b.coreId ∧ a.cx = b.cx := by
  cases a; cases b; simp [CtxId.coreId, and_assoc]

@[simp] theorem core_setCl (s : State) (k : Nat) (c : Cluster) (i : CoreId) :
    (s.setCl k c).core i = if i.cl = k then c.core i.core else s.core i := by
  simp only [State.core, cl_setCl]; split <;> rfl

@[simp] theorem core_modCl (s : State) (k : Nat) (f : Cluster → Cluster) (i : CoreId) :
    (s.modCl k f).core i = if i.cl = k then (f (s.cl k)).core i.core else s.core i := by
  simp [State.modCl]

@[simp] theorem ctx_modCl (s : State) (k : Nat) (f : Cluster → Cluster) (y : CtxId) :
    (s.modCl k f).ctx y = if y.cl = k then ((f (s.cl k)).core y.core).ctx y.cx else s.ctx y := by
  simp only [State.ctx, core_modCl, CtxId.coreId]; split <;> rfl

@[simp] theorem core_setCore (s : State) (c i : CoreId) (o : Core) : (s.setCore c o).core i = if i = c then o else s.core i := by
  simp only [State.setCore, core_setCl, coreId_eq, cluster_core_setCore]
  by_cases h : i.cl = c.cl <;> by_cases h' : i.core = c.core <;> simp [h, h', State.core]

@[simp] theorem cl_setCore (s : State) (c : CoreId) (o : Core) (k : Nat) :
    (s.setCore c o).cl k = if k = c.cl then (s.cl c.cl).setCore c.core o else s.cl k := by
  simp [State.setCore]

@[simp] theorem core_modCore (s : State) (c i : CoreId) (f : Core → Core) :
    (s.modCore c f).core i = if i = c then f (s.core c) else s.core i := by
  simp [State.modCore]

@[simp] theorem cl_modCore (s : State) (c : CoreId) (f : Core → Core) (k : Nat) :
    (s.modCore c f).cl k = if k = c.cl then (s.cl c.cl).setCore c.core (f (s.core c)) else s.cl k := by
  simp [State.modCore]

@[simp] theorem ctx_setCtx (s : State) (x y : CtxId) (v : Ctx) : (s.setCtx x v).ctx y = if y = x then v else s.ctx y := by
  simp only [State.setCtx, State.ctx, core_setCore, ctxId_eq]
  by_cases h : y.coreId = x.coreId <;> by_cases h' : y.cx = x.cx <;> simp [h, h']

@[simp] theorem core_setCtx (s : State) (x : CtxId) (v : Ctx) (i : CoreId) :
    (s.setCtx x v).core i = if i = x.coreId then (s.core x.coreId).setCtx x.cx v else s.core i := by
  simp [State.setCtx]

@[simp] theorem cl_setCtx (s : State) (x : CtxId) (v : Ctx) (k : Nat) :
    (s.setCtx x v).cl k = if k = x.cl then (s.cl x.cl).setCore x.core ((s.core x.coreId).setCtx x.cx v) else s.cl k := by
  simp [State.setCtx, CtxId.coreId]

@[simp] theorem ctx_modCtx (s : State) (x y : CtxId) (f : Ctx → Ctx) : (s.modCtx x f).ctx y = if y = x then f (s.ctx x) else s.ctx y := by
  simp [State.modCtx]

@[simp] theorem core_modCtx (s : State) (x : CtxId) (f : Ctx → Ctx) (i : CoreId) :
    (s.modCtx x f).core i = if i = x.coreId then (s.core x.coreId).setCtx x.cx (f (s.ctx x)) else s.core i := by
  simp [State.modCtx]

@[simp] theorem cl_modCtx (s : State) (x : CtxId) (f : Ctx → Ctx) (k : Nat) :
    (s.modCtx x f).cl k = if k = x.cl then (s.cl x.cl).setCore x.core ((s.core x.coreId).setCtx x.cx (f (s.ctx x))) else s.cl k := by
  simp [State.modCtx]

@[simp] theorem ctx_modCore (s : State) (c : CoreId) (f : Core → Core) (y : CtxId) :
    (s.modCore c f).ctx y = if y.coreId = c then (f (s.core c)).ctx y.cx else s.ctx y := by
  simp only [State.ctx, core_modCore]; split <;> rfl

theorem modPr_eq (s : State) (x : CtxId) (f : Priv → Priv) : s.modPr x f = s.modCtx x fun c => { c with pr := f c.pr } := rfl
theorem modFl_eq (s : State) (x : CtxId) (f : Flight → Flight) : s.modFl x f = s.modCtx x fun c => { c with fl := f c.fl } := rfl
theorem modCt_eq (s : State) (x : CtxId) (f : Cont → Cont) : s.modCt x f = s.modCtx x fun c => { c with ct := f c.ct } := rfl
theorem wrReg_eq (s : State) (x : CtxId) (k : RegRef) (v : Nat) : s.wrReg x k v = s.modCtx x fun c => { c with regs := c.regs.wr k v } := rfl
theorem modMx_eq (s : State) (c : CoreId) (f : Mx → Mx) : s.modMx c f = s.modCore c fun o => { o with mx := f o.mx } := rfl

/-! ## Parts of a core that a context's update leaves alone, and parts of a cluster that a core's update leaves alone -/

@[simp] theorem core_setCtx_run (o : Core) (k : Nat) (v : Ctx) : (o.setCtx k v).run = o.run := rfl
@[simp] theorem core_setCtx_last (o : Core) (k : Nat) (v : Ctx) : (o.setCtx k v).last = o.last := rfl
@[simp] theorem core_setCtx_lmem (o : Core) (k : Nat) (v : Ctx) : (o.setCtx k v).lmem = o.lmem := rfl
@[simp] theorem core_setCtx_lbad (o : Core) (k : Nat) (v : Ctx) : (o.setCtx k v).lbad = o.lbad := rfl
@[simp] theorem core_setCtx_mx (o : Core) (k : Nat) (v : Ctx) : (o.setCtx k v).mx = o.mx := rfl
@[simp] theorem core_setCtx_tlb (o : Core) (k : Nat) (v : Ctx) : (o.setCtx k v).tlb = o.tlb := rfl
@[simp] theorem core_setCtx_evsel (o : Core) (k : Nat) (v : Ctx) : (o.setCtx k v).evsel = o.evsel := rfl
@[simp] theorem core_setCtx_evcnt (o : Core) (k : Nat) (v : Ctx) : (o.setCtx k v).evcnt = o.evcnt := rfl
@[simp] theorem core_setCtx_dbgsel (o : Core) (k : Nat) (v : Ctx) : (o.setCtx k v).dbgsel = o.dbgsel := rfl
@[simp] theorem core_setCtx_retired (o : Core) (k : Nat) (v : Ctx) : (o.setCtx k v).retired = o.retired := rfl
@[simp] theorem core_setCtx_dpErrs (o : Core) (k : Nat) (v : Ctx) : (o.setCtx k v).dpErrs = o.dpErrs := rfl
@[simp] theorem core_setCtx_lmErrs (o : Core) (k : Nat) (v : Ctx) : (o.setCtx k v).lmErrs = o.lmErrs := rfl

@[simp] theorem cluster_setCore_saved (c : Cluster) (k : Nat) (o : Core) : (c.setCore k o).saved = c.saved := rfl
@[simp] theorem cluster_setCore_ready (c : Cluster) (k : Nat) (o : Core) : (c.setCore k o).ready = c.ready := rfl
@[simp] theorem cluster_setCore_watch (c : Cluster) (k : Nat) (o : Core) : (c.setCore k o).watch = c.watch := rfl
@[simp] theorem cluster_setCore_teams (c : Cluster) (k : Nat) (o : Core) : (c.setCore k o).teams = c.teams := rfl
@[simp] theorem cluster_setCore_marvers (c : Cluster) (k : Nat) (o : Core) : (c.setCore k o).marvers = c.marvers := rfl
@[simp] theorem cluster_setCore_jobs (c : Cluster) (k : Nat) (o : Core) : (c.setCore k o).jobs = c.jobs := rfl
@[simp] theorem cluster_setCore_cdir (c : Cluster) (k : Nat) (o : Core) : (c.setCore k o).cdir = c.cdir := rfl
@[simp] theorem cluster_setCore_code (c : Cluster) (k : Nat) (o : Core) : (c.setCore k o).code = c.code := rfl
@[simp] theorem cluster_setCore_gk (c : Cluster) (k : Nat) (o : Core) : (c.setCore k o).gk = c.gk := rfl
@[simp] theorem cluster_setCore_lk (c : Cluster) (k : Nat) (o : Core) : (c.setCore k o).lk = c.lk := rfl
@[simp] theorem cluster_setCore_switching (c : Cluster) (k : Nat) (o : Core) : (c.setCore k o).switching = c.switching := rfl
@[simp] theorem cluster_setCore_lforce (c : Cluster) (k : Nat) (o : Core) : (c.setCore k o).lforce = c.lforce := rfl
@[simp] theorem cluster_setCore_greq (c : Cluster) (k : Nat) (o : Core) : (c.setCore k o).greq = c.greq := rfl
@[simp] theorem cluster_setCore_trqBase (c : Cluster) (k : Nat) (o : Core) : (c.setCore k o).trqBase = c.trqBase := rfl
@[simp] theorem cluster_setCore_trqSize (c : Cluster) (k : Nat) (o : Core) : (c.setCore k o).trqSize = c.trqSize := rfl
@[simp] theorem cluster_setCore_trqHead (c : Cluster) (k : Nat) (o : Core) : (c.setCore k o).trqHead = c.trqHead := rfl
@[simp] theorem cluster_setCore_trqTail (c : Cluster) (k : Nat) (o : Core) : (c.setCore k o).trqTail = c.trqTail := rfl
@[simp] theorem cluster_setCore_trapSeq (c : Cluster) (k : Nat) (o : Core) : (c.setCore k o).trapSeq = c.trapSeq := rfl
@[simp] theorem cluster_setCore_trapWait (c : Cluster) (k : Nat) (o : Core) : (c.setCore k o).trapWait = c.trapWait := rfl
@[simp] theorem cluster_setCore_ansRec (c : Cluster) (k : Nat) (o : Core) : (c.setCore k o).ansRec = c.ansRec := rfl
@[simp] theorem cluster_setCore_ansV1 (c : Cluster) (k : Nat) (o : Core) : (c.setCore k o).ansV1 = c.ansV1 := rfl
@[simp] theorem cluster_setCore_ansV2 (c : Cluster) (k : Nat) (o : Core) : (c.setCore k o).ansV2 = c.ansV2 := rfl
@[simp] theorem cluster_setCore_ansStat (c : Cluster) (k : Nat) (o : Core) : (c.setCore k o).ansStat = c.ansStat := rfl
@[simp] theorem cluster_setCore_girqLehr (c : Cluster) (k : Nat) (o : Core) : (c.setCore k o).girqLehr = c.girqLehr := rfl
@[simp] theorem cluster_setCore_girqMgmt (c : Cluster) (k : Nat) (o : Core) : (c.setCore k o).girqMgmt = c.girqMgmt := rfl
@[simp] theorem cluster_setCore_girqen (c : Cluster) (k : Nat) (o : Core) : (c.setCore k o).girqen = c.girqen := rfl
@[simp] theorem cluster_setCore_evsel (c : Cluster) (k : Nat) (o : Core) : (c.setCore k o).evsel = c.evsel := rfl
@[simp] theorem cluster_setCore_evcnt (c : Cluster) (k : Nat) (o : Core) : (c.setCore k o).evcnt = c.evcnt := rfl
@[simp] theorem cluster_setCore_plsel (c : Cluster) (k : Nat) (o : Core) : (c.setCore k o).plsel = c.plsel := rfl
@[simp] theorem cluster_setCore_preload (c : Cluster) (k : Nat) (o : Core) : (c.setCore k o).preload = c.preload := rfl
@[simp] theorem cluster_setCore_tlbiva (c : Cluster) (k : Nat) (o : Core) : (c.setCore k o).tlbiva = c.tlbiva := rfl
@[simp] theorem cluster_setCore_tlbiBusy (c : Cluster) (k : Nat) (o : Core) : (c.setCore k o).tlbiBusy = c.tlbiBusy := rfl
@[simp] theorem cluster_setCore_tlbiErr (c : Cluster) (k : Nat) (o : Core) : (c.setCore k o).tlbiErr = c.tlbiErr := rfl
@[simp] theorem cluster_setCore_stlb (c : Cluster) (k : Nat) (o : Core) : (c.setCore k o).stlb = c.stlb := rfl
@[simp] theorem cluster_setCore_ptab (c : Cluster) (k : Nat) (o : Core) : (c.setCore k o).ptab = c.ptab := rfl
@[simp] theorem cluster_setCore_fqBase (c : Cluster) (k : Nat) (o : Core) : (c.setCore k o).fqBase = c.fqBase := rfl
@[simp] theorem cluster_setCore_fqSize (c : Cluster) (k : Nat) (o : Core) : (c.setCore k o).fqSize = c.fqSize := rfl
@[simp] theorem cluster_setCore_fqHead (c : Cluster) (k : Nat) (o : Core) : (c.setCore k o).fqHead = c.fqHead := rfl
@[simp] theorem cluster_setCore_fqTail (c : Cluster) (k : Nat) (o : Core) : (c.setCore k o).fqTail = c.fqTail := rfl
@[simp] theorem cluster_setCore_frErr (c : Cluster) (k : Nat) (o : Core) : (c.setCore k o).frErr = c.frErr := rfl
@[simp] theorem cluster_setCore_faultSeq (c : Cluster) (k : Nat) (o : Core) : (c.setCore k o).faultSeq = c.faultSeq := rfl
@[simp] theorem cluster_setCore_faults (c : Cluster) (k : Nat) (o : Core) : (c.setCore k o).faults = c.faults := rfl
@[simp] theorem cluster_setCore_faultWait (c : Cluster) (k : Nat) (o : Core) : (c.setCore k o).faultWait = c.faultWait := rfl
@[simp] theorem cluster_setCore_pmSrc (c : Cluster) (k : Nat) (o : Core) : (c.setCore k o).pmSrc = c.pmSrc := rfl
@[simp] theorem cluster_setCore_pmDst (c : Cluster) (k : Nat) (o : Core) : (c.setCore k o).pmDst = c.pmDst := rfl
@[simp] theorem cluster_setCore_pmBusy (c : Cluster) (k : Nat) (o : Core) : (c.setCore k o).pmBusy = c.pmBusy := rfl
@[simp] theorem cluster_setCore_pmSize (c : Cluster) (k : Nat) (o : Core) : (c.setCore k o).pmSize = c.pmSize := rfl
@[simp] theorem cluster_setCore_pmErr (c : Cluster) (k : Nat) (o : Core) : (c.setCore k o).pmErr = c.pmErr := rfl
@[simp] theorem cluster_setCore_pmN (c : Cluster) (k : Nat) (o : Core) : (c.setCore k o).pmN = c.pmN := rfl
@[simp] theorem cluster_setCore_pmFrom (c : Cluster) (k : Nat) (o : Core) : (c.setCore k o).pmFrom = c.pmFrom := rfl
@[simp] theorem cluster_setCore_pmTo (c : Cluster) (k : Nat) (o : Core) : (c.setCore k o).pmTo = c.pmTo := rfl
@[simp] theorem cluster_setCore_lmsg (c : Cluster) (k : Nat) (o : Core) : (c.setCore k o).lmsg = c.lmsg := rfl
@[simp] theorem cluster_setCore_step (c : Cluster) (k : Nat) (o : Core) : (c.setCore k o).step = c.step := rfl
@[simp] theorem cluster_setCore_temp (c : Cluster) (k : Nat) (o : Core) : (c.setCore k o).temp = c.temp := rfl
@[simp] theorem cluster_setCore_fast (c : Cluster) (k : Nat) (o : Core) : (c.setCore k o).fast = c.fast := rfl
@[simp] theorem cluster_setCore_stepTick (c : Cluster) (k : Nat) (o : Core) : (c.setCore k o).stepTick = c.stepTick := rfl
@[simp] theorem cluster_setCore_failed (c : Cluster) (k : Nat) (o : Core) : (c.setCore k o).failed = c.failed := rfl
@[simp] theorem cluster_setCore_retired (c : Cluster) (k : Nat) (o : Core) : (c.setCore k o).retired = c.retired := rfl
@[simp] theorem cluster_setCore_granules (c : Cluster) (k : Nat) (o : Core) : (c.setCore k o).granules = c.granules := rfl
@[simp] theorem cluster_setCore_vaultErrs (c : Cluster) (k : Nat) (o : Core) : (c.setCore k o).vaultErrs = c.vaultErrs := rfl

/-! ## Fields of the module that an update of a cluster, a core or a context leaves alone -/

@[simp] theorem setCl_tick (s : State) (k : Nat) (c : Cluster) : (s.setCl k c).tick = s.tick := rfl
@[simp] theorem setCl_vault (s : State) (k : Nat) (c : Cluster) : (s.setCl k c).vault = s.vault := rfl
@[simp] theorem setCl_vbad (s : State) (k : Nat) (c : Cluster) : (s.setCl k c).vbad = s.vbad := rfl
@[simp] theorem setCl_dram (s : State) (k : Nat) (c : Cluster) : (s.setCl k c).dram = s.dram := rfl
@[simp] theorem setCl_dbad (s : State) (k : Nat) (c : Cluster) : (s.setCl k c).dbad = s.dbad := rfl
@[simp] theorem setCl_hosts (s : State) (k : Nat) (c : Cluster) : (s.setCl k c).hosts = s.hosts := rfl
@[simp] theorem setCl_hbad (s : State) (k : Nat) (c : Cluster) : (s.setCl k c).hbad = s.hbad := rfl
@[simp] theorem setCl_lds (s : State) (k : Nat) (c : Cluster) : (s.setCl k c).lds = s.lds := rfl
@[simp] theorem setCl_ports (s : State) (k : Nat) (c : Cluster) : (s.setCl k c).ports = s.ports := rfl
@[simp] theorem setCl_launches (s : State) (k : Nat) (c : Cluster) : (s.setCl k c).launches = s.launches := rfl
@[simp] theorem setCl_jobs (s : State) (k : Nat) (c : Cluster) : (s.setCl k c).jobs = s.jobs := rfl
@[simp] theorem setCl_wqs (s : State) (k : Nat) (c : Cluster) : (s.setCl k c).wqs = s.wqs := rfl
@[simp] theorem setCl_rotLd (s : State) (k : Nat) (c : Cluster) : (s.setCl k c).rotLd = s.rotLd := rfl
@[simp] theorem setCl_rotQ (s : State) (k : Nat) (c : Cluster) : (s.setCl k c).rotQ = s.rotQ := rfl
@[simp] theorem setCl_modId (s : State) (k : Nat) (c : Cluster) : (s.setCl k c).modId = s.modId := rfl
@[simp] theorem setCl_domain (s : State) (k : Nat) (c : Cluster) : (s.setCl k c).domain = s.domain := rfl
@[simp] theorem setCl_packets (s : State) (k : Nat) (c : Cluster) : (s.setCl k c).packets = s.packets := rfl
@[simp] theorem setCl_lossRecs (s : State) (k : Nat) (c : Cluster) : (s.setCl k c).lossRecs = s.lossRecs := rfl
@[simp] theorem setCl_counts (s : State) (k : Nat) (c : Cluster) : (s.setCl k c).counts = s.counts := rfl
@[simp] theorem setCl_msgs (s : State) (k : Nat) (c : Cluster) : (s.setCl k c).msgs = s.msgs := rfl
@[simp] theorem setCl_waiting (s : State) (k : Nat) (c : Cluster) : (s.setCl k c).waiting = s.waiting := rfl
@[simp] theorem setCl_arrivals (s : State) (k : Nat) (c : Cluster) : (s.setCl k c).arrivals = s.arrivals := rfl
@[simp] theorem setCl_waves (s : State) (k : Nat) (c : Cluster) : (s.setCl k c).waves = s.waves := rfl
@[simp] theorem setCl_waveTick (s : State) (k : Nat) (c : Cluster) : (s.setCl k c).waveTick = s.waveTick := rfl
@[simp] theorem setCl_waveFlight (s : State) (k : Nat) (c : Cluster) : (s.setCl k c).waveFlight = s.waveFlight := rfl
@[simp] theorem setCl_logs (s : State) (k : Nat) (c : Cluster) : (s.setCl k c).logs = s.logs := rfl
@[simp] theorem setCl_chans (s : State) (k : Nat) (c : Cluster) : (s.setCl k c).chans = s.chans := rfl
@[simp] theorem setCl_linksDown (s : State) (k : Nat) (c : Cluster) : (s.setCl k c).linksDown = s.linksDown := rfl
@[simp] theorem setCl_rerouting (s : State) (k : Nat) (c : Cluster) : (s.setCl k c).rerouting = s.rerouting := rfl
@[simp] theorem setCl_rerouteTick (s : State) (k : Nat) (c : Cluster) : (s.setCl k c).rerouteTick = s.rerouteTick := rfl
@[simp] theorem setCl_rowErrs (s : State) (k : Nat) (c : Cluster) : (s.setCl k c).rowErrs = s.rowErrs := rfl
@[simp] theorem setCl_remaps (s : State) (k : Nat) (c : Cluster) : (s.setCl k c).remaps = s.remaps := rfl
@[simp] theorem setCl_health (s : State) (k : Nat) (c : Cluster) : (s.setCl k c).health = s.health := rfl
@[simp] theorem setCl_power (s : State) (k : Nat) (c : Cluster) : (s.setCl k c).power = s.power := rfl
@[simp] theorem setCl_boot (s : State) (k : Nat) (c : Cluster) : (s.setCl k c).boot = s.boot := rfl
@[simp] theorem setCl_meas (s : State) (k : Nat) (c : Cluster) : (s.setCl k c).meas = s.meas := rfl
@[simp] theorem setCl_aliasKey (s : State) (k : Nat) (c : Cluster) : (s.setCl k c).aliasKey = s.aliasKey := rfl
@[simp] theorem setCl_told (s : State) (k : Nat) (c : Cluster) : (s.setCl k c).told = s.told := rfl
@[simp] theorem setCl_cur (s : State) (k : Nat) (c : Cluster) : (s.setCl k c).cur = s.cur := rfl
@[simp] theorem setCl_bun (s : State) (k : Nat) (c : Cluster) : (s.setCl k c).bun = s.bun := rfl
@[simp] theorem setCl_agenda (s : State) (k : Nat) (c : Cluster) : (s.setCl k c).agenda = s.agenda := rfl
@[simp] theorem setCl_req (s : State) (k : Nat) (c : Cluster) : (s.setCl k c).req = s.req := rfl
@[simp] theorem setCl_resp (s : State) (k : Nat) (c : Cluster) : (s.setCl k c).resp = s.resp := rfl
@[simp] theorem setCl_draws (s : State) (k : Nat) (c : Cluster) : (s.setCl k c).draws = s.draws := rfl

@[simp] theorem modCl_tick (s : State) (k : Nat) (f : Cluster → Cluster) : (s.modCl k f).tick = s.tick := rfl
@[simp] theorem modCl_vault (s : State) (k : Nat) (f : Cluster → Cluster) : (s.modCl k f).vault = s.vault := rfl
@[simp] theorem modCl_vbad (s : State) (k : Nat) (f : Cluster → Cluster) : (s.modCl k f).vbad = s.vbad := rfl
@[simp] theorem modCl_dram (s : State) (k : Nat) (f : Cluster → Cluster) : (s.modCl k f).dram = s.dram := rfl
@[simp] theorem modCl_dbad (s : State) (k : Nat) (f : Cluster → Cluster) : (s.modCl k f).dbad = s.dbad := rfl
@[simp] theorem modCl_hosts (s : State) (k : Nat) (f : Cluster → Cluster) : (s.modCl k f).hosts = s.hosts := rfl
@[simp] theorem modCl_hbad (s : State) (k : Nat) (f : Cluster → Cluster) : (s.modCl k f).hbad = s.hbad := rfl
@[simp] theorem modCl_lds (s : State) (k : Nat) (f : Cluster → Cluster) : (s.modCl k f).lds = s.lds := rfl
@[simp] theorem modCl_ports (s : State) (k : Nat) (f : Cluster → Cluster) : (s.modCl k f).ports = s.ports := rfl
@[simp] theorem modCl_launches (s : State) (k : Nat) (f : Cluster → Cluster) : (s.modCl k f).launches = s.launches := rfl
@[simp] theorem modCl_jobs (s : State) (k : Nat) (f : Cluster → Cluster) : (s.modCl k f).jobs = s.jobs := rfl
@[simp] theorem modCl_wqs (s : State) (k : Nat) (f : Cluster → Cluster) : (s.modCl k f).wqs = s.wqs := rfl
@[simp] theorem modCl_rotLd (s : State) (k : Nat) (f : Cluster → Cluster) : (s.modCl k f).rotLd = s.rotLd := rfl
@[simp] theorem modCl_rotQ (s : State) (k : Nat) (f : Cluster → Cluster) : (s.modCl k f).rotQ = s.rotQ := rfl
@[simp] theorem modCl_modId (s : State) (k : Nat) (f : Cluster → Cluster) : (s.modCl k f).modId = s.modId := rfl
@[simp] theorem modCl_domain (s : State) (k : Nat) (f : Cluster → Cluster) : (s.modCl k f).domain = s.domain := rfl
@[simp] theorem modCl_packets (s : State) (k : Nat) (f : Cluster → Cluster) : (s.modCl k f).packets = s.packets := rfl
@[simp] theorem modCl_lossRecs (s : State) (k : Nat) (f : Cluster → Cluster) : (s.modCl k f).lossRecs = s.lossRecs := rfl
@[simp] theorem modCl_counts (s : State) (k : Nat) (f : Cluster → Cluster) : (s.modCl k f).counts = s.counts := rfl
@[simp] theorem modCl_msgs (s : State) (k : Nat) (f : Cluster → Cluster) : (s.modCl k f).msgs = s.msgs := rfl
@[simp] theorem modCl_waiting (s : State) (k : Nat) (f : Cluster → Cluster) : (s.modCl k f).waiting = s.waiting := rfl
@[simp] theorem modCl_arrivals (s : State) (k : Nat) (f : Cluster → Cluster) : (s.modCl k f).arrivals = s.arrivals := rfl
@[simp] theorem modCl_waves (s : State) (k : Nat) (f : Cluster → Cluster) : (s.modCl k f).waves = s.waves := rfl
@[simp] theorem modCl_waveTick (s : State) (k : Nat) (f : Cluster → Cluster) : (s.modCl k f).waveTick = s.waveTick := rfl
@[simp] theorem modCl_waveFlight (s : State) (k : Nat) (f : Cluster → Cluster) : (s.modCl k f).waveFlight = s.waveFlight := rfl
@[simp] theorem modCl_logs (s : State) (k : Nat) (f : Cluster → Cluster) : (s.modCl k f).logs = s.logs := rfl
@[simp] theorem modCl_chans (s : State) (k : Nat) (f : Cluster → Cluster) : (s.modCl k f).chans = s.chans := rfl
@[simp] theorem modCl_linksDown (s : State) (k : Nat) (f : Cluster → Cluster) : (s.modCl k f).linksDown = s.linksDown := rfl
@[simp] theorem modCl_rerouting (s : State) (k : Nat) (f : Cluster → Cluster) : (s.modCl k f).rerouting = s.rerouting := rfl
@[simp] theorem modCl_rerouteTick (s : State) (k : Nat) (f : Cluster → Cluster) : (s.modCl k f).rerouteTick = s.rerouteTick := rfl
@[simp] theorem modCl_rowErrs (s : State) (k : Nat) (f : Cluster → Cluster) : (s.modCl k f).rowErrs = s.rowErrs := rfl
@[simp] theorem modCl_remaps (s : State) (k : Nat) (f : Cluster → Cluster) : (s.modCl k f).remaps = s.remaps := rfl
@[simp] theorem modCl_health (s : State) (k : Nat) (f : Cluster → Cluster) : (s.modCl k f).health = s.health := rfl
@[simp] theorem modCl_power (s : State) (k : Nat) (f : Cluster → Cluster) : (s.modCl k f).power = s.power := rfl
@[simp] theorem modCl_boot (s : State) (k : Nat) (f : Cluster → Cluster) : (s.modCl k f).boot = s.boot := rfl
@[simp] theorem modCl_meas (s : State) (k : Nat) (f : Cluster → Cluster) : (s.modCl k f).meas = s.meas := rfl
@[simp] theorem modCl_aliasKey (s : State) (k : Nat) (f : Cluster → Cluster) : (s.modCl k f).aliasKey = s.aliasKey := rfl
@[simp] theorem modCl_told (s : State) (k : Nat) (f : Cluster → Cluster) : (s.modCl k f).told = s.told := rfl
@[simp] theorem modCl_cur (s : State) (k : Nat) (f : Cluster → Cluster) : (s.modCl k f).cur = s.cur := rfl
@[simp] theorem modCl_bun (s : State) (k : Nat) (f : Cluster → Cluster) : (s.modCl k f).bun = s.bun := rfl
@[simp] theorem modCl_agenda (s : State) (k : Nat) (f : Cluster → Cluster) : (s.modCl k f).agenda = s.agenda := rfl
@[simp] theorem modCl_req (s : State) (k : Nat) (f : Cluster → Cluster) : (s.modCl k f).req = s.req := rfl
@[simp] theorem modCl_resp (s : State) (k : Nat) (f : Cluster → Cluster) : (s.modCl k f).resp = s.resp := rfl
@[simp] theorem modCl_draws (s : State) (k : Nat) (f : Cluster → Cluster) : (s.modCl k f).draws = s.draws := rfl

@[simp] theorem setCore_tick (s : State) (c : CoreId) (o : Core) : (s.setCore c o).tick = s.tick := rfl
@[simp] theorem setCore_vault (s : State) (c : CoreId) (o : Core) : (s.setCore c o).vault = s.vault := rfl
@[simp] theorem setCore_vbad (s : State) (c : CoreId) (o : Core) : (s.setCore c o).vbad = s.vbad := rfl
@[simp] theorem setCore_dram (s : State) (c : CoreId) (o : Core) : (s.setCore c o).dram = s.dram := rfl
@[simp] theorem setCore_dbad (s : State) (c : CoreId) (o : Core) : (s.setCore c o).dbad = s.dbad := rfl
@[simp] theorem setCore_hosts (s : State) (c : CoreId) (o : Core) : (s.setCore c o).hosts = s.hosts := rfl
@[simp] theorem setCore_hbad (s : State) (c : CoreId) (o : Core) : (s.setCore c o).hbad = s.hbad := rfl
@[simp] theorem setCore_lds (s : State) (c : CoreId) (o : Core) : (s.setCore c o).lds = s.lds := rfl
@[simp] theorem setCore_ports (s : State) (c : CoreId) (o : Core) : (s.setCore c o).ports = s.ports := rfl
@[simp] theorem setCore_launches (s : State) (c : CoreId) (o : Core) : (s.setCore c o).launches = s.launches := rfl
@[simp] theorem setCore_jobs (s : State) (c : CoreId) (o : Core) : (s.setCore c o).jobs = s.jobs := rfl
@[simp] theorem setCore_wqs (s : State) (c : CoreId) (o : Core) : (s.setCore c o).wqs = s.wqs := rfl
@[simp] theorem setCore_rotLd (s : State) (c : CoreId) (o : Core) : (s.setCore c o).rotLd = s.rotLd := rfl
@[simp] theorem setCore_rotQ (s : State) (c : CoreId) (o : Core) : (s.setCore c o).rotQ = s.rotQ := rfl
@[simp] theorem setCore_modId (s : State) (c : CoreId) (o : Core) : (s.setCore c o).modId = s.modId := rfl
@[simp] theorem setCore_domain (s : State) (c : CoreId) (o : Core) : (s.setCore c o).domain = s.domain := rfl
@[simp] theorem setCore_packets (s : State) (c : CoreId) (o : Core) : (s.setCore c o).packets = s.packets := rfl
@[simp] theorem setCore_lossRecs (s : State) (c : CoreId) (o : Core) : (s.setCore c o).lossRecs = s.lossRecs := rfl
@[simp] theorem setCore_counts (s : State) (c : CoreId) (o : Core) : (s.setCore c o).counts = s.counts := rfl
@[simp] theorem setCore_msgs (s : State) (c : CoreId) (o : Core) : (s.setCore c o).msgs = s.msgs := rfl
@[simp] theorem setCore_waiting (s : State) (c : CoreId) (o : Core) : (s.setCore c o).waiting = s.waiting := rfl
@[simp] theorem setCore_arrivals (s : State) (c : CoreId) (o : Core) : (s.setCore c o).arrivals = s.arrivals := rfl
@[simp] theorem setCore_waves (s : State) (c : CoreId) (o : Core) : (s.setCore c o).waves = s.waves := rfl
@[simp] theorem setCore_waveTick (s : State) (c : CoreId) (o : Core) : (s.setCore c o).waveTick = s.waveTick := rfl
@[simp] theorem setCore_waveFlight (s : State) (c : CoreId) (o : Core) : (s.setCore c o).waveFlight = s.waveFlight := rfl
@[simp] theorem setCore_logs (s : State) (c : CoreId) (o : Core) : (s.setCore c o).logs = s.logs := rfl
@[simp] theorem setCore_chans (s : State) (c : CoreId) (o : Core) : (s.setCore c o).chans = s.chans := rfl
@[simp] theorem setCore_linksDown (s : State) (c : CoreId) (o : Core) : (s.setCore c o).linksDown = s.linksDown := rfl
@[simp] theorem setCore_rerouting (s : State) (c : CoreId) (o : Core) : (s.setCore c o).rerouting = s.rerouting := rfl
@[simp] theorem setCore_rerouteTick (s : State) (c : CoreId) (o : Core) : (s.setCore c o).rerouteTick = s.rerouteTick := rfl
@[simp] theorem setCore_rowErrs (s : State) (c : CoreId) (o : Core) : (s.setCore c o).rowErrs = s.rowErrs := rfl
@[simp] theorem setCore_remaps (s : State) (c : CoreId) (o : Core) : (s.setCore c o).remaps = s.remaps := rfl
@[simp] theorem setCore_health (s : State) (c : CoreId) (o : Core) : (s.setCore c o).health = s.health := rfl
@[simp] theorem setCore_power (s : State) (c : CoreId) (o : Core) : (s.setCore c o).power = s.power := rfl
@[simp] theorem setCore_boot (s : State) (c : CoreId) (o : Core) : (s.setCore c o).boot = s.boot := rfl
@[simp] theorem setCore_meas (s : State) (c : CoreId) (o : Core) : (s.setCore c o).meas = s.meas := rfl
@[simp] theorem setCore_aliasKey (s : State) (c : CoreId) (o : Core) : (s.setCore c o).aliasKey = s.aliasKey := rfl
@[simp] theorem setCore_told (s : State) (c : CoreId) (o : Core) : (s.setCore c o).told = s.told := rfl
@[simp] theorem setCore_cur (s : State) (c : CoreId) (o : Core) : (s.setCore c o).cur = s.cur := rfl
@[simp] theorem setCore_bun (s : State) (c : CoreId) (o : Core) : (s.setCore c o).bun = s.bun := rfl
@[simp] theorem setCore_agenda (s : State) (c : CoreId) (o : Core) : (s.setCore c o).agenda = s.agenda := rfl
@[simp] theorem setCore_req (s : State) (c : CoreId) (o : Core) : (s.setCore c o).req = s.req := rfl
@[simp] theorem setCore_resp (s : State) (c : CoreId) (o : Core) : (s.setCore c o).resp = s.resp := rfl
@[simp] theorem setCore_draws (s : State) (c : CoreId) (o : Core) : (s.setCore c o).draws = s.draws := rfl

@[simp] theorem modCore_tick (s : State) (c : CoreId) (f : Core → Core) : (s.modCore c f).tick = s.tick := rfl
@[simp] theorem modCore_vault (s : State) (c : CoreId) (f : Core → Core) : (s.modCore c f).vault = s.vault := rfl
@[simp] theorem modCore_vbad (s : State) (c : CoreId) (f : Core → Core) : (s.modCore c f).vbad = s.vbad := rfl
@[simp] theorem modCore_dram (s : State) (c : CoreId) (f : Core → Core) : (s.modCore c f).dram = s.dram := rfl
@[simp] theorem modCore_dbad (s : State) (c : CoreId) (f : Core → Core) : (s.modCore c f).dbad = s.dbad := rfl
@[simp] theorem modCore_hosts (s : State) (c : CoreId) (f : Core → Core) : (s.modCore c f).hosts = s.hosts := rfl
@[simp] theorem modCore_hbad (s : State) (c : CoreId) (f : Core → Core) : (s.modCore c f).hbad = s.hbad := rfl
@[simp] theorem modCore_lds (s : State) (c : CoreId) (f : Core → Core) : (s.modCore c f).lds = s.lds := rfl
@[simp] theorem modCore_ports (s : State) (c : CoreId) (f : Core → Core) : (s.modCore c f).ports = s.ports := rfl
@[simp] theorem modCore_launches (s : State) (c : CoreId) (f : Core → Core) : (s.modCore c f).launches = s.launches := rfl
@[simp] theorem modCore_jobs (s : State) (c : CoreId) (f : Core → Core) : (s.modCore c f).jobs = s.jobs := rfl
@[simp] theorem modCore_wqs (s : State) (c : CoreId) (f : Core → Core) : (s.modCore c f).wqs = s.wqs := rfl
@[simp] theorem modCore_rotLd (s : State) (c : CoreId) (f : Core → Core) : (s.modCore c f).rotLd = s.rotLd := rfl
@[simp] theorem modCore_rotQ (s : State) (c : CoreId) (f : Core → Core) : (s.modCore c f).rotQ = s.rotQ := rfl
@[simp] theorem modCore_modId (s : State) (c : CoreId) (f : Core → Core) : (s.modCore c f).modId = s.modId := rfl
@[simp] theorem modCore_domain (s : State) (c : CoreId) (f : Core → Core) : (s.modCore c f).domain = s.domain := rfl
@[simp] theorem modCore_packets (s : State) (c : CoreId) (f : Core → Core) : (s.modCore c f).packets = s.packets := rfl
@[simp] theorem modCore_lossRecs (s : State) (c : CoreId) (f : Core → Core) : (s.modCore c f).lossRecs = s.lossRecs := rfl
@[simp] theorem modCore_counts (s : State) (c : CoreId) (f : Core → Core) : (s.modCore c f).counts = s.counts := rfl
@[simp] theorem modCore_msgs (s : State) (c : CoreId) (f : Core → Core) : (s.modCore c f).msgs = s.msgs := rfl
@[simp] theorem modCore_waiting (s : State) (c : CoreId) (f : Core → Core) : (s.modCore c f).waiting = s.waiting := rfl
@[simp] theorem modCore_arrivals (s : State) (c : CoreId) (f : Core → Core) : (s.modCore c f).arrivals = s.arrivals := rfl
@[simp] theorem modCore_waves (s : State) (c : CoreId) (f : Core → Core) : (s.modCore c f).waves = s.waves := rfl
@[simp] theorem modCore_waveTick (s : State) (c : CoreId) (f : Core → Core) : (s.modCore c f).waveTick = s.waveTick := rfl
@[simp] theorem modCore_waveFlight (s : State) (c : CoreId) (f : Core → Core) : (s.modCore c f).waveFlight = s.waveFlight := rfl
@[simp] theorem modCore_logs (s : State) (c : CoreId) (f : Core → Core) : (s.modCore c f).logs = s.logs := rfl
@[simp] theorem modCore_chans (s : State) (c : CoreId) (f : Core → Core) : (s.modCore c f).chans = s.chans := rfl
@[simp] theorem modCore_linksDown (s : State) (c : CoreId) (f : Core → Core) : (s.modCore c f).linksDown = s.linksDown := rfl
@[simp] theorem modCore_rerouting (s : State) (c : CoreId) (f : Core → Core) : (s.modCore c f).rerouting = s.rerouting := rfl
@[simp] theorem modCore_rerouteTick (s : State) (c : CoreId) (f : Core → Core) : (s.modCore c f).rerouteTick = s.rerouteTick := rfl
@[simp] theorem modCore_rowErrs (s : State) (c : CoreId) (f : Core → Core) : (s.modCore c f).rowErrs = s.rowErrs := rfl
@[simp] theorem modCore_remaps (s : State) (c : CoreId) (f : Core → Core) : (s.modCore c f).remaps = s.remaps := rfl
@[simp] theorem modCore_health (s : State) (c : CoreId) (f : Core → Core) : (s.modCore c f).health = s.health := rfl
@[simp] theorem modCore_power (s : State) (c : CoreId) (f : Core → Core) : (s.modCore c f).power = s.power := rfl
@[simp] theorem modCore_boot (s : State) (c : CoreId) (f : Core → Core) : (s.modCore c f).boot = s.boot := rfl
@[simp] theorem modCore_meas (s : State) (c : CoreId) (f : Core → Core) : (s.modCore c f).meas = s.meas := rfl
@[simp] theorem modCore_aliasKey (s : State) (c : CoreId) (f : Core → Core) : (s.modCore c f).aliasKey = s.aliasKey := rfl
@[simp] theorem modCore_told (s : State) (c : CoreId) (f : Core → Core) : (s.modCore c f).told = s.told := rfl
@[simp] theorem modCore_cur (s : State) (c : CoreId) (f : Core → Core) : (s.modCore c f).cur = s.cur := rfl
@[simp] theorem modCore_bun (s : State) (c : CoreId) (f : Core → Core) : (s.modCore c f).bun = s.bun := rfl
@[simp] theorem modCore_agenda (s : State) (c : CoreId) (f : Core → Core) : (s.modCore c f).agenda = s.agenda := rfl
@[simp] theorem modCore_req (s : State) (c : CoreId) (f : Core → Core) : (s.modCore c f).req = s.req := rfl
@[simp] theorem modCore_resp (s : State) (c : CoreId) (f : Core → Core) : (s.modCore c f).resp = s.resp := rfl
@[simp] theorem modCore_draws (s : State) (c : CoreId) (f : Core → Core) : (s.modCore c f).draws = s.draws := rfl

@[simp] theorem setCtx_tick (s : State) (x : CtxId) (v : Ctx) : (s.setCtx x v).tick = s.tick := rfl
@[simp] theorem setCtx_vault (s : State) (x : CtxId) (v : Ctx) : (s.setCtx x v).vault = s.vault := rfl
@[simp] theorem setCtx_vbad (s : State) (x : CtxId) (v : Ctx) : (s.setCtx x v).vbad = s.vbad := rfl
@[simp] theorem setCtx_dram (s : State) (x : CtxId) (v : Ctx) : (s.setCtx x v).dram = s.dram := rfl
@[simp] theorem setCtx_dbad (s : State) (x : CtxId) (v : Ctx) : (s.setCtx x v).dbad = s.dbad := rfl
@[simp] theorem setCtx_hosts (s : State) (x : CtxId) (v : Ctx) : (s.setCtx x v).hosts = s.hosts := rfl
@[simp] theorem setCtx_hbad (s : State) (x : CtxId) (v : Ctx) : (s.setCtx x v).hbad = s.hbad := rfl
@[simp] theorem setCtx_lds (s : State) (x : CtxId) (v : Ctx) : (s.setCtx x v).lds = s.lds := rfl
@[simp] theorem setCtx_ports (s : State) (x : CtxId) (v : Ctx) : (s.setCtx x v).ports = s.ports := rfl
@[simp] theorem setCtx_launches (s : State) (x : CtxId) (v : Ctx) : (s.setCtx x v).launches = s.launches := rfl
@[simp] theorem setCtx_jobs (s : State) (x : CtxId) (v : Ctx) : (s.setCtx x v).jobs = s.jobs := rfl
@[simp] theorem setCtx_wqs (s : State) (x : CtxId) (v : Ctx) : (s.setCtx x v).wqs = s.wqs := rfl
@[simp] theorem setCtx_rotLd (s : State) (x : CtxId) (v : Ctx) : (s.setCtx x v).rotLd = s.rotLd := rfl
@[simp] theorem setCtx_rotQ (s : State) (x : CtxId) (v : Ctx) : (s.setCtx x v).rotQ = s.rotQ := rfl
@[simp] theorem setCtx_modId (s : State) (x : CtxId) (v : Ctx) : (s.setCtx x v).modId = s.modId := rfl
@[simp] theorem setCtx_domain (s : State) (x : CtxId) (v : Ctx) : (s.setCtx x v).domain = s.domain := rfl
@[simp] theorem setCtx_packets (s : State) (x : CtxId) (v : Ctx) : (s.setCtx x v).packets = s.packets := rfl
@[simp] theorem setCtx_lossRecs (s : State) (x : CtxId) (v : Ctx) : (s.setCtx x v).lossRecs = s.lossRecs := rfl
@[simp] theorem setCtx_counts (s : State) (x : CtxId) (v : Ctx) : (s.setCtx x v).counts = s.counts := rfl
@[simp] theorem setCtx_msgs (s : State) (x : CtxId) (v : Ctx) : (s.setCtx x v).msgs = s.msgs := rfl
@[simp] theorem setCtx_waiting (s : State) (x : CtxId) (v : Ctx) : (s.setCtx x v).waiting = s.waiting := rfl
@[simp] theorem setCtx_arrivals (s : State) (x : CtxId) (v : Ctx) : (s.setCtx x v).arrivals = s.arrivals := rfl
@[simp] theorem setCtx_waves (s : State) (x : CtxId) (v : Ctx) : (s.setCtx x v).waves = s.waves := rfl
@[simp] theorem setCtx_waveTick (s : State) (x : CtxId) (v : Ctx) : (s.setCtx x v).waveTick = s.waveTick := rfl
@[simp] theorem setCtx_waveFlight (s : State) (x : CtxId) (v : Ctx) : (s.setCtx x v).waveFlight = s.waveFlight := rfl
@[simp] theorem setCtx_logs (s : State) (x : CtxId) (v : Ctx) : (s.setCtx x v).logs = s.logs := rfl
@[simp] theorem setCtx_chans (s : State) (x : CtxId) (v : Ctx) : (s.setCtx x v).chans = s.chans := rfl
@[simp] theorem setCtx_linksDown (s : State) (x : CtxId) (v : Ctx) : (s.setCtx x v).linksDown = s.linksDown := rfl
@[simp] theorem setCtx_rerouting (s : State) (x : CtxId) (v : Ctx) : (s.setCtx x v).rerouting = s.rerouting := rfl
@[simp] theorem setCtx_rerouteTick (s : State) (x : CtxId) (v : Ctx) : (s.setCtx x v).rerouteTick = s.rerouteTick := rfl
@[simp] theorem setCtx_rowErrs (s : State) (x : CtxId) (v : Ctx) : (s.setCtx x v).rowErrs = s.rowErrs := rfl
@[simp] theorem setCtx_remaps (s : State) (x : CtxId) (v : Ctx) : (s.setCtx x v).remaps = s.remaps := rfl
@[simp] theorem setCtx_health (s : State) (x : CtxId) (v : Ctx) : (s.setCtx x v).health = s.health := rfl
@[simp] theorem setCtx_power (s : State) (x : CtxId) (v : Ctx) : (s.setCtx x v).power = s.power := rfl
@[simp] theorem setCtx_boot (s : State) (x : CtxId) (v : Ctx) : (s.setCtx x v).boot = s.boot := rfl
@[simp] theorem setCtx_meas (s : State) (x : CtxId) (v : Ctx) : (s.setCtx x v).meas = s.meas := rfl
@[simp] theorem setCtx_aliasKey (s : State) (x : CtxId) (v : Ctx) : (s.setCtx x v).aliasKey = s.aliasKey := rfl
@[simp] theorem setCtx_told (s : State) (x : CtxId) (v : Ctx) : (s.setCtx x v).told = s.told := rfl
@[simp] theorem setCtx_cur (s : State) (x : CtxId) (v : Ctx) : (s.setCtx x v).cur = s.cur := rfl
@[simp] theorem setCtx_bun (s : State) (x : CtxId) (v : Ctx) : (s.setCtx x v).bun = s.bun := rfl
@[simp] theorem setCtx_agenda (s : State) (x : CtxId) (v : Ctx) : (s.setCtx x v).agenda = s.agenda := rfl
@[simp] theorem setCtx_req (s : State) (x : CtxId) (v : Ctx) : (s.setCtx x v).req = s.req := rfl
@[simp] theorem setCtx_resp (s : State) (x : CtxId) (v : Ctx) : (s.setCtx x v).resp = s.resp := rfl
@[simp] theorem setCtx_draws (s : State) (x : CtxId) (v : Ctx) : (s.setCtx x v).draws = s.draws := rfl

@[simp] theorem modCtx_tick (s : State) (x : CtxId) (f : Ctx → Ctx) : (s.modCtx x f).tick = s.tick := rfl
@[simp] theorem modCtx_vault (s : State) (x : CtxId) (f : Ctx → Ctx) : (s.modCtx x f).vault = s.vault := rfl
@[simp] theorem modCtx_vbad (s : State) (x : CtxId) (f : Ctx → Ctx) : (s.modCtx x f).vbad = s.vbad := rfl
@[simp] theorem modCtx_dram (s : State) (x : CtxId) (f : Ctx → Ctx) : (s.modCtx x f).dram = s.dram := rfl
@[simp] theorem modCtx_dbad (s : State) (x : CtxId) (f : Ctx → Ctx) : (s.modCtx x f).dbad = s.dbad := rfl
@[simp] theorem modCtx_hosts (s : State) (x : CtxId) (f : Ctx → Ctx) : (s.modCtx x f).hosts = s.hosts := rfl
@[simp] theorem modCtx_hbad (s : State) (x : CtxId) (f : Ctx → Ctx) : (s.modCtx x f).hbad = s.hbad := rfl
@[simp] theorem modCtx_lds (s : State) (x : CtxId) (f : Ctx → Ctx) : (s.modCtx x f).lds = s.lds := rfl
@[simp] theorem modCtx_ports (s : State) (x : CtxId) (f : Ctx → Ctx) : (s.modCtx x f).ports = s.ports := rfl
@[simp] theorem modCtx_launches (s : State) (x : CtxId) (f : Ctx → Ctx) : (s.modCtx x f).launches = s.launches := rfl
@[simp] theorem modCtx_jobs (s : State) (x : CtxId) (f : Ctx → Ctx) : (s.modCtx x f).jobs = s.jobs := rfl
@[simp] theorem modCtx_wqs (s : State) (x : CtxId) (f : Ctx → Ctx) : (s.modCtx x f).wqs = s.wqs := rfl
@[simp] theorem modCtx_rotLd (s : State) (x : CtxId) (f : Ctx → Ctx) : (s.modCtx x f).rotLd = s.rotLd := rfl
@[simp] theorem modCtx_rotQ (s : State) (x : CtxId) (f : Ctx → Ctx) : (s.modCtx x f).rotQ = s.rotQ := rfl
@[simp] theorem modCtx_modId (s : State) (x : CtxId) (f : Ctx → Ctx) : (s.modCtx x f).modId = s.modId := rfl
@[simp] theorem modCtx_domain (s : State) (x : CtxId) (f : Ctx → Ctx) : (s.modCtx x f).domain = s.domain := rfl
@[simp] theorem modCtx_packets (s : State) (x : CtxId) (f : Ctx → Ctx) : (s.modCtx x f).packets = s.packets := rfl
@[simp] theorem modCtx_lossRecs (s : State) (x : CtxId) (f : Ctx → Ctx) : (s.modCtx x f).lossRecs = s.lossRecs := rfl
@[simp] theorem modCtx_counts (s : State) (x : CtxId) (f : Ctx → Ctx) : (s.modCtx x f).counts = s.counts := rfl
@[simp] theorem modCtx_msgs (s : State) (x : CtxId) (f : Ctx → Ctx) : (s.modCtx x f).msgs = s.msgs := rfl
@[simp] theorem modCtx_waiting (s : State) (x : CtxId) (f : Ctx → Ctx) : (s.modCtx x f).waiting = s.waiting := rfl
@[simp] theorem modCtx_arrivals (s : State) (x : CtxId) (f : Ctx → Ctx) : (s.modCtx x f).arrivals = s.arrivals := rfl
@[simp] theorem modCtx_waves (s : State) (x : CtxId) (f : Ctx → Ctx) : (s.modCtx x f).waves = s.waves := rfl
@[simp] theorem modCtx_waveTick (s : State) (x : CtxId) (f : Ctx → Ctx) : (s.modCtx x f).waveTick = s.waveTick := rfl
@[simp] theorem modCtx_waveFlight (s : State) (x : CtxId) (f : Ctx → Ctx) : (s.modCtx x f).waveFlight = s.waveFlight := rfl
@[simp] theorem modCtx_logs (s : State) (x : CtxId) (f : Ctx → Ctx) : (s.modCtx x f).logs = s.logs := rfl
@[simp] theorem modCtx_chans (s : State) (x : CtxId) (f : Ctx → Ctx) : (s.modCtx x f).chans = s.chans := rfl
@[simp] theorem modCtx_linksDown (s : State) (x : CtxId) (f : Ctx → Ctx) : (s.modCtx x f).linksDown = s.linksDown := rfl
@[simp] theorem modCtx_rerouting (s : State) (x : CtxId) (f : Ctx → Ctx) : (s.modCtx x f).rerouting = s.rerouting := rfl
@[simp] theorem modCtx_rerouteTick (s : State) (x : CtxId) (f : Ctx → Ctx) : (s.modCtx x f).rerouteTick = s.rerouteTick := rfl
@[simp] theorem modCtx_rowErrs (s : State) (x : CtxId) (f : Ctx → Ctx) : (s.modCtx x f).rowErrs = s.rowErrs := rfl
@[simp] theorem modCtx_remaps (s : State) (x : CtxId) (f : Ctx → Ctx) : (s.modCtx x f).remaps = s.remaps := rfl
@[simp] theorem modCtx_health (s : State) (x : CtxId) (f : Ctx → Ctx) : (s.modCtx x f).health = s.health := rfl
@[simp] theorem modCtx_power (s : State) (x : CtxId) (f : Ctx → Ctx) : (s.modCtx x f).power = s.power := rfl
@[simp] theorem modCtx_boot (s : State) (x : CtxId) (f : Ctx → Ctx) : (s.modCtx x f).boot = s.boot := rfl
@[simp] theorem modCtx_meas (s : State) (x : CtxId) (f : Ctx → Ctx) : (s.modCtx x f).meas = s.meas := rfl
@[simp] theorem modCtx_aliasKey (s : State) (x : CtxId) (f : Ctx → Ctx) : (s.modCtx x f).aliasKey = s.aliasKey := rfl
@[simp] theorem modCtx_told (s : State) (x : CtxId) (f : Ctx → Ctx) : (s.modCtx x f).told = s.told := rfl
@[simp] theorem modCtx_cur (s : State) (x : CtxId) (f : Ctx → Ctx) : (s.modCtx x f).cur = s.cur := rfl
@[simp] theorem modCtx_bun (s : State) (x : CtxId) (f : Ctx → Ctx) : (s.modCtx x f).bun = s.bun := rfl
@[simp] theorem modCtx_agenda (s : State) (x : CtxId) (f : Ctx → Ctx) : (s.modCtx x f).agenda = s.agenda := rfl
@[simp] theorem modCtx_req (s : State) (x : CtxId) (f : Ctx → Ctx) : (s.modCtx x f).req = s.req := rfl
@[simp] theorem modCtx_resp (s : State) (x : CtxId) (f : Ctx → Ctx) : (s.modCtx x f).resp = s.resp := rfl
@[simp] theorem modCtx_draws (s : State) (x : CtxId) (f : Ctx → Ctx) : (s.modCtx x f).draws = s.draws := rfl

end Sys2Proof.Machine
end

