-- ==== Sys2Proof/Laws/Bundle.lean ====
section
/-! SUPPORT. Laws of slots and bundles: what one slot of a bundle in flight can do, what a slot meaning run by itself does, reading
and writing registers, and what taking a trap and rolling a region back leave in every context. -/

namespace Sys2Proof.Machine

/-! ## What a slot sees -/

@[simp] theorem env_x (b : Bun) (c : Cond) : (b.env c).x = b.x := rfl
@[simp] theorem env_pre (b : Bun) (c : Cond) : (b.env c).pre = b.pre := rfl
@[simp] theorem env_baddr (b : Bun) (c : Cond) : (b.env c).baddr = b.baddr := rfl
@[simp] theorem env_te (b : Bun) (c : Cond) : (b.env c).te = c.te := rfl

/-! ## One slot -/

/-- A slot that issues and stops at nothing: its effect. -/
theorem runSlot_ok {k : Slot} {c : Cond} {br : Bool} {body : Env → State → Rd State} {s : State} {b : Bun} {t : State}
    (h : s.issues b c) (e : body (b.env c) s = .ok t) : runSlot k c br body s = .next t := by
  obtain ⟨hb, hc⟩ := h
  simp only [Bun.env] at e
  simp [runSlot, State.slot, hb, hc, e]

/-- A slot that issues and stops: the bundle notes the stop, and the slot writes nothing. -/
theorem runSlot_stop {k : Slot} {c : Cond} {br : Bool} {body : Env → State → Rd State} {s : State} {b : Bun} {st : Stop}
    (h : s.issues b c) (e : body (b.env c) s = .error st) :
    runSlot k c br body s = .next { s with bun := some { b with outs := b.outs ++ [(k.num, slotStop body (b.env c) s st)] } } := by
  obtain ⟨hb, hc⟩ := h
  simp only [Bun.env] at e ⊢
  simp [runSlot, State.slot, hb, hc, e]

/-- A slot that is held back does nothing. -/
theorem runSlot_held {k : Slot} {c : Cond} {br : Bool} {body : Env → State → Rd State} {s : State} {b : Bun}
    (hb : s.bun = some b) (hc : condRuns c b.pre = false) : runSlot k c br body s = .next s := by
  simp [runSlot, State.slot, hb, hc]

/-- A slot meaning run by itself: a bundle that holds it alone. -/
theorem runSlot_alone {k : Slot} {c : Cond} {br : Bool} {body : Env → State → Rd State} {s : State} (hb : s.bun = none) :
    runSlot k c br body s = .next (closeBundle s ((s.openAlone br).slot k c body)) := by
  simp [runSlot, hb]

/-- Everything that a slot can do: it always answers a next state. -/
theorem runSlot_next (k : Slot) (c : Cond) (br : Bool) (body : Env → State → Rd State) (s : State) :
    ∃ t, runSlot k c br body s = .next t := by
  unfold runSlot; cases s.bun <;> exact ⟨_, rfl⟩

/-! ## Registers -/

@[simp] theorem rdS_zero (e : Env) : rdS e 0 = .ok 0 := by simp [rdS]

theorem sc_setS (r : Regs) (n m : Nat) (c : RCell 64) : (r.setS n c).sc m = if n ≠ 0 ∧ m = n then c else r.sc m := by
  by_cases h : n = 0 <;> simp [Regs.setS, Regs.sc, h, tget_tset]
theorem ac_setA (r : Regs) (n m : Nat) (c : RCell 64) : (r.setA n c).ac m = if m = n then c else r.ac m := by
  simp [Regs.setA, Regs.ac, tget_tset]
theorem vc_setV (r : Regs) (n m : Nat) (c : RCell 1024) : (r.setV n c).vc m = if m = n then c else r.vc m := by
  simp [Regs.setV, Regs.vc, tget_tset]
theorem pv_setP (r : Regs) (n m : Nat) (b : Bool) : (r.setP n b).pv m = if n ≠ 0 ∧ m = n then b else r.pv m := by
  by_cases h : n = 0
  · simp [Regs.setP, h]
  · by_cases hm : m = n
    · simp [Regs.setP, Regs.pv, h, hm, tget_tset]
    · simp [Regs.setP, Regs.pv, h, hm, tget_tset]

/-- Writing one register leaves every other alone. -/
theorem sameRegsBut_wr (r : Regs) (k : RegRef) (v : Nat) : sameRegsBut [k] r (r.wr k v) := by
  cases k with
  | s n =>
    by_cases h : n = 0
    · simp [sameRegsBut, Regs.wr, Regs.setS, h]
    · refine ⟨fun m hm => ?_, fun _ _ => ?_, fun _ _ => ?_, fun _ _ => ?_, ?_, ?_⟩
      · have : ¬ m = n := by simpa using hm
        simp [Regs.wr, sc_setS, h, this]
      all_goals simp [Regs.wr, Regs.setS, h, Regs.ac, Regs.vc, Regs.pv]
  | a n =>
    refine ⟨fun _ _ => ?_, fun m hm => ?_, fun _ _ => ?_, fun _ _ => ?_, ?_, ?_⟩
    · simp [Regs.wr, Regs.setA, Regs.sc]
    · have : ¬ m = n := by simpa using hm
      simp [Regs.wr, ac_setA, this]
    all_goals simp [Regs.wr, Regs.setA, Regs.vc, Regs.pv]
  | v n =>
    refine ⟨fun _ _ => ?_, fun _ _ => ?_, fun m hm => ?_, fun _ _ => ?_, ?_, ?_⟩
    · simp [Regs.wr, Regs.setV, Regs.sc]
    · simp [Regs.wr, Regs.setV, Regs.ac]
    · have : ¬ m = n := by simpa using hm
      simp [Regs.wr, vc_setV, this]
    all_goals simp [Regs.wr, Regs.setV, Regs.pv]
  | p n =>
    by_cases h : n = 0
    · simp [sameRegsBut, Regs.wr, Regs.setP, h]
    · refine ⟨fun _ _ => ?_, fun _ _ => ?_, fun _ _ => ?_, fun m hm => ?_, ?_, ?_⟩
      · simp [Regs.wr, Regs.setP, h, Regs.sc]
      · simp [Regs.wr, Regs.setP, h, Regs.ac]
      · simp [Regs.wr, Regs.setP, h, Regs.vc]
      · have : ¬ m = n := by simpa using hm
        simp [Regs.wr, pv_setP, h, this]
      all_goals simp [Regs.wr, Regs.setP, h]

/-! ## Taking a trap, and rolling back -/

/-- Counting a cluster's events reaches no context. -/
@[simp] theorem ctx_tallyCl (s : State) (k code n : Nat) (y : CtxId) : (s.tallyCl k code n).ctx y = s.ctx y := by
  unfold State.tallyCl
  split
  · rfl
  · rw [ctx_modCl]
    split <;> simp_all [State.ctx, State.core, Cluster.core, CtxId.coreId]

/-- Counting a core's events reaches no context. -/
@[simp] theorem ctx_tally (s : State) (x : CtxId) (code n : Nat) (y : CtxId) : (s.tally x code n).ctx y = s.ctx y := by
  unfold State.tally
  split
  · rfl
  · rw [ctx_modCore]
    split <;> simp_all [State.ctx, Core.ctx]

/-- Sending a record reaches no context. -/
@[simp] theorem ctx_addRecord (s : State) (k : Nat) (r : TrapRec) (y : CtxId) : (s.addRecord k r).ctx y = s.ctx y := by
  unfold State.addRecord
  rw [ctx_modCl]
  split <;> simp_all [State.ctx, State.core, Cluster.core, CtxId.coreId]

/-- Stopping a context marks it stopped; every other context, and every other piece of it, stands (R288). -/
theorem ctx_stop (s : State) (x y : CtxId) :
    (s.stop x).ctx y = if y = x then { s.ctx x with pr := { (s.ctx x).pr with stopped := true } } else s.ctx y := by
  unfold State.stop State.modPr
  rw [ctx_modCore]
  by_cases h : y = x
  · subst h
    have e := ctx_modCtx s y y fun c => { c with pr := { c.pr with stopped := true } }
    simp only [if_true] at e ⊢
    exact e
  · have e := ctx_modCtx s x y fun c => { c with pr := { c.pr with stopped := true } }
    simp only [h, if_false] at e ⊢
    split
    · rename_i hc
      rw [← e, State.ctx, hc]; rfl
    · exact e

/-- A trap stops its context where it stands: the registers, the PC and all else are kept, and no other context changes (R9, R288). -/
theorem ctx_takeTrap (s : State) (x y : CtxId) (cause slot baddr detail : Nat) (flag rb delay : Bool) :
    (s.takeTrap x cause slot baddr detail flag rb delay).ctx y =
      if y = x then { s.ctx x with pr := { (s.ctx x).pr with stopped := true } } else s.ctx y := by
  unfold State.takeTrap
  simp only [ctx_stop, ctx_addRecord]
  split <;> (try split) <;> simp

/-- Where no region is open nothing is rolled back. -/
theorem rollback_none {s : State} {x : CtxId} (h : (s.ctx x).region = none) (baddr slot cause tcause : Nat) :
    s.rollback x baddr slot cause tcause = s := by
  simp [State.rollback, h]

@[simp] theorem ctx_rbNotice (s : State) (x : CtxId) (slot pont : Nat) (y : CtxId) : (s.rbNotice x slot pont).ctx y = s.ctx y := by
  unfold State.rbNotice
  simp only
  split <;> simp

/-- Rolling back restores the region's checkpoint in its own context and reaches no other (R224, R225). -/
theorem ctx_rollback {s : State} {x : CtxId} {g : Region} (h : (s.ctx x).region = some g) (baddr slot cause tcause : Nat)
    (y : CtxId) :
    (s.rollback x baddr slot cause tcause).ctx y =
      if y = x then ((s.ctx x).rolled g (rbcauseOf baddr slot cause tcause)).wake else s.ctx y := by
  unfold State.rollback
  simp only [h, ctx_tally, State.wake, ctx_modCtx, ctx_rbNotice]
  split <;> simp

/-! ## Events -/

theorem event_true (n : String) (s : State) : event n true s = .next s := rfl
theorem event_next {n : String} {ok : Bool} {s t : State} (h : event n ok s = .next t) : ok = true ∧ t = s := by
  unfold event at h; split at h
  · rename_i h'; exact ⟨h', by injection h with h; exact h.symm⟩
  · cases h

end Sys2Proof.Machine
end

