-- ==== Sys2Proof/Laws/Counting.lean ====
section
/-! SUPPORT. Laws of counting: event counters, the cycles that pass and the core's notes of who issues reach no context and no byte. -/

namespace Sys2Proof.Machine

open Sys2Proof.Claim

/-- What a change of a table's values under their keys leaves of each value, it leaves of every lookup. -/
theorem tget_map_keep {α β : Type} {d : α} (p : α → β) (f : Nat → α → α) (h : ∀ k v, p (f k v) = p v) (t : Tab α) (k : Nat) :
    p (tget d (t.map fun e => (e.1, f e.1 e.2)) k) = p (tget d t k) := by
  induction t with
  | nil => rfl
  | cons e t ih => simp only [List.map_cons, tget]; split <;> simp_all

/-- Cycles pass: of each core the two counter tables alone may change. -/
theorem core_clusterPass {β : Type} (p : Core → β) (h : ∀ (o : Core) a b, p { o with evsel := a, evcnt := b } = p o) (c : Cluster) (draw cl : Nat)
    (t : Bool) (k : Nat) : p ((c.pass draw cl t).core k) = p (c.core k) := by
  unfold Cluster.pass Cluster.core
  exact tget_map_keep p (fun j o => { o with
    evsel := (tallyTabs o.evsel o.evcnt (coreCycles draw (9 * cl + j) (t || c.fast))).1
    evcnt := (tallyTabs o.evsel o.evcnt (coreCycles draw (9 * cl + j) (t || c.fast))).2 }) (fun _ _ => h _ _ _) c.cores k

theorem core_pass {β : Type} (p : Core → β) (h : ∀ (o : Core) a b, p { o with evsel := a, evcnt := b } = p o) (s : State) (cl : Nat) (o : CoreId) :
    p ((s.pass cl).core o) = p (s.core o) := by
  unfold State.pass
  rw [core_modCl]
  split
  · rename_i e; rw [core_clusterPass p h]; subst e; rfl
  · rfl

@[simp] theorem ctx_pass (s : State) (cl : Nat) (y : CtxId) : (s.pass cl).ctx y = s.ctx y :=
  core_pass (fun o => o.ctx y.cx) (fun _ _ _ => rfl) s cl y.coreId

theorem sameBytes_pass (s : State) (cl : Nat) : sameBytes s (s.pass cl) := by
  refine ⟨fun _ => rfl, fun _ => rfl, fun _ _ => rfl, fun c a => ?_, fun k a => ?_⟩
  · exact congrArg (fun m => rdByte m a) (core_pass Core.lmem (fun _ _ _ => rfl) s cl c)
  · unfold State.pass
    rw [cl_modCl]
    split
    · rename_i e; subst e; rfl
    · rfl

/-- Counting the cycles of bank conflicts reaches no context. -/
@[simp] theorem ctx_conflicts (s : State) (e : Env) (f : Nat → Nat) (y : CtxId) : (s.conflicts e f).ctx y = s.ctx y := ctx_tally _ _ _ _ _

/-- A context that takes its core's issue slot runs there, and no context changes. -/
@[simp] theorem ctx_takeSlot (s : State) (x y : CtxId) : (s.takeSlot x).ctx y = s.ctx y := by
  unfold State.takeSlot
  rw [ctx_tally, ctx_modCore]
  split <;> simp_all [State.ctx, Core.ctx]

/-! ## The tick -/

@[simp] theorem tick_counted (s : State) : s.counted.tick = s.tick + 1 := rfl
@[simp] theorem tick_due (s : State) : s.due.tick = s.tick := by simp only [State.due]
@[simp] theorem regs_ticked (p : Priv) (c : Ctx) : ({ c with pr := p.ticked } : Ctx).regs = c.regs := rfl
@[simp] theorem ticked_idle (p : Priv) (h : p.st = .idle) : p.ticked = p := by simp [Priv.ticked, h]
@[simp] theorem ticked_stopped (p : Priv) (h : p.stopped = true) : p.ticked = p := by simp [Priv.ticked, h]

end Sys2Proof.Machine
end

