-- ==== Sys2Proof/Laws/Slots.lean ====
section
/-! SUPPORT. Every slot instruction's meaning is one slot of a bundle, which says what all of them have in common. -/

namespace Sys2Proof.Machine

/-- Every slot instruction's meaning is one slot of a bundle. -/
theorem exec_slot (i : Instr) (h : i.inSlot = true) : ∃ k c br body, ∀ s, exec i s = runSlot k c br body s := by
  cases i <;> first | exact ⟨_, _, _, _, fun _ => rfl⟩ | (exfalso; revert h; simp [Instr.inSlot, condOf, encodeSlot])

end Sys2Proof.Machine
end

