-- ==== Sys2Proof/Tests/Slice0.lean ====
section
/-! SUPPORT. Tests of this package: ill-formed terms that WellFormed refuses, words that the spec writes out with what they stand
for, single steps with results worked out from the spec, and for each statement with hypotheses a concrete state that meets them. -/

namespace Sys2Proof.Tests

set_option Elab.async false

open Sys2Proof Sys2Proof.Machine Sys2Proof.Claim

/-! ## Small states -/

/-- A plain condition, one context, and its core. -/
def c0 : Cond := ⟨0, false, false, .always⟩
def x0 : CtxId := ⟨0, 0, 0⟩
def o0 : CoreId := ⟨0, 0⟩

/-- Registers that most tests read: s1 = 7, s2 = 3, s3 = 16, a1 = 64, and v1 with 5 in lane 0. -/
def regs0 : Regs :=
  { s := [(1, { val := 7 }), (2, { val := 3 }), (3, { val := 16 })], a := [(1, { val := 64 })], v := [(1, { val := 5 })] }

/-- A running context with the whole L-mem as its window. -/
def cx0 : Ctx := { regs := regs0, pr := { st := .running, lwlim := 2 ^ 20 } }

/-- The module with one context, the current one, on core 0 of cluster 0; and the same with that context's bundle in flight. -/
def st0 (c : Ctx) : State :=
  { State.reset with clusters := [(0, { cores := [(0, { run := some 0, last := some 0, ctxs := [(0, c)] })] })] }
def bun0 (c : Ctx) : Bun := openedBun x0 c 0 false
def in0 (c : Ctx) : State := { st0 c with bun := some (bun0 c) }

/-- Core 0's engines, cluster 0, that cluster with its Gaffer released, and the module after bring-up. -/
def withMx (m : Mx) (s : State) : State := s.modMx o0 fun _ => m
def withCl (f : Cluster → Cluster) (s : State) : State := s.modCl 0 f
def relG (s : State) : State := withCl (fun k => { k with gaffer := some (gafferStart 0) }) s
def up (s : State) : State := { s with boot := { s.boot with done := true, step := 7 } }

/-- A next state of which a test holds; and the next state itself. -/
def runs (o : Out) (p : State → Bool) : Bool := match o with
  | .next t => p t
  | _ => false
def nextOf (o : Out) : State := match o with
  | .next t => t
  | _ => State.reset
theorem eq_nextOf {o : Out} (h : runs o (fun _ => true) = true) : o = .next (nextOf o) := by
  cases o with
  | next t => rfl
  | fault r => exact absurd h (by simp [runs])
  | refused r => exact absurd h (by simp [runs])

/-- A next state comes. -/
def ok2 (o : Out) : Bool := runs o fun _ => true
def okE (i : Instr) (s : State) : Bool := ok2 (exec i s)

/-! ## WellFormed refuses an ill-formed term for each check -/

theorem test_wf_refuses_loop_level : Instr.wf (.add ⟨0, false, false, .first 6⟩ 1 1 1) = false := by decide +kernel
theorem test_wf_refuses_permit_nothing : Instr.wf (.permit 0 0) = false := by decide +kernel
theorem test_wf_refuses_fields_past_bit_63 : Instr.wf (.ext c0 1 1 63 1) = false ∧ Instr.wf (.ins c0 1 1 32 32) = false := by decide +kernel
theorem test_wf_refuses_lih_high_bits : Instr.wf (.lih c0 false 1 0x10000) = false := by decide +kernel
theorem test_wf_refuses_conversions : Instr.wf (.fcvt c0 .s32 .z64 .rne false 1 1) = false ∧ Instr.wf (.fcvt c0 .f32 .f32 .rne false 1 1) = false
    ∧ Instr.wf (.vcvt c0 .f32 .f32 .rne false 1 1 0) = false ∧ Instr.wf (.vcvt c0 .s8 .f32 .rne false 1 1 4) = false
    ∧ Instr.wf (.vcvt c0 .s8 .s32 .rtz false 1 1 0) = false := by decide +kernel
theorem test_wf_refuses_rounding_integers : Instr.wf (.vadd c0 .s32 .rtz false 1 1 1) = false ∧ Instr.wf (.vsub c0 .s8 .rdn false 1 1 1) = false
    ∧ Instr.wf (.vmul c0 .z16 .rup false 1 1 1) = false ∧ Instr.wf (.vfma c0 .z32 .rtz false 1 1 1) = false := by decide +kernel
theorem test_wf_refuses_float_shifts : Instr.wf (.vshl c0 .f32 1 1 1) = false ∧ Instr.wf (.vshr c0 .f16 1 1 1) = false
    ∧ Instr.wf (.vsar c0 .bf16 1 1 1) = false := by decide +kernel
theorem test_wf_refuses_float_saturation : Instr.wf (.vabs c0 .f32 true 1 1) = false ∧ Instr.wf (.vneg c0 .f16 true 1 1) = false := by decide +kernel
theorem test_wf_refuses_types : Instr.wf (.vcmp c0 .un .s32 1 1 1) = false ∧ Instr.wf (.vred c0 .add .s8 .rne false 1 1) = false
    ∧ Instr.wf (.vred c0 .and .f32 .rne false 1 1) = false ∧ Instr.wf (.vred c0 .min .s32 .rne true 1 1) = false
    ∧ Instr.wf (.vred c0 .max .f32 .rtz false 1 1) = false ∧ Instr.wf (.vext c0 .s8 1 1 0) = false ∧ Instr.wf (.vins c0 .f16 1 1 0) = false
    ∧ Instr.wf (.vexp2 c0 .s32 .rne 1 1) = false ∧ Instr.wf (.vrcp c0 .z8 .rne 1 1) = false ∧ Instr.wf (.vrsq c0 .s16 .rne 1 1) = false
    ∧ Instr.wf (.viota c0 .f32 1) = false ∧ Instr.wf (.viotaRank c0 .s8 1) = false := by decide +kernel
theorem test_wf_refuses_fields : Instr.wf (.qpop c0 true 32 0) = false ∧ Instr.wf (.mdrn c0 false false false 1 .rne false .cl 0 0 0) = false
    ∧ Instr.wf (.mstat c0 .nest 1 1) = false ∧ Instr.wf (.xred c0 .xor .f32 .plain .cl 0 0) = false := by decide +kernel
theorem test_wf_refuses_what_no_header_carries : Instr.wf (.add ⟨0, true, false, .first 0⟩ 1 1 1) = true
    ∧ Instr.wf (.addi ⟨0, false, false, .first 0⟩ 1 1 0x8000) = false := by decide +kernel
theorem test_wf_refuses_places : Instr.wf (.contextSelect ⟨192, 0⟩) = false ∧ Instr.wf (.doneComplete ⟨0, 8, 0⟩) = false
    ∧ Instr.wf (.quantumExpiry ⟨0, 0, 4⟩) = false ∧ Instr.wf (.registerFill (.saved 192 0) 0) = false ∧ Instr.wf (.push 16 0 []) = false
    ∧ Instr.wf (.teamCreate 0 0 (2 ^ 34)) = false ∧ Instr.wf (.qctlWrite 4096 0) = false ∧ Instr.wf (.jobTableWrite 0 256 ⟨true, 0, 0, [], (0, 0), 0⟩) = false
    ∧ Instr.wf (.gafferAccess 0 .machine 0 3 .load) = false ∧ Instr.wf (.controlRegisterWrite 194 0 0) = false
    ∧ Instr.wf (.busRetry 16 0 0 true) = false ∧ Instr.wf (.ringSlotAcquire ⟨0, 0⟩ 8) = false := by decide +kernel
theorem test_wf_refuses_a_listed_word_as_unlisted : Instr.wf (.reservedOpcode .s 0x040A28C0 false) = false
    ∧ Instr.wf (.reservedOpcode .s 0 true) = false := by decide +kernel

/-! ## Words of the spec's examples, by chapter -/

def lone (k : Slot) (w : BitVec 32) : Instr := decodeSlot k .none 0 w

/-- Chapter 05 (R130) and chapter 08. -/
theorem test_decode_bundles : lone .s 0x040A28C0 = .add c0 5 5 6 ∧ lone .s 0x54100801 = .cmp c0 .ne 1 1 0 ∧ lone .c 0x04800004 = .br 1 4
    ∧ decodeSlot .v .modifier 0x08 0x3C106008 = .vcvt c0 .s8 .f32 .rne true 4 3 0
    ∧ decodeSlot .v .modifier 0x18 0x3C102008 = .vcvt c0 .s8 .f32 .rtz true 4 1 0
    ∧ decodeSlot .m .modifier 0x00 0x040E7910 = .ld c0 .s4 .acq .cl false 7 3 16
    ∧ lone .v 0x7C03FC00 = .vld c0 false 1 15 0 ∧ decodeSlot .v .extend 0x01 0x8009FC00 = .vst c0 4 15 256
    ∧ lone .v 0x9C180020 = .viota c0 .s32 6 ∧ lone .c 0x38000000 = .done 0 := by decide +kernel

/-- Chapter 06. -/
theorem test_decode_scalar_and_control : lone .c 0x0C000005 = .call 0 5 ∧ lone .c 0x14000000 = .ret 0 ∧ lone .c 0x08001800 = .bri 0 3 0
    ∧ lone .c 0x280C000C = .wait 0 6 6 ∧ lone .s 0x54101062 = .cmp c0 .lt 1 2 3 ∧ lone .s 0x78020001 = .li c0 1 1
    ∧ lone .s 0x7C024000 = .lih c0 false 1 0x4000 ∧ lone .s 0x9C328008 = .plog c0 3 1 2 8 ∧ lone .s 0xA40828C1 = .fadd c0 .f64 .rne 4 5 6
    ∧ decodeSlot .s .modifier 0x10 0xC00E42E0 = .fcvt c0 .s64 .f64 .rtz false 7 8 := by decide +kernel

/-- Chapter 07. -/
theorem test_decode_vector : lone .v 0x40082022 = .vcmp c0 .lt .s32 2 1 0 ∧ lone .v 0x6C004000 = .kpush c0 2 ∧ lone .v 0x70000000 = .kinv c0
    ∧ lone .v 0x74000000 = .kpop c0 ∧ lone .v 0x04142280 = .vadd c0 .f32 .rne false 5 1 2 ∧ lone .v 0x40182222 = .vcmp c0 .lt .s32 6 1 2
    ∧ lone .v 0x3C10A108 = .vcvt c0 .s8 .f32 .rne false 4 5 1 ∧ lone .v 0x48202080 = .vred c0 .add .f32 .rne false 8 1
    ∧ lone .v 0x4C149800 = .vbcast c0 .f32 5 9 ∧ lone .v 0x50149238 = .vext c0 .s32 9 5 7 ∧ lone .v 0x541495F8 = .vins c0 .z32 5 9 31
    ∧ lone .v 0x68006080 = .vamax c0 0 3 ∧ lone .v 0x7C065C02 = .vld c0 false 3 2 2 ∧ lone .v 0x940FF802 = .ldl c0 .s4 false 7 15 2
    ∧ lone .v 0x84086280 = .vlds c0 4 3 5 ∧ lone .v 0x8C0E2200 = .vgth c0 7 1 2 := by decide +kernel

/-- Chapters 09, 12 and 13. -/
theorem test_decode_memory_and_engines : lone .m 0x08024E00 = .st c0 .b8 .rel .pk 1 2 0 ∧ lone .m 0x0C09DC02 = .ldv c0 .plain .pk false 4 14 2
    ∧ lone .m 0x14009842 = .qld c0 .s4 .plain .pk false 2 4 2 ∧ lone .m 0x200ACC00 = .qst c0 .b8 .plain .pk 0 5 6 0
    ∧ lone .m 0x1C128000 = .qpop c0 false 9 2 ∧ lone .m 0x7C13040A = .mpert c0 true 3 2 10 ∧ lone .m 0x800A4000 = .mstat c0 .tstat 5 1
    ∧ lone .m 0x64210005 = .gcopy c0 .pk 1 4 5 ∧ lone .m 0x8428C001 = .xsend c0 .plain .pk 20 6 1 ∧ lone .m 0x8C132C00 = .xld c0 .z8 .plain .pk 9 9 0
    ∧ lone .m 0x90174002 = .xred c0 .add .s64 .plain .pk 10 11 := by decide +kernel

/-- Chapters 14 and 15. -/
theorem test_decode_programs : lone .c 0x58000010 = .mtc 0 0x010 0 ∧ decodeSlot .s .extend 0x02 0x5C2EB000 = .addi c0 23 22 4096
    ∧ lone .v 0x982DEC20 = .stl c0 .b8 22 15 32 ∧ lone .c 0x581A0020 = .mtc 0 0x020 13 ∧ lone .m 0x6C120000 = .mprec c0 0 9
    ∧ lone .m 0x7030201F = .mwld c0 true 0 6 31 ∧ lone .m 0x74388000 = .mma c0 false false true false 0 7
    ∧ lone .m 0x74400400 = .mma c0 false false false true 0 8 ∧ lone .m 0x7848140C = .mdrn c0 true false true 0 .rne false .pk 0 9 12
    ∧ lone .c 0x280E001E = .wait 0 7 15 ∧ lone .c 0x542A0003 = .mfc 0 21 3 ∧ lone .s 0x88186019 = .ext c0 12 12 0 25
    ∧ lone .s 0x8C18AB47 = .ins c0 12 21 26 7 ∧ lone .c 0x2C0A3000 = .wquiet 0 5 6 ∧ decodeSlot .s .extend 1 0x642CB304 = .ori c0 22 22 0xB04
    ∧ lone .s 0x900F14C0 = .lea c0 1 14 10 3 ∧ lone .m 0x28008C3C = .atadd c0 true .plain .pk 0 4 15 := by decide +kernel

/-- A cleared word is NOP in every slot, and a word with an unlisted opcode has no meaning (R112, R145). -/
theorem test_decode_nop_and_reserved : (∀ k ∈ [Slot.c, .s, .v, .m], lone k 0 = .nop) ∧ lone .s 1 = .reservedOpcode .s 1 false
    ∧ lone .s 0xF8000000 = .reservedOpcode .s 0xF8000000 false ∧ lone .m 0x040E7A10 ≠ lone .m 0x040E7910 := by decide +kernel

/-- The host's question about a table row: the first step after reset runs the word placed there. -/
theorem test_step_runs_a_placed_word : decodeTableWord 32 0x040A28C0 = some (.add c0 5 5 6)
    ∧ runs (step (State.reset.withFetchWord 32 0x78020001)) (fun t => (t.ctx x0).pc == 16 && (t.ctx x0).regs.sc 1 == { val := 1 }) = true := by
  decide +kernel

/-! ## Single steps, with results of the spec's examples or worked by hand -/

/-- s1 and s2 as given; the value that a slot writes to s5, the one that waits to fill it, and lane `i` of v5. -/
def withS (x y : Word) : State := in0 { cx0 with regs := { regs0 with s := [(1, { val := x }), (2, { val := y })] } }
def gives (i : Instr) (s : State) (v : Word) : Bool := runs (exec i s) fun t => (t.ctx x0).regs.sc 5 == { val := v }
def fills5 (i : Instr) (s : State) (v : Word) : Bool :=
  runs (exec i s) fun t => ((t.ctx x0).fl.fills.map fun f => (f.reg, BitVec.ofNat 64 f.val)) == [(.s 5, v)]
def withV (x y : BitVec 1024) : State := in0 { cx0 with regs := { regs0 with v := [(1, { val := x }), (2, { val := y })] } }
def lane5 (i : Instr) (s : State) (k v : Nat) : Bool := runs (exec i s) fun t => vget ((t.ctx x0).regs.vc 5).val 32 k == v

/-- R164: wrap, sign, the high half of a product. -/
theorem test_add_wraps : gives (.add c0 5 1 2) (withS 0xFFFFFFFFFFFFFFFF 2) 1 = true := by decide +kernel
theorem test_sub_operand_order : gives (.sub c0 5 1 2) (withS 3 5) 0xFFFFFFFFFFFFFFFE = true := by decide +kernel
theorem test_sar_keeps_the_sign : gives (.sar c0 5 1 2) (withS 0x8000000000000000 65) 0xC000000000000000 = true := by decide +kernel
theorem test_mulh_is_signed : gives (.mulh c0 5 1 2) (withS 0xFFFFFFFFFFFFFFFF 2) 0xFFFFFFFFFFFFFFFF = true
    ∧ gives (.mulhu c0 5 1 2) (withS 0xFFFFFFFFFFFFFFFF 2) 1 = true := by decide +kernel
theorem test_min_is_signed : gives (.min c0 5 1 2) (withS 0xFFFFFFFFFFFFFFFF 2) 0xFFFFFFFFFFFFFFFF = true
    ∧ gives (.minu c0 5 1 2) (withS 0xFFFFFFFFFFFFFFFF 2) 2 = true := by decide +kernel
/-- R165's examples: -7 DIV 2 is -3, -7 REM 2 is -1, 5 DIVU 0 is all ones. -/
theorem test_division : fills5 (.div c0 5 1 2) (withS (-7) 2) (-3) = true ∧ fills5 (.rem c0 5 1 2) (withS (-7) 2) (-1) = true
    ∧ fills5 (.divu c0 5 1 2) (withS 5 0) 0xFFFFFFFFFFFFFFFF = true := by decide +kernel
theorem test_division_overflow : fills5 (.div c0 5 1 2) (withS 0x8000000000000000 (-1)) 0x8000000000000000 = true
    ∧ fills5 (.rem c0 5 1 2) (withS 0x8000000000000000 (-1)) 0 = true := by decide +kernel
/-- R168's example: 1, then 0x4000 shifted in, is 0x14000. -/
theorem test_lih : gives (.lih c0 false 5 0x4000) (in0 { cx0 with regs := { s := [(5, { val := 1 })] } }) 0x14000 = true := by decide +kernel
theorem test_counting : gives (.clz c0 5 1) (withS 0 0) 64 = true ∧ gives (.clz c0 5 1) (withS 1 0) 63 = true
    ∧ gives (.popc c0 5 1) (withS 0xF0F 0) 8 = true := by decide +kernel
theorem test_bit_fields : gives (.ext c0 5 1 4 7) (withS 0xABCD 0) 0xBC = true
    ∧ gives (.ins c0 5 1 4 7) (in0 { cx0 with regs := { s := [(5, { val := 0xFFFF })] } }) 0xF00F = true := by decide +kernel
/-- R175's example: 2.75 converts to 2 or 3, -2.75 to -2 or -3, -2.5 to -2. -/
theorem test_fcvt : gives (.fcvt c0 .s64 .f64 .rtz false 5 1) (withS 0x4006000000000000 0) 2 = true
    ∧ gives (.fcvt c0 .s64 .f64 .rtz false 5 1) (withS 0xC006000000000000 0) (-2) = true
    ∧ gives (.fcvt c0 .s64 .f64 .rne false 5 1) (withS 0x4006000000000000 0) 3 = true
    ∧ gives (.fcvt c0 .s64 .f64 .rne false 5 1) (withS 0xC006000000000000 0) (-3) = true
    ∧ gives (.fcvt c0 .s64 .f64 .rne false 5 1) (withS 0xC004000000000000 0) (-2) = true := by decide +kernel
theorem test_fadd_rounds_to_even : gives (.fadd c0 .f32 .rne 5 1 2) (withS 0x3F800000 0x33800000) 0x3F800000 = true
    ∧ gives (.fadd c0 .f32 .rup 5 1 2) (withS 0x3F800000 0x33800000) 0x3F800001 = true := by decide +kernel
/-- R113: s0 discards what is written to it. -/
theorem test_s0_discards : runs (exec (.add c0 0 1 2) (withS 7 3)) (fun t => (t.ctx x0).regs.sc 0 == { }) = true := by decide +kernel
/-- R181's example: the largest f32 doubled is infinite, or itself under saturation. -/
theorem test_vadd_overflow : lane5 (.vadd c0 .f32 .rne false 5 1 2) (withV 0x7F7FFFFF 0x7F7FFFFF) 0 0x7F800000 = true
    ∧ lane5 (.vadd c0 .f32 .rne true 5 1 2) (withV 0x7F7FFFFF 0x7F7FFFFF) 0 0x7F7FFFFF = true := by decide +kernel
theorem test_vsub_s8_saturates : lane5 (.vsub c0 .s8 .rne true 5 1 2) (withV 0x80 0x01) 0 0x80 = true
    ∧ lane5 (.vsub c0 .s8 .rne false 5 1 2) (withV 0x80 0x01) 0 0x7F = true := by decide +kernel
/-- R184: all ones where the condition holds. -/
theorem test_vcmp : lane5 (.vcmp c0 .lt .s32 5 1 2) (withV 0xFFFFFFFF 0) 0 0xFFFFFFFF = true
    ∧ lane5 (.vcmp c0 .lt .z32 5 1 2) (withV 0xFFFFFFFF 0) 0 0 = true := by decide +kernel
/-- R107's example: 2 to the power 0.5 is 0x3FB504F3. -/
theorem test_vexp2 : runs (exec (.vexp2 c0 .f32 .rne 5 1) (withV 0x3F000000 0))
    (fun t => ((t.ctx x0).fl.fills.map fun f => f.val % 2 ^ 32) == [0x3FB504F3]) = true := by decide +kernel
/-- R180's example: KINV of 0x0000000A inside the full mask is 0xFFFFFFF5. -/
theorem test_kinv : runs (exec (.kinv c0) (in0 { cx0 with regs := { regs0 with mask := [(1, 0xA)], depth := 1 } }))
    (fun t => (t.ctx x0).regs.top == 0xFFFFFFF5) = true := by decide +kernel
/-- R177: an inactive lane keeps its old element. -/
theorem test_inactive_lanes_stand : lane5 (.vadd c0 .s32 .rne false 5 1 2)
      (in0 { cx0 with regs := { v := [(1, { val := 5 }), (5, { val := 9 })], mask := [(1, 2)], depth := 1 } }) 0 9 = true := by decide +kernel
/-- R193: a store's bytes are little-endian, and a misaligned one raises cause 0x04. -/
theorem test_stl : runs (exec (.stl c0 .b2 1 1 0) (in0 { cx0 with regs := { regs0 with s := [(1, { val := 0x1234 })] } }))
    (fun t => rdByte (t.core o0).lmem 64 == 0x34 && rdByte (t.core o0).lmem 65 == 0x12) = true := by decide +kernel
theorem test_ldl_sign : runs (exec (.ldl c0 .s1 false 5 1 0) ((in0 cx0).wrLmem o0 64 1 0x80))
    (fun t => (t.ctx x0).regs.sc 5 == { val := -128 }) = true := by decide +kernel
/-- R150's example: a CALL at 0x0100 with displacement 5 goes to 0x0150 and links 0x0130. -/
theorem test_call : runs (exec (.call 0 5) (in0 { cx0 with pc := 0x100 }))
    (fun t => (t.ctx x0).target == some 0x150 && (t.ctx x0).delay == 2 && (t.ctx x0).regs.sc 62 == { val := 0x130 }) = true := by decide +kernel
theorem test_done_retires : runs (exec (.done 0) (st0 cx0)) (fun t => (t.ctx x0).pr.st == .idle) = true := by decide +kernel
theorem test_trap_stops : runs (exec (.trap 0 5) (st0 cx0)) (fun t => (t.ctx x0).pr.stopped && (t.ctx x0).pc == 0
    && (t.cl 0).trapWait.map (fun r => (r.cause, r.detail)) == [(0x0A, 5)]) = true := by decide +kernel
theorem test_reserved_word_stops : runs (exec (.reservedOpcode .s 1 false) (st0 cx0))
    (fun t => (t.cl 0).trapWait.map (fun r => (r.cause, r.slot)) == [(0x02, 1)]) = true := by decide +kernel
theorem test_pont_keeps_the_checkpoint : runs (exec (.pont 0 4) (st0 cx0))
    (fun t => (t.ctx x0).region.any fun g => g.fallback == 64 && g.ck == regs0) = true := by decide +kernel
/-- R9, R115: an empty source blocks its bundle. -/
theorem test_empty_source_blocks : runs (exec (.add c0 5 1 2) (st0 { cx0 with regs := { s := [(1, { full := false })] } }))
    (fun t => (t.ctx x0).pr.st == .stalled && (t.ctx x0).pc == 0) = true := by decide +kernel
/-- R145: an unlisted opcode's lent byte raises no loop fault; R128: both flags on a listed one do. -/
theorem test_loop_byte_of_an_unlisted_opcode : loopBoth .v .loop 0x30 0xF8000000 = false ∧ loopBoth .v .loop 0x30 0x04142280 = true := by decide +kernel
/-- R178: VRED.add takes a rounding mode for f32 alone. -/
theorem test_vred_rounding_is_f32_only : orphan .v .modifier 0x10 0x48202080 = false ∧ orphan .v .modifier 0x10 0x48202060 = true := by decide +kernel
/-- R251: a format without NaN stores 0 for an uncorrectable element. -/
theorem test_bad_element_code : badCode 0xC = 0 ∧ badCode 8 = 0x7F := by decide +kernel
/-- R67: the arrival that reaches TARGET advances the generation. -/
theorem test_arrive : arrive (4 + 3 * 2 ^ 32) 1 = 4 + 2 ^ 64 ∧ arrive (4 + 1 * 2 ^ 32) 1 = 4 + 2 * 2 ^ 32 := by decide +kernel
/-- R210: the tables of incw and badd. -/
theorem test_atomics : atNew .incw 4 8 8 0 = some 0 ∧ atNew .badd 4 5 4 8 = none ∧ atNew .badd 4 5 3 8 = some 8 := by decide +kernel
/-- R384: bring-up starts at step 1; a recovery image without a signature changes nothing. -/
theorem test_recovery_needs_verification : runs (exec .recoveryImage { State.reset with boot := { recovery := true, step := 2 } })
    (fun t => t.boot == { recovery := true, step := 2, tried := true }) = true := by decide +kernel

/-! ## States that meet the statements' hypotheses: slots -/

/-- What every slot statement asks: a bundle in flight whose slot issues, and sources that read. -/
abbrev Sources (c : Ctx) : Prop :=
  (in0 c).bun = some (bun0 c) ∧ condRuns c0 (bun0 c).pre = true ∧ rdS ((bun0 c).env c0) 1 = .ok 7 ∧ rdS ((bun0 c).env c0) 2 = .ok 3
    ∧ rdS ((bun0 c).env c0) 5 = .ok 0 ∧ rdA ((bun0 c).env c0) 1 = .ok 64 ∧ rdV ((bun0 c).env c0) 1 = .ok 5 ∧ rdV ((bun0 c).env c0) 2 = .ok 0
    ∧ rdOld ((bun0 c).env c0) 3 false = .ok 0

/-- The same context matrix-bound, in an open region, behind an unperformed acquire. -/
def region0 : Region := { fallback := 64, pont := 0, rlen := 1, ck := regs0, aliases := [], qserial := 0 }
def cxMb : Ctx := { cx0 with pr := { cx0.pr with mb := true } }
def cxRg : Ctx := { cx0 with region := some region0 }
def cxAq : Ctx := { cx0 with fl := { acq := [1] } }

theorem witness_IntegerOperations : Sources cx0 ∧ (0x1234 : BitVec 22).toNat < 2 ^ 16
    ∧ (4 : BitVec 6).toNat + (59 : BitVec 6).toNat + 1 ≤ 64 := by decide +kernel
theorem witness_Division : Sources cx0 := by decide +kernel
theorem witness_ComparingAndSelecting : Sources cx0 := by decide +kernel
theorem witness_ScalarFloatingPoint : Sources cx0 := by decide +kernel
theorem witness_VectorElementwise : Sources cx0 ∧ rdV ((bun0 cx0).env c0) 3 = .ok 0 := by decide +kernel
theorem witness_VectorCompareAndLaneMoves : Sources cx0 := by decide +kernel
theorem witness_VectorConversionAndReduction : Sources cx0 ∧ VType.s8 ≠ .f32 ∧ (3 : BitVec 5).toNat < vcvtParts .s8 .f32
    ∧ rdOld ((bun0 cx0).env c0) 3 (decide (1 < vcvtParts .s8 .f32)) = .ok 0 ∧ VType.s32.width = 32 := by decide +kernel
theorem witness_OnlyTheDestinationChanges : writesOnly (.add c0 5 1 2) = some [.s 5] ∧ (in0 cx0).bun = some (bun0 cx0)
    ∧ runs (exec (.add c0 5 1 2) (in0 cx0)) (fun _ => true) = true := by decide +kernel

/-- A launch of two fields, 5 and 3 bits wide, the first the team's. -/
def raw0 : Nat := 2 + 1 * 2 ^ 4 + 1 * 2 ^ 28 + (5 + 3 * 2 ^ 7) * 2 ^ 64 + 20 * 2 ^ 128 + 8 * 2 ^ 192
def launch0 : Launch :=
  { raw := raw0, queue := 0, st := .running, tick := 0, deps := [], nextTeam := 0, retiredTeams := 0, liveTeams := 1, pendingNew := []
    incomplete := false, cancelled := false }
def launched (s : State) : State := { s with launches := [(0, some launch0)] }

/-- Both field clauses at the boundary: field 1 is the last, field 2 is none. -/
theorem witness_AddressesAndWorkIdentifiers : Sources cx0 ∧ lNF ((launched (in0 cx0)).lraw (bun0 cx0).pre.ct.launch) = 2
    ∧ (1 : BitVec 3).toNat < 2 ∧ 2 ≤ (2 : BitVec 3).toNat := by decide +kernel

/-- The mask stack at its ends and between them. -/
theorem witness_MaskStack : Sources cx0 ∧ Sources { cx0 with regs := { regs0 with depth := 15 } } ∧ Sources { cx0 with regs := { regs0 with depth := 1 } }
    ∧ (bun0 cx0).pre.regs.depth = 0 := by decide +kernel
theorem witness_TranscendentalsAndPeaks : Sources cx0 ∧ Sources cxMb ∧ Sources cxRg ∧ cxMb.region = none ∧ cxMb.pr.mb = true ∧ cx0.region = none
    ∧ cx0.pr.mb = false ∧ cxRg.region.isSome = true := by decide +kernel

/-- The ends of the C-slot's unlisted range, the header above it, and words of listed opcodes with a bad field. -/
theorem witness_ReservedWordTraps : (in0 cx0).bun = some (bun0 cx0) ∧ (0x64000000 : BitVec 32).toNat / 2 ^ 26 = 0x19
    ∧ (0xFBFFFFFF : BitVec 32).toNat / 2 ^ 26 = 0x3E ∧ (0xFC000000 : BitVec 32).toNat / 2 ^ 26 = 0x3F
    ∧ (0x14000001 : BitVec 32).toNat / 2 ^ 26 = 0x05 ∧ (0x14000001 : BitVec 32).toNat % 2 ^ 23 ≠ 0 ∧ (0x50000001 : BitVec 32).toNat / 2 ^ 26 = 0x14
    ∧ (0x50000001 : BitVec 32).toNat % 2 ^ 5 ≠ 0 ∧ decodeSlot .s .none 0 0x50000001 = .reservedOpcode .s 0x50000001 true := by decide +kernel

/-- Each kind of source register, full, empty and marked; and the clauses of a fill. -/
theorem witness_ReadingAndWritingRegisters :
    let m : Mark := ⟨0x0C, 64⟩
    let r : Regs := { s := [(1, { val := 7 }), (2, { full := false, prod := 4 }), (3, { mark := m })], a := [(1, { full := false }), (3, { mark := m })],
                      v := [(1, { full := false }), (3, { mark := m })] }
    let e (te : Bool) : Env := { x := x0, pre := { cx0 with regs := r }, baddr := 0, te := te }
    (e false).pre.regs.pv 0 = true ∧ (r.sc 1).full = true ∧ (r.sc 1).mark.cause = 0 ∧ (r.sc 2).full = false ∧ (e false).te = false ∧ (e true).te = true
      ∧ (r.sc 3).full = true ∧ (r.sc 3).mark.cause ≠ 0 ∧ (r.ac 1).full = false ∧ (r.ac 2).full = true ∧ (r.ac 2).mark.cause = 0
      ∧ (r.vc 1).full = false ∧ (r.vc 2).full = true ∧ (r.vc 2).mark.cause = 0 
      ∧ (r.ac 3).full = true ∧ (r.ac 3).mark.cause ≠ 0 ∧ (r.vc 3).full = true ∧ (r.vc 3).mark.cause ≠ 0 ∧ (e true).lax = false
      ∧ r.prodOf (.s 2) = 4 ∧ ¬ r.prodOf (.s 2) = 3 ∧ (r.sc 2).prod = 4 := by
  decide +kernel

/-- A slot whose predicate is false; and an instruction outside a bundle. -/
theorem witness_SlotsAndLoneInstructions : condOf (.add ⟨1, false, false, .always⟩ 5 1 2) = some ⟨1, false, false, .always⟩
    ∧ (in0 cx0).bun = some (bun0 cx0) ∧ condRuns ⟨1, false, false, .always⟩ (bun0 cx0).pre = false
    ∧ (bun0 cx0).pre.regs.pv 1 = false ∧ (bun0 cx0).pre.dslot = 0 ∧ Instr.mfc 1 1 0x000 ∈ predicated 1 1 1 1 1 0 0 0x000 0
    ∧ Instr.mtc 1 0xFFF 1 ∈ predicated 1 1 1 1 1 0 0 0xFFF 0 ∧ Instr.bmz 1 5 ∈ branchClass 1 1 1 1 1 5
    ∧ Instr.inSlot (.add c0 5 1 2) = true ∧ (st0 cx0).bun = none := by decide +kernel
theorem witness_EverySlotInstructionAnswers : Instr.inSlot (.bfacq c0 1 0) = true := by decide +kernel

/-- The four ways to the next bundle: a branch taken, none pending, the last delay slot, one before it. -/
theorem witness_BundlePassesOn :
    let b (c : Ctx) : Bun := bun0 c
    (∀ c ∈ [cx0, { cx0 with delay := 1, target := some 64 }, { cx0 with delay := 2, target := some 64 }],
        (in0 c).bun = some (b c) ∧ (b c).pre.fl.holdsAll = false ∧ (b c).outs = [] ∧ (b c).late = none ∧ (b c).posts = [] ∧ (b c).pre.loop = none
          ∧ (b c).taken = false)
      ∧ ({ st0 cx0 with bun := some { b cx0 with taken := true } } : State).bun = some { b cx0 with taken := true } := by decide +kernel

/-- A bundle with a trap, and one with a block. -/
theorem witness_TrapsAndBlocksArePrecise :
    let b (st : Stop) : Bun := { bun0 cx0 with outs := [(3, st)] }
    (st0 cx0).bun = none ∧ (b (.trap 0x04 3)).pre.fl.holdsAll = false ∧ pickStop (b (.trap 0x04 3)).outs = some (3, .trap 0x04 3)
      ∧ (b (.trap 0x04 3)).pre.region = none ∧ pickStop (b (.block .acq)).outs = some (3, .block .acq) := by decide +kernel
theorem witness_StopInARegionRollsBack :
    let b (st : Stop) : Bun := { bun0 cxRg with outs := [(3, st)] }
    (st0 cxRg).bun = none ∧ (b (.roll 0x07 0)).pre = (st0 cxRg).ctx x0 ∧ cxRg.fl.holdsAll = false ∧ cxRg.region = some region0
      ∧ pickStop (b (.roll 0x07 0)).outs = some (3, .roll 0x07 0) ∧ pickStop (b (.trap 0x04 3)).outs = some (3, .trap 0x04 3) := by decide +kernel

/-! ### L-mem -/

/-- An access at both ends of the window; the lanes of a row, of a stride and of offsets. -/
theorem witness_ScalarLmemAccess : Sources cx0 ∧ cx0.fl.acq = [] ∧ cx0.region = none ∧ cx0.heldSt = [] ∧ effAddr 64 (0 : BitVec 14) 8 % 8 = 0
    ∧ InWindow cx0.pr 0 8 ∧ InWindow cx0.pr (2 ^ 20 - 8) 8 := by unfold InWindow; decide +kernel
theorem witness_LmemAccessFaults : Sources cx0 ∧ Sources cxAq ∧ cx0.fl.acq = [] ∧ cxAq.fl.acq ≠ [] ∧ effAddr 63 (0 : BitVec 14) 2 % 2 ≠ 0
    ∧ effAddr 0x100000 (0 : BitVec 14) 8 % 8 = 0 ∧ ¬ InWindow cx0.pr 0x100000 8 ∧ (active regs0.top 0 = true)
    ∧ region0.aliases = []
    ∧ rowAddr 66 (0 : BitVec 14) 0 % 4 ≠ 0 ∧ rowAddr 0x100000 (0 : BitVec 14) 0 % 4 = 0 := by unfold InWindow; decide +kernel
theorem lanesOk_of {b : Bun} {f : Nat → Nat} (h : (List.range 32).all (fun i => !active b.pre.regs.top i ||
    (f i % 4 == 0 && decide (b.pre.pr.lwbase ≤ f i) && decide (f i + 4 ≤ b.pre.pr.lwlim) &&
    decide (f i + 4 ≤ 2 ^ 20))) = true) : LanesOk b f := by
  intro i hi ha
  have := List.all_eq_true.1 h i (List.mem_range.2 hi)
  simp only [ha, Bool.not_true, Bool.false_or, Bool.and_eq_true, beq_iff_eq, decide_eq_true_eq] at this
  exact ⟨this.1.1.1, this.1.1.2, this.1.2, this.2⟩
theorem witness_LaneLoadsAndStores : Sources cx0 ∧ cx0.fl.acq = [] ∧ cx0.region = none ∧ cx0.heldSt = [] ∧ LanesOk (bun0 cx0) (rowAddr 64 (0 : BitVec 14))
    ∧ LanesOk (bun0 cx0) (strideAddr 64 16) ∧ LanesOk (bun0 cx0) (offsetAddr 64 0) := by
  refine ⟨by decide +kernel, by decide +kernel, by decide +kernel, by decide +kernel, ?_, ?_, ?_⟩ <;>
    exact lanesOk_of (by decide +kernel)

/-! ### Regions, vault accesses, queues and rings -/

/-- A region whose alias table has an entry at 64, and one with 64 held stores. -/
def regionHit : Region := { region0 with aliases := [{ sp := .lmem, addr := 64, size := 8, virt := none }] }
def cxHt : Ctx := { cx0 with region := some regionHit }
def cxFu : Ctx := { cxRg with heldSt := List.replicate 64 (.mem .lmem 64 8 5 0) }

theorem witness_RegionHoldsStores : Sources cxRg ∧ cxRg.fl.acq = [] ∧ cxRg.region = some region0 ∧ effAddr 64 (0 : BitVec 14) 8 % 8 = 0
    ∧ InWindow cxRg.pr 64 8 ∧ region0.aliases = [] ∧ cxRg.heldSt.length + 32 ≤ 64 ∧ LanesOk (bun0 cxRg) (rowAddr 64 (0 : BitVec 14))
    ∧ Sources cxHt ∧ cxHt.region = some regionHit ∧ (regionHit.aliases.any fun al => al.hits .lmem 64 8) = true ∧ 64 ≤ cxFu.heldSt.length ∧ Sources cxFu := by
  refine ⟨by decide +kernel, rfl, rfl, by decide +kernel, by unfold InWindow; decide +kernel, rfl, by decide +kernel, lanesOk_of (by decide +kernel),
    by decide +kernel, rfl, by decide +kernel, by decide +kernel, by decide +kernel⟩

/-- Job slot 0 with the whole vault of cluster 0 as its window. -/
def jobs0 (s : State) : State := withCl (fun k => { k with jobs := [(0, { valid := true, vwin := [(0, (0, 2 ^ 26))] })] }) s

/-- Addresses at both ends of the window, lanes that run on from one, and what no window holds. -/
theorem witness_VaultAccessesIssue : Sources cx0 ∧ cx0.fl.acq = [] ∧ cx0.region = none ∧ cx0.heldSt = []
    ∧ (jobs0 (in0 cx0)).vaultCheck x0 0 8 = some 0 ∧ (jobs0 (in0 cx0)).vaultCheck x0 (2 ^ 26 - 8) 8 = some (2 ^ 26 - 8)
    ∧ (∀ i, i < 32 → active regs0.top i = true → (jobs0 (in0 cx0)).vaultCheck x0 ((64 + 4 * i) % 2 ^ 64) 4 = some (64 + 4 * i))
    ∧ resolve 0 64 = some 64 := by decide +kernel
/-- No active lane, at a covered base, a misaligned one and an uncovered one. -/
def cxNl : Ctx := { cx0 with regs := { regs0 with mask := [(1, 0)], depth := 1 } }
theorem witness_VaultAccessesIssue_noLane : Sources cxNl ∧ cxNl.fl.acq = [] ∧ cxNl.region = none ∧ cxNl.heldSt = []
    ∧ (∀ i, i < 32 → active (bun0 cxNl).pre.regs.top i = false) ∧ effAddr 64 (0 : BitVec 14) 128 % 8 = 0 ∧ effAddr 68 (0 : BitVec 14) 128 % 8 ≠ 0
    ∧ ((jobs0 (in0 cxNl)).vaultCheck x0 64 4).isSome = true ∧ (in0 cxNl).vaultCheck x0 64 4 = none := by decide +kernel
theorem witness_AccessFaults : Sources cx0 ∧ Sources cxAq ∧ Sources cxRg ∧ cxAq.fl.acq ≠ [] ∧ cxRg.region.isSome = true ∧ cxRg.fl.acq = []
    ∧ (jobs0 (in0 cx0)).vaultCheck x0 (2 ^ 26) 8 = none ∧ (63 : Nat) % 8 ≠ 0 ∧ Ord.acq ≠ .plain
    ∧ ((jobs0 (in0 cx0)).jobSlot x0).valid = true ∧ ((in0 cx0).jobSlot x0).valid = false ∧ targetOk (2 ^ 36) = false
        ∧ (effAddr 64 (0 : BitVec 8) 8 / 2 ^ 26 % 16 < 12) ∧ 2 ^ 44 ≤ effAddr (2 ^ 44) (0 : BitVec 8) 8 := by decide +kernel

/-- A region whose alias table has an entry in the vault at 64; lanes at a covered base, at a misaligned one and where no window is; and sends
whose payload or whose target another check stops. -/
def regionVh : Region := { region0 with aliases := [{ sp := .vault, addr := 64, size := 8, virt := none }] }
def cxVh : Ctx := { cx0 with region := some regionVh }
theorem witness_AccessFaults_hit : Sources cxVh ∧ cxVh.fl.acq = [] ∧ ¬ NoVaultHit (in0 cxVh) x0 64 8 ∧ ¬ NoVaultHit (in0 cxVh) x0 64 4
    ∧ NoVaultHit (in0 cx0) x0 64 8 := by
  refine ⟨by decide +kernel, rfl, fun h => absurd (h 64 (by decide +kernel) regionVh rfl _ (List.mem_singleton.2 rfl)) (by decide +kernel),
    fun h => absurd (h 64 (by decide +kernel) regionVh rfl _ (List.mem_singleton.2 rfl)) (by decide +kernel), fun off _ g hg => ?_⟩
  exact nomatch (show (none : Option Region) = some g from hg)
theorem witness_AccessFaults_more : effAddr 64 (0 : BitVec 14) 128 % 8 = 0 ∧ effAddr 68 (0 : BitVec 14) 128 % 8 ≠ 0
    ∧ active (bun0 cx0).pre.regs.top 0 = true ∧ (in0 cx0).vaultCheck x0 64 4 = none ∧ rdV ((bun0 cx0).env c0) 3 = .ok 0
    ∧ (64 : Word).toNat % 16 = 0 ∧ (72 : Nat) % 16 ≠ 0 ∧ (in0 cx0).vaultCheck x0 64 16 = none ∧ effAddr (2 ^ 44) (0 : BitVec 8) 8 % 8 = 0
    ∧ targetOk (1 + 0xFF * 2 ^ 10 + 0xF * 2 ^ 18) = true ∧ (1 + 0xFF * 2 ^ 10 + 0xF * 2 ^ 18) % 2 ^ 10 ∉ (in0 cx0).domain
    ∧ InWindow cx0.pr 64 8 ∧ ¬ InWindow cx0.pr (2 ^ 20) 8 := by unfold InWindow; decide +kernel
theorem witness_AtomicsIssue : Sources cx0 ∧ cx0.fl.acq = [] ∧ cx0.region = none ∧ (5 : BitVec 6) ≠ 0 ∧ (64 : Word).toNat % 8 = 0
    ∧ (64 : Word).toNat % 16 = 0 ∧ (jobs0 (in0 cx0)).vaultCheck x0 64 8 = some 64 ∧ (jobs0 (in0 cx0)).vaultCheck x0 64 16 = some 64 := by decide +kernel

/-- One access of each kind, alone in its context. -/
def pend0 (k : PKind) (dst : Option (RegRef × Nat)) : Pend :=
  { serial := 1, kind := k, addr := 64, ord := .plain, sc := .cl, dst := dst, baddr := 0 }
theorem witness_AccessesPerform : ∀ p ∈ [pend0 (.store 8 5) none, pend0 (.load .z8) (some (.s 5, 1)), pend0 (.atomic .add 8 1 0) (some (.s 5, 1))
      , pend0 (.atomic .sarv 16 1 0) (some (.s 5, 1)), pend0 (.sinit 4) none, pend0 (.load .z8) none, pend0 (.storeV [(0, 64), (1, 68)] 5) none
      , pend0 (.loadV [(0, 64), (1, 68)] 0) (some (.v 1, 1)), pend0 (.atomic .badd 8 1 9) (some (.s 5, 1)), pend0 (.atomic .badd 8 1 0) none],
    let s := st0 { cx0 with fl := { pend := [p] } }
    (s.ctx x0).fl.pend = p :: [] ∧ s.canPerform (s.ctx x0) p = true ∧ s.isolated (p.addr / 2 ^ 30) = false ∧ p.ovr = []
      ∧ s.vaultBad p.addr 16 = false ∧ s.clusterRuns 0 = true := by decide +kernel
theorem witness_AccessesPerform_lanes : [((0 : Nat), (64 : Nat)), (1, 68)].Pairwise (fun g h => g.2 + 4 ≤ h.2 ∨ h.2 + 4 ≤ g.2)
    ∧ ([((0 : Nat), (64 : Nat)), (1, 68)].map Prod.fst).Nodup ∧ (1 : Nat) < 32 ∧ (State.reset.vaultBad 64 4 = false)
    ∧ ({ st0 cx0 with vbad := [8] } : State).vaultBad 68 4 = true := by decide +kernel
theorem witness_AccessesPerform_poisoned : ({ st0 cx0 with vbad := [8] } : State).vaultBad 64 8 = true ∧ (atNew .badd 4 5 4 8) = none := by decide +kernel
theorem witness_SyncWordArrivals : (4 : Nat) < 2 ^ 32 ∧ (4 : Nat) ≠ 0 ∧ (4 : Nat) ≤ 3 + 1 ∧ (2 : Nat) + 1 < 4 ∧ (0xFFFF : Nat) < 2 ^ 16 ∧ (0xFF : Nat) < 256
    ∧ arrive (4 + 3 * 2 ^ 32 + 0xFFFF * 2 ^ 64) 1 = 4 ∧ arrive (4 + 2 * 2 ^ 32) 1 = 4 + 3 * 2 ^ 32 := by decide +kernel

/-- A queue with room, a full one, and one whose oldest load has landed or waits. -/
def qent0 (k : QKind) (st : QStage) : QEnt := { serial := 1, kind := k, lsz := .z8, bytes := 8, ea := 64, ord := .plain, sc := .cl, data := 5, stage := st }
def cxQ (l : List QEnt) : Ctx := { cx0 with queues := [(2, l)], fl := { serial := 1 } }
theorem witness_AccessQueues : Sources cx0 ∧ occupancy ((bun0 cx0).pre.queue 2) < 16
    ∧ 16 ≤ occupancy ((bun0 (cxQ (List.replicate 16 (qent0 .ld .waiting)))).pre.queue 2)
    ∧ ((jobs0 (in0 cx0)).jobSlot x0).valid = true ∧ ((in0 cx0).jobSlot x0).valid = false ∧ effAddr 63 (0 : BitVec 11) 8 % 8 ≠ 0
    ∧ 2 ^ 57 ≤ effAddr (2 ^ 57) (0 : BitVec 11) 8 ∧ effAddr 64 (0 : BitVec 11) 128 % 8 = 0 ∧ effAddr 64 (0 : BitVec 11) 8 < 2 ^ 57
        ∧ (in0 (cxQ [qent0 .ld .landed])).ctx x0 = (bun0 (cxQ [qent0 .ld .landed])).pre
    ∧ (((bun0 (cxQ [qent0 .ld .landed])).pre.queue 2).find? fun t => t.kind.isLoad && t.here) = some (qent0 .ld .landed)
    ∧ (((bun0 (cxQ [qent0 .vld .waiting])).pre.queue 2).find? fun t => t.kind.isLoad && t.here) = some (qent0 .vld .waiting)
    ∧ (((bun0 (cxQ [qent0 .st .waiting])).pre.queue 2).find? fun t => t.kind.isLoad && t.here) = none := by decide +kernel

/-- Ring 0 of two slots at 64, slot 0 acquired by a BFACQ; the register holds its base, and that of no slot. -/
def ring0 : Ring := { base := 64, ssize := 1, scount := 2, tail := 1, occ := 1, owner := [(0, 1)] }
theorem witness_TileRingStages : Sources cx0 ∧ Sources cxMb ∧ cx0.pr.mb = false ∧ cxMb.pr.mb = true
    ∧ ((withMx { rings := [(0, ring0)] } (in0 cxMb)).core o0).mx.ring 0 = ring0 ∧ ring0.scount ≠ 0 ∧ (0 < 2 ∧ 0 < ring0.ssize
        ∧ 64 = ring0.base + 0 * ring0.ssize * 64)
    ∧ tget 0 ring0.owner 0 = 1 ∧ tget 0 ring0.owner 1 ≠ 1 ∧ (∀ i, i < 2 → 65 ≠ ring0.base + i * ring0.ssize * 64) := by decide +kernel

/-! ### Engines and the fabric -/

/-- 8-bit integer operands, a one-pass nest, and the L-mem bytes at 64 as given. -/
def prec0 : Nat := 7 * 2 ^ 14 + 7 * 2 ^ 24
def nest0 : Nat := (List.range 6).foldl (fun a k => a + 2 ^ (32 * k)) 0
def mx0 : Mx := { prec := [(0, prec0)], rings := [(0, { base := 0x40000, ssize := 128, scount := 2 })] }
def inMb (raw n : Nat) : State := withMx mx0 (launched ((in0 cxMb).wrLmem o0 64 n raw))

/-- The matrix-bound context with a held command still to issue after COMMIT. -/
def cxHc : Ctx := { cxMb with heldCmd := [heldOf (.mprec c0 0 1) ((bun0 cxMb).env c0) 64 9 0] }

theorem witness_MatrixSetupAndStatus : Sources cxMb ∧ Sources cx0 ∧ cxMb.heldCmd = [] ∧ cxHc.heldCmd ≠ [] ∧ cxHc.region = none
    ∧ cxRg.region.isSome = true ∧ (inMb nest0 32).tilesOf (bun0 cxMb).pre = 1 ∧ (0 : BitVec 3).toNat < 1
    ∧ 1 ≤ (1 : BitVec 3).toNat ∧ precOk prec0 = true ∧ precOk 1 = false ∧ InWindow cxMb.pr 64 32
    ∧ nestOk ((inMb nest0 32).rdLmem o0 64 32) = true ∧ (64 : Word).toNat < 2 ^ 13 ∧ tstatAt (inMb nest0 32) o0 0 0 = (0, true)
    ∧ tstatAt (withMx { tiles := [(0, { tspend := [⟨0, 1, 0, false⟩] })] } (inMb nest0 32)) o0 0 0 = (1, false) := by unfold InWindow; decide +kernel

/-- A weight load's descriptor (L-mem at 1024, 256-byte rows), an activation's (ring 0), a drain's (L-mem at 65536, 32 f32 columns), and a copy of
four doublewords from 4096 to 8192. -/
def wldRaw : Nat := 1024 + 256 * 2 ^ 64
def actRaw : Nat := 256 * 2 ^ 64 + 2 * 2 ^ 89
def drnRaw : Nat := 65536 + 1024 * 2 ^ 64 + 4 * 2 ^ 94 + 32 * 2 ^ 103
def copyRaw : Nat :=
  4096 + 8192 * 2 ^ 64 + 3 * 2 ^ 201 + 4 * 2 ^ 256 + (List.range 5).foldl (fun a k => a + 2 ^ (288 + 32 * k)) 0 + 8 * 2 ^ 448 + 8 * 2 ^ 832
theorem witness_EngineCommandsIssue : Sources cxMb ∧ (inMb wldRaw 32).ctx x0 = (bun0 cxMb).pre ∧ mx0.cmds.length < 32 ∧ InWindow cxMb.pr 64 256
    ∧ ((wldOperand (inMb wldRaw 32) x0 (bun0 cxMb).pre false 32 prec0 ((inMb wldRaw 32).rdLmem o0 64 32) true).toOption.isSome = true)
    ∧ ((actOperand (inMb actRaw 32) x0 (bun0 cxMb).pre false prec0 ((inMb actRaw 32).rdLmem o0 64 32) true).toOption.map (fun o => o.2.ring) = some 0)
    ∧ 0 < (mx0.ring 0).scount ∧ (mx0.tile 0).openAt 0 < 2
    ∧ ((drnOperand (inMb drnRaw 32) x0 (bun0 cxMb).pre false prec0 ((inMb drnRaw 32).rdLmem o0 64 32) true).toOption.isSome = true)
    ∧ ((chkGcopy (inMb copyRaw 256) x0 (bun0 cxMb).pre
        { heldOf (.gcopy c0 .cl 0 1 5) ((bun0 cxMb).env c0) 64 0 ((inMb copyRaw 256).rdLmem o0 64 256) with dst := some (5, 0) }).toOption.isSome = true)
    ∧ gRingOk (mx0.ring (gDring copyRaw)) copyRaw = true ∧ mx0.outstanding 0 < 16
    ∧ (tget 0 mx0.nextid 0 + 2 ^ 32 - tget 0 mx0.donebelow 0) % 2 ^ 32 < 16 := by unfold InWindow; decide +kernel

/-- A shadow nest of one pass, and none; one tile, which the pass names. -/
theorem witness_EngineCommandsIssue_nest : (let s := withMx { mx0 with shadow := some oneLevel } (inMb actRaw 32)
      (s.core o0).mx.shadow = some oneLevel ∧ nestSpan oneLevel ≤ ((s.core o0).mx.ring 0).scount
        ∧ (actOperand s x0 (bun0 cxMb).pre false prec0 (s.rdLmem o0 64 32) true).toOption.isSome = true)
    ∧ mx0.shadow = none ∧ ∀ k ∈ nestTiles 0 oneLevel, k < (inMb actRaw 32).tilesOf (bun0 cxMb).pre ∧ pAMODE (tget 0 mx0.prec k) = pAMODE prec0
      ∧ (mx0.tile k).openAt 0 < 2 := by decide +kernel

/-- A fabric address at the start of a vault, and the target word of handler 0 on this module. -/
theorem witness_FabricOperationsIssue : Sources cx0 ∧ cx0.fl.acq = [] ∧ cx0.region = none ∧ cx0.heldSt = []
    ∧ (effAddr 64 (0 : BitVec 8) 8 % 8 = 0 ∧ effAddr 64 (0 : BitVec 8) 8 < 2 ^ 44 ∧ effAddr 64 (0 : BitVec 8) 8 / 2 ^ 34 % 2 ^ 10 ∈ (in0 cx0).domain
      ∧ effAddr 64 (0 : BitVec 8) 8 / 2 ^ 26 % 16 < 12)
    ∧ ((jobs0 (in0 cx0)).jobSlot x0).valid = true ∧ targetOk (0xFF * 2 ^ 10 + 0xF * 2 ^ 18) = true ∧ InWindow cx0.pr 64 64
        ∧ (0 : Nat) ∈ (in0 cx0).domain := by unfold InWindow; decide +kernel

/-! ### The C-slot -/

theorem witness_Branches : (in0 cx0).bun = some (bun0 cx0) ∧ (bun0 cx0).pre.dslot = 0 ∧ (bun0 cx0).pre.regs.pv 0 = true ∧ (bun0 cx0).pre.regs.pv 1 = false
    ∧ (bun0 cx0).pre.regs.top ≠ 0 ∧ (bun0 { cx0 with regs := { regs0 with mask := [(1, 0)], depth := 1 } }).pre.regs.top = 0
    ∧ rdA ((bun0 cx0).cenv 0) 1 = .ok 64 ∧ rdS ((bun0 cx0).cenv 0) 3 = .ok 16 ∧ rdS ((bun0 cx0).cenv 0) 1 = .ok 7 ∧ rdS ((bun0 cx0).cenv 0) 62 = .ok 0
    ∧ (64 + 16) % 2 ^ 64 % 16 = 0 ∧ (64 + 7) % 2 ^ 64 % 16 ≠ 0
    ∧ rdS ((bun0 { cx0 with regs := { s := [(62, { val := 8 })] } }).cenv 0) 62 = .ok 8 := by decide +kernel
theorem witness_IllegalPlaces : (in0 { cx0 with dslot := 1 }).bun = some (bun0 { cx0 with dslot := 1 }) ∧ (bun0 { cx0 with dslot := 1 }).pre.dslot ≠ 0
    ∧ (in0 cxRg).bun = some (bun0 cxRg) ∧ cxRg.region.isSome = true ∧ cxRg.dslot = 0 ∧ cxRg.regs.pv 0 = true := by decide +kernel

/-- A bucket table of one bound, 8, at vault offset 64: target 0x200, overflow target 0x300; counts below, at and above the bound. -/
def inBk (d : Word) : State :=
  (jobs0 (in0 { cx0 with regs := { regs0 with s := [(1, { val := d })] } })).wrVault 64 32 (1 + 0x300 * 2 ^ 64 + 8 * 2 ^ 128 + 0x200 * 2 ^ 192)
abbrev BucketMet (d : Word) : Prop :=
    let s := inBk d
    let b := bun0 { cx0 with regs := { regs0 with s := [(1, { val := d })] } }
    s.bun = some b ∧ b.pre.dslot = 0 ∧ b.pre.regs.pv 0 = true ∧ b.pre.region = none ∧ b.pre.fl.acq = [] ∧ ownWritten s b.pre 64 16 = true
        ∧ ownWritten s b.pre 64 (16 + 16 * 1) = true
      ∧ rdS (b.cenv 0) 1 = .ok d ∧ rdA (b.cenv 0) 1 = .ok 64
      ∧ s.vaultCheck x0 64 16 = some 64 ∧ s.vaultCheck x0 64 (16 + 16 * 1) = some 64 ∧ s.vaultBad 64 16 = false ∧ s.vaultBad 64 (16 + 16 * 1) = false
      ∧ s.rdVault 64 8 = 1 ∧ s.rdVault (64 + 16 * 1 + 4) 4 = 0 ∧ s.rdVault (64 + 16 * 1) 4 = 8 ∧ s.rdVault (64 + 16 * 1 + 8) 8 % 16 = 0
      ∧ s.rdVault (64 + 8) 8 % 16 = 0
theorem witness_BucketSelect : BucketMet 0 ∧ BucketMet 8 ∧ BucketMet 9 := by refine ⟨?_, ?_, ?_⟩ <;> decide +kernel

/-- `State.plain` spelled out. -/
abbrev Plain (s : State) : Prop :=
  s.bun = none ∧ (s.ctx s.cur).loop = none ∧ (s.ctx s.cur).region = none ∧ (s.ctx s.cur).fl.holdsAll = false ∧ (s.ctx s.cur).delay = 0
    ∧ (s.ctx s.cur).dslot = 0 ∧ (s.ctx s.cur).target = none

/-- A loop record with a one-bundle kernel at 0x100, one level of `trip` iterations, and a prologue or an epilogue at 0x200. -/
def loopRec (trip plen elen : Nat) : Nat :=
  0x200 + 0x100 * 2 ^ 64 + 0x200 * 2 ^ 128 + 1 * 2 ^ 192 + 1 * 2 ^ 200 + plen * 2 ^ 208 + elen * 2 ^ 216 + trip * 2 ^ 256
def inLp (trip plen elen : Nat) : State := (st0 cx0).wrLmem o0 64 256 (loopRec trip plen elen)

/-- A loop with a prologue, one without, one with nothing but an epilogue, and one with nothing to run. -/
theorem witness_HardwareLoops_start : ∀ r ∈ [(3, 1, 0), (3, 0, 0), (0, 0, 1), ((0, 0, 0) : Nat × Nat × Nat)],
    let s := inLp r.1 r.2.1 r.2.2
    let l := loopOf (s.rdLmem o0 64 256) s.nextPc
    Plain s ∧ (s.ctx s.cur).regs.pv 0 = true ∧ (s.ctx s.cur).heldSt = [] ∧ rdA s.env 1 = .ok 64 ∧ (64 : Word).toNat % 64 = 0
      ∧ (s.ctx s.cur).pr.lwbase ≤ 64 ∧ 64 + 256 ≤ (s.ctx s.cur).pr.lwlim ∧ l.nlev = 1 ∧ l.klen = 1 ∧ loopReserved (s.rdLmem o0 64 256) = true
      ∧ l.ker % 16 = 0 ∧ l.pro % 16 = 0 ∧ l.epi % 16 = 0 ∧ l.plen = r.2.1 ∧ l.elen = r.2.2
      ∧ ((l.trips.take l.nlev).all fun t => t != 0) = decide (r.1 ≠ 0) := by decide +kernel

/-- A kernel at its iteration's end, with iterations to come; at its last; and one that LEXIT ends. -/
def loop0 (ctr : Nat) (lexit : Bool) (elen : Nat) : LoopSt :=
  { pro := 0, ker := 0x100, epi := 0x200, plen := 0, klen := 1, elen := elen, nlev := 1, trips := [3, 0, 0, 0, 0, 0], strides := [⟨0, 1, 64⟩]
    counters := [ctr, 0, 0, 0, 0, 0], phase := .ker, pos := 0, lexit := lexit, due := true, buf := [], ret := 0x300 }
theorem witness_HardwareLoops_end : ∀ l ∈ [loop0 0 false 0, loop0 2 false 0, loop0 2 false 1, loop0 0 true 0],
    let c := (st0 { cx0 with loop := some l }).ctx x0
    c.active = true ∧ c.loop = some l ∧ l.due = true ∧ (∀ n, n < 16 → (c.regs.ac n).full = true ∧ (c.regs.ac n).mark.cause = 0)
      ∧ ((l.lexit = false ∧ 0 < l.nlev ∧ l.nlev ≤ 6 ∧ l.counters.getD 0 0 + 1 < l.trips.getD 0 0 ∧ l.strides.filter (fun e => e.level == 0) = [⟨0, 1, 64⟩])
        ∨ l.lexit = true ∨ ∀ i, i < l.nlev → ¬ l.counters.getD i 0 + 1 < l.trips.getD i 0) := by decide +kernel
theorem witness_HardwareLoops_exit : (st0 { cx0 with loop := some (loop0 0 false 0) }).bun = none ∧ (loop0 0 false 0).phase = .ker
    ∧ (bun0 cx0).pre.loop = none ∧ (in0 cx0).bun = some (bun0 cx0) ∧ condRuns (cCond 0) (bun0 cx0).pre = true := by decide +kernel

/-- A wait on s1, which is full; on s4, which is not, with time-out 0; and the same with time-out 5. -/
def cxWt : Ctx := { cx0 with regs := { regs0 with s := [(1, { val := 7 }), (4, { full := false, prod := 1 })] } }
def inWt (reg to_ : Nat) : State := (st0 cxWt).wrLmem o0 64 80 (to_ * 2 ^ 32 + (3 + reg * 2 ^ 16) * 2 ^ 128)
theorem witness_Waits : ∀ r ∈ [(1, 0), (4, 0), ((4, 5) : Nat × Nat)],
    let s := inWt r.1 r.2
    let blk := s.rdLmem o0 64 80
    let w := waitOf s blk 5 (s.ctx x0).pc
    Plain s ∧ (s.ctx s.cur).regs.pv 0 = true ∧ (s.ctx s.cur).heldSt = [] ∧ rdA s.env 1 = .ok 64 ∧ (64 : Word).toNat % 16 = 0
      ∧ 64 + 80 ≤ (s.ctx s.cur).pr.lwlim ∧ blk / 2 ^ 5 % 2 ^ 27 = 0 ∧ blk / 2 ^ 64 % 2 ^ 64 = 0 ∧ w.conds.forM (condCheck s s.env) = .ok ()
      ∧ w.conds.all (condSettled s s.env) = true
      ∧ modeMet w.all w.conds.length (testAll s (.live x0) (s.ctx x0) w.conds 0) = decide (r.1 = 1) ∧ w.deadline = some (s.tick + r.2) := by decide +kernel

/-- A quiet wait at once and with a time-out, a tagged continuation, a core with another Ready context and one without. -/
def xpk0 : Packet :=
  { kind := .xst, job := 1, src := 0, dst := 0, voff := 64, size := 8, data := [5], op := .add, ty := .s64, count := 1, hidx := 0, clu := 0, core := 0
    rel := false, scope := .sy, home := .live x0, reg := 0, prod := 0, lsz := .z8, mark := 0, baddr := 0, crec := 0 }
def cxXs : Ctx := { cx0 with fl := { pend := [pend0 (.fabric xpk0) none] } }
def two (c : Ctx) : State := (st0 c).setCtx ⟨0, 0, 1⟩ { pr := { st := .ready } }
theorem witness_QuietWaitAndYield : Plain (st0 cx0) ∧ (cx0.regs.pv 0 = true) ∧ rdS (st0 cx0).env 5 = .ok 0 ∧ rdS (st0 cx0).env 1 = .ok 7
    ∧ ((st0 cx0).ctx x0).ct.tag = none ∧ cx0.fl.fabricLeft = true ∧ (cxXs.fl.fabricLeft = false ∧ Plain (st0 cxXs))
        ∧ Plain (st0 { cx0 with ct := { tag := some 1 } }) ∧ (two cx0).otherReady x0 = true ∧ Plain (two cx0)
    ∧ (st0 cx0).otherReady x0 = false ∧ (st0 cx0).workWaits 0 0 = false := by decide +kernel

/-- A quiet wait that has ended, found and at its time-out, whose bundle issues again. -/
theorem witness_QuietWaitAndYield_ended : ∀ r ∈ [(1 : Nat), 16], let c := { cx0 with qres := some (0, r) }
    Plain (st0 c) ∧ c.fl.fabricLeft = true ∧ c.quietEnd c.pc = some r ∧ cx0.quietEnd cx0.pc = none := by decide +kernel

/-- A continuation with nothing outstanding, one with an access to come, and a live team with a free record. -/
def team0 : Team :=
  { launch := 0, key := 1, live := 1, phase := 0, arrivals := 0, cap := 2, vbase := 0, jslot := 0, nextItem := 1, items := 8, free := [1], pending := []
    sched := false, moving := none, bound := 0, moved := none }
def teamed (s : State) : State := withCl (fun k => { k with teams := [(0, some team0)] }) (launched s)
theorem witness_DoneAndSpawn : Plain (st0 cx0) ∧ cx0.regs.pv 0 = true ∧ rdS (st0 cx0).env 3 = .ok 16 ∧ rdS (st0 cx0).env 5 = .ok 0
    ∧ rdA (st0 cx0).env 1 = .ok 64
    ∧ rdS (st0 cx0).env 1 = .ok 7 ∧ rdS (st0 cx0).env 2 = .ok 3 ∧ rdS (st0 cx0).env 4 = .ok 0 ∧ (64 : Word).toNat % 16 = 0 ∧ (st0 cx0).quietCtx x0 = true
    ∧ (st0 { cx0 with fl := { pend := [pend0 (.store 8 5) none] } }).quietCtx x0 = false ∧ Plain (st0 { cx0 with fl := { pend := [pend0 (.store 8 5) none] } })
    ∧ (teamed (st0 cx0)).findTeam 0 (teamKey ((teamed (st0 cx0)).lraw 0) ((8 : Word).toNat % 2 ^ widthFrom ((teamed (st0 cx0)).lraw 0) 0)) = some (0, 0)
    ∧ (teamed (st0 cx0)).team 0 0 = some team0 ∧ team0.free = 1 :: [] ∧ team0.launch = 0 ∧ Plain (teamed (st0 cx0)) := by decide +kernel

/-- A team without a free record, and a launch whose team is not live. -/
theorem witness_DoneAndSpawn_full : (let s := withCl (fun k => { k with teams := [(0, some { team0 with free := [] })] }) (teamed (st0 cx0))
      Plain s ∧ s.findTeam 0 (teamKey (s.lraw 0) 8) = some (0, 0) ∧ s.team 0 0 = some { team0 with free := [] }
        ∧ s.homeOf 0 cx0.pr.crec = some (.live x0))
    ∧ (let s := launched (st0 cx0)
       Plain s ∧ s.findTeam 0 (teamKey (s.lraw 0) 8) = none ∧ s.launch 0 = some launch0 ∧ cx0.ct.tag = none) := by decide +kernel

/-- Cluster 0 with room in its trap queue. -/
def roomy (s : State) : State := withCl (fun k => { k with trqSize := 4 }) s
theorem witness_ArrivalsCallsAndTraps : (in0 cx0).bun = some (bun0 cx0) ∧ condRuns (cCond 0) (bun0 cx0).pre = true ∧ cx0.region = none ∧ cx0.fl.acq = []
    ∧ cxMb.pr.mb = true ∧ cx0.pr.mb = false
    ∧ [1, 2, 3, 4, 5, 6, 7, 8].mapM (fun k => rdS ((bun0 cx0).cenv 0) (BitVec.ofNat 6 k)) = .ok [7, 3, 16, 0, 0, 0, 0, 0]
    ∧ cx0.ct.svcOpen = false ∧ ((roomy (in0 cx0)).cl 0).svcRoom = true ∧ ((in0 cx0).cl 0).svcRoom = false
    ∧ Plain (st0 cx0) ∧ Plain (roomy (st0 cx0)) ∧ cx0.pr.nb = false ∧ Plain (st0 { cx0 with pr := { cx0.pr with nb := true } })
    ∧ [1, 2, 3, 4, 5, 6, 7, 8].mapM (fun k => rdS (roomy (st0 cx0)).env (BitVec.ofNat 6 k)) = .ok [7, 3, 16, 0, 0, 0, 0, 0] := by decide +kernel

/-- Register numbers at the ends of each clause's range. -/
theorem witness_ControlRegisters : (in0 cx0).bun = some (bun0 cx0) ∧ condRuns (cCond 0) (bun0 cx0).pre = true ∧ (bun0 cx0).pre.region = none
    ∧ rdS ((bun0 cx0).cenv 0) 5 = .ok 0 ∧ (teamed (in0 cx0)).team 0 (bun0 cx0).pre.ct.team = some team0 ∧ cxMb.pr.mb = true ∧ cx0.pr.mb = false
    ∧ 0x010 ≤ (0x02F : BitVec 12).toNat ∧ 0x800 ≤ (0x800 : BitVec 12).toNat ∧ cregListed (0x00A : BitVec 12).toNat = false
    ∧ cregWritable (0x003 : BitVec 12).toNat = false ∧ (0x7FF : BitVec 12).toNat < 0x800 ∧ (0 : Word).toNat ≤ 0x7F800000
    ∧ cxMb.heldCmd = [] ∧ (List.range 8).all (fun n => peakSettled mx0 n cxMb.ct.issued) = true
    ∧ (List.range 8).all (fun n => peakSettled ((st0 cxMb).core o0).mx n cxMb.ct.issued) = true
    ∧ Sources cxRg ∧ cxRg.region.isSome = true ∧ cregListed (0x006 : BitVec 12).toNat = true ∧ cregWritable (0x006 : BitVec 12).toNat = true
    ∧ Plain (st0 cx0) ∧ Plain (st0 cxMb) ∧ rdS (st0 cx0).env 5 = .ok 0 ∧ ringFree ((st0 cxMb).core o0).mx 7 = true
    ∧ (let v := 64 + 1 * 2 ^ 20 + 2 * 2 ^ 38
       v % 2 ^ 6 = 0 ∧ v / 2 ^ 20 % 2 ^ 12 ≠ 0 ∧ v / 2 ^ 38 % 2 ^ 7 ≤ 64 ∧ v % 2 ^ 20 + v / 2 ^ 38 % 2 ^ 7 * (v / 2 ^ 20 % 2 ^ 12) * 64 ≤ 2 ^ 20
         ∧ v / 2 ^ 32 % 2 ^ 6 = 0) := by decide +kernel

/-- Held stores of both spaces, the second over bytes of the first. -/
def held4 : List HeldSt := [.mem .lmem 64 8 5 0, .vec .lmem [(0, 66), (1, 70)] 9 0, .mem .vault 64 8 5 0, .vec .vault [(0, 64), (1, 68)] 5 16]

/-- Outside a region; in one with nothing held, with one held store of each kind, with several, with a held queue store that is compared, alone and
before a load that has been sent, and with a held command. -/
theorem witness_Regions : ∀ c ∈ [cx0, cxRg, { cxRg with heldSt := [.mem .lmem 64 8 5 0] }, { cxRg with heldSt := [.vec .lmem [(0, 64)] 5 0] }
      , { cxRg with heldSt := [.mem .vault 64 8 5 0] }, { cxRg with heldSt := [.vec .vault [(0, 64), (1, 68)] 5 0] }
      , { cxRg with heldSt := held4 }, { cxRg with queues := [(2, [{ qent0 .st .held with compared := true }])], heldSt := [.queue 2 1] }
      , { cxRg with queues := [(2, [{ qent0 .st .held with compared := true }]), (3, [{ qent0 .ld .waiting with serial := 2, pa := some 64 }])]
                    heldSt := [.queue 2 1] }
      , { cxRg with heldCmd := [heldOf (.mprec c0 0 1) ((bun0 cxMb).env c0) 64 9 0] }],
    (st0 c).bun = none ∧ ((st0 c).ctx x0).regs.pv 0 = true ∧ ((st0 c).ctx x0).loop = none ∧ c.fl.holdsAll = false ∧ c.dslot = 0 ∧ c.delay = 0
      ∧ (c.region = none ∧ c.heldSt = [] ∧ c.heldCmd = [] ∨ c.region = some region0 ∧ allCompared c = true)
      ∧ (bun0 cx0).pre.region = none := by decide +kernel

/-! ### A step -/

/-- A state whose next turn issues core 0's bundle `s5 = s5 + s6`; one whose PC has no page; and one whose bundle has a fault at bundle level. -/
def stIs : State := State.reset.withFetchWord 32 0x040A28C0
def stNone : State := { (stIs.modCtx x0 fun c => { c with pc := 2 ^ 20 }) with agenda := [.issue o0] }
def stBad : State := { stIs.modCl 0 (fun k => { k with code := [⟨3, 0xFF⟩] }) with agenda := [.issue o0] }
abbrev Turns (s : State) : Prop :=
  let s' : State := { s with agenda := [] }
  s.agenda = .issue o0 :: [] ∧ (s'.core o0).run = some 0 ∧ s'.coreIn o0 = true ∧ (s'.ctx x0).active = true ∧ (s'.ctx x0).pr.st = .running
    ∧ s'.firstOf (boundary x0) = none ∧ (s'.ctx x0).doneWait = false ∧ (s'.ctx x0).strideWait = none ∧ (s'.ctx x0).goesOn = true
    ∧ (s'.ctx x0).fl.holdsAll = false ∧ (s.ctx x0).fromBuffer = false ∧ s.fetchBad 0 (s.ctx x0).pr.jslot (s.ctx x0).pc = false
def bIs : Bundle := decodeWords ((stIs.bundleAt x0).getD 0)
theorem witness_StepRunsTheDecodedBundle : Turns stIs ∧ Turns stNone ∧ Turns stBad ∧ stNone.bundleAt x0 = none
    ∧ (stIs.bundleAt x0).isSome = true ∧ bundleFault (stIs.ctx x0) bIs = none ∧ bIs.s = .add c0 5 5 6
    ∧ ((stBad.bundleAt x0).bind fun w => bundleFault (stBad.ctx x0) (decodeWords w)) = some 0
    ∧ ok2 (step stIs) = true ∧ ok2 (step stNone) = true ∧ ok2 (step stBad) = true := by decide +kernel
theorem witness_Regions_held : heldByte .lmem 66 held4 = some 9 ∧ heldByte .lmem 64 held4 = some 5 ∧ heldByte .lmem 100 held4 = none
    ∧ held4.filterMap heldAccess = [(.store 8 5, 64, 0), (.storeV [(0, 64), (1, 68)] 5, 64, 16)] := by decide +kernel

/-- One context, changed as given; and a change of its privileged state. -/
def st1 (f : Ctx → Ctx) : State := st0 (f cx0)
def withPr (f : Priv → Priv) (c : Ctx) : Ctx := { c with pr := f c.pr }

/-- A tick with a running context, a stopped one and an idle one, its BUDGET at 1 or 0; a module that has nothing to do but its bring-up; and
each step of it. -/
theorem witness_TicksAndBringUpSteps :
    (∀ f ∈ [(fun p => { p with budget := 1 } : Priv → Priv), id, (fun p => { p with stopped := true }), (fun p => { p with st := .idle })],
        let s : State := { st1 (withPr f) with agenda := [.tick] }
        s.agenda = .tick :: [] ∧ s.clusterRuns 0 = true)
    ∧ (st1 (withPr fun p => { p with budget := 1 })).ctx x0 = withPr (fun p => { p with budget := 1 }) cx0
    ∧ ({ State.reset with clusters := [(0, { failed := true })] } : State).clusterRuns 0 = false
    ∧ State.reset.agenda = [] ∧ State.reset.boot.done = false ∧ State.reset.boot.recovery = false
    ∧ ∀ k, k < 7 → let s : State := { State.reset with boot := { step := k } }
        s.boot.done = false ∧ s.boot.recovery = false ∧ s.boot.step ≤ 6 := by decide +kernel
theorem witness_StepKeepsInvariant : stIs.Inv ∧ ok2 (step stIs) = true := ⟨⟨by decide +kernel, by decide +kernel⟩, by decide +kernel⟩
theorem witness_InstructionsRoundTrip : Instr.wf (.add c0 5 5 6) = true ∧ Instr.inSlot (.add c0 5 5 6) = true
    ∧ (encodeSlot .none (.add c0 5 5 6)).map (fun e => (e.word, orphan e.slot .none e.byte e.word)) = some (0x040A28C0, false) := by decide +kernel

/-! ### Events of contexts -/

def ready0 (c : Ctx) : State := { State.reset with clusters := [(0, { cores := [(0, { ctxs := [(0, c)] })] })] }
def quiet0 (last : Option (Nat × Nat × Nat)) (found : Bool) : Quiet :=
  { job := 0, since := 0, last := last, found := found }
def wait0 (reg to_ : Nat) : WaitSt := waitOf (inWt reg to_) ((inWt reg to_).rdLmem o0 64 80) 5 0
def waiting0 (w : WaitSt) : State := st0 { cxWt with wait := some w }
def quietly (last : Option (Nat × Nat × Nat)) (found : Bool) (d : Option Nat) : WaitSt := { wait0 1 0 with conds := [], quiet := some (quiet0 last found), deadline := d }
/-- A wait for both of two registers, one of which is full; and the tick after the state's. -/
def latch0 : WaitSt := { wait0 1 0 with conds := (wait0 1 0).conds ++ (wait0 4 0).conds, all := true, deadline := none }
def late (s : State) : State := { s with tick := s.tick + 1 }
def heldM (i : Instr) : Ctx := { cxMb with heldCmd := [heldOf i ((bun0 cxMb).env c0) 64 9 0] }

theorem witness_ContextEvents_scheduling :
    (let s := ready0 (withPr (fun p => { p with st := .ready }) cx0)
     s.nextReady o0 = some 0 ∧ (s.core o0).run = none ∧ s.coreIn o0 = true ∧ okE (.contextSelect o0) s = true)
    ∧ (let c := withPr (fun p => { p with qcount := 4096 }) cx0
       c.active = true ∧ c.pr.st = .running ∧ 4096 ≤ c.pr.qcount ∧ c.region = none ∧ c.between = true ∧ c.fl.defer = [] ∧ c.pr.pre = none
         ∧ c.pr.overrun = false ∧ c.doneWait = false ∧ (two c).otherReady x0 = true
         ∧ (st0 c).otherReady x0 = false ∧ (st0 c).workWaits 0 c.ct.prio = false ∧ okE (.quantumExpiry x0) (two c) = true
             ∧ okE (.quantumExpiry x0) (st0 c) = true)
    ∧ (let c := withPr (fun p => { p with st := .stalled }) cx0
       c.active = true ∧ (two c).otherReady x0 = true ∧ okE (.stallTimeout x0) (two c) = true)
    ∧ (let s := st1 fun c => { c with doneWait := true }
       (s.ctx x0).active = true ∧ s.quietCtx x0 = true ∧ (s.ctx x0).pr.st = .running ∧ okE (.doneComplete x0) s = true)
    ∧ (∀ q ∈ [CSt.stalled, .parked], let s := st1 fun c => { withPr (fun p => { p with st := q, blk := some .done }) c with doneWait := true }
       (s.ctx x0).active = true ∧ s.quietCtx x0 = true ∧ (s.ctx x0).pr.blk.isSome = true ∧ okE (.doneComplete x0) s = true)
    ∧ (let s := st1 fun c => { c with fl := { fills := [{ reg := .s 5, prod := 1, val := 9 }] } }
       (s.home (.live x0)).isSome = true ∧ okE (.registerFill (.live x0) 0) s = true)
    ∧ (let s := st1 fun c => { c with region := some { region0 with rlen := 4096 } }
       (s.ctx x0).active = true ∧ (s.ctx x0).pr.st = .running ∧ (s.ctx x0).turning = false ∧ okE (.regionLengthRollback x0) s = true) := by decide +kernel
theorem witness_ContextEvents_waits :
    (let w := wait0 1 0
     w.quiet = none ∧ (waiting0 w).inTime w = true ∧ modeMet w.all w.conds.length (testAll (waiting0 w) (.live x0) cxWt w.conds w.wsat) = true
       ∧ okE (.waitWake (.live x0)) (waiting0 w) = true)
    ∧ (let s := waiting0 latch0
       latch0.quiet = none ∧ s.inTime latch0 = true ∧ latch0.all = true ∧ modeMet true 2 (testAll s (.live x0) (s.ctx x0) latch0.conds 0) = false
         ∧ testAll s (.live x0) (s.ctx x0) latch0.conds 0 ≠ latch0.wsat ∧ okE (.waitWake (.live x0)) s = true)
    ∧ okE (.waitWake (.live x0)) (waiting0 (quietly none true none)) = true ∧ (waiting0 (quietly none true none)).inTime (quietly none true none) = true
    ∧ ((quietly (some (0, 0, 5)) true none).quiet.bind fun q => q.last.map fun l => l.2.2) = some 5
    ∧ okE (.waitWake (.live x0)) (waiting0 (quietly (some (0, 0, 5)) true none)) = true
    ∧ (let w := wait0 4 0
       w.deadline = some 0 ∧ 0 < (late (waiting0 w)).tick ∧ w.met = none ∧ okE (.waitTimeout (.live x0)) (late (waiting0 w)) = true)
    ∧ okE (.waitTimeout (.live x0)) (late (waiting0 (quietly none false (some 0)))) = true := by decide +kernel

/-- A held MPREC, which issues, and a held MMA of a nest that was never set, which fails. -/
theorem witness_ContextEvents_held :
    (let s := st0 (heldM (.mprec c0 0 1))
     s.clusterRuns 0 = true ∧ okE (.heldCommandIssue x0) s = true ∧ (heldGo (.mprec c0 0 1)).2 = false
       ∧ (heldOf (.mprec c0 0 1) ((bun0 cxMb).env c0) 64 9 0).region = false)
    ∧ (let i : Instr := .mma c0 false true false false 0 1
       let s := st0 (heldM i)
       (s.core o0).mx.trackerRoom = true ∧ ((heldGo i).1 s x0 (heldOf i ((bun0 cxMb).env c0) 64 9 0) 0).toOption.isSome = false
         ∧ okE (.heldCommandIssue x0) s = true) := by decide +kernel

theorem witness_StopAndPlacementEvents_stops :
    okE (.deferredTrap x0) (st1 fun c => { c with fl := { defer := [{ cause := 0x0F, slot := 0, baddr := none, detail := 0, delay := false }] } }) = true
    ∧ (let s := st1 (withPr fun p => { p with bpaddr := [(1, 0)], bpctl := 2 })
       (s.ctx x0).pr.breakAt 0 = some 1 ∧ (s.ctx x0).turning = false ∧ (s.ctx x0).pr.nb = false ∧ okE (.breakpointStop x0) s = true)
    ∧ okE (.budgetOverrun x0) (st1 (withPr fun p => { p with overrun := true })) = true
    ∧ (relG (st1 id)).released 0 = true ∧ (∀ v, okE (.ctxctlStopreq x0 v) (relG (st1 id)) = true)
    ∧ okE (.ctxctlStopreq x0 true) (relG (st1 (withPr fun p => { p with st := .parked }))) = true
    ∧ okE (.contextStop x0) (st1 (withPr fun p => { p with stopreq := true })) = true
    ∧ (∀ i ∈ ([.replay x0, .next x0, .replaynb x0, .redirect x0] : List Instr), okE i (relG (st1 id)) = true
        ∧ okE i (relG (st1 (withPr fun p => { p with stopped := true }))) = true
            ∧ okE i (relG (st1 (withPr fun p => { p with stopped := true, stopreq := true }))) = true) := by
  decide +kernel

/-- Cluster 0 with a team, and the image of a record not yet placed. -/
def teamR (f : Cluster → Cluster) (s : State) : State := withCl (fun k => f { k with teams := [(0, some team0)] }) (launched s)
def img0 : Saved := { ctx := { pr := { } }, fresh := true, base := 0, size := 256, mx := none }

/-- A cluster whose 32 contexts are Parked, with a ready record; and a cluster with a fresh record at 4096 that may be placed. -/
def parked32 : State :=
  let x : Ctx := withPr (fun p => { p with st := .parked }) cx0
  let o : Core := { ctxs := (List.range 4).map fun k => (k, x) }
  teamR (fun k => { k with ready := [4096], saved := [(4096, some { img0 with size := 0 })] })
    { State.reset with clusters := [(0, { cores := (List.range 8).map fun k => (k, o) })] } |>.recWr 4096 recSTATUS 1 stReady
def placed0 : State :=
  (teamR (fun k => { k with ready := [4096], saved := [(4096, some img0)] }) (ready0 { })).recWr 4096 recSTATUS 1 stReady
/-- A Running context of a full cluster in which a record waits. -/
theorem witness_QuietWaitAndYield_leave : let s := parked32.modCtx x0 (withPr fun p => { p with st := .running })
    Plain s ∧ (s.ctx x0).regs.pv 0 = true ∧ rdS s.env 5 = .ok 0 ∧ s.otherReady x0 = false ∧ s.workWaits 0 (s.ctx x0).ct.prio = true
      ∧ s.anyIdle 0 = false ∧ s.mayLeave x0 = true ∧ s.scheduled x0 = false := by decide +kernel
theorem witness_StopAndPlacementEvents_placement :
    ((let s := relG (st1 id); okE (.preempt 0 0x100) s = true ∧ okE (.preempt 0 0) s = true ∧ okE (.preempt 0 0x101) s = true)
      ∧ ((st1 id).ctx ⟨0, 0, 1⟩).pr.st = .idle)
    ∧ (∀ c ∈ [cx0, cxRg], let s := teamed (st0 (withPr (fun p => { p with pre := some .software, crec := 4096 }) c))
        (s.ctx x0).active = true ∧ (s.ctx x0).between = true ∧ s.clusterRuns 0 = true ∧ s.enginesHalt x0 = true ∧ s.marversHalt x0 = true
          ∧ (s.ctx x0).doneWait = false ∧ (s.ctx x0).heldCmd = [] ∧ (s.ctx x0).performed = true
          ∧ okE (.preemptionTake x0) s = true)
    ∧ (parked32.victim 0).isSome = true ∧ parked32.anyIdle 0 = false ∧ parked32.workWaits 0 0 = true ∧ okE (.eviction 0) parked32 = true
    ∧ (let s := (teamR (fun k => { k with ready := [4096], saved := [(4096, some { img0 with fresh := false, size := 8192 })] })
         (st1 (withPr fun p => { p with lwlim := 4096, flen := 4096 }))).recWr 4096 recSTATUS 1 stReady
       (s.readyOf 0).contains 4096 = true ∧ (s.ctx x0).pr.st ≠ .idle ∧ okE (.preload x0 4096) s = true
         ∧ runs (exec (.preload x0 4096) s) (fun t => (tget { crec := 0 } (t.cl 0).preload 0).size != 0) = true)
    ∧ (placed0.saved 0 4096).isSome = true ∧ (placed0.readyOf 0).contains 4096 = true ∧ placed0.mayPlaceAt x0 4096 0 = true
    ∧ placed0.comesFirst 0 (placed0.recKey 4096) = false
    ∧ okE (.continuationPlace x0 4096 0) placed0 = true := by decide +kernel

/-! ### Events of work -/

/-- Logical device 2 is valid, with one queue of two places and `n` records in it, after bring-up. -/
def ldOn (f : Ld → Ld) (s : State) : State := { up s with lds := [(2, f { valid := true, clmask := 1, cquota := 1, bound := some 9 })] }
def wq0 (r b : List Nat) : WQueue := { valid := true, part := 2, log2 := 1, vqid := 0, ring := r, borrowed := b }
def queued (r b : List Nat) : State := { ldOn id State.reset with wqs := [(0, wq0 r b)] }
def rec256 : List Byte := List.replicate 256 0
def job1 : JobEntry := ⟨true, 1, 0, [], (0, 0), 2⟩
theorem witness_QueueAndLaunchEvents_queues :
    State.reset.pushOpen 2 = false ∧ okE (.push 2 0 rec256) State.reset = true
    ∧ (queued [] []).pushOpen 2 = true ∧ (∀ r ∈ [[], [(1 : Nat), 2]], (queued r []).queuesNamed 2 0 = [0] ∧ okE (.push 2 0 rec256) (queued r []) = true)
    ∧ okE (.push 2 1 [0]) (queued [] []) = true ∧ okE (.push 2 0 rec256) (queued [1, 2] [3]) = true
    ∧ (queued [1, 2] []).borrowedBy 2 < 1 ∧ 1 ≤ (queued [1, 2] [3]).borrowedBy 2
    ∧ (State.reset.queueOpen 4095 0 = false ∧ okE (.qctlWrite 4095 0) State.reset = true)
    ∧ ((up State.reset).queueOpen 4095 0 = true ∧ (up State.reset).queuesOf 0 4095 < 256)
    ∧ okE (.qctlWrite 0 0x8000000000000000) (up State.reset) = true ∧ okE (.qctlWrite 4095 0x8000000000000000) (up State.reset) = true
    ∧ (let s : State := { up State.reset with wqs := (List.range 256).map fun q => (q, { valid := true }) }
       ¬ s.queuesOf 0 4095 < 256 ∧ okE (.qctlWrite 4095 0x8000000000000000) s = true)
    ∧ (let s : State := { queued [1] [] with req := { ld := 7, ok2 := true } }
       s.queueOpen 0 (s.wq 0).part = false ∧ okE (.cancel 0) s = true ∧ okE (.qctlWrite 0 0x8000000000000000) s = true)
    ∧ okE (.cancel 0) State.reset = true ∧ okE (.cancel 0) (queued [1] []) = true ∧ (queued [1] []).queueOpen 0 2 = true
    ∧ ((queued [1] []).wqs.filter fun e => e.2.resident).length < 1024 ∧ okE (.queueMakeResident 0) (queued [1] []) = true
    ∧ (ldOn id State.reset).jobWriteOk 2 255 (entryOf job1) = true ∧ okE (.jobTableWrite 2 255 job1) (ldOn id State.reset) = true
    ∧ (ldOn id State.reset).jobWriteOk 3 0 (entryOf job1) = false ∧ okE (.jobTableWrite 3 0 job1) (ldOn id State.reset) = true
    ∧ okE (.jobSlotUpdate 0 0) (withCl (fun k => { k with jobs := [(0, { ix := some 1, teams := 1, stale := some 0 })] }) State.reset) = true := by decide +kernel

/-- A launch as it stands, on queue 0 of logical device 2; the same as a whole record. -/
def lst (st : LState) (f : Launch → Launch) : State :=
  { queued [] [] with launches := [(0, some (f { launch0 with st := st, liveTeams := 0 }))], jobs := [(0, { valid := true, jobid := 1, part := 2 })] }
def dep0 : Dep := ⟨0, 5, false, false, false, false⟩
/-- One team of four items in the launch of `raw0`, with a record free. -/
def spawn0 (s : State) : SpawnReq := { wid := itemWid raw0 1 1, prio := s.launchPrio 0, entry := lEntry raw0, args := [], tag := none, origin := none }
def team4 : Team := { team0 with nextItem := 1, items := 4 }
theorem witness_QueueAndLaunchEvents_launches :
    (let s := lst .head fun v => { v with deps := [dep0] }
     genOf (s.rdVault 0 16) ≠ dep0.gen ∧ okE (.dependenceMet 0 0) s = true)
    ∧ (let s := lst .head id
       s.nextHead = some 0 ∧ launch0.reported = false ∧ s.launch 1 = none ∧ okE (.launchCheck 0) s = true)
    ∧ (let s := lst .running id
       (s.createKey 0).isSome = true ∧ s.slotFor 0 (s.launchJob 0) = some 0 ∧ s.bestCluster 0 = some 0 ∧ s.fitsVault 0 raw0 0 = true ∧ lSchedv raw0 = false
         ∧ okE (.teamCreate 0 0 0) s = true)
    ∧ (let s := withCl (fun k => { k with teams := [(0, some team4)] }) (lst .running id)
       let u := (s.setTeam 0 0 { team4 with nextItem := 2 }).newRecord 0 0 (spawn0 s)
       s.clusterRuns 0 = true ∧ (s.cl 0).ready = [] ∧ (u.markItem 0 (recAddr raw0 team4.vbase 1)).placeable 0 (recAddr raw0 team4.vbase 1) = true
         ∧ s.comesFirst 0 (s.itemKey team4) = false ∧ s.itemStands 0 (s.launchPrio 0) = false
         ∧ okE (.itemCreate 0 0) s = true)
    ∧ (let s := lst .draining id
       s.launchOver 0 { launch0 with st := .draining, liveTeams := 0 } = some 0 ∧ (s.ld (s.queueOf 0).part).hstate ≠ 2
         ∧ s.storesLanded (s.launchJob 0).jobid = true
         ∧ s.dispGoes (s.launchJob 0) (complWrites 0 0 s.tick { launch0 with st := .draining, liveTeams := 0 }) = true
             ∧ okE (.launchEnd 0) s = true) := by decide +kernel

/-- A launch with a completion sync word at offset 16 of the vault, in its job's window. -/
theorem witness_QueueAndLaunchEvents_csync : lCsync (raw0 + 16 * 2 ^ (8 * 0xC0)) ≠ 0
    ∧ vaultRef { valid := true, jobid := 1, windows := [(0, 2 ^ 26)] } (lCsync (raw0 + 16 * 2 ^ (8 * 0xC0))) 16 16 = true
    ∧ lCompl (raw0 + 16 * 2 ^ (8 * 0xC0)) = 0 := by decide +kernel

/-! ### Events of the Gaffer and of hosts -/

def trap0 : TrapRec := ⟨0, 0, false, false, false, 0, 0, 0, 3, 0x04, 64, 0, 0, 0⟩
def svc0 : State := st0 { cx0 with pr := { cx0.pr with crec := 4096 }, ct := { svcOpen := true, svcProd1 := 1, svcProd2 := 2 } }
def dbg0 (sel : Nat) : State := relG <| (st1 (withPr fun p => { p with stopped := true })).modCore o0 fun o => { o with dbgsel := sel }
theorem witness_GafferEvents :
    (let s := roomy (withCl (fun k => { k with trapWait := [trap0] }) State.reset)
     (s.cl 0).trqRoom = true ∧ s.recordReady 0 trap0 = true ∧ s.isolated (ringAt 0 0 0 / 2 ^ 30) = false ∧ okE (.trapRecordEnqueue 0) s = true)
    ∧ (let s := withCl (fun k => { k with ansRec := 4096 }) (st0 { cx0 with pr := { cx0.pr with crec := 4096 } })
       (s.ctx x0).ct.svcOpen = false ∧ s.homeOf 0 ((resolve 0 4096).getD 4096) = some (.live x0) ∧ okE (.svcAnswer 0 7) (relG s) = true)
    ∧ State.reset.homeOf 0 0 = none ∧ okE (.svcAnswer 0 7) (relG State.reset) = true
    ∧ (let s := withCl (fun k => { k with ansRec := 4096 }) svc0
       (s.homeOf 0 ((resolve 0 4096).getD 4096)) = some (.live x0) ∧ okE (.svcAnswer 0 7) (relG s) = true)
    ∧ (∀ n : BitVec 3, okE (.smaskWrite 0 n) (relG State.reset) = true) ∧ (∀ g, okE (.railWrite 0 g) (relG State.reset) = true)
    ∧ okE (.railChangeComplete 0) (withCl (fun k => { k with switching := true }) State.reset) = true ∧ okE (.lmsgRead 0) (relG State.reset) = true
    ∧ State.reset.released 0 = false ∧ runs (exec (.lmsgRead 0) State.reset) (fun _ => true) = false
    ∧ (st1 id).dbgOk o0 = false ∧ okE (.dbgdataRead o0) (relG (st1 id)) = true
    ∧ (∀ sel ∈ [(0x100 : Nat), 0x3F00], (dbg0 sel).dbgOk o0 = true ∧ (dbg0 sel).dbgReady o0 = true ∧ dbgObj sel = 0 ∧ dbgReg sel ≠ 0
        ∧ okE (.dbgdataRead o0) (dbg0 sel) = true ∧ okE (.dbgdataWrite o0 5) (dbg0 sel) = true ∧ okE (.dbgfeWrite o0 0) (dbg0 sel) = true)
    ∧ (∀ a ∈ [(0 : Nat), 0x10000000], let s := relG State.reset
        (s.cl 0).gaffer.isSome = true ∧ (gafferOk (gwhere 0 a) .machine a 3 = false) ∧ okE (.gafferAccess 0 .machine a 4 .load) s = true)
    ∧ okE (.controlRegisterWrite 191 0x040 1) (State.reset.modCl 191 fun k => { k with gaffer := some (gafferStart 191) }) = true
        ∧ okE (.controlRegisterWrite 0 (0x200000 + 7 * 2 ^ 18 + 3 * 2 ^ 15 + 8 * 0x801) 33) (relG State.reset) = true
    ∧ okE (.controlRegisterWrite 192 0x20018 90) State.reset = true ∧ okE (.controlRegisterWrite 193 (64 * 4095 + 0x28) 9) (up State.reset) = true
    ∧ (up State.reset).queueOpen 4095 0 = true ∧ State.reset.queueOpen 4095 0 = false
        ∧ okE (.controlRegisterWrite 193 (64 * 4095 + 0x28) 9) State.reset = true := by
  decide +kernel

/-- A request to logical device 2, in the latch. -/
def asks (r : Request) (s : State) : State := { s with req := r }
def ask2 (ok : Bool) (s : State) : State := asks { ld := 2, port := 0, val := 9, ok := ok, bytes := [1, 2], len := 2 } s
def ldHm : State := { ldOn (fun l => { l with hmlim := 4096, drlim0 := 4096 }) State.reset with ports := [0] }
theorem witness_HostEvents :
    (∀ b, okE .fmBind (ask2 b ldHm) = true) ∧ okE .fmBind (ask2 true { State.reset with boot := { step := 5 } }) = true
    ∧ (∀ n ∈ [(9 : Nat), 8], let s := ask2 true { ldOn (fun l => { l with hstate := 1, restart := true, ident := some n }) State.reset with ports := [0] }
        s.boot.done = true ∧ s.ports.contains 0 = true ∧ (s.ld 2).tstate = 0 ∧ (s.ld 2).rstpol = false ∧ okE .fmBind s = true)
    ∧ (ask2 true ldHm).hostHere 2 = true ∧ okE .hostMemoryWrite (ask2 true ldHm) = true ∧ okE .hostMemoryRead (ask2 true ldHm) = true
        ∧ ldHm.chanFree ((ldHm.ld 2).drbase0) 2 = true
    ∧ (∀ b, okE .hostMemoryRead (asks { ld := 2, port := 0, addr := 8, ok2 := true, ok3 := b } ldHm) = true)
    ∧ (ldHm.ld 2).hdm 0 2 = some ((ldHm.ld 2).drbase0) ∧ (ldHm.ld 2).hdm (2 ^ 56) 2 = none
    ∧ okE .linkDown (ask2 true ldHm) = true ∧ okE .linkDown (ask2 true { State.reset with ports := [0] }) = true
    ∧ (∀ n ∈ [(0 : Nat), 2], okE .completionTimeout (ask2 false { ldHm with lds := [(2, { valid := true, timeouts := n })] }) = true)
    ∧ okE .hostDeadReport (ask2 true ldHm) = true ∧ okE .warmRestart (ask2 true ldHm) = true ∧ okE .linkUp (ask2 true ldHm) = true
    ∧ (∀ i ∈ ([.rebind, .freeze, .thaw, .partitionDestroy] : List Instr), okE i (ask2 true State.reset) = true ∧ okE i (ask2 true ldHm) = true)
    ∧ (let s := ask2 true { ldOn (fun l => { l with hstate := 1, ident := some 9 }) State.reset with ports := [0] }
       (s.ld 2).tstate = 0 ∧ (s.ld 2).bound = (s.ld 2).ident ∧ (s.ld 2).cert = none ∧ okE .rebind s = true)
    ∧ (let s := ask2 true (ldOn (fun l => { l with hstate := 1, cert := some 4, shown := some 4 }) State.reset)
       (s.ld 2).tstate = 0 ∧ (s.ld 2).bound.isSome = true ∧ (s.ld 2).cert = (s.ld 2).shown ∧ okE .rebind s = true)
    ∧ (let s := ask2 true (ldOn (fun l => { l with hstate := 2 }) State.reset)
       okE .thaw s = true ∧ okE .partitionDestroy s = true)
    ∧ (let s := asks { ld := 2, addr := 0x40, val := 4096 } (ldOn id State.reset)
       s.ldsOk 2 ((s.ld 2).put 0x40 4096) = true ∧ okE .ldctlWrite s = true ∧ okE .ldctlWrite (asks { ld := 2, addr := 0x40 } State.reset) = true
         ∧ okE .ldctlWrite (asks { ld := 2, addr := 0 } (ldOn id State.reset)) = true
         ∧ okE .ldctlWrite (asks { ld := 2, addr := 0 } (ldOn (fun l => { l with tstate := 1 }) State.reset)) = true
         ∧ okE .ldctlWrite (asks { ld := 2, addr := 0x40 } (ldOn (fun l => { l with tstate := 1 }) State.reset)) = true) := by decide +kernel

/-- A link that comes up: the outcomes by TSTATE, HSTATE, RSTPOL and the host bound again; and descriptor writes that are refused. -/
def restarts (f : Ld → Ld) : State := ask2 true (ldOn (fun l => f { l with restart := true }) State.reset)
theorem witness_HostEvents_linkUp : (∀ k, k < 16 → k ≠ 2 → ((restarts id).ld k).restart = false)
    ∧ (∀ f ∈ [(fun l => { l with tstate := 1 } : Ld → Ld), (fun l => { l with hstate := 2 }), (fun l => { l with hstate := 1, rstpol := true })
        , (fun l => { l with hstate := 1, bound := none }), (fun l => { l with hstate := 1, ident := some 9 }), (fun l => { l with hstate := 1, ident := some 8 })],
        let s := restarts f
        s.boot.done = true ∧ s.req.port < 2 ∧ s.req.ld < 16 ∧ (s.ld 2).valid = true ∧ (s.ld 2).restart = true ∧ (s.ld 2).port = s.req.port
          ∧ okE .linkUp s = true)
    ∧ (let w (t h v : Nat) : State := asks { ld := 2, addr := 0, val := BitVec.ofNat 64 v } (ldOn (fun l => { l with tstate := t, hstate := h }) State.reset)
       (w 1 0 (2 ^ 63)).req.val.getLsbD 32 = false ∧ (w 1 0 (2 ^ 63 + 2 ^ 32 + 2 ^ 34)).req.val.getLsbD 34 = true ∧ (w 0 0 (2 ^ 32)).req.val.getLsbD 63 = false
         ∧ ((w 1 0 0).ld 2).tstate ≠ 0 ∧ ((w 0 1 0).ld 2).hstate ≠ 2) := by decide +kernel

/-- Bring-up done up to the alias key, and a device's session as given; a lapsed one, and one whose sequence numbers are used up. -/
def spdm (p : Spdm) (t : Nat) (ok : Bool) : State :=
  { ask2 ok (ldOn (fun l => { l with spdm := p, tstate := t }) State.reset) with aliasKey := true }
def spAll : Spdm := { version := true, caps := true, algs := true, keyex := true, session := true }
theorem witness_AttestationEvents :
    State.reset.aliasKey = false ∧ (spdm { } 0 true).aliasKey = true
    ∧ (∀ p ∈ [({ } : Spdm), spAll, { spAll with period := 0, seq := 2 ^ 64 - 1 }], ∀ ok, ∀ i ∈ ([.getVersion, .getCapabilities, .negotiateAlgorithms, .getDigests
        , .getCertificate, .challenge, .getMeasurements, .keyExchange, .finish, .endSession, .heartbeat, .keyUpdate, .lockInterfaceRequest
        , .getDeviceInterfaceReport, .getDeviceInterfaceState, .startInterfaceRequest, .stopInterfaceRequest] : List Instr), okE i (spdm p 0 ok) = true)
    ∧ ((spdm spAll 0 true).measurement 2 0).isSome = false ∧ ((spdm spAll 0 true).measurement 2 6).isSome = true
    ∧ (∀ t ∈ [(1 : Nat), 2], ∀ i ∈ ([.startInterfaceRequest, .stopInterfaceRequest, .getDeviceInterfaceReport, .lockedRegisterError] : List Instr),
        okE i (spdm { session := true, lock := true } t true) = true)
    ∧ (∀ t ∈ [(1 : Nat), 2], let s := { spdm { session := true, lock := true, period := 5 } t true with tick := 10 }
        (s.ld 2).spdm.last + 2 * (s.ld 2).spdm.period ≤ s.tick ∧ okE .sessionExpiry s = true)
    ∧ okE .sessionExpiry (spdm { session := true, seq := 2 ^ 64 - 1 } 1 true) = true := by decide +kernel
/-- A request in recovery, before any alias key; and requests that come as messages of a session, and of none. -/
theorem witness_AttestationEvents_messages : (let s : State := { State.reset with boot := { recovery := true, step := 1 } }
      s.aliasKey = false ∧ s.boot.recovery = true ∧ okE .getVersion s = true)
    ∧ ∀ p ∈ [spAll, { spAll with session := false }], let s := asks { ld := 2, ok := true, ok2 := true, addr := 6 } (spdm p 0 true)
        s.req.ok2 = true ∧ (s.ld 2).spdm = p ∧ p.algs = true ∧ ((s.measurement 2 6).isSome = true) ∧ p.period = 0 ∧ p.seq < 2 ^ 64 - 1
          ∧ okE .getMeasurements s = true ∧ okE .challenge s = true := by decide +kernel

/-! ### Events of the engines and of the fabric -/

/-- Ring 0's two slots are published; each state follows the one before it by the steps named. -/
def mx1 : Mx := { mx0 with rings := [(0, { base := 0x40000, ssize := 128, scount := 2, pmap := 3, occ := 2 })] }
def oM (raw : Nat) : State := withMx mx1 (launched ((st0 cxMb).wrLmem o0 64 32 raw))
def mw1 : State := nextOf (exec (.mwld c0 false 0 1 31) (oM wldRaw))
def mw2 : State := nextOf (exec (.weightLoadStart o0 0) mw1)
def mw3 : State := nextOf (exec (.weightLoadLand o0 0) mw2)
def ma1 : State := nextOf (exec (.mma c0 false false true true 0 1) (mw3.wrLmem o0 64 32 actRaw))
def ma2 : State := nextOf (exec (.matrixPassStart o0) ma1)
def ma3 : State := nextOf (exec (.matrixPassRetire o0) ma2)
def md1 : State := nextOf (exec (.mdrn c0 false false false 0 .rne false .cl 0 1 0) ((oM drnRaw).wrLmem o0 64 32 drnRaw))
/-- The pass behind a failed load, and one whose slot has an uncorrectable codeword. -/
def maF : State := ma1.modMx o0 fun m => { m with planes := m.planes.map fun p => (p.1, p.2.map fun l => { l with failed := true }) }
def maB : State := ma2.modCore o0 fun o => { o with lbad := [0x40000 / 8] }
theorem witness_MatrixEvents :
    okE (.mwld c0 false 0 1 31) (oM wldRaw) = true ∧ okE (.weightLoadStart o0 0) mw1 = true
    ∧ okE (.matrixPassStart o0) maF = true ∧ ((maF.core o0).mx.loadNow.map fun l => loadErr prec0 l) = some 4
    ∧ okE (.matrixPassRetire o0) maB = true ∧ maB.spaceBad o0 2 (mx1.ring 0).base (0, 32) = true ∧ okE (.weightLoadLand o0 0) mw2 = true
    ∧ ((mw3.core o0).mx.loadNow).isSome = true ∧ ((ma1.core o0).mx.mmaNow).isSome = true ∧ okE (.matrixPassStart o0) ma1 = true
    ∧ okE (.matrixPassRetire o0) ma2 = true ∧ (((ma3.core o0).mx.tile 0).first.map (·.ready)) = some true
    ∧ okE (.tileWindowClose o0 0) (ma3.modCtx x0 fun c => { c with ct := { c.ct with issued := 100 } }) = true
    ∧ okE (.drainLand o0 0) md1 = true
    ∧ okE (.tstatUpdate o0 0) (withMx { tiles := [(0, { tspend := [⟨0, 1, 0, true⟩] })] } (oM 0)) = true ∧ (oM 0).arrivals = []
    ∧ okE (.trackerRelease o0 0) (mw1.modMx o0 fun m => { m with cmds := m.cmds.map fun k => { k with hold := true } }) = true
    ∧ okE (.ringSlotAcquire o0 0) (withMx { rings := [(0, { scount := 2, occ := 1, waiting := [.bfacq 0 1 1] })] } (oM 0)) = true := by decide +kernel

/-- A drain with a part that stands in its writes still to land. -/
def mdP : State := md1.modMx o0 fun m => { m with cmds := m.cmds.map fun k =>
  { k with running := true, parts := [{ req := 0, count := 1, late := [{ addr := 65536, bit := 0, cb := 64, val := 5 }], words := [] }] } }
theorem witness_MatrixEvents_parts : (mdP.core o0).mx.cmds.length = 1 ∧ mdP.clusterRuns 0 = true ∧ okE (.drainLand o0 0) mdP = true
    ∧ (mw2.core o0).mx.cmds.all (fun k => k.running) = true ∧ (mw1.core o0).mx.cmds.all (fun k => mw1.cmdFree o0 k) = true := by decide +kernel

/-- R241, R369: uncorrectable source data lands the load failed and raises code 0x01. -/
theorem test_failed_weight_load : runs (exec (.weightLoadLand o0 0) (mw2.modCore o0 fun o => { o with lbad := [1024 / 8] }))
    (fun t => ((t.core o0).mx.loadNow.map fun l => l.failed) == some true && ((t.ctx x0).fl.defer.map fun d => (d.cause, d.detail % 256)) == [(0x0D, 1)]) = true := by
  decide +kernel

/-- A queued load and store of DRAM at 64 with their translation held, arrivals, a transfer, a Marver list, and a core at work. -/
def tlb0 : TlbEnt := ⟨0, 0, 12, 0, 1⟩
def inQ (k : QKind) (f : QEnt → QEnt) : State :=
  ((st0 (cxQ [f (qent0 k .waiting)])).modCore o0 fun o => { o with tlb := [tlb0] }) |> withCl fun c => { c with jobs := [(0, { valid := true, troot := 2 ^ 63 })] }
def gc1 : State := nextOf (exec (.gcopy c0 .cl 0 1 5) (withMx mx1 (launched ((st0 cxMb).wrLmem o0 64 256 copyRaw))))
def gcK : Cmd := ((gc1.core o0).mx.transfer 0 0).getD ((gc1.core o0).mx.cmds.getD 0
  { id := 0, kind := .gcopy 0 0 .cl ⟨0, 0, 0⟩, count := 0, close := 0, ctx := 0, baddr := 0, crec := 0, reads := [], writes := [] })
def arr0 (e : Option Nat) : State := { State.reset with arrivals := [⟨none, 64, 1, e, none, 0⟩] }
/-- The copy with one 8-byte part still to land, the same where that part goes to a frozen partition's host, the copy whole, and the copy with a
request that fails. -/
def part0 : PartReq := { req := 0, count := 1, late := [{ addr := 8192, bit := 0, cb := 64, val := 5 }], words := [] }
def gcP : State := gc1.modMx o0 fun m => { m with cmds := m.cmds.map fun k => { k with parts := [part0] } }
def partE : PartReq := { part0 with late := [{ addr := 8192, bit := 0, cb := 64, val := 5, pa := some dramTop }] }
def gcE : State :=
  ({ gc1 with lds := [(0, { hstate := 2 })] } : State).modMx o0 fun m => { m with cmds := m.cmds.map fun k => { k with parts := [partE] } }
def gcD : State := gc1.modMx o0 fun m => { m with cmds := m.cmds.map fun k => { k with done := [0] } }
def gcF : State := gc1.modMx o0 fun m => { m with cmds := m.cmds.map fun k => { k with bad := [0] } }

/-- A Marver entry that has failed, or that has all its slots. -/
def ment0 (err : Nat) : MEnt := { ix := 0, raw := 0, got := [], tile := none, err := err, faults := [] }
def ment1 : MEnt := { ment0 0 with raw := 2 ^ 272 + 16 * 2 ^ 256 + 2 ^ 152 + 2 ^ 146, got := [(0, 0)] }
theorem witness_TransferEvents :
    (inQ .ld id).entPa (.live x0) ((inQ .ld id).ctx x0) (qent0 .ld .waiting) = some 64
    ∧ (∀ k ∈ [QKind.ld, .st], let s := inQ k id
        s.queueReady (.live x0) (s.ctx x0) ((s.ctx x0).queue 2) 0 (qent0 k .waiting) 64 = true ∧ s.physReads 0 64 8 = true ∧ s.physTakes 0 64 8 = true
          ∧ (qent0 k .waiting).unchecked (s.ctx x0) = false
          ∧ okE (.queueDataArrival (.live x0) 2 0) s = true)
    ∧ okE (.syncArrival 0) (arr0 none) = true ∧ okE (.syncErrorArrival 0) (arr0 (some 5)) = true
    ∧ (let g := gc1.gEnv o0 gcK gcK.kind.cdesc
       let reqs := gc1.gReqs g
       gc1.reqReady o0 gcK g.raw reqs 0 = true ∧ gc1.gFail g (cmdCtx o0 gcK) (reqs.getD 0 []) (gc1.gWork g gcK reqs 0) = 0 ∧ gDsp g.raw ≠ 3
         ∧ gc1.gWorkGoes g (gc1.gWork g gcK reqs 0) = true
         ∧ okE (.gatherSectorLand o0 0 0 0) gc1 = true ∧ reqCount g.raw reqs gcK = 1)
    ∧ okE (.gatherTransferComplete o0 0 0) gcD = true
    ∧ (let k := ((gcP.core o0).mx.transfer 0 0).getD gcK
       (k.parts.find? fun p => p.req == 0) = some part0 ∧ k.err = 0
         ∧ (let g := gcP.gEnv o0 k k.kind.cdesc
            firstErr (part0.late.map (gcP.gPutErr g)) = 0 ∧ gcP.gTakes g (splitParts gcP.draws part0.late).1 = true)
         ∧ okE (.gatherSectorLand o0 0 0 0) gcP = true)
    ∧ (let k := ((gcE.core o0).mx.transfer 0 0).getD gcK
       firstErr (partE.late.map (gcE.gPutErr (gcE.gEnv o0 k k.kind.cdesc))) ≠ 0 ∧ (k.parts.find? fun p => p.req == 0) = some partE ∧ k.err = 0
         ∧ okE (.gatherSectorLand o0 0 0 0) gcE = true)
    ∧ okE (.gatherSectorLand o0 0 0 0) gcF = true
    ∧ okE (.marverEntryStart 0 0) (withCl (fun k => { k with marvers := [(0, { count := 1 })] }) State.reset) = true
    ∧ (withCl (fun k => { k with marvers := [(0, { live := [ment0 5] })] }) State.reset |> fun s => (s.mReady 0 (s.marver 0 0)).isSome) = true
    ∧ okE (.marverEntryLand 0 0) (withCl (fun k => { k with marvers := [(0, { live := [ment0 5] })] }) State.reset) = true
    ∧ (let s := withCl (fun k => { k with marvers := [(0, { count := 1, live := [ment1] })] }) (jobs0 State.reset)
       s.mReady 0 (s.marver 0 0) = some ment1 ∧ s.mCode 0 ment1 = 0 ∧ s.mRoom 0 ment1 (s.mNow 0 ment1) = true ∧ ment1.left ≠ []
         ∧ okE (.marverEntryLand 0 0) s = true)
    ∧ (∀ b, okE (.reheatReplay o0 true b) ma2 = true)
    ∧ (∀ b, ∀ r ∈ [RegRef.v 1, .s 1], okE (.reheatReplay o0 false b) (st0 { cx0 with vres := some (r, 1) }) = true) := by decide +kernel

/-- A packet of job 1 from module 1 to this one, with job 1's windows over vault 0 here; a page table that maps the lowest gibibyte to itself. -/
def pkt (k : PktKind) (voff : Nat) : Packet :=
  { kind := k, job := 1, src := 1, dst := 0, voff := voff, size := 8, data := [5], op := .add, ty := .s64, count := 1, hidx := 0, clu := 0xFF, core := 0xFF
    rel := false, scope := .sy, home := .live x0, reg := 5, prod := 1, lsz := .z8, mark := 0, baddr := 0, crec := 4096 }
def pages : Memory := wrMem (wrMem (wrMem (wrMem [] 0 8 4097) 4096 8 8193) 8192 8 7) 0x3000 8 0x500
def ld2 : Tab Ld := [(2, { valid := true, clmask := 3, drlim0 := 2 ^ 30 })]
def raw1 : Nat := raw0 + 2 ^ 10 + 1 * 2 ^ (0x70 * 8) + 0x3000 * 2 ^ (0x68 * 8)
def fab : State :=
  { teamed (st0 { cx0 with pr := { cx0.pr with crec := 4096 }, regs := { regs0 with s := [(5, { full := false, prod := 1 })] }, fl := { xwaits := [⟨1, 5, 0⟩] } }) with
    jobs := [(0, { valid := true, jobid := 1, troot := 2 ^ 63, windows := [(0, 2 ^ 26)], red := (0, 2 ^ 26), part := 2 })], dram := pages
    launches := [(0, some { launch0 with raw := raw1 })], packets := [pkt .xred 64, pkt .xred 64], wqs := [(0, wq0 [] [])], lds := ld2 }
theorem witness_FabricEvents :
    (∀ a ∈ [(64 : Nat), 0x4000000], okE (.xstArrival (.peer (pkt .xst a))) fab = true ∧ okE (.xldRequestArrival (.peer (pkt .xldReq a))) fab = true
        ∧ okE (.xredApply (.peer (pkt .xred a))) fab = true)
    ∧ (fab.jobEnt 1).holds 64 8 = true ∧ (fab.jobEnt 1).holds (2 ^ 26) 8 = false ∧ (fab.jobEnt 1).reduces 64 8 = true
        ∧ (fab.jobEnt 1).reduces (2 ^ 26) 8 = false
    ∧ fab.homeOf 0 4096 = some (.live x0) ∧ okE (.xldReplyArrival (.peer (pkt .xldRep 64))) fab = true
    ∧ State.reset.serving 1 = none ∧ okE (.xsendDeliver (.peer (pkt .xsend 0)) 0) State.reset = true
    ∧ fab.serving 1 = some 0 ∧ lHcount raw1 = 1 ∧ fab.handlerTeam 0 0xFF = some (0, 0, 1) ∧ fab.handlerEntry 0 0 = some 0x500
    ∧ okE (.xsendDeliver (.peer (pkt .xsend 0)) 0) fab = true
    ∧ fab.lostXld (pkt .xst 0) = false ∧ okE (.lossRecordReceive (.peer (pkt .xst 0))) fab = true ∧ okE (.xredMerge 0 1) fab = true
    ∧ okE (.xldReplyArrival (.peer { pkt .xldRep 64 with mark := 0x05 })) fab = true ∧ okE (.lossRecordReceive (.peer (pkt .xldRep 64))) fab = true
    ∧ (∀ k ∈ [(PktKind.xst, Instr.xstArrival (.net 0)), (.xldReq, .xldRequestArrival (.net 0)), (.xldRep, .xldReplyArrival (.net 0))
        , (.xred, .xredApply (.net 0)), (.xsend, .xsendDeliver (.net 0) 0)], let s := { fab with packets := [{ pkt k.1 64 with dst := 1 }] }
        s.inOrder (.net 0) = true ∧ s.modId = 0 ∧ okE k.2 s = true)
    ∧ (let s := { fab with launches := [(0, some { launch0 with raw := raw1, st := .frozen false })] }
       s.serving 1 = some 0 ∧ okE (.xsendDeliver (.peer (pkt .xsend 0)) 0) s = true)
    ∧ fab.clusterRuns 0 = true ∧ okE (.packetDrop 0) fab = true ∧ okE (.countingWave []) { fab with tick := 100 } = true
    ∧ okE .waveSumsArrival { fab with waveFlight := [⟨0, []⟩] } = true := by decide +kernel

/-- A load that must walk: its job slot with no root, and with that page table. -/
def walks (root : Nat) : State :=
  { withCl (fun k => { k with jobs := [(0, { valid := true, troot := root, part := 2 })] }) (st0 (cxQ [qent0 .ld .waiting])) with dram := pages, lds := ld2 }
def arrived (s : State) : State := nextOf (exec (.pageWalk 0 (.queue x0 2 0)) s)
def faulted (s : State) : State := nextOf (exec (.pageWalk 0 (.queue x0 2 0)) (arrived s))
theorem witness_TranslationEvents :
    (∀ r ∈ [(0 : Nat), 0x8000000000000000], let s := walks r
        s.mayWalkQ x0 (s.ctx x0) ((s.ctx x0).queue 2) 0 (qent0 .ld .waiting) = true ∧ (s.missesOf 0).contains (.queue x0 2 0) = false
          ∧ okE (.pageWalk 0 (.queue x0 2 0)) s = true ∧ ((arrived s).missesOf 0).take 8 = [.queue x0 2 0]
          ∧ okE (.pageWalk 0 (.queue x0 2 0)) (arrived s) = true)
    ∧ (walks 0).clusterRuns 0 = true ∧ (qent0 .ld .waiting).chk = false ∧ (qent0 .ld .waiting).ord ≠ .rel ∧ ((walks 0).ctx x0).region = none
    ∧ (((walks 0).walkedFor x0).detect 0 (queueFault x0 ((walks 0).ctx x0) 2 (queuePos (((walks 0).ctx x0).queue 2) 0) (qent0 .ld .waiting) false 1 7 0)).isSome = true
    ∧ (let s := nextOf (exec (.tlbiAll 0 false) (relG State.reset))
       ∃ b, (s.cl 0).tlbiBusy = some b ∧ s.tlbiSettled 0 b = true)
    ∧ (match (walks (2 ^ 63)).walk 0 0 false 64 with | .ok _ _ => true | _ => false) = true
    ∧ (match (walks 0).walk 0 0 false 64 with | .fault 1 7 0 => true | _ => false) = true
    ∧ (let s := withCl (fun k => { k with fqSize := 4 }) (faulted (walks 0))
       ringRoom (s.cl 0).fqSize (s.cl 0).fqHead (s.cl 0).fqTail = true ∧ okE (.faultRecordEnqueue 0) s = true
         ∧ (s.fault 0 0).isSome = true ∧ okE (.retry 0 0) (relG s) = true ∧ okE (.fail 0 0) (relG s) = true)
    ∧ (qent0 .ld .waiting).unchecked ((walks 0).ctx x0) = false
    ∧ okE (.retry 0 255) (relG State.reset) = true ∧ okE (.fail 0 255) (relG State.reset) = true
    ∧ (∀ i ∈ ([.tlbiPages 0 0 0 false, .tlbiJobSlot 0 0 true, .tlbiAll 0 false] : List Instr), okE i (relG State.reset) = true
        ∧ okE i (nextOf (exec (.tlbiAll 0 false) (relG State.reset))) = true)
    ∧ okE (.tlbiComplete 0) (nextOf (exec (.tlbiAll 0 false) (relG State.reset))) = true
    ∧ (∀ n : BitVec 2, okE (.pageMoveGo 0 n) (relG (withCl (fun k => { k with pmDst := 2 ^ 30 }) State.reset)) = true
        ∧ okE (.pageMoveGo 0 n) (relG (withCl (fun k => { k with pmDst := 1 }) State.reset)) = true) := by decide +kernel
theorem tget_all {α : Type} {d : α} {t : Tab α} (p : α → Bool) (hd : p d = true) (ht : t.all (fun e => p e.2) = true) (k : Nat) :
    p (tget d t k) = true := by
  induction t with
  | nil => exact hd
  | cons e t ih =>
    simp only [List.all_cons, Bool.and_eq_true] at ht
    unfold tget
    split
    · exact ht.1
    · exact ih ht.2
/-- No context anywhere leaves for a cancel or a freeze, while the walk is among the first eight. -/
theorem witness_TranslationEvents_running (y : CtxId) : ((walks (2 ^ 63)).ctx y).doomed = false := by
  have h := tget_all (d := ({ } : Cluster)) (t := (walks (2 ^ 63)).clusters) (fun k => k.cores.all fun o => o.2.ctxs.all fun c => !c.2.doomed) rfl
    (by decide +kernel) y.cl
  have h := tget_all (d := ({ } : Core)) (fun o => o.ctxs.all fun c => !c.2.doomed) rfl h y.core
  exact (Bool.not_eq_true' _).mp (tget_all (d := ({ } : Ctx)) (fun c => !c.doomed) rfl h y.cx)
/-- A page move under way. -/
def moving0 : State := withCl (fun k => { k with pmBusy := some 0, pmN := 4096, pmTo := 2 ^ 30 }) State.reset
theorem witness_TranslationEvents_move : (moving0.cl 0).pmBusy = some 0 ∧ moving0.pmGoes 0 0 (2 ^ 30) 4096 = true := by decide +kernel

def pmOn (f : Power → Power) (r : Request) : State := { State.reset with power := f { }, req := r, tick := 10000000, boot := { step := 3 } }
/-- A channel with two failed retries of the transfer at 64, and one whose group 3 a diagnosis is due for. -/
def chan0 (c : Chan) : State := asks { addr := 64 } { State.reset with chans := [(chanKey 64, c)] }
theorem chan0_chan (c : Chan) : (chan0 c).chan (chanKey 64) = c := by simp [chan0, asks, State.chan, tget]
/-- A transfer at address 64 on its channel: after two retries, and with a diagnosis of group 3 due. -/
theorem witness_ReliabilityEvents_bus : (chan0 { }).req.addr = 64 ∧ 64 < dramTop ∧ chanKey 64 = dieOf 64 * 64 + Config.channel 1 % 64
    ∧ (chan0 { retries := 2, addr := 64 }).chan (chanKey 64) = { retries := 2, addr := 64 }
    ∧ (chan0 { due := [3] }).chan (chanKey 64) = { due := [3] } := ⟨rfl, by decide, rfl, chan0_chan _, chan0_chan _⟩
theorem witness_ReliabilityEvents :
    (∀ b, okE (.busDiagnosisComplete 0 0 [16, 17] b) { State.reset with tick := 200, chans := [(0, { diag := some 1 })] } = true
        ∧ okE (.busDiagnosisComplete 0 0 [16, 17] b) { State.reset with tick := 200, chans := [(0, { diag := some 1, swaps := (List.range 7).map fun i => (i, 128 + i) })] } = true)
    ∧ State.reset.linkUp 0 1 = true ∧ okE (.dieLinkDown 0 1) State.reset = true ∧ okE .dieLinkReroute { State.reset with rerouting := true } = true
    ∧ (∀ e ∈ [ErrKind.none, .corrected, .uncorrectable], okE .patrolScrub (asks { ok := true, addr := 64, err := e } State.reset) = true)
    ∧ State.reset.chanFree 64 1 = true
    ∧ okE (.clusterFailure 191) State.reset = true ∧ (up State.reset).boot.done = true
    ∧ okE .lehrMeasure (pmOn id { temps := [(191, 60)] }) = true ∧ okE .lehrMeasure (pmOn id { temps := [(191, 90)] }) = true
    ∧ okE .lehrMeasure (pmOn id { hot := [191], val := 0xFFFF }) = true ∧ ((pmOn id { }).power.ecap < 0xFFFF ∧ ¬ (pmOn id { }).power.ecap < 0)
    ∧ (∀ n ∈ [(1 : Nat), 2, 3], okE .lehrUndoStep (withCl (fun k => { k with step := n }) (pmOn id { ok := true })) = true)
    ∧ (pmOn (fun p => { p with droop := true }) { }).alarm = true ∧ okE .fastThrottle (pmOn (fun p => { p with droop := true }) { }) = true
    ∧ (pmOn (fun p => { p with fast := true, alarmEnd := some 0 }) { }).alarm = false
        ∧ okE .fastThrottleEnd (pmOn (fun p => { p with fast := true, alarmEnd := some 0 }) { }) = true
    ∧ okE .pcapWrite (pmOn id { val := 1 }) = true ∧ okE .fprioWrite (pmOn id { val := 1 }) = true ∧ okE .talarmWrite (pmOn id { val := 99 }) = true
    ∧ okE .talarmWrite (pmOn id { val := 100 }) = true ∧ okE .moduleReset State.reset = true
    ∧ (∀ b, okE .recoveryImage { State.reset with boot := { recovery := true, step := 1 }, req := { ok := b } } = true) := by decide +kernel
/-- The latch that names a cluster of each die whose prediction is over its limit; and a cluster whose step may be undone. -/
def over0 : State := pmOn id { hot := ((List.range 16).filter State.reset.dieOver).map fun d => 12 * d }
theorem over0_die (d : Nat) : over0.dieOver d = State.reset.dieOver d := rfl
theorem witness_ReliabilityEvents_predict : over0.power.predictTick + 1000 ≤ over0.tick ∧ (∀ c ∈ over0.req.hot, c < 192 ∧ over0.dieOver (c / 12) = true)
    ∧ (∀ d, d < 16 → over0.dieOver d = true → ∃ c ∈ over0.req.hot, c / 12 = d) := by
  refine ⟨by decide, fun c hc => ?_, fun d hd ho => ⟨12 * d, ?_, by omega⟩⟩
  · obtain ⟨d, hd, rfl⟩ := List.mem_map.1 hc
    obtain ⟨hd, ho⟩ := List.mem_filter.1 hd
    have := List.mem_range.1 hd
    exact ⟨by omega, by rw [over0_die, Nat.mul_div_cancel_left d (by decide)]; exact ho⟩
  · exact List.mem_map.2 ⟨d, List.mem_filter.2 ⟨List.mem_range.2 hd, over0_die d ▸ ho⟩, rfl⟩
theorem witness_ReliabilityEvents_undo : ∀ n ∈ [(1 : Nat), 2, 3], let s := withCl (fun k => { k with step := n }) (pmOn id { ok := true })
    3 ≤ s.boot.step ∧ s.power.measured ≤ s.power.ecap ∧ s.power.predicted.contains 0 = false ∧ (s.cl 0).heldOnly = false ∧ 0 < (s.cl 0).step
      ∧ (s.cl 0).temp + 5 < s.power.thot
      ∧ (s.cl 0).stepTick + 100000 ≤ s.tick := by decide +kernel

/-- A hot cluster 0 at step 5 with a team that fits cluster 1, and the move under way. -/
def hot0 (mv : Option Nat) : State :=
  { withCl (fun k => { k with step := 5, temp := 100, teams := [(0, some { team0 with moving := mv, live := 0 })] }) (lst .running id) with tick := 30000000, lds := ld2 }
theorem witness_ReliabilityEvents_move :
    (hot0 none).teamFits { team0 with live := 0 } 1 = true ∧ lPinned raw0 = false ∧ ((hot0 none).cl 1).temp < (hot0 none).power.thot
        ∧ 2 ≤ ((hot0 none).cl 0).step ∧ ((hot0 none).cl 0).stepDue (hot0 none).tick = true
    ∧ (hot0 none).boot.step = 7 ∧ (hot0 none).lehrActs 0 = true ∧ (hot0 none).spared (hot0 none).req.addr 0 = false
    ∧ okE (.lehrMigrate 0 0 1) (hot0 none) = true ∧ (hot0 (some 1)).teamFits { team0 with moving := some 1, live := 0 } 1 = true
    ∧ (hot0 (some 1)).slotFor 1 ((hot0 (some 1)).launchJob 0) = some 0 ∧ (hot0 (some 1)).teamSaved 0 0 = [] ∧ (hot0 (some 1)).teamLive 0 0 = []
    ∧ (hot0 (some 1)).packetsStill 0 [] = true ∧ okE (.teamMoveComplete 0 0 (movedBase 1 0)) (hot0 (some 1)) = true
    ∧ (∀ e ∈ (hot0 (some 1)).teamSaved 0 0, e.2.still = true)
    ∧ (((hot0 (some 1)).modCl 1 fun k => { k with retired := true }).teamFits { team0 with moving := some 1, live := 0 } 1 = false)
    ∧ okE (.teamMoveComplete 0 0 (movedBase 1 0)) (hot0 (some 1) |> fun s => s.modCl 1 fun k => { k with retired := true }) = true := by decide +kernel

end Sys2Proof.Tests
end

section
/-! The invariant, first part: what canonical memories mean piece by piece, and the rule of each shared operation on the state. `Tidy o s`
is the invariant with a bundle in flight allowed where `o` says so; every operation of the model keeps it for either `o`, save those that
end a bundle, which bring it back to `false`. -/

namespace Sys2Proof.Machine

-- In order: each use of a rule's default argument waits for the kernel, and in parallel they would hold too many threads.
set_option Elab.async false

/-! ## Canonical memories, piece by piece -/

theorem cluster_memOk_iff (c : Cluster) : c.memOk = true ↔ Memory.wf c.code = true ∧ ∀ e ∈ c.cores, Memory.wf e.2.lmem = true := by
  simp [Cluster.memOk, Core.memOk]

theorem memOk_iff (s : State) : s.memOk = true ↔
    Memory.wf s.vault = true ∧ Memory.wf s.dram = true ∧ (∀ e ∈ s.hosts, Memory.wf e.2 = true) ∧ ∀ e ∈ s.clusters, e.2.memOk = true := by
  simp [State.memOk, and_assoc]

section Tables

variable {α : Type} {d : α} {t : Tab α} {p : α → Prop} {k : Nat} {v : α}

theorem tget_of_all (hd : p d) (h : ∀ e ∈ t, p e.2) (k : Nat) : p (tget d t k) := by
  induction t with
  | nil => exact hd
  | cons e t ih =>
    obtain ⟨j, v⟩ := e
    obtain ⟨hv, ht⟩ := List.forall_mem_cons.1 h
    by_cases hk : k = j
    · simpa [tget, hk] using hv
    · simpa [tget, hk] using ih ht

theorem all_tput (hv : p v) (h : ∀ e ∈ t, p e.2) : ∀ e ∈ tput t k v, p e.2 := by
  intro e he
  rcases mem_tput he with rfl | he
  · exact hv
  · exact h e he

theorem all_tset [DecidableEq α] (hv : p v) (h : ∀ e ∈ t, p e.2) : ∀ e ∈ tset d t k v, p e.2 := by
  unfold tset
  split
  · exact fun e he => h e (mem_terase he)
  · exact all_tput hv h

end Tables

theorem Cluster.wf_core {c : Cluster} (hc : c.memOk = true) (k : Nat) : Memory.wf (c.core k).lmem = true :=
  tget_of_all (p := fun v : Core => Memory.wf v.lmem = true) rfl ((cluster_memOk_iff c).1 hc).2 k

theorem Cluster.memOk_setCore {c : Cluster} {k : Nat} {v : Core} (hc : c.memOk = true) (hv : Memory.wf v.lmem = true) :
    (c.setCore k v).memOk = true := by
  obtain ⟨hcode, hcores⟩ := (cluster_memOk_iff c).1 hc
  exact (cluster_memOk_iff _).2 ⟨hcode, all_tput (p := fun v : Core => Memory.wf v.lmem = true) hv hcores⟩

/-- A change of anything in a cluster but its code store and its cores. -/
theorem Cluster.memOk_congr {c d : Cluster} (hc : c.memOk = true) (hcode : d.code = c.code := by rfl) (hcores : d.cores = c.cores := by rfl) :
    d.memOk = true := by rw [Cluster.memOk, hcode, hcores]; exact hc

/-- A change inside every core that leaves its L-mem alone. -/
theorem Cluster.memOk_mapCores {c d : Cluster} {g : Nat × Core → Nat × Core} (hc : c.memOk = true) (hcode : d.code = c.code := by rfl)
    (hcores : d.cores = c.cores.map g := by rfl) (hg : ∀ e, (g e).2.lmem = e.2.lmem := by exact fun _ => rfl) : d.memOk = true := by
  obtain ⟨hw, hv⟩ := (cluster_memOk_iff c).1 hc
  refine (cluster_memOk_iff d).2 ⟨hcode ▸ hw, fun e he => ?_⟩
  obtain ⟨e', he', rfl⟩ := List.mem_map.1 (hcores ▸ he)
  exact hg e' ▸ hv e' he'

theorem Cluster.memOk_mapCtxs {c : Cluster} {cl : Nat} {f : CoreId → Ctx → Ctx} (hc : c.memOk = true) : (c.mapCtxs cl f).memOk = true :=
  Cluster.memOk_mapCores hc

theorem Cluster.memOk_stopMarvers {c : Cluster} (hc : c.memOk = true) : c.stopMarvers.memOk = true := Cluster.memOk_mapCores hc

/-! ## The invariant that every operation keeps -/

/-- Every memory is canonical, and no bundle stands open unless one may (`o`). -/
def Tidy (o : Bool) (s : State) : Prop := s.memOk = true ∧ (o = false → s.bun = none)

theorem tidy_false_iff (s : State) : Tidy false s ↔ s.Inv := by simp [Tidy, State.Inv, and_comm]

/-- `t` and `s` agree in all that the invariant speaks of. -/
structure SameHeld (t s : State) : Prop where
  vault : t.vault = s.vault
  dram : t.dram = s.dram
  hosts : t.hosts = s.hosts
  clusters : t.clusters = s.clusters
  bun : t.bun = s.bun

/-- A slot's result, where it has one, is tidy. -/
def RdTidy (o : Bool) (r : Rd State) : Prop := ∀ t, r = .ok t → Tidy o t

/-- An instruction's next state, where it has one, is tidy. -/
def OutTidy (o : Bool) (r : Out) : Prop := ∀ t, r = .next t → Tidy o t

namespace Tidy

variable {o : Bool} {s t : State}

/-- The invariant as one fact per memory. -/
theorem memories (hs : Tidy o s) :
    Memory.wf s.vault = true ∧ Memory.wf s.dram = true ∧ (∀ e ∈ s.hosts, Memory.wf e.2 = true) ∧ ∀ e ∈ s.clusters, e.2.memOk = true :=
  (memOk_iff s).1 hs.1

theorem of_memories (hv : Memory.wf s.vault = true) (hd : Memory.wf s.dram = true) (hh : ∀ e ∈ s.hosts, Memory.wf e.2 = true)
    (hc : ∀ e ∈ s.clusters, e.2.memOk = true) (hb : o = false → s.bun = none) : Tidy o s := ⟨(memOk_iff s).2 ⟨hv, hd, hh, hc⟩, hb⟩

/-- A change of what the invariant does not speak of. -/
theorem frame (hs : Tidy o s) (e : SameHeld t s := by exact ⟨rfl, rfl, rfl, rfl, rfl⟩) : Tidy o t := by
  obtain ⟨hv, hd, hh, hc, hb⟩ := e
  obtain ⟨hm, hn⟩ := hs
  exact ⟨by rw [State.memOk, hv, hd, hh, hc]; exact hm, by rw [hb]; exact hn⟩

/-- Where no bundle stands open, none may. -/
theorem closed (hs : Tidy o s) (hb : s.bun = none) : Tidy false s := ⟨hs.1, fun _ => hb⟩

theorem opened (hs : Tidy o s) : Tidy true s := ⟨hs.1, nofun⟩

theorem ite {c : Prop} [Decidable c] {a b : State} (ha : Tidy o a) (hb : Tidy o b) : Tidy o (if c then a else b) := by
  split <;> assumption

theorem foldl {α : Type} {l : List α} {f : State → α → State} (hs : Tidy o s) (hf : ∀ s a, Tidy o s → Tidy o (f s a)) :
    Tidy o (l.foldl f s) := by
  induction l generalizing s with
  | nil => exact hs
  | cons a l ih => exact ih (hf s a hs)

/-! ## One rule per memory -/

theorem withVault {m : Memory} (hs : Tidy o s) (hm : Memory.wf m = true)
    (e : SameHeld t { s with vault := m } := by exact ⟨rfl, rfl, rfl, rfl, rfl⟩) : Tidy o t := by
  obtain ⟨-, hd, hh, hc⟩ := hs.memories
  exact frame (s := { s with vault := m }) (of_memories hm hd hh hc hs.2) e

theorem withDram {m : Memory} (hs : Tidy o s) (hm : Memory.wf m = true)
    (e : SameHeld t { s with dram := m } := by exact ⟨rfl, rfl, rfl, rfl, rfl⟩) : Tidy o t := by
  obtain ⟨hv, -, hh, hc⟩ := hs.memories
  exact frame (s := { s with dram := m }) (of_memories hv hm hh hc hs.2) e

theorem wf_host (hs : Tidy o s) (ld : Nat) : Memory.wf (s.host ld) = true :=
  tget_of_all (p := fun m => Memory.wf m = true) rfl hs.memories.2.2.1 ld

theorem withHost {ld : Nat} {m : Memory} (hs : Tidy o s) (hm : Memory.wf m = true)
    (e : SameHeld t { s with hosts := tset [] s.hosts ld m } := by exact ⟨rfl, rfl, rfl, rfl, rfl⟩) : Tidy o t := by
  obtain ⟨hv, hd, hh, hc⟩ := hs.memories
  exact frame (s := { s with hosts := tset [] s.hosts ld m })
    (of_memories hv hd (all_tset (p := fun m => Memory.wf m = true) hm hh) hc hs.2) e

/-- A change inside every cluster. -/
theorem mapClusters {g : Nat × Cluster → Nat × Cluster} (hs : Tidy o s) (hg : ∀ e, e.2.memOk = true → (g e).2.memOk = true)
    (e : SameHeld t { s with clusters := s.clusters.map g } := by exact ⟨rfl, rfl, rfl, rfl, rfl⟩) : Tidy o t := by
  obtain ⟨hv, hd, hh, hc⟩ := hs.memories
  refine frame (s := { s with clusters := s.clusters.map g }) (of_memories hv hd hh (fun e he => ?_) hs.2) e
  obtain ⟨e', he', rfl⟩ := List.mem_map.1 he
  exact hg e' (hc e' he')

/-! ## Clusters, cores and contexts -/

variable {x : CtxId} {c : CoreId} {k cl crec code n : Nat}

theorem memOk_cl (hs : Tidy o s) (k : Nat) : (s.cl k).memOk = true :=
  tget_of_all (p := fun c : Cluster => c.memOk = true) rfl hs.memories.2.2.2 k

theorem wf_lmem (hs : Tidy o s) (c : CoreId) : Memory.wf (s.core c).lmem = true := Cluster.wf_core (hs.memOk_cl c.cl) c.core

theorem setCl {v : Cluster} (hs : Tidy o s) (hc : v.memOk = true) : Tidy o (s.setCl k v) := by
  obtain ⟨hv, hd, hh, hcs⟩ := hs.memories
  exact of_memories hv hd hh (all_tput (p := fun c : Cluster => c.memOk = true) hc hcs) hs.2

theorem modCl {f : Cluster → Cluster} (hs : Tidy o s)
    (hf : ∀ c, c.memOk = true → (f c).memOk = true := by exact fun _ hc => Cluster.memOk_congr hc) :
    Tidy o (s.modCl k f) := hs.setCl (hf _ (hs.memOk_cl k))

theorem setCore {v : Core} (hs : Tidy o s) (hv : Memory.wf v.lmem = true) : Tidy o (s.setCore c v) :=
  hs.setCl (Cluster.memOk_setCore (hs.memOk_cl c.cl) hv)

theorem modCore {f : Core → Core} (hs : Tidy o s)
    (hf : ∀ v, Memory.wf v.lmem = true → Memory.wf (f v).lmem = true := by exact fun _ h => h) : Tidy o (s.modCore c f) :=
  hs.setCore (hf _ (hs.wf_lmem c))

theorem modMx {f : Mx → Mx} (hs : Tidy o s) : Tidy o (s.modMx c f) := hs.modCore
theorem setCtx {v : Ctx} (hs : Tidy o s) : Tidy o (s.setCtx x v) := hs.setCore (hs.wf_lmem x.coreId)
theorem modCtx {f : Ctx → Ctx} (hs : Tidy o s) : Tidy o (s.modCtx x f) := hs.setCtx
theorem modPr {f : Priv → Priv} (hs : Tidy o s) : Tidy o (s.modPr x f) := hs.modCtx
theorem modFl {f : Flight → Flight} (hs : Tidy o s) : Tidy o (s.modFl x f) := hs.modCtx
theorem modCt {f : Cont → Cont} (hs : Tidy o s) : Tidy o (s.modCt x f) := hs.modCtx
theorem setSaved {v : Option Saved} (hs : Tidy o s) : Tidy o (s.setSaved cl crec v) := hs.modCl

theorem setHome {h : Home} {v : Ctx} (hs : Tidy o s) : Tidy o (s.setHome h v) := by
  unfold State.setHome
  split
  · exact hs.setCtx
  · split
    · exact hs
    · exact hs.setSaved

theorem modHome {h : Home} {f : Ctx → Ctx} (hs : Tidy o s) : Tidy o (s.modHome h f) := by
  unfold State.modHome
  split
  · exact hs
  · exact hs.setHome

theorem tally (hs : Tidy o s) : Tidy o (s.tally x code n) := ite hs hs.modCore
theorem tallyCl (hs : Tidy o s) : Tidy o (s.tallyCl cl code n) := ite hs hs.modCl
theorem wrReg {r : RegRef} {v : Nat} (hs : Tidy o s) : Tidy o (s.wrReg x r v) := hs.modCtx
theorem wake (hs : Tidy o s) : Tidy o (s.wake x) := hs.modCtx
theorem wakeCore (hs : Tidy o s) : Tidy o (s.wakeCore c) := hs.wake.wake.wake.wake
theorem mapLive {f : Ctx → Ctx} (hs : Tidy o s) : Tidy o (s.mapLive cl f) := hs.modCl fun _ hc => Cluster.memOk_mapCores hc
theorem draw (hs : Tidy o s) : Tidy o s.draw := hs.frame

/-! ## Reads and writes of the memories -/

variable {off addr a v w lo ld pa : Nat} {bs : List Byte}

theorem wrVault (hs : Tidy o s) : Tidy o (s.wrVault off n v) := by
  have hv := hs.memories.1
  refine hs.withVault (m := if s.isolated (off / 2 ^ 30) then s.vault else wrMem s.vault off n v) ?_
  split
  · exact hv
  · exact wf_wrMem _ _ _ _ hv

theorem wrVaultLanes {ls : List (Nat × Nat)} {v : BitVec 1024} (hs : Tidy o s) : Tidy o (s.wrVaultLanes ls v) :=
  frame (hs.foldl (l := ls) (f := fun s l => s.wrVault l.2 4 (v.toNat / 2 ^ (32 * l.1) % 2 ^ 32)) fun _ _ h => h.wrVault)

theorem wrLmem (hs : Tidy o s) : Tidy o (s.wrLmem c addr n v) := hs.modCore fun _ h => wf_wrMem _ _ _ _ h

theorem wrLmemLanes {ls : List (Nat × Nat)} {v : BitVec 1024} (hs : Tidy o s) : Tidy o (s.wrLmemLanes c ls v) :=
  (hs.foldl fun _ _ h => h.wrLmem).modCore

theorem recWr {fld : Nat} (hs : Tidy o s) : Tidy o (s.recWr crec fld n v) := hs.wrVault

theorem putArea {fs : List (Nat × Nat × Nat)} (hs : Tidy o s) : Tidy o (s.putArea lo n fs) := hs.withVault (wf_putArea s lo n fs hs.memories.1)

theorem putDram (hs : Tidy o s) : Tidy o (s.putDram pa bs) := hs.withDram (wf_wrBytes _ _ _ hs.memories.2.1)

theorem wrDram (hs : Tidy o s) : Tidy o (s.wrDram pa bs) := ite hs.putDram (hs.foldl fun _ _ h => ite h h.putDram)

theorem putHost (hs : Tidy o s) : Tidy o (s.putHost ld a bs) := hs.withHost (wf_wrBytes _ _ _ (hs.wf_host ld))

theorem modLd {f : Ld → Ld} (hs : Tidy o s) : Tidy o (s.modLd ld f) := hs.frame

theorem wrHost (hs : Tidy o s) : Tidy o (s.wrHost ld a bs) := by
  unfold State.wrHost
  split
  · exact hs.putHost
  · exact hs.modLd
  · exact hs

theorem wrPhys (hs : Tidy o s) : Tidy o (s.wrPhys ld pa bs) := ite hs.wrDram hs.wrHost

theorem copyVault {old new : Nat} (hs : Tidy o s) : Tidy o (s.copyVault old new n) :=
  hs.withVault (wf_splice _ _ _ _ hs.memories.1 (wf_slice _ _ _ _ hs.memories.1))

theorem exportFrame {save base : Nat} (hs : Tidy o s) : Tidy o (s.exportFrame c save base n) :=
  hs.withVault (wf_splice _ _ _ _ hs.memories.1 (wf_slice _ _ _ _ (hs.wf_lmem c)))

theorem importFrame {save base : Nat} (hs : Tidy o s) : Tidy o (s.importFrame c save base n) :=
  hs.modCore fun _ h => wf_splice _ _ _ _ h (wf_slice _ _ _ _ hs.memories.1)

theorem noteGen {core : Option CoreId} (hs : Tidy o s) : Tidy o (s.noteGen core addr) :=
  hs.mapClusters fun _ hc => Cluster.memOk_mapCtxs hc

theorem syncVault {adv : Bool} (hs : Tidy o s) : Tidy o (s.syncVault off w adv) := ite hs.wrVault.noteGen hs.wrVault
theorem syncLmem {adv : Bool} (hs : Tidy o s) : Tidy o (s.syncLmem c addr w adv) := ite hs.wrLmem.noteGen hs.wrLmem

/-! ## Traps, rollbacks and a context's stops -/

variable {cause tcause slot baddr detail : Nat} {r : TrapRec} {flag rb delay : Bool} {h : Home}

theorem addRecord (hs : Tidy o s) : Tidy o (s.addRecord cl r) := hs.modCl
theorem stop (hs : Tidy o s) : Tidy o (s.stop x) := hs.modPr.modCore
theorem takeTrap (hs : Tidy o s) : Tidy o (s.takeTrap x cause slot baddr detail flag rb delay) := (ite hs.tallyCl hs).addRecord.stop
theorem rbNotice {pont : Nat} (hs : Tidy o s) : Tidy o (s.rbNotice x slot pont) := ite hs hs.addRecord

theorem rollback (hs : Tidy o s) : Tidy o (s.rollback x baddr slot cause tcause) := by
  unfold State.rollback
  split
  · exact hs
  · exact hs.modCtx.rbNotice.wake.tally

theorem takeSlot (hs : Tidy o s) : Tidy o (s.takeSlot x) := hs.modCore.tally
theorem unstop (hs : Tidy o s) : Tidy o (s.unstop x) := ite hs (ite hs.modPr.takeSlot hs.modPr)
theorem resumeReplay (hs : Tidy o s) : Tidy o (s.resumeReplay x) := hs.modPr.unstop
theorem resumeNext (hs : Tidy o s) : Tidy o (s.resumeNext x) := hs.modPr.modCtx.unstop
theorem resumeReplaynb (hs : Tidy o s) : Tidy o (s.resumeReplaynb x) := hs.modPr.unstop
theorem resumeRedirect (hs : Tidy o s) : Tidy o (s.resumeRedirect x) := hs.modPr.modCtx.unstop
theorem deferTrap {b : Option Nat} (hs : Tidy o s) : Tidy o (s.deferTrap h cause slot b detail delay) := hs.modHome

theorem deferFor {b : Option Nat} (hs : Tidy o s) : Tidy o (s.deferFor cl crec cause slot b detail delay) := by
  unfold State.deferFor
  split
  · exact hs
  · exact hs.deferTrap

theorem wakeHome (hs : Tidy o s) : Tidy o (s.wakeHome h) := by
  unfold State.wakeHome
  split
  · exact hs.wake
  · exact hs

theorem vaultLost {p : Pend} (hs : Tidy o s) : Tidy o (s.vaultLost h p off) := ite hs.deferTrap hs
theorem stall {b : Blk} (hs : Tidy o s) : Tidy o (s.stall x b) := hs.modPr
theorem lapse (hs : Tidy o s) : Tidy o (s.lapse x) := ite hs.modPr hs
theorem park {w : WaitSt} (hs : Tidy o s) : Tidy o (s.park x w) := hs.modCtx.modCore

/-! ## Packets, launches, teams and messages -/

variable {job l team m : Nat} {tag : Option Nat}

theorem modCnt {f : JobCnt → JobCnt} (hs : Tidy o s) : Tidy o (s.modCnt job f) := hs.frame
theorem addInj (hs : Tidy o s) : Tidy o (s.addInj job n) := hs.modCnt
theorem addCons (hs : Tidy o s) : Tidy o (s.addCons job n) := hs.modCnt
theorem addLost (hs : Tidy o s) : Tidy o (s.addLost job n) := hs.modCnt
theorem setLaunch {v : Launch} (hs : Tidy o s) : Tidy o (s.setLaunch l v) := hs.frame

theorem modLaunch {f : Launch → Launch} (hs : Tidy o s) : Tidy o (s.modLaunch l f) := by
  unfold State.modLaunch
  split
  · exact hs
  · exact hs.setLaunch

theorem setTeam {v : Team} (hs : Tidy o s) : Tidy o (s.setTeam cl team v) := hs.modCl

theorem modTeam {f : Team → Team} (hs : Tidy o s) : Tidy o (s.modTeam cl team f) := by
  unfold State.modTeam
  split
  · exact hs
  · exact hs.setTeam

theorem relink {rs : List Nat} (hs : Tidy o s) : Tidy o (relink s rs) := by
  induction rs generalizing s with
  | nil => exact hs
  | cons a rs ih =>
    cases rs with
    | nil => exact hs.recWr
    | cons b rs => exact ih hs.recWr

theorem setReady {rs : List Nat} (hs : Tidy o s) : Tidy o (s.setReady cl rs) := hs.modCl.relink
theorem setWatch {rs : List Nat} (hs : Tidy o s) : Tidy o (s.setWatch cl rs) := hs.modCl.relink
theorem addReady (hs : Tidy o s) : Tidy o (s.addReady cl crec) := hs.setReady
theorem addWatch (hs : Tidy o s) : Tidy o (s.addWatch cl crec) := hs.setWatch
theorem dropReady (hs : Tidy o s) : Tidy o (s.dropReady cl crec) := hs.setReady.recWr
theorem dropWatch (hs : Tidy o s) : Tidy o (s.dropWatch cl crec) := hs.setWatch.recWr
theorem makeReady (hs : Tidy o s) : Tidy o (s.makeReady cl crec) := ite hs.dropWatch hs.dropWatch.recWr.recWr.addReady

/-- A fresh record's fields are written one by one. -/
theorem newRecord {q : SpawnReq} (hs : Tidy o s) : Tidy o (s.newRecord cl team q) := by
  unfold State.newRecord
  split
  · exact hs
  · split
    · exact hs
    · exact hs.setTeam.wrVault.recWr.recWr.recWr.recWr.recWr.recWr.recWr.recWr.setSaved.addReady

theorem spawnStatus {b : Option (SpawnBy × Nat × Nat)} (hs : Tidy o s) : Tidy o (s.spawnStatus b v) := by
  unfold State.spawnStatus
  split
  · exact hs
  · split
    · exact hs
    · exact hs.modHome

theorem msgRetire (hs : Tidy o s) : Tidy o (s.msgRetire tag) := by
  unfold State.msgRetire
  split
  · exact hs
  · split
    · exact hs
    · split
      · exact addCons hs.frame
      · exact hs.frame

theorem msgSpawn (hs : Tidy o s) : Tidy o (s.msgSpawn tag) := by
  unfold State.msgSpawn
  split
  · exact hs
  · split
    · exact hs
    · exact hs.frame

theorem barrierCheck (hs : Tidy o s) : Tidy o (s.barrierCheck cl team) := by
  unfold State.barrierCheck
  split
  · exact hs
  · exact ite (hs.setTeam.modCl fun _ hc => Cluster.memOk_mapCtxs hc) hs

theorem barrierArrive (hs : Tidy o s) : Tidy o (s.barrierArrive h) := by
  unfold State.barrierArrive
  split
  · exact hs
  · exact ite hs hs.modHome.modTeam.barrierCheck

theorem teamRetire (hs : Tidy o s) : Tidy o (s.teamRetire cl team) := by
  unfold State.teamRetire
  split
  · exact hs
  · exact ite (modLaunch (ite (hs.modCl.modCl fun _ hc => Cluster.memOk_stopMarvers hc) hs.modCl)) hs

theorem freeRecord (hs : Tidy o s) : Tidy o (s.freeRecord cl team crec) := by
  unfold State.freeRecord
  split
  · exact hs.recWr
  · exact hs.recWr.recWr.setTeam

theorem servePending (hs : Tidy o s) : Tidy o (s.servePending cl team) := by
  unfold State.servePending
  split
  · exact hs
  · split
    · exact hs.setTeam.newRecord.spawnStatus
    · exact hs

theorem retireCont {c : Ctx} (hs : Tidy o s) : Tidy o (s.retireCont cl c) :=
  hs.freeRecord.modTeam.barrierCheck.msgRetire.servePending.teamRetire

/-! ## Leaving a context -/

theorem exportCtx {save : Nat} {c : Ctx} (hs : Tidy o s) : Tidy o (s.exportCtx save c) := hs.putArea
theorem exportMx {f issued tiles : Nat} {m : Mx} (hs : Tidy o s) : Tidy o (s.exportMx f issued tiles m) := hs.putArea

theorem syncSaved (hs : Tidy o s) : Tidy o (s.syncSaved h) := by
  unfold State.syncSaved
  split
  · exact hs
  · split
    · exact hs
    · exact ite hs hs.exportCtx

theorem refresh (hs : Tidy o s) : Tidy o (s.refresh h) := by
  unfold State.refresh
  split
  · exact hs
  · split
    · exact hs
    · exact ite hs hs.setSaved

theorem leaveMx (hs : Tidy o s) : Tidy o (s.leaveMx x) := ite hs.modCore hs
theorem recWait {w : WaitSt} {wto : Bool} (hs : Tidy o s) : Tidy o (s.recWait crec w wto) := hs.recWr.recWr.recWr
theorem pauseMarvers (hs : Tidy o s) : Tidy o (s.pauseMarvers x) := ite hs.modCl hs

theorem leave {status : Nat} (hs : Tidy o s) : Tidy o (s.leave x status cause) := by
  unfold State.leave
  extract_lets c o' crec pr c' mx img save raw s1 s2 s3 s4 s5 s6 s7
  have h1 : Tidy o s1 := hs.pauseMarvers.exportCtx.exportFrame
  have h2 : Tidy o s2 := ite h1.exportMx h1
  have h6 : Tidy o s6 := h2.setSaved.leaveMx.modCore.setCtx.recWr.recWr.recWr
  have h7 : Tidy o s7 := by
    unfold s7
    split
    · exact h6.recWait
    · exact h6.recWr
  exact ite h7.recWr.addReady (ite h7.addWatch h7)

theorem completeDone (hs : Tidy o s) : Tidy o (s.completeDone x) := hs.leaveMx.modCore.setCtx.retireCont
theorem quantum (hs : Tidy o s) : Tidy o (s.quantum x cause) := ite hs.modPr.modCore (ite hs.leave hs.modPr)

end Tidy
end Sys2Proof.Machine
end

section
/-! The invariant, second part: the slots of a bundle and its end. What a slot's meaning writes goes through the operations of the first
part; a bundle's end leaves none open. -/

namespace Sys2Proof.Machine

set_option Elab.async false

/-! ## Outcomes -/

namespace OutTidy

variable {o : Bool} {s : State}

theorem next (hs : Tidy o s) : OutTidy o (.next s) := by
  intro t ht
  cases ht
  exact hs

theorem refused {r : Refusal} : OutTidy o (.refused r) := fun _ ht => nomatch ht

theorem event {name : String} {ok : Bool} (hs : Tidy o s) : OutTidy o (event name ok s) := by
  unfold Machine.event
  split
  · exact next hs
  · exact refused

theorem ite {c : Prop} [Decidable c] {a b : Out} (ha : OutTidy o a) (hb : OutTidy o b) : OutTidy o (if c then a else b) := by
  split <;> assumption

end OutTidy

/-! ## Slot results -/

namespace RdTidy

variable {o : Bool} {s : State} {α : Type}

theorem ok (hs : Tidy o s) : RdTidy o (.ok s) := by
  intro t ht
  cases ht
  exact hs

theorem error {e : Stop} : RdTidy o (.error e) := fun _ ht => nomatch ht
theorem trap {cause detail : Nat} : RdTidy o (trap cause detail) := error
theorem roll {cause : Nat} : RdTidy o (roll cause) := error

theorem bind {x : Rd α} {f : α → Rd State} (hf : ∀ a, RdTidy o (f a)) : RdTidy o (x >>= f) := by
  cases x with
  | error e => exact error
  | ok a => exact hf a

/-- A step that answers a state, which the rest goes on from. -/
theorem andThen {x : Rd State} {f : State → Rd State} (hx : RdTidy o x) (hf : ∀ t, Tidy o t → RdTidy o (f t)) : RdTidy o (x >>= f) := by
  cases x with
  | error e => exact error
  | ok t => exact hf t (hx t rfl)

theorem ite {c : Prop} [Decidable c] {a b : Rd State} (ha : RdTidy o a) (hb : RdTidy o b) : RdTidy o (if c then a else b) := by
  split <;> assumption

end RdTidy

namespace Tidy

variable {o : Bool} {s t : State} {x : CtxId} {c : CoreId} {h : Home} {e : Env}

/-! ## Sending a queue's requests, and a region's aliases -/

/-- Whether it goes on or stops, a queue's send leaves a tidy state. -/
def Sends (o : Bool) : Except State State → Prop
  | .ok t => Tidy o t
  | .error t => Tidy o t

theorem sent {q : Nat} {l : List QEnt} (hs : Tidy o s) : Tidy o (s.sent h q l) := by
  unfold State.sent
  split
  · exact hs.tally.modCtx
  · exact hs.modHome

theorem rollLate {baddr cause tcause : Nat} (hs : Tidy o s) : Tidy o (s.rollLate h baddr cause tcause) := by
  unfold State.rollLate
  split
  · exact hs.rollback
  · exact hs

theorem checkLoad {cx : Ctx} {en : QEnt} {pa : Nat} (hs : Tidy o s) : Sends o (s.checkLoad h cx en pa) := by
  unfold State.checkLoad
  split
  · exact hs
  · split
    · exact hs.rollLate
    · exact hs
    · extract_lets l
      split
      · exact hs.rollLate
      · exact hs.modHome

theorem checkLoads {es : List (QEnt × Nat)} (hs : Tidy o s) : Sends o (s.checkLoads h es) := by
  induction es generalizing s with
  | nil => exact hs
  | cons e es ih =>
    unfold State.checkLoads
    split
    · exact hs
    · rename_i cx _
      have hc : Sends o (s.checkLoad h cx e.1 e.2) := hs.checkLoad
      split
      · rename_i e'; rw [e'] at hc; exact hc
      · rename_i e'; rw [e'] at hc; exact ih hc

theorem sentUpTo {q n : Nat} (hs : Tidy o s) : Sends o (s.sentUpTo h q n) := by
  unfold State.sentUpTo
  split
  · exact hs
  · exact hs.sent.checkLoads

theorem sentQ {q : Nat} (hs : Tidy o s) : Tidy o (s.sentQ h q) := by
  have hc : Sends o (s.sentUpTo h q (((s.home h).map fun c => (c.queue q).length).getD 0)) := hs.sentUpTo
  unfold State.sentQ
  split <;> (rename_i e'; rw [e'] at hc; exact hc)

theorem takeAlias {chk : Bool} {al : Alias} (hs : Tidy o s) : RdTidy o (s.takeAlias e chk al) := by
  unfold State.takeAlias
  split
  · exact .ok hs
  · exact .ite (.ok hs) (.ite .roll (.ok hs.modCtx))

theorem hold {v : HeldSt} (hs : Tidy o s) : Tidy o (s.hold e v) := hs.modCtx

/-! ## Opening a bundle, and what a slot notes in it -/

theorem withBun {b : Option Bun} (hs : Tidy o s) (e : SameHeld t { s with bun := b } := by exact ⟨rfl, rfl, rfl, rfl, rfl⟩) : Tidy true t :=
  frame (s := { s with bun := b }) ⟨hs.1, nofun⟩ e

theorem openBundle {words : Nat} {br : Bool} (hs : Tidy o s) : Tidy true (s.openBundle x words br) := hs.withBun

theorem post {p : Post} (hs : Tidy true s) : Tidy true (s.post p) := hs.withBun
theorem branch {d : Nat} (hs : Tidy true s) : Tidy true (s.branch x d) :=
  withBun (s := s.modCtx x fun c => { c with target := some d, delay := 2 }) hs.modCtx
theorem lateTrap {cause n : Nat} (hs : Tidy true s) : Tidy true (s.lateTrap cause n) := hs.withBun

theorem slot {k : Slot} {cd : Cond} {body : Env → State → Rd State} (hs : Tidy true s) (hb : ∀ e, RdTidy true (body e s)) :
    Tidy true (s.slot k cd body) := by
  unfold State.slot
  split
  · exact hs
  · split
    · extract_lets e
      split
      · exact hb e _ ‹_›
      · exact hs.withBun
    · exact hs

/-! ## The end of a bundle -/

variable {b : Bun} {p : Post}

theorem issued (hs : Tidy o s) : Tidy o (s.issued b) := hs.modCtx.modCore.tally.tally

theorem drainHeld {v : HeldSt} (hs : Tidy o s) : Tidy o (s.drainHeld x v) := by
  unfold State.drainHeld
  extract_lets addPend
  have hp {s : State} {k : PKind} {addr baddr : Nat} (hs : Tidy o s) : Tidy o (addPend s k addr baddr) := hs.modFl
  split
  · exact hs.wrLmem
  · exact hp hs
  · exact hs.wrLmemLanes
  · exact hp hs
  · exact hs

theorem commitRegion {baddr detail : Nat} (hs : Tidy o s) : Tidy o (s.commitRegion x baddr detail) := by
  unfold State.commitRegion
  extract_lets c s1
  have h1 : Tidy o s1 := tally (hs.foldl fun _ _ h => h.drainHeld)
  exact h1.modCtx

theorem spawnInto {l : Nat} {q : SpawnReq} (hs : Tidy o s) : Tidy o (s.spawnInto l q) := by
  unfold State.spawnInto
  split
  · exact hs.modLaunch.msgSpawn
  · split
    · exact hs
    · exact ite hs.spawnStatus hs.setTeam.msgSpawn.newRecord.spawnStatus

theorem writeCreg {k : Nat} {v : Word} (hs : Tidy o s) : Tidy o (s.writeCreg x k v) :=
  ite hs.modCt (ite hs.modCt (ite hs.modMx (ite hs.modMx hs)))

/-- What a bundle's slots do before it counts as issued. -/
theorem early (hs : Tidy o s) : Tidy o (s.early b p) := by
  cases p with
  | creg k v => exact hs.writeCreg
  | pont fb => exact hs.modCtx
  | commit => exact hs.commitRegion
  | lexit => exact hs.modCtx
  | svc n args => exact hs.modCtx.addRecord
  | spawn wid prio entry args dst => exact hs.modFl.spawnInto
  | _ => exact hs

/-- What they do once it counts as issued. -/
theorem lateEffect (hs : Tidy o s) : Tidy o (s.lateEffect b p) := by
  cases p with
  | loopStart l => exact hs.modCtx
  | done => exact ite hs.completeDone hs.modCtx.stall
  | yield => exact hs.quantum
  | park w => exact hs.park
  | _ => exact hs

theorem stopBundle {n : Nat} {st : Stop} (hs : Tidy o s) : Tidy o (s.stopBundle b n st) := by
  cases st with
  | block k => exact hs.stall
  | roll cause tc => exact hs.rollback
  | trap cause d => exact ite hs.rollback hs.takeTrap

theorem lateStop {cause n : Nat} (hs : Tidy o s) : Tidy o (s.lateStop b cause n) := ite hs.rollback.lapse.takeTrap hs.takeTrap

theorem unopened (hs : Tidy o s) : Tidy false { s with bun := none } := ⟨hs.1, fun _ => rfl⟩

/-- A bundle that stops leaves the state before it, and one that goes on takes its own off. -/
theorem closeBundle {s0 s1 : State} (h0 : Tidy false s0) (h1 : Tidy true s1) : Tidy false (closeBundle s0 s1) := by
  unfold Machine.closeBundle
  split
  · exact h1.closed ‹_›
  · split
    · exact h0.stall
    · split
      · exact h0.stopBundle
      · split
        · exact h0.lateStop
        · extract_lets s2
          split
          · exact h0.modCtx.stall
          · split
            · exact h0.park
            · exact (issued (h1.unopened.foldl fun _ _ h => h.early)).foldl fun _ _ h => h.lateEffect

/-- A slot's meaning in a bundle in flight, or in one that it opens and that ends with it. -/
theorem runSlot {k : Slot} {cd : Cond} {br : Bool} {body : Env → State → Rd State} (hs : Tidy o s)
    (hb : ∀ e s, Tidy true s → RdTidy true (body e s)) : OutTidy o (runSlot k cd br body s) := by
  intro t ht
  unfold Machine.runSlot at ht
  split at ht
  · rename_i b hbun
    cases ht
    have ho : o ≠ false := fun e => nomatch hbun ▸ hs.2 e
    have e : o = true := by simpa using ho
    subst e
    exact hs.slot fun e => hb e s hs
  · rename_i hbun
    cases ht
    have h0 := hs.closed hbun
    have h1 : Tidy false (Machine.closeBundle s ((s.openAlone br).slot k cd body)) := h0.closeBundle (h0.openBundle.slot fun e => hb e _ h0.openBundle)
    exact ⟨h1.1, fun _ => h1.2 rfl⟩

end Tidy
end Sys2Proof.Machine
end

section
/-! The invariant, third part: the slot instructions. Each body reads, checks, and then writes through an operation of the first two
parts. -/

namespace Sys2Proof.Machine.Tidy

set_option Elab.async false

variable {o : Bool} {s t : State} {x : CtxId} {e : Env} {cd : Cond} {p : BitVec 3} {sd sa sb : BitVec 6} {a : BitVec 4}

/-! ## Register instructions -/

theorem sBin {f : Word → Word → Word} (hs : Tidy o s) : OutTidy o (sBin cd sd sa sb f s) :=
  hs.runSlot fun _ _ h => .bind fun _ => .bind fun _ => .ok h.wrReg
theorem sUn {f : Word → Word} (hs : Tidy o s) : OutTidy o (sUn cd sd sa f s) := hs.runSlot fun _ _ h => .bind fun _ => .ok h.wrReg
theorem sDiv {f : Word → Word → Word} (hs : Tidy o s) : OutTidy o (sDiv cd sd sa sb f s) :=
  hs.runSlot fun _ _ h => .bind fun _ => .bind fun _ => .ok h.modCtx
theorem execCmp {cond : CmpCond} (hs : Tidy o s) : OutTidy o (execCmp cd cond p sa sb s) :=
  hs.runSlot fun _ _ h => .bind fun _ => .bind fun _ => .ok h.wrReg
theorem execSel {pc : BitVec 3} (hs : Tidy o s) : OutTidy o (execSel cd sd sa sb pc s) :=
  hs.runSlot fun _ _ h => .bind fun _ => .bind fun _ => .ok h.wrReg
theorem execPlog {pa pb : BitVec 3} {tt : BitVec 4} (hs : Tidy o s) : OutTidy o (execPlog cd p pa pb tt s) := hs.runSlot fun _ _ h => .ok h.wrReg
theorem execLi {imm : BitVec 22} (hs : Tidy o s) : OutTidy o (execLi cd sd imm s) := hs.runSlot fun _ _ h => .ok h.wrReg
theorem execLea {ad : BitVec 4} {sh : BitVec 3} (hs : Tidy o s) : OutTidy o (execLea cd ad a sb sh s) :=
  hs.runSlot fun _ _ h => .bind fun _ => .bind fun _ => .ok h.wrReg
theorem execLeai {ad : BitVec 4} {imm : BitVec 21} (hs : Tidy o s) : OutTidy o (execLeai cd ad a imm s) :=
  hs.runSlot fun _ _ h => .bind fun _ => .ok h.wrReg
theorem execAmovSToA (hs : Tidy o s) : OutTidy o (execAmovSToA cd a sa s) := hs.runSlot fun _ _ h => .bind fun _ => .ok h.wrReg
theorem execAmovAToS (hs : Tidy o s) : OutTidy o (execAmovAToS cd sd a s) := hs.runSlot fun _ _ h => .bind fun _ => .ok h.wrReg
theorem widf {ok : Nat → Bool} {f : Nat → Nat → Nat} (hs : Tidy o s) : OutTidy o (widf cd sd sa ok f s) :=
  hs.runSlot fun _ _ h => .bind fun _ => .bind fun _ => .ok h.wrReg
theorem execWidf {n : BitVec 3} (hs : Tidy o s) : OutTidy o (execWidf cd sd sa n s) := hs.widf
theorem execWidfTeam (hs : Tidy o s) : OutTidy o (execWidfTeam cd sd sa s) := hs.widf
theorem execWidfRank (hs : Tidy o s) : OutTidy o (execWidfRank cd sd sa s) := hs.widf
theorem execFfma {f : FFmt} {rm : Rm} (hs : Tidy o s) : OutTidy o (execFfma cd f rm sd sa sb s) :=
  hs.runSlot fun _ _ h => .bind fun _ => .bind fun _ => .bind fun _ => .ok h.wrReg
theorem execFcmp {cond : FCond} {f : FFmt} (hs : Tidy o s) : OutTidy o (execFcmp cd cond f p sa sb s) :=
  hs.runSlot fun _ _ h => .bind fun _ => .bind fun _ => .ok h.wrReg

/-! ## Control instructions -/

theorem cSlot {body : Env → State → Rd State} (hs : Tidy o s) (hb : ∀ e s, Tidy true s → RdTidy true (body e s)) : OutTidy o (cSlot p body s) :=
  hs.runSlot hb

theorem dSlot {br : Bool} {chk : Env → Bool} {body : Env → State → Rd State} (hs : Tidy o s)
    (hb : ∀ e s, Tidy true s → RdTidy true (body e s)) : OutTidy o (dSlot p br chk body s) :=
  hs.runSlot fun e s h => .bind fun _ => .ite (hb e s h) (.ok h)

theorem execNop (hs : Tidy o s) : OutTidy o (execNop s) := hs.runSlot fun _ _ h => .ok h
theorem execReservedOpcode {k : Slot} {w : BitVec 32} {b : Bool} (hs : Tidy o s) : OutTidy o (execReservedOpcode k w b s) :=
  hs.runSlot fun _ _ _ => .trap

section Branches
variable {disp : BitVec 23}

theorem execBr (hs : Tidy o s) : OutTidy o (execBr p disp s) := hs.dSlot fun _ _ h => .ok h.branch
theorem execCall (hs : Tidy o s) : OutTidy o (execCall p disp s) := hs.dSlot fun _ _ h => .ok h.wrReg.branch
theorem execBmz (hs : Tidy o s) : OutTidy o (execBmz p disp s) := hs.dSlot fun _ _ h => .ok (ite h.branch h)
theorem execBri (hs : Tidy o s) : OutTidy o (execBri p sb a s) := hs.dSlot fun _ _ h => .bind fun _ => .ok h.branch
theorem execCalli (hs : Tidy o s) : OutTidy o (execCalli p sb a s) := hs.dSlot fun _ _ h => .bind fun _ => .ok h.wrReg.branch
theorem execRet (hs : Tidy o s) : OutTidy o (execRet p s) := hs.dSlot fun _ _ h => .bind fun _ => .bind fun _ => .ok h.branch

theorem execBsel (hs : Tidy o s) : OutTidy o (execBsel p sd sa a s) :=
  hs.dSlot fun _ _ h => .bind fun _ => .bind fun _ => .bind fun _ => .bind fun _ => .bind fun _ => .bind fun _ => .bind fun _ => .bind fun _ => by
    split
    · exact .bind fun _ => .ok h.modCt.wrReg.branch
    · exact .bind fun _ => .ok h.wrReg.branch

end Branches

theorem execLoop (hs : Tidy o s) : OutTidy o (execLoop p a s) :=
  hs.dSlot fun _ _ h => .bind fun _ => .bind fun _ => .bind fun _ => .bind fun _ => .bind fun _ => .bind fun _ => .bind fun _ => .bind fun _ => .ok h.post
theorem execLexit (hs : Tidy o s) : OutTidy o (execLexit p s) := hs.cSlot fun _ _ h => .bind fun _ => .ok h.post

theorem execWait (hs : Tidy o s) : OutTidy o (execWait p sd a s) :=
  hs.cSlot fun _ _ h => .bind fun _ => .bind fun _ => .bind fun _ => .bind fun _ => .bind fun _ => .bind fun _ =>
    .ite (.ok h.modCt.wrReg) (.ite (.ok h.modCt.wrReg) (.ok h.post))

theorem execWquiet (hs : Tidy o s) : OutTidy o (execWquiet p sd sa s) :=
  hs.cSlot fun _ _ h => .bind fun _ => .bind fun _ => .bind fun _ => .bind fun _ => by
    split
    · exact .ok h.modCt.wrReg
    · exact .ite (.ok h.modCt.wrReg) (.ok h.post)

theorem execYield (hs : Tidy o s) : OutTidy o (execYield p s) := hs.cSlot fun _ _ h => .bind fun _ => .ok h.post

theorem execSpawn {sw sp : BitVec 6} (hs : Tidy o s) : OutTidy o (execSpawn p sd sw sp a s) :=
  hs.cSlot fun _ _ h => .bind fun _ => .bind fun _ => .bind fun _ => .bind fun _ => .bind fun _ => .bind fun _ => .bind fun _ => .bind fun _ =>
    .bind fun _ => .ite (.ok h.post) (.ok h.setCtx.post)

theorem execDone (hs : Tidy o s) : OutTidy o (execDone p s) := hs.cSlot fun _ _ h => .bind fun _ => .ok h.post

theorem addPend {k : PKind} {addr baddr ea : Nat} {od : Ord} {sc : Scope} {dst : Option (RegRef × Nat)} {ovr : Tab Nat} (hs : Tidy o s) :
    Tidy o (s.addPend x k addr od sc dst baddr ovr ea) := hs.modFl

theorem execTbar (hs : Tidy o s) : OutTidy o (execTbar p s) := hs.cSlot fun _ _ h => .bind fun _ => .bind fun _ => .ok h.addPend
theorem execPermit {mask : BitVec 4} (hs : Tidy o s) : OutTidy o (execPermit p mask s) :=
  hs.cSlot fun _ _ h => .bind fun _ => .bind fun _ => .bind fun _ => .ok h.modMx
theorem execSvc {n : BitVec 16} (hs : Tidy o s) : OutTidy o (execSvc p n s) :=
  hs.cSlot fun _ _ h => .bind fun _ => .bind fun _ => .bind fun _ => .bind fun _ => .ok h.post
theorem execTrap {n : BitVec 16} (hs : Tidy o s) : OutTidy o (execTrap p n s) := hs.cSlot fun _ _ h => .ok h.lateTrap
theorem execBrk {n : BitVec 16} (hs : Tidy o s) : OutTidy o (execBrk p n s) := hs.cSlot fun _ _ h => .ok (ite h h.lateTrap)

theorem execMfc {cr : BitVec 12} (hs : Tidy o s) : OutTidy o (execMfc p sd cr s) :=
  hs.dSlot fun _ _ h => .bind fun _ => .bind fun _ => .ite (.bind fun _ => .bind fun _ => .ok h.wrReg) (.ok h.wrReg)

theorem execMtc {cr : BitVec 12} (hs : Tidy o s) : OutTidy o (execMtc p cr sa s) :=
  hs.dSlot fun _ _ h => .bind fun _ => .bind fun _ => .bind fun _ => .bind fun _ => .bind fun _ => .bind fun _ =>
    .ite (.bind fun _ => .bind fun _ => .ok h.post) (.bind fun _ => .ok h.post)

theorem execPont {disp : BitVec 23} (hs : Tidy o s) : OutTidy o (execPont p disp s) :=
  hs.cSlot fun _ _ h => .bind fun _ => .bind fun _ => .bind fun _ => .ok h.post
theorem execCommit (hs : Tidy o s) : OutTidy o (execCommit p s) := hs.cSlot fun _ _ h => .bind fun _ => .bind fun _ => .ok h.post
theorem execAbort (hs : Tidy o s) : OutTidy o (execAbort p s) := hs.cSlot fun _ _ _ => .bind fun _ => .roll

/-! ## Vector instructions -/

section Vectors
variable {ty : VType} {rm : Rm} {vd va vb : BitVec 5}

theorem vBin {f : Nat → Nat → Nat} (hs : Tidy o s) : OutTidy o (vBin cd ty vd va vb f s) :=
  hs.runSlot fun _ _ h => .bind fun _ => .bind fun _ => .bind fun _ => .ok h.wrReg
theorem vUn {f : Nat → Nat} (hs : Tidy o s) : OutTidy o (vUn cd ty vd va f s) := hs.runSlot fun _ _ h => .bind fun _ => .bind fun _ => .ok h.wrReg
theorem vTrans {f : FV → FV} (hs : Tidy o s) : OutTidy o (vTrans cd ty rm vd va f s) :=
  hs.runSlot fun _ _ h => .bind fun _ => .bind fun _ => .ok h.modCtx
theorem execVfma {sat : Bool} (hs : Tidy o s) : OutTidy o (execVfma cd ty rm sat vd va vb s) :=
  hs.runSlot fun _ _ h => .bind fun _ => .bind fun _ => .bind fun _ => .ok h.wrReg
theorem execVsel (hs : Tidy o s) : OutTidy o (execVsel cd ty vd va vb s) :=
  hs.runSlot fun _ _ h => .bind fun _ => .bind fun _ => .bind fun _ => .ok h.wrReg
theorem execVcvt {src : VType} {sat : Bool} (hs : Tidy o s) : OutTidy o (execVcvt cd ty src rm sat vd va vb s) :=
  hs.runSlot fun _ _ h => .bind fun _ => .bind fun _ => .ok h.wrReg
theorem execVred {op : RedOp} {sat : Bool} (hs : Tidy o s) : OutTidy o (execVred cd op ty rm sat vd va s) :=
  hs.runSlot fun _ _ h => .bind fun _ => .ok h.wrReg
theorem execVbcast (hs : Tidy o s) : OutTidy o (execVbcast cd ty vd sa s) := hs.runSlot fun _ _ h => .bind fun _ => .bind fun _ => .ok h.wrReg
theorem execVext (hs : Tidy o s) : OutTidy o (execVext cd ty sd va vb s) := hs.runSlot fun _ _ h => .bind fun _ => .ok h.wrReg
theorem execVins (hs : Tidy o s) : OutTidy o (execVins cd ty vd sa vb s) := hs.runSlot fun _ _ h => .bind fun _ => .bind fun _ => .ok h.wrReg
theorem execVperm (hs : Tidy o s) : OutTidy o (execVperm cd vd va vb s) :=
  hs.runSlot fun _ _ h => .bind fun _ => .bind fun _ => .bind fun _ => .ok h.wrReg
theorem execViota (hs : Tidy o s) : OutTidy o (execViota cd ty vd s) := hs.runSlot fun _ _ h => .bind fun _ => .ok h.wrReg
theorem execViotaRank (hs : Tidy o s) : OutTidy o (execViotaRank cd ty vd s) := hs.runSlot fun _ _ h => .bind fun _ => .ok h.wrReg
theorem execVamax (hs : Tidy o s) : OutTidy o (execVamax cd p va s) := hs.runSlot fun _ _ h => .bind fun _ => .bind fun _ => .bind fun _ => .ok h.modMx
theorem execKpush (hs : Tidy o s) : OutTidy o (execKpush cd va s) := hs.runSlot fun _ _ h => .bind fun _ => .bind fun _ => .ok h.modCtx
theorem execKinv (hs : Tidy o s) : OutTidy o (execKinv cd s) := hs.runSlot fun _ _ h => .bind fun _ => .ok h.modCtx
theorem execKpop (hs : Tidy o s) : OutTidy o (execKpop cd s) := hs.runSlot fun _ _ h => .bind fun _ => .ok h.modCtx
theorem execKtop (hs : Tidy o s) : OutTidy o (execKtop cd sd s) := hs.runSlot fun _ _ h => .ok h.wrReg

/-! ## L-mem accesses -/

theorem wrMarked {k : RegRef} {v : Nat} {m : Mark} (hs : Tidy o s) : Tidy o (s.wrMarked x k v m) := hs.modCtx
theorem conflicts {f : Nat → Nat} (hs : Tidy o s) : Tidy o (s.conflicts e f) := hs.tally

theorem vLoad {addrs : Env → Rd (Nat → Nat)} {chk : Env → State → (Nat → Nat) → Rd State} (hs : Tidy o s)
    (hchk : ∀ e s f, Tidy true s → RdTidy true (chk e s f)) : OutTidy o (vLoad cd vd addrs chk s) :=
  hs.runSlot fun e s h => .bind fun _ => .bind fun f => .bind fun _ => .bind fun _ => .andThen (hchk e s f h) fun _ h' => .ok h'.conflicts.wrMarked

theorem vStore {one : Bool} {addrs : Env → Rd (Nat → Nat)} (hs : Tidy o s) : OutTidy o (vStore cd vd one addrs s) :=
  hs.runSlot fun _ _ h => .bind fun _ => .bind fun _ => .bind fun _ => .bind fun _ => .bind fun _ =>
    .ite (.bind fun _ => .ite (.ok h.conflicts.hold) (.ok (h.conflicts.foldl fun _ _ h => h.hold))) (.ok h.conflicts.wrLmemLanes)

theorem execVld {chk : Bool} {imm : BitVec 14} (hs : Tidy o s) : OutTidy o (execVld cd chk vd a imm s) := hs.vLoad fun _ _ _ h => h.takeAlias
theorem execVlds (hs : Tidy o s) : OutTidy o (execVlds cd vd a sa s) := hs.vLoad fun _ _ _ h => .ok h
theorem execVgth (hs : Tidy o s) : OutTidy o (execVgth cd vd a vb s) := hs.vLoad fun _ _ _ h => .ok h

end Vectors

section Accesses
variable {imm : BitVec 14} {lz : LSz} {sz : SSz} {od : Ord} {sc : Scope} {vd : BitVec 5} {chk : Bool} {q : BitVec 3}

theorem execLdl (hs : Tidy o s) : OutTidy o (execLdl cd lz chk sd a imm s) :=
  hs.runSlot fun _ _ h => .bind fun _ => .bind fun _ => .bind fun _ => .andThen h.takeAlias fun _ h' => .ok h'.wrMarked
theorem execStl (hs : Tidy o s) : OutTidy o (execStl cd sz sa a imm s) :=
  hs.runSlot fun _ _ h => .bind fun _ => .bind fun _ => .bind fun _ => .bind fun _ => .bind fun _ =>
    .ite (.bind fun _ => .ok h.hold) (.ok h.wrLmem)

/-! ## Vault accesses and queues -/

theorem newDst {r : RegRef} (hs : Tidy o s) : Tidy o (s.newDst x r).1 := by
  unfold State.newDst
  split
  · exact hs
  · exact hs.setCtx

theorem issueAcc {k : PKind} {off ea : Nat} {dst : Option (RegRef × Nat)} {ovr : Tab Nat} (hs : Tidy o s) :
    Tidy o (s.issueAcc e k off ea od sc dst ovr) := by
  cases od with
  | acq => exact hs.addPend.modFl
  | ar => exact hs.addPend.modFl
  | _ => exact hs.addPend

theorem mSlot {body : Env → State → Rd State} (hs : Tidy o s) (hb : ∀ e s, Tidy true s → RdTidy true (body e s)) : OutTidy o (mSlot cd body s) :=
  hs.runSlot fun e s h => .bind fun _ => hb e s h

theorem execLd (hs : Tidy o s) : OutTidy o (execLd cd lz od sc chk sd a imm s) :=
  hs.mSlot fun _ _ h => .bind fun _ => .bind fun _ => .bind fun _ => .andThen h.takeAlias fun _ h' => .ok h'.newDst.issueAcc
theorem execSt (hs : Tidy o s) : OutTidy o (execSt cd sz od sc sa a imm s) :=
  hs.mSlot fun _ _ h => .bind fun _ => .bind fun _ => .bind fun _ => .bind fun _ => .bind fun _ =>
    .ite (.bind fun _ => .ok h.hold) (.ok h.issueAcc)
theorem execLdv (hs : Tidy o s) : OutTidy o (execLdv cd od sc chk vd a imm s) :=
  hs.mSlot fun _ _ h => .bind fun _ => .bind fun _ => .bind fun _ => .bind fun _ => .andThen h.takeAlias fun _ h' =>
    .ite (.ok h') (.ok h'.newDst.issueAcc)
theorem execStv (hs : Tidy o s) : OutTidy o (execStv cd od sc vd a imm s) :=
  hs.mSlot fun _ _ h => .bind fun _ => .bind fun _ => .bind fun _ => .bind fun _ => .bind fun _ =>
    .ite (.bind fun _ => .ok h.hold) (.ite (.ok h) (.ok h.issueAcc))

theorem pushQ {q n ea data : Nat} {k : QKind} (hs : Tidy o s) : Tidy o (s.pushQ e q k lz n ea data od sc chk) := ite hs.modCtx.hold hs.modCtx

theorem pushChecked {q n ea : Nat} (hs : Tidy o s) : RdTidy o (s.pushChecked e q n ea chk) := by
  unfold State.pushChecked
  extract_lets c l
  split
  · exact .ok hs
  · split
    · exact .ok hs
    · exact hs.modCtx.sentQ.takeAlias

theorem execQld {imm : BitVec 11} (hs : Tidy o s) : OutTidy o (execQld cd lz od sc chk q a imm s) :=
  hs.mSlot fun _ _ h => .bind fun _ => .bind fun _ => .bind fun _ => h.pushQ.pushChecked
theorem execQvld {imm : BitVec 11} (hs : Tidy o s) : OutTidy o (execQvld cd od sc chk q a imm s) :=
  hs.mSlot fun _ _ h => .bind fun _ => .bind fun _ => .bind fun _ => h.pushQ.pushChecked
theorem execQst {imm : BitVec 11} (hs : Tidy o s) : OutTidy o (execQst cd sz od sc q sa a imm s) :=
  hs.mSlot fun _ _ h => .bind fun _ => .bind fun _ => .bind fun _ => .bind fun _ => .ite (.bind fun _ => .ok h.pushQ) (.ok h.pushQ)
theorem execQvst {imm : BitVec 11} (hs : Tidy o s) : OutTidy o (execQvst cd od sc q vd a imm s) :=
  hs.mSlot fun _ _ h => .bind fun _ => .bind fun _ => .bind fun _ => .bind fun _ => .ite (.bind fun _ => .ok h.pushQ) (.ok h.pushQ)

theorem execQpop {cls : Bool} (hs : Tidy o s) : OutTidy o (execQpop cd cls sd q s) :=
  hs.mSlot fun _ _ h => by
    extract_lets r
    split
    · exact .trap
    · exact .bind fun _ => .ite (.ok h.modCtx.wrMarked) (.ok h.newDst.modCtx)

theorem atomic {op : AtOp} {n : Nat} {rdD : Bool} (hs : Tidy o s) : OutTidy o (atomic cd op n od sc rdD sd a sb s) :=
  hs.mSlot fun _ _ h => .bind fun _ => .bind fun _ => .bind fun _ => .bind fun _ => .bind fun _ => .ok h.newDst.issueAcc
theorem execSinit (hs : Tidy o s) : OutTidy o (execSinit cd od sc a sb s) :=
  hs.mSlot fun _ _ h => .bind fun _ => .bind fun _ => .bind fun _ => .bind fun _ => .ok h.issueAcc
theorem execBfacq (hs : Tidy o s) : OutTidy o (execBfacq cd a q s) :=
  hs.mSlot fun _ _ h => .bind fun _ => .bind fun _ => .bind fun _ => .ok h.setCtx.modMx
theorem execBfrel (hs : Tidy o s) : OutTidy o (execBfrel cd a q s) :=
  hs.mSlot fun _ _ h => .bind fun _ => .bind fun _ => .bind fun _ => .bind fun _ => by
    split
    · exact .trap
    · exact .bind fun _ => .ok h.modMx

/-! ## Fabric operations -/

theorem execXsend {nm : BitVec 3} (hs : Tidy o s) : OutTidy o (execXsend cd od sc sa a nm s) :=
  hs.mSlot fun _ _ h => .bind fun _ => .bind fun _ => .bind fun _ => .bind fun _ => .bind fun _ => .bind fun _ => .bind fun _ => .ok h.issueAcc
theorem execXst {imm : BitVec 8} (hs : Tidy o s) : OutTidy o (execXst cd sz od sc sa a imm s) :=
  hs.mSlot fun _ _ h => .bind fun _ => .bind fun _ => .bind fun _ => .bind fun _ => .ok h.issueAcc
theorem execXld {imm : BitVec 8} (hs : Tidy o s) : OutTidy o (execXld cd lz od sc sd a imm s) :=
  hs.mSlot fun _ _ h => .bind fun _ => .bind fun _ => .bind fun _ => .ok h.newDst.issueAcc
theorem execXred {op : RedOp} {ty : XTy} (hs : Tidy o s) : OutTidy o (execXred cd op ty od sc a sb s) :=
  hs.mSlot fun _ _ h => .bind fun _ => .bind fun _ => .bind fun _ => .bind fun _ => .ok h.issueAcc

end Accesses
end Sys2Proof.Machine.Tidy
end

section
/-! The invariant, fourth part: the engines. Launching their commands, matrix passes and drains, gathers, and the Marvers. -/

namespace Sys2Proof.Machine.Tidy

set_option Elab.async false

variable {o : Bool} {s t : State} {x : CtxId} {c : CoreId} {cd : Cond} {cn : BitVec 3} {a : BitVec 4} {sd sa : BitVec 6} {h : Home}

/-! ## Launching commands -/

/-- A launcher's result is tidy where it starts from a tidy state. -/
def Launches (go : Launcher) : Prop := ∀ o s x h n, Tidy o s → RdTidy o (go s x h n)

theorem holdCmd {v : HeldCmd} (hs : Tidy o s) : Tidy o (s.holdCmd x v) := by
  unfold State.holdCmd
  extract_lets r
  have hr : Tidy o r.1 := by
    unfold r
    split
    · exact hs
    · exact hs.newDst
  exact hr.modCtx

theorem engineSlot {track : Bool} {gather : Env → State → Rd HeldCmd} {feet : Feet} {chk : Checker} {go : Launcher} (hs : Tidy o s)
    (hgo : Launches go) : OutTidy o (engineSlot cd track gather feet chk go s) :=
  hs.runSlot fun _ _ h =>
    .ite
      (.bind fun _ => .bind fun _ => .ite (.bind fun _ => .bind fun _ => .bind fun _ => .ok h.holdCmd)
        (.bind fun _ => .bind fun _ => .bind fun _ => .bind fun _ => hgo _ _ _ _ _ h))
      (.bind fun _ => .ite (.bind fun _ => .bind fun _ => .bind fun _ => .ok h.holdCmd)
        (.bind fun _ => .bind fun _ => .bind fun _ => .bind fun _ => hgo _ _ _ _ _ h))

theorem launches_goMprec : Launches (goMprec cn) := fun _ _ _ _ _ h => .ok h.modMx
theorem launches_goMnest : Launches goMnest := fun _ _ _ _ _ h => .ok h.modMx
theorem launches_goMpert {log : Bool} : Launches (goMpert log cn) := fun _ _ _ _ _ h => .ok h.modMx
theorem launches_goMwld {t : Bool} {kv : BitVec 8} : Launches (goMwld t cn kv) := fun _ _ _ _ _ h => .bind fun _ => .ok h.modMx
theorem launches_goMma {t nest ovw wrel : Bool} : Launches (goMma t nest ovw wrel cn) := fun _ _ _ _ _ h =>
  .bind fun _ => .bind fun _ => .bind fun _ => .bind fun _ => .bind fun _ => .bind fun _ => .ok h.modMx
theorem launches_goMdrn {t clr sat scaled : Bool} {pk : Option Nat} {rm : Rm} {sc : Scope} : Launches (goMdrn t clr pk rm sat sc cn scaled) :=
  fun _ _ _ _ _ h => .bind fun _ => .bind fun _ => .ok h.modMx

theorem gcopyDst {v : HeldCmd} {held : Bool} {id : Nat} (hs : Tidy o s) : Tidy o (s.gcopyDst x v held id) := by
  unfold State.gcopyDst
  split
  · exact hs
  · exact ite hs.modFl hs.wrReg

theorem launches_goGcopy {sc : Scope} {ch : Nat} {held : Bool} : Launches (goGcopy sc ch held) := fun _ _ _ _ _ h =>
  .bind fun _ => .bind fun _ => .ok h.gcopyDst.modMx.draw

theorem execMprec (hs : Tidy o s) : OutTidy o (execMprec cd cn sa s) := hs.engineSlot launches_goMprec
theorem execMnest (hs : Tidy o s) : OutTidy o (execMnest cd a s) := hs.engineSlot launches_goMnest
theorem execMpert {log : Bool} (hs : Tidy o s) : OutTidy o (execMpert cd log cn a sa s) := hs.engineSlot launches_goMpert
theorem execMwld {t : Bool} {kv : BitVec 8} (hs : Tidy o s) : OutTidy o (execMwld cd t cn a kv s) := hs.engineSlot launches_goMwld
theorem execMma {t nest ovw wrel : Bool} (hs : Tidy o s) : OutTidy o (execMma cd t nest ovw wrel cn a s) := hs.engineSlot launches_goMma
theorem execMdrn {t clr pkEn sat : Bool} {pk : BitVec 3} {rm : Rm} {sc : Scope} (hs : Tidy o s) :
    OutTidy o (execMdrn cd t clr pkEn pk rm sat sc cn a sa s) := hs.engineSlot launches_goMdrn
theorem execGcopy {sc : Scope} {ch : BitVec 2} (hs : Tidy o s) : OutTidy o (execGcopy cd sc ch a sd s) := hs.engineSlot launches_goGcopy

theorem execMstat {sel : MSel} (hs : Tidy o s) : OutTidy o (execMstat cd sel sd cn s) :=
  hs.runSlot fun _ _ h => .bind fun _ => .bind fun _ => by
    cases sel with
    | tstat => exact .bind fun _ => .bind fun _ => .ok h.wrReg
    | prec => exact .bind fun _ => .ok h.wrReg
    | wload => exact .bind fun _ => .ok h.wrReg
    | nest => exact .bind fun _ => .ok h.wrReg

/-- A command held by a region is launched as its own instruction says. -/
theorem launches_heldGo (i : Instr) : Launches (heldGo i).1 := by
  unfold heldGo
  split
  · exact launches_goGcopy
  · exact launches_goMnest
  · exact launches_goMprec
  · exact launches_goMpert
  · exact launches_goMwld
  · exact launches_goMma
  · exact launches_goMdrn
  · exact fun _ _ _ _ _ h => .ok h

end Sys2Proof.Machine.Tidy
end

section
/-! The invariant, fifth part: performed accesses, arrivals, and the events of the matrix engine, the gathers and the Marvers. -/

namespace Sys2Proof.Machine.Tidy

set_option Elab.async false

variable {o : Bool} {s t : State} {x : CtxId} {c : CoreId} {h : Home} {i n cl port : Nat}

/-! ## Performed accesses and arrivals -/

theorem doAtomic {p : Pend} {op : AtOp} {b d : Nat} (hs : Tidy o s) : Tidy o (s.doAtomic h p op n b d) := by
  unfold State.doAtomic
  extract_lets bad old new p7 res s1
  clear_value new
  have h1 : Tidy o s1 := by
    unfold s1
    split
    · exact ite hs.vaultLost hs
    · exact ite hs.syncVault hs.wrVault
  exact h1.modHome

theorem perform {p : Pend} (hs : Tidy o s) : Tidy o (s.perform h p) := by
  unfold State.perform
  extract_lets acq
  split
  · exact hs.modHome
  · exact hs.modHome
  · exact hs.wrVault.vaultLost
  · exact hs.wrVaultLanes.vaultLost
  · exact hs.doAtomic
  · exact hs.syncVault.vaultLost
  · exact hs.barrierArrive
  · extract_lets s1 s2
    have h1 : Tidy o s1 := hs.frame
    have h2 : Tidy o s2 := h1.addInj
    split
    · exact h2.modHome
    · exact ite h2.modHome h2

theorem served {off : Nat} (hs : Tidy o s) : Tidy o (s.served off) := hs.tallyCl

theorem execAccessPerform (hs : Tidy o s) : OutTidy o (execAccessPerform h i s) := by
  unfold Machine.execAccessPerform
  split
  · exact .refused
  · split
    · exact .refused
    · refine .event (wakeHome (perform (modHome ?_)))
      split
      · exact hs
      · exact hs.served
      · exact hs

theorem performQ {cx : Ctx} {q pa : Nat} {e : QEnt} (hs : Tidy o s) : Tidy o (s.performQ h cx q e pa) := by
  unfold State.performQ
  extract_lets ld raw v m s1 s2
  have h2 : Tidy o s2 := hs.modHome.wrPhys
  refine ite hs.modHome (ite (ite h2.deferTrap h2) ?_)
  split
  · exact ite h2.deferTrap h2
  · exact h2

theorem execQueueDataArrival {q : Nat} (hs : Tidy o s) : OutTidy o (execQueueDataArrival h q i s) := by
  unfold Machine.execQueueDataArrival
  split
  · exact .refused
  · split
    · exact .refused
    · split
      · exact .refused
      · have hc : Sends o ((s.refresh h).sentUpTo h q (i + 1)) := hs.refresh.sentUpTo
        refine .event (wakeHome (syncSaved ?_))
        split
        · rename_i e; rw [e] at hc; exact hc
        · rename_i e; rw [e] at hc; exact performQ hc

theorem execRegisterFill (hs : Tidy o s) : OutTidy o (execRegisterFill h i s) := by
  unfold Machine.execRegisterFill
  split
  · exact .refused
  · split
    · exact .refused
    · exact .next hs.refresh.modHome.syncSaved.wakeHome

theorem applyArrival {a : Arrival} (hs : Tidy o s) : Tidy o (s.applyArrival a) := by
  unfold State.applyArrival
  extract_lets f adv
  split
  · exact hs.syncLmem
  · exact hs.served.syncVault

theorem wakeOwner {a : Arrival} (hs : Tidy o s) : Tidy o (s.wakeOwner a) := by
  unfold State.wakeOwner
  split
  · exact hs.modMx.wakeCore
  · exact hs

theorem syncEvent {name : String} {err : Bool} (hs : Tidy o s) : OutTidy o (syncEvent name err i s) := by
  unfold Machine.syncEvent
  split
  · exact .refused
  · exact .event (wakeOwner (applyArrival hs.frame))

/-! ## The matrix engine -/

theorem execRingSlotAcquire {ring : Nat} (hs : Tidy o s) : OutTidy o (execRingSlotAcquire c ring s) := by
  unfold Machine.execRingSlotAcquire
  extract_lets r
  split
  · exact .refused
  · refine .event ?_
    split
    · exact hs.modMx.modCtx
    · exact hs.modMx.modMx
    · exact hs.modMx.modCl

theorem readsNow {id : Nat} (hs : Tidy o s) : Tidy o (s.readsNow c id) := hs.draw.modMx

theorem execTrackerRelease (hs : Tidy o s) : OutTidy o (execTrackerRelease c i s) := by
  unfold Machine.execTrackerRelease
  extract_lets m
  split
  · exact .refused
  · exact .event (ite hs.modMx.readsNow hs.modMx)

theorem engineTrap {k : Cmd} {code : Nat} (hs : Tidy o s) : Tidy o (s.engineTrap c k code) := hs.deferTrap
theorem cmdArrive {id addr : Nat} {vault : Bool} {err : Option Nat} (hs : Tidy o s) : Tidy o (s.cmdArrive c id vault addr n err) := hs.frame

theorem execWeightLoadStart (hs : Tidy o s) : OutTidy o (execWeightLoadStart c i s) := by
  unfold Machine.execWeightLoadStart
  extract_lets m
  split
  · exact .refused
  · split
    · exact .event hs.readsNow.modMx
    · exact .refused

theorem execWeightLoadLand (hs : Tidy o s) : OutTidy o (execWeightLoadLand c i s) := by
  unfold Machine.execWeightLoadLand
  extract_lets m
  split
  · exact .refused
  · split
    · extract_lets sb sh rs bad load u
      have hu : Tidy o u := wakeCore (modMx (ite hs.served hs))
      exact .event (ite hu.engineTrap hu)
    · exact .refused

theorem failMma {k : Cmd} {code : Nat} (hs : Tidy o s) : Tidy o (s.failMma c k code) := by
  unfold State.failMma
  split
  · exact hs.modMx.engineTrap.wakeCore
  · exact hs

theorem execMatrixPassStart (hs : Tidy o s) : OutTidy o (execMatrixPassStart c s) := by
  unfold Machine.execMatrixPassStart
  extract_lets m
  split
  · split
    · exact .event (ite hs.failMma hs.modMx)
    · exact .refused
  · exact .refused

theorem logAdd {die : Nat} {bus : Bool} {r : LogRec} (hs : Tidy o s) : Tidy o (s.logAdd die bus r) := hs.frame

theorem execMatrixPassRetire (hs : Tidy o s) : OutTidy o (execMatrixPassRetire c s) := by
  unfold Machine.execMatrixPassRetire
  extract_lets m
  split
  · split
    · extract_lets r sb kc tile last rd as ws keepSlot pert s1 s2
      clear_value pert
      have h1 : Tidy o s1 := hs.modMx
      have h2 : Tidy o s2 := by
        unfold s2
        split
        · exact ite h1.logAdd h1
        · exact h1
      exact .event (ite hs.failMma h2.tally.wakeCore)
    · exact .refused
  · exact .refused

theorem execTileWindowClose {k : Nat} (hs : Tidy o s) : OutTidy o (execTileWindowClose c k s) := by
  unfold Machine.execTileWindowClose
  split
  · exact .refused
  · exact .event hs.modMx

theorem execTstatUpdate {k : Nat} (hs : Tidy o s) : OutTidy o (execTstatUpdate c k s) := by
  unfold Machine.execTstatUpdate
  split
  · exact .refused
  · exact .event hs.modMx

/-! ## Drains -/

variable {space sb : Nat} {ps : List GPut} {k : Cmd} {d : ODesc} {tile : Nat}

theorem spaceWr {a v : Nat} (hs : Tidy o s) : Tidy o (s.spaceWr c space sb a n v) := by
  unfold State.spaceWr
  split
  · exact hs.wrLmem
  · exact hs.wrVault
  · exact hs.wrLmem

theorem clearWords {vault : Bool} {rs : List (Nat × Nat)} (hs : Tidy o s) : Tidy o (s.clearWords c vault rs) := ite hs.frame hs.modCore
theorem putBytes (hs : Tidy o s) : Tidy o (s.putBytes c space sb ps) := clearWords (hs.foldl fun _ _ h => h.spaceWr)
theorem drainDone (hs : Tidy o s) : Tidy o (s.drainDone c k tile d n) := ite hs.modMx.cmdArrive (ite hs.modMx.engineTrap hs.modMx)
theorem drainPut (hs : Tidy o s) : Tidy o (s.drainPut c k tile d n ps) := ite hs.draw.putBytes.drainDone hs.draw.putBytes.modMx
theorem drainMore {p : PartReq} (hs : Tidy o s) : Tidy o (s.drainMore c k tile d p) := hs.modMx.drainPut

theorem execDrainLand (hs : Tidy o s) : OutTidy o (execDrainLand c i s) := by
  unfold Machine.execDrainLand
  extract_lets m
  split
  · exact .refused
  · split
    · split
      · exact .event hs.drainMore.wakeCore
      · extract_lets tl img out ps nan inf bits puts err oldest s1
        have h1 : Tidy o s1 := modMx (ite hs.served hs)
        exact .event h1.drainPut.wakeCore
    · exact .refused

/-! ## Gathers -/

variable {g : GEnv} {p : GPut} {w : GWork} {es : List GEl} {req : Nat}

theorem gWrite {sp a v : Nat} (hs : Tidy o s) : Tidy o (s.gWrite g sp a n v) := by
  unfold State.gWrite
  split
  · exact hs.wrLmem
  · exact hs.wrVault
  · split
    · exact hs.wrPhys
    · exact hs
  · exact hs.wrLmem

theorem gStore {v : Nat} (hs : Tidy o s) : Tidy o (s.gStore g p n v) := by
  unfold State.gStore
  split
  · exact hs.wrPhys
  · exact hs.gWrite

theorem gDo (hs : Tidy o s) : Tidy o (s.gDo g p) := ite hs.gStore hs.gStore
theorem gClear (hs : Tidy o s) : Tidy o (s.gClear g ps) := ite hs hs.clearWords

theorem gArrive {id addr m fuel : Nat} {vault : Bool} (hs : Tidy o s) : Tidy o (s.gArrive c id vault addr m fuel n) := by
  induction fuel generalizing s n with
  | zero => exact hs
  | succ fuel ih => exact ite hs (ih hs.cmdArrive)

theorem gPeak (hs : Tidy o s) : Tidy o (s.gPeak g es) := ite hs.modMx hs
theorem gWriteAll (hs : Tidy o s) : Tidy o (s.gWriteAll g ps) := gClear (hs.foldl fun _ _ h => h.gDo)
theorem clearPhys {ld : Nat} {ws : List Nat} (hs : Tidy o s) : Tidy o (s.clearPhys ld ws) := hs.frame

theorem gCounted {count : Nat} {words : List Nat} (hs : Tidy o s) : Tidy o (s.gCounted g k req count words) := by
  unfold State.gCounted
  extract_lets r now n' chunk s1 s2
  have h2 : Tidy o s2 := hs.clearPhys.modMx.tally
  exact ite h2.draw.gArrive h2

theorem gServed (hs : Tidy o s) : Tidy o (s.gServed g k w) := by
  unfold State.gServed
  extract_lets miss s1 s2
  have h1 : Tidy o s1 := hs.tally
  have h2 : Tidy o s2 := by
    unfold s2
    split
    · exact h1.served
    · exact h1
  split
  · exact h2.served
  · exact h2

theorem gLand (hs : Tidy o s) : Tidy o (s.gLand g k es req w) := by
  unfold State.gLand
  extract_lets ps' sp words s1 aims s2
  have h2 : Tidy o s2 := hs.gServed.gPeak.gWriteAll.modMx
  exact ite h2.gCounted h2.draw.modMx

theorem gMore {p : PartReq} (hs : Tidy o s) : Tidy o (s.gMore g k p) := ite hs.gWriteAll.gCounted hs.gWriteAll.draw.modMx

theorem execGatherSectorLand {ch id : Nat} (hs : Tidy o s) : OutTidy o (execGatherSectorLand c ch id req s) := by
  unfold Machine.execGatherSectorLand
  split
  · exact .refused
  · extract_lets g'
    split
    · exact .event (ite hs.modMx hs.gMore)
    · exact .event (ite hs.modMx hs.gLand)

theorem gZero {reqs : List (List GEl)} (hs : Tidy o s) : Tidy o (s.gZero g k reqs) := by
  unfold State.gZero
  extract_lets r begun left zero s1 s2
  have hz (s : State) (p : GPut) (h : Tidy o s) : Tidy o (zero s p) := ite h.gDo h
  have h1 : Tidy o s1 := hs.foldl hz
  have h2 : Tidy o s2 := h1.foldl fun s _ h => hz s _ h
  exact ite (h2.foldl fun s _ h => hz s _ h) h2

theorem execGatherTransferComplete {ch id : Nat} (hs : Tidy o s) : OutTidy o (execGatherTransferComplete c ch id s) := by
  unfold Machine.execGatherTransferComplete
  split
  · exact .refused
  · extract_lets g' r reqs z s1 s2
    have hz : Tidy o z := ite hs.gZero hs
    have h1 : Tidy o s1 := ite hs (ite hz.cmdArrive hz.engineTrap)
    exact .event h1.modMx.wakeCore

theorem execHeldCommandIssue (hs : Tidy o s) : OutTidy o (execHeldCommandIssue x s) := by
  unfold Machine.execHeldCommandIssue
  split
  · exact .refused
  · extract_lets go
    split
    · exact .event (wake (modCtx (launches_heldGo _ _ _ _ _ _ hs _ ‹_›)))
    · exact .event hs.modCtx.deferTrap.wake
    · exact .refused

/-! ## Marvers -/

variable {e : MEnt} {raw : Nat} {q : Nat × Nat} {bs : List Byte} {is : List Nat}

theorem modMarver {f : Marver → Marver} (hs : Tidy o s) : Tidy o (s.modMarver cl port f) := hs.modCl

theorem mWrite (hs : Tidy o s) : Tidy o (s.mWrite cl raw q bs) := by
  unfold State.mWrite
  split
  · exact hs.wrVault
  · exact hs.wrPhys
  · exact hs

theorem execMarverEntryStart (hs : Tidy o s) : OutTidy o (execMarverEntryStart cl port s) :=
  .event (ite hs.modMarver (hs.modMarver.foldl fun _ _ h => h.modMx))

theorem mPublish (hs : Tidy o s) : Tidy o (s.mPublish cl e) := hs.foldl fun _ _ h => h.modMx.wakeCore

theorem mArrive {err : Option Nat} (hs : Tidy o s) : Tidy o (s.mArrive cl raw n err) := by
  unfold State.mArrive
  split
  · exact hs.frame
  · exact hs

theorem mFail {code : Nat} (hs : Tidy o s) : Tidy o (s.mFail cl e code) := by
  refine mPublish (ite hs.mArrive (hs.foldl fun s k h => ?_))
  split
  · exact h
  · exact h.deferTrap

theorem mPiece (hs : Tidy o s) : Tidy o (s.mPiece cl e i) := ite hs.mWrite (hs.foldl fun _ _ h => h.wrLmem)

theorem mLand (hs : Tidy o s) : Tidy o (s.mLand cl e is) := by
  unfold State.mLand
  extract_lets n' s1 s2
  have h1 : Tidy o s1 := hs.foldl fun s j h => by
    split
    · exact h.served
    · exact h
  have h2 : Tidy o s2 := tallyCl (h1.foldl fun _ _ h => h.mPiece)
  exact ite (h2.foldl fun _ _ h => h.mArrive) h2

theorem execMarverEntryLand (hs : Tidy o s) : OutTidy o (execMarverEntryLand cl port s) := by
  unfold Machine.execMarverEntryLand
  split
  · exact .refused
  · exact .ite (.event hs.modMarver.mFail) (.event (ite hs.draw.mLand.modMarver.mPublish hs.draw.mLand.modMarver))

end Sys2Proof.Machine.Tidy
end

section
/-! The invariant, sixth part: the events of contexts and records, packets, and translation. -/

namespace Sys2Proof.Machine.Tidy

set_option Elab.async false

variable {o : Bool} {s t : State} {x : CtxId} {c : CoreId} {h : Home} {cl crec base team n : Nat}

/-! ## Boundaries of a context -/

theorem execRegionLengthRollback (hs : Tidy o s) : OutTidy o (execRegionLengthRollback x s) := .event hs.rollback

theorem execLoopIterationEnd (hs : Tidy o s) : OutTidy o (execLoopIterationEnd x s) := by
  unfold Machine.execLoopIterationEnd
  extract_lets cx
  split
  · exact .refused
  · extract_lets rs ok
    split
    · exact .event hs.takeTrap
    · exact .event hs.modCtx

theorem execContextSelect (hs : Tidy o s) : OutTidy o (execContextSelect c s) := by
  unfold Machine.execContextSelect
  split
  · exact .refused
  · exact .event hs.modPr.takeSlot

theorem execQuantumExpiry (hs : Tidy o s) : OutTidy o (execQuantumExpiry x s) := .event hs.quantum
theorem execStallTimeout (hs : Tidy o s) : OutTidy o (execStallTimeout x s) := .event hs.modPr.modCore
theorem execDoneComplete (hs : Tidy o s) : OutTidy o (execDoneComplete x s) := .event (ite hs.completeDone hs.wake)

theorem execDeferredTrap (hs : Tidy o s) : OutTidy o (execDeferredTrap x s) := by
  unfold Machine.execDeferredTrap
  extract_lets cx
  split
  · exact .refused
  · exact .event (ite hs.lapse.modFl.rollback.lapse.takeTrap hs.lapse.modFl.takeTrap)

theorem execBreakpointStop (hs : Tidy o s) : OutTidy o (execBreakpointStop x s) := by
  unfold Machine.execBreakpointStop
  extract_lets cx
  split
  · exact .refused
  · exact .event hs.takeTrap

theorem execBudgetOverrun (hs : Tidy o s) : OutTidy o (execBudgetOverrun x s) := .event hs.lapse.modPr.takeTrap
theorem execContextStop (hs : Tidy o s) : OutTidy o (execContextStop x s) := .event hs.stop

theorem writeStopreq {v : Bool} (hs : Tidy o s) : Tidy o (s.writeStopreq x v) := ite (ite hs.modPr.stop hs.modPr) (ite hs.modPr.unstop hs.modPr)
theorem execCtxctlStopreq {v : Bool} (hs : Tidy o s) : OutTidy o (execCtxctlStopreq x v s) := .event hs.writeStopreq

theorem writeGo (hs : Tidy o s) : Tidy o (s.writeGo x n) := by
  unfold State.writeGo
  extract_lets p s1
  have h1 : Tidy o s1 := hs.modPr
  refine ite ?_ hs.modPr
  split
  · exact h1.resumeReplay
  · exact h1.resumeNext
  · exact h1.resumeReplaynb
  · exact h1.resumeRedirect

theorem execReplay (hs : Tidy o s) : OutTidy o (execReplay x s) := .event hs.writeGo
theorem execNext (hs : Tidy o s) : OutTidy o (execNext x s) := .event hs.writeGo
theorem execReplaynb (hs : Tidy o s) : OutTidy o (execReplaynb x s) := .event hs.writeGo
theorem execRedirect (hs : Tidy o s) : OutTidy o (execRedirect x s) := .event hs.writeGo

/-! ## Placing and leaving -/

theorem markItem (hs : Tidy o s) : Tidy o (s.markItem cl crec) := hs.setSaved

theorem nextItem {u : State × Nat} (hs : Tidy o s) (hu : s.nextItem cl team = some u) : Tidy o u.1 := by
  unfold State.nextItem at hu
  split at hu
  · cases hu
  · split at hu
    · dsimp only at hu
      split at hu
      · cases hu
        exact hs.setTeam.newRecord.markItem
      · cases hu
    · cases hu

theorem placedMx {save raw : Nat} {i : Saved} (hs : Tidy o s) : Tidy o (s.placedMx x save raw i) := by
  unfold State.placedMx
  refine ite hs ?_
  split
  · exact hs.modCore
  · exact hs.modCore

theorem place {i : Saved} (hs : Tidy o s) : Tidy o (s.place x crec base i) := by
  unfold State.place
  extract_lets jslot pr save cx ct0 ct pc s1 s2 s3 s4 s5
  have h1 : Tidy o s1 := ite hs hs.importFrame
  have h3 : Tidy o s3 := h1.placedMx.dropReady.dropWatch.setSaved
  have h4 : Tidy o s4 := h3.setCtx
  have h5 : Tidy o s5 := h4.modCl
  exact h5.recWr

theorem execContinuationPlace (hs : Tidy o s) : OutTidy o (execContinuationPlace x crec base s) := by
  unfold Machine.execContinuationPlace
  split
  · exact .refused
  · exact .event hs.place

theorem leaveParked {cause : Nat} {frozen : Bool} (hs : Tidy o s) : Tidy o (s.leaveParked x cause frozen) := by
  unfold State.leaveParked
  extract_lets cx st
  split
  · exact hs.leave
  · exact hs.modCtx.leave
  · exact hs.leave

theorem execEviction (hs : Tidy o s) : OutTidy o (execEviction cl s) := by
  unfold Machine.execEviction
  split
  · exact .refused
  · exact .event hs.leaveParked

theorem askPreempt {src : PreSrc} (hs : Tidy o s) : Tidy o (s.askPreempt x src) := ite hs hs.modPr
theorem execPreempt {v : BitVec 64} (hs : Tidy o s) : OutTidy o (execPreempt cl v s) := .event (ite hs.askPreempt hs)

theorem execPreemptionTake (hs : Tidy o s) : OutTidy o (execPreemptionTake x s) := by
  unfold Machine.execPreemptionTake
  extract_lets cx
  split
  · exact .refused
  · refine .ite (.event hs.rollback) (.event ?_)
    split
    · exact hs.completeDone
    · exact ite hs.leaveParked hs.leave
    · exact ite hs.leaveParked hs.leave

theorem execPreload (hs : Tidy o s) : OutTidy o (execPreload x crec s) := .event hs.importFrame.modCl

/-! ## Waits -/

variable {w : WaitSt} {wto : Bool} {cx : Ctx} {q : Quiet}

theorem latch (hs : Tidy o s) : Tidy o (s.latch h w) := by
  unfold State.latch
  split
  · exact hs.modHome
  · exact hs.modHome.recWait

theorem endWith {f : Ctx → Ctx} (hs : Tidy o s) : Tidy o (s.endWith h f wto) := by
  unfold State.endWith
  split
  · exact hs.refresh.modHome
  · exact hs.refresh.modHome.syncSaved.recWr.makeReady

theorem endWait {sd v : Nat} (hs : Tidy o s) : Tidy o (s.endWait h sd v wto) := hs.endWith
theorem endQuiet {baddr v : Nat} (hs : Tidy o s) : Tidy o (s.endQuiet h baddr v) := hs.endWith

theorem quietFound (hs : Tidy o s) : Tidy o (s.quietFound h w q) := by
  unfold State.quietFound
  extract_lets lost seen late s1
  have h1 : Tidy o s1 := hs.modCnt.refresh.modHome
  refine ite ?_ hs.endQuiet
  split
  · exact h1.takeTrap
  · exact h1.syncSaved.deferTrap.makeReady

theorem waitEnds (hs : Tidy o s) : Tidy o (s.waitEnds h cx w) := by
  unfold State.waitEnds
  split
  · exact hs.quietFound
  · exact hs.endWait

theorem waitLatches (hs : Tidy o s) : Tidy o (s.waitLatches h cx w) := ite hs.latch hs

theorem execWaitWake (hs : Tidy o s) : OutTidy o (execWaitWake h s) := by
  unfold Machine.execWaitWake
  split
  · exact .refused
  · split
    · exact .refused
    · exact .event (ite hs.waitEnds hs.waitLatches)

theorem execWaitTimeout (hs : Tidy o s) : OutTidy o (execWaitTimeout h s) := by
  unfold Machine.execWaitTimeout
  split
  · exact .refused
  · split
    · exact .refused
    · exact .event (ite hs.endQuiet hs.endWait)

/-! ## Packets -/

variable {p : Packet} {k : PktSrc} {i j : Nat}

theorem takePkt {u : Packet × State} (hs : Tidy o s) (hu : s.takePkt k = some u) : Tidy o u.2 := by
  unfold State.takePkt at hu
  split at hu
  · split at hu
    · cases hu; exact hs
    · cases hu
  · obtain ⟨p, -, rfl⟩ := Option.map_eq_some_iff.1 hu
    exact hs.frame

theorem wakePkt (hs : Tidy o s) : Tidy o (s.wakePkt p) :=
  ite (hs.foldl fun s c h => by
    split
    · exact h
    · exact h.wakeHome) hs

theorem failOrigin {cause : Nat} (hs : Tidy o s) : Tidy o (s.failOrigin p cause) := ite (hs.foldl fun _ _ h => h.deferFor) hs

/-- A packet that arrives here is handed to `f`; one that passes on only wakes its origin. -/
theorem arrival {name : String} {ks : List PktKind} {f : Packet → State → Out} (hs : Tidy o s) (hf : ∀ p s, Tidy o s → OutTidy o (f p s)) :
    OutTidy o (arrival name ks k s f) := by
  unfold Machine.arrival
  split
  · exact .refused
  · rename_i hu
    have hu := hs.takePkt hu
    exact .ite .refused (.ite (hf _ _ hu.wakePkt) (.next hu.wakePkt))

theorem execXstArrival (hs : Tidy o s) : OutTidy o (execXstArrival k s) :=
  hs.arrival fun _ _ h => .next (ite (ite h.addCons.served.wrVault.failOrigin h.addCons.served.wrVault) h.addCons.failOrigin)

theorem execXldRequestArrival (hs : Tidy o s) : OutTidy o (execXldRequestArrival k s) := by
  refine hs.arrival fun p s h => ?_
  extract_lets ok rep s1
  have h1 : Tidy o s1 := ite h.served h
  exact .next h1.frame

theorem xldFill {v : Nat} {m : Mark} (hs : Tidy o s) : Tidy o (s.xldFill p v m) := by
  unfold State.xldFill
  split
  · exact hs
  · split
    · exact hs
    · split
      · exact hs
      · exact hs.modHome.syncSaved.wakeHome

theorem xldReply (hs : Tidy o s) : Tidy o (s.xldReply p) := ite hs.addCons.xldFill.deferFor hs.addCons.xldFill

theorem execXldReplyArrival (hs : Tidy o s) : OutTidy o (execXldReplyArrival k s) := by
  cases k with
  | peer p => exact .ite (hs.arrival fun _ _ h => .next h.xldReply) (.event hs.failOrigin)
  | net i => exact hs.arrival fun _ _ h => .next h.xldReply

theorem execXredMerge (hs : Tidy o s) : OutTidy o (execXredMerge i j s) := by
  unfold Machine.execXredMerge
  split
  · exact .event hs.frame
  · exact .refused

theorem execXredApply (hs : Tidy o s) : OutTidy o (execXredApply k s) :=
  hs.arrival fun _ _ h => .next (ite (ite h.addCons.served.failOrigin h.addCons.served.wrVault) h.addCons.failOrigin)

theorem startHandler {l key entry : Nat} (hs : Tidy o s) : Tidy o (s.startHandler p l cl team key entry) := by
  unfold State.startHandler
  extract_lets m raw r s1
  have h1 : Tidy o s1 := hs.frame
  split
  · exact h1
  · exact ite h1.setTeam h1.setTeam.newRecord

theorem execXsendDeliver (hs : Tidy o s) : OutTidy o (execXsendDeliver k cl s) := by
  refine hs.arrival fun p s h => ?_
  split
  · exact .next h.addLost
  · refine .ite (.next h.frame) (.ite (.next h.addLost) ?_)
    split
    · exact .next h.addLost
    · refine .ite (.next h.addLost) ?_
      split
      · exact .refused
      · exact .event h.startHandler

theorem execPacketDrop (hs : Tidy o s) : OutTidy o (execPacketDrop i s) := by
  unfold Machine.execPacketDrop
  split
  · exact .refused
  · exact .next (wakePkt hs.frame)

theorem lose (hs : Tidy o s) : Tidy o (s.lose p) := by
  have h1 : Tidy o (if p.dst = s.modId then s.addLost p.job.toNat p.count else s) := ite hs.addLost hs
  exact logAdd (ite h1.xldFill h1)

theorem execLossRecordReceive (hs : Tidy o s) : OutTidy o (execLossRecordReceive k s) := by
  cases k with
  | net i =>
    unfold Machine.execLossRecordReceive
    split
    · split
      · exact .refused
      · exact .next (lose hs.frame)
    · exact .event hs.lose
  | peer p => exact .event hs.lose

theorem execCountingWave {peers : List PeerSum} (hs : Tidy o s) : OutTidy o (execCountingWave peers s) := .event hs.frame

theorem execWaveSumsArrival (hs : Tidy o s) : OutTidy o (execWaveSumsArrival s) := by
  unfold Machine.execWaveSumsArrival
  split
  · exact .refused
  · exact .next (hs.mapClusters fun _ hc => Cluster.memOk_mapCtxs hc)

/-! ## Translation -/

variable {sub va q' pos tag req : Nat} {f : FaultRec}

theorem tlbInstall {core : Option Nat} {leaf : TlbEnt} {tables : List TlbEnt} (hs : Tidy o s) : Tidy o (s.tlbInstall cl core leaf tables) := by
  unfold State.tlbInstall
  split
  · exact hs.draw.modCl
  · exact hs.draw.modCl.modCore

theorem tlbDrop {p : TlbEnt → Bool} (hs : Tidy o s) : Tidy o (s.tlbDrop cl p) := hs.modCl fun _ hc => Cluster.memOk_mapCores hc

theorem raiseFault {u : State × Nat} (hs : Tidy o s) (hu : s.raiseFault cl f = some u) : Tidy o u.1 := by
  unfold State.raiseFault at hu
  split at hu
  · cases hu; exact hs
  · split at hu
    · cases hu
    · cases hu; exact hs.modCl

theorem dropReadOnly {jslot : Nat} (hs : Tidy o s) : Tidy o (s.dropReadOnly cl jslot sub va) := ite hs.tlbDrop hs

theorem detect {u : State × Nat} (hs : Tidy o s) (hu : s.detect cl f = some u) : Tidy o u.1 := by
  unfold State.detect at hu
  split at hu
  · cases hu
  · rename_i hr
    cases hu
    have h1 := hs.dropReadOnly.raiseFault hr
    exact ite h1 h1.modCl

theorem walked (hs : Tidy o s) : Tidy o (s.walked cl) := hs.tallyCl.tallyCl
theorem walkedFor (hs : Tidy o s) : Tidy o (s.walkedFor x) := hs.tally.walked

theorem sendQ {e : QEnt} {pa : Nat} (hs : Tidy o s) : Tidy o (s.sendQ x q' e pa) := by
  have hc : Sends o (s.checkLoad (.live x) (s.ctx x) e pa) := hs.checkLoad
  unfold State.sendQ
  split
  · rename_i e'; rw [e'] at hc; exact hc
  · rename_i e'; rw [e'] at hc; exact sentQ (modCtx hc)

theorem walkQueue (hs : Tidy o s) : OutTidy o (walkQueue x q' pos s) := by
  unfold Machine.walkQueue
  extract_lets cx
  split
  · exact .refused
  · refine .ite .refused ?_
    split
    · exact .refused
    · exact .next hs.walkedFor.tlbInstall.sendQ
    · extract_lets disc
      split
      · exact .refused
      · rename_i hd
        have h1 := hs.walkedFor.detect hd
        exact .next (ite h1.rollback h1.modCtx)

theorem walkSaved (hs : Tidy o s) : OutTidy o (walkSaved cl crec q' pos s) := by
  unfold Machine.walkSaved
  extract_lets h s1
  have h1 : Tidy o s1 := hs.refresh
  split
  · exact .refused
  · split
    · exact .refused
    · refine .ite .refused ?_
      split
      · exact .refused
      · exact .next h1.walked.tlbInstall.sentQ.syncSaved
      · exact .next h1.walked.dropReadOnly.modHome.syncSaved

theorem compareHeld {e : QEnt} {pa : Nat} (hs : Tidy o s) : Tidy o (s.compareHeld x i q' e pa) := by
  unfold State.compareHeld
  extract_lets e'
  split
  · exact hs
  · exact ite hs.rollback hs.modCtx.wake

theorem walkHeld (hs : Tidy o s) : OutTidy o (walkHeld x i s) := by
  unfold Machine.walkHeld
  extract_lets cx
  split
  · refine .ite .refused ?_
    split
    · exact .next hs.compareHeld
    · split
      · exact .refused
      · exact .next hs.walkedFor.tlbInstall.compareHeld
      · split
        · exact .refused
        · rename_i hd
          exact .next (hs.walkedFor.detect hd).rollback
  · exact .refused

theorem walkGather {ch id : Nat} {write : Bool} (hs : Tidy o s) : OutTidy o (walkGather c ch id req write s) := by
  unfold Machine.walkGather
  split
  · exact .refused
  · extract_lets g reqs
    split
    · exact .refused
    · refine .ite .refused ?_
      split
      · exact .refused
      · exact .next hs.walkedFor.tlbInstall
      · split
        · exact .refused
        · rename_i hd
          exact .next (hs.walkedFor.detect hd).modMx

theorem walkMarver {port : Nat} (hs : Tidy o s) : OutTidy o (walkMarver cl port req s) := by
  unfold Machine.walkMarver
  extract_lets js
  split
  · exact .refused
  · extract_lets r
    split
    · exact .refused
    · exact .next hs.walked.tlbInstall
    · split
      · exact .refused
      · rename_i hd
        exact .next (hs.walked.detect hd).modMarver

theorem serveWalk {v : WalkFor} (hs : Tidy o s) : OutTidy o (serveWalk cl v s) := by
  cases v with
  | queue x q pos => exact .ite hs.walkQueue .refused
  | held x i => exact .ite hs.walkHeld .refused
  | saved k crec q pos => exact .ite hs.walkSaved .refused
  | gather c ch id req write => exact .ite hs.walkGather .refused
  | marver k port req => exact .ite hs.walkMarver .refused

theorem execFaultRecordEnqueue (hs : Tidy o s) : OutTidy o (execFaultRecordEnqueue cl s) := by
  unfold Machine.execFaultRecordEnqueue
  extract_lets v
  split
  · exact .refused
  · exact .event hs.wrVault.modCl.tallyCl

theorem engineTag {fail : Bool} (hs : Tidy o s) : Tidy o (s.engineTag cl tag fail) := hs.modCl fun _ hc => Cluster.memOk_mapCores hc
theorem answerFault {fail : Bool} (hs : Tidy o s) : Tidy o (s.answerFault cl tag fail) := hs.mapLive.engineTag.modCl
theorem respond {fail : Bool} (hs : Tidy o s) : Tidy o (s.respond cl tag fail) := ite hs.answerFault hs.modCl
theorem execRetry {v : BitVec 8} (hs : Tidy o s) : OutTidy o (execRetry cl v s) := .event hs.respond
theorem execFail {v : BitVec 8} (hs : Tidy o s) : OutTidy o (execFail cl v s) := .event hs.respond
theorem failDoomed (hs : Tidy o s) : Tidy o (s.failDoomed cl) := hs.foldl fun _ _ h => ite h.answerFault h

theorem execPageWalk {v : WalkFor} (hs : Tidy o s) : OutTidy o (execPageWalk cl v s) := by
  have hw : OutTidy o (Machine.serveWalk cl v s) := hs.serveWalk
  unfold Machine.execPageWalk
  split
  · rename_i t ht
    have h1 : Tidy o t := hw t ht
    exact .ite (.next h1) (.ite .refused (.ite (.next h1.modCl.failDoomed) (.ite .refused (.next hs.modCl))))
  · exact .refused

theorem invalidate {v : Tlbi} (hs : Tidy o s) : Tidy o (s.invalidate cl v) :=
  hs.foldl fun _ _ h => ite (ite h.tlbDrop h) (h.foldl fun _ _ h => h.tlbDrop)

theorem tlbiWrite {v : Tlbi} (hs : Tidy o s) : Tidy o (s.tlbiWrite cl v) := by
  unfold State.tlbiWrite
  split
  · exact hs.modCl
  · exact ite hs hs.modCl.invalidate

theorem execTlbiPages {js : BitVec 4} {m : BitVec 16} {b : Bool} (hs : Tidy o s) : OutTidy o (execTlbiPages cl js m b s) := .event hs.tlbiWrite
theorem execTlbiJobSlot {js : BitVec 4} {b : Bool} (hs : Tidy o s) : OutTidy o (execTlbiJobSlot cl js b s) := .event hs.tlbiWrite
theorem execTlbiAll {b : Bool} (hs : Tidy o s) : OutTidy o (execTlbiAll cl b s) := .event hs.tlbiWrite

theorem execTlbiComplete (hs : Tidy o s) : OutTidy o (execTlbiComplete cl s) := by
  unfold Machine.execTlbiComplete
  split
  · exact .refused
  · exact .event hs.invalidate.modCl

theorem movePart {src dst : Nat} (hs : Tidy o s) : Tidy o (s.movePart cl src dst) := by
  unfold State.movePart
  extract_lets ld bad bs s1 s2
  have h1 : Tidy o s1 := hs.wrPhys
  have h2 : Tidy o s2 := h1.modCl
  exact ite h1 (ite (ite h2 h2.frame) h2.frame)

theorem moveParts {src dst : Nat} (hs : Tidy o s) : Tidy o (s.moveParts cl src dst i n) := by
  induction n generalizing s i with
  | zero => exact hs
  | succ n ih => exact ih hs.movePart

theorem pageMoveGo {size : Nat} (hs : Tidy o s) : Tidy o (s.pageMoveGo cl size) :=
  ite hs (ite hs (ite hs.modCl.modCl hs.modCl.draw.moveParts.modCl))

theorem execPageMoveGo {size : BitVec 2} (hs : Tidy o s) : OutTidy o (execPageMoveGo cl size s) := .event hs.pageMoveGo

theorem execPageMoveComplete (hs : Tidy o s) : OutTidy o (execPageMoveComplete cl s) := by
  unfold Machine.execPageMoveComplete
  extract_lets v
  split
  · exact .refused
  · exact .event hs.moveParts.modCl

end Sys2Proof.Machine.Tidy
end

section
/-! The invariant, seventh part: queues, launches and teams, the Lehr and its moves, partitions, and the outside world's requests. -/

namespace Sys2Proof.Machine.Tidy

set_option Elab.async false

variable {o : Bool} {s t : State} {x : CtxId} {c : CoreId} {h : Home} {cl crec team l ld q n v : Nat}

/-! ## Work queues -/

theorem modWq {f : WQueue → WQueue} (hs : Tidy o s) : Tidy o (s.modWq q f) := hs.frame
theorem countErr (hs : Tidy o s) : Tidy o (s.countErr ld) := hs.modLd
theorem refuse (hs : Tidy o s) : Tidy o (s.refuse ld) := hs.modLd

theorem headUp (hs : Tidy o s) : Tidy o (s.headUp q) := by
  unfold State.headUp
  extract_lets w
  split
  · exact hs
  · exact ite hs hs.setLaunch

theorem accept {raw : Nat} (hs : Tidy o s) : Tidy o (s.accept ld q raw) := ite hs.modWq.headUp (ite hs.modWq hs.modWq)

theorem execPush {off : Nat} {bs : List Byte} (hs : Tidy o s) : OutTidy o (execPush ld off bs s) := by
  unfold Machine.execPush
  extract_lets qs
  clear_value qs
  refine .event (ite hs.countErr (ite (ite hs.countErr (hs.foldl fun _ _ h => h.modWq)) ?_))
  split
  · exact hs.countErr
  · exact hs.accept
  · exact hs.foldl fun _ _ h => h.modWq

theorem writeQctl (hs : Tidy o s) : Tidy o (s.writeQctl q n) := ite hs.refuse hs.modWq.headUp
theorem execQctlWrite {v : BitVec 64} (hs : Tidy o s) : OutTidy o (execQctlWrite q v s) := .event hs.writeQctl

theorem execQueueMakeResident (hs : Tidy o s) : OutTidy o (execQueueMakeResident q s) := by
  unfold Machine.execQueueMakeResident
  extract_lets w res idle victim s1
  clear_value victim
  have h1 : Tidy o s1 := hs.modWq
  refine .ite .refused (.ite (.next h1) ?_)
  split
  · exact .refused
  · exact .next h1.modWq

theorem execJobTableWrite {ix : Nat} {e : JobEntry} (hs : Tidy o s) : OutTidy o (execJobTableWrite ld ix e s) :=
  .event (ite (hs.mapClusters (g := fun c => (c.1, c.2.stale s.tick ix)) fun _ hc => Cluster.memOk_congr hc) hs.refuse.countErr)

theorem execJobSlotUpdate {slot : Nat} (hs : Tidy o s) : OutTidy o (execJobSlotUpdate cl slot s) := by
  unfold Machine.execJobSlotUpdate
  extract_lets v
  split
  · exact .refused
  · exact .event hs.modCl

/-! ## Launches and teams -/

theorem execDependenceMet {d : Nat} (hs : Tidy o s) : OutTidy o (execDependenceMet l d s) := by
  unfold Machine.execDependenceMet
  split
  · exact .refused
  · split
    · exact .refused
    · exact .event hs.setLaunch

theorem execLaunchCheck (hs : Tidy o s) : OutTidy o (execLaunchCheck l s) := by
  unfold Machine.execLaunchCheck
  split
  · exact .refused
  · extract_lets st ld s1 s2
    have h2 : Tidy o s2 := hs.setLaunch.modWq
    exact .event (headUp h2.frame)

theorem enrol {rs : List SpawnReq} (hs : Tidy o s) : Tidy o (s.enrol cl team rs) := hs.foldl fun s r h => by
  split
  · exact h
  · exact ite h.spawnStatus.msgRetire h.setTeam.newRecord.spawnStatus

theorem bindTeam {w : Launch} {key base js : Nat} {own : Bool} (hs : Tidy o s) : Tidy o (s.bindTeam l w key own cl base js) := by
  unfold State.bindTeam
  extract_lets raw t mine n tm s1 ix s2 s3 next s4
  have h2 : Tidy o s2 := hs.setTeam.modCl
  have h3 : Tidy o s3 :=
    ite ((h2.modCl fun _ hc => Cluster.memOk_stopMarvers hc).modCl fun _ hc => Cluster.memOk_mapCores hc).modCl h2
  exact h3.setLaunch.enrol

theorem execTeamCreate {base : Nat} (hs : Tidy o s) : OutTidy o (execTeamCreate l cl base s) := by
  unfold Machine.execTeamCreate
  split
  · exact .event (ite hs.setLaunch hs.bindTeam)
  · exact .refused

theorem execItemCreate (hs : Tidy o s) : OutTidy o (execItemCreate cl team s) := by
  unfold Machine.execItemCreate
  split
  · exact .event (hs.nextItem ‹_›)
  · exact .refused

theorem dropPreload (hs : Tidy o s) : Tidy o (s.dropPreload cl crec) := hs.modCl

theorem retireSaved (hs : Tidy o s) : Tidy o (s.retireSaved cl crec) := by
  unfold State.retireSaved
  split
  · exact hs
  · have h1 : Tidy o (((s.dropReady cl crec).dropWatch cl crec).dropPreload cl crec) := hs.dropReady.dropWatch.dropPreload
    exact ite h1.setSaved.retireCont h1.setSaved.recWr

theorem retireGone (hs : Tidy o s) : Tidy o s.retireGone := hs.foldl fun _ _ h => h.retireSaved

theorem emptyTeam (hs : Tidy o s) : Tidy o (s.emptyTeam cl team) := by
  unfold State.emptyTeam
  split
  · exact hs
  · exact teamRetire (barrierCheck (hs.setTeam.foldl fun _ _ h => h.msgRetire))

theorem cancelLaunch (hs : Tidy o s) : Tidy o (s.cancelLaunch l) := by
  unfold State.cancelLaunch
  split
  · exact hs
  · split
    · exact hs.setLaunch
    · exact hs
    · exact hs.setLaunch
    · extract_lets s1 s2 s3 s4 s5
      have h2 : Tidy o s2 := hs.setLaunch.foldl fun _ _ h => h.msgRetire
      have h3 : Tidy o s3 := h2.foldl fun _ _ h => h.emptyTeam
      have h4 : Tidy o s4 := h3.foldl fun _ _ h => h.retireSaved
      have h5 : Tidy o s5 := h4.foldl fun _ _ h => h.askPreempt
      exact h5.foldl fun _ _ h => h.failDoomed

theorem endQueued {st : Nat} {rs : List Nat} (hs : Tidy o s) : Tidy o (s.endQueued q st rs) := hs.foldl fun _ _ h => h.setLaunch

theorem cancelQueue (hs : Tidy o s) : Tidy o (s.cancelQueue q) := modWq (endQueued (hs.foldl fun _ _ h => h.cancelLaunch))
theorem writeCancel (hs : Tidy o s) : Tidy o (s.writeCancel q) := ite hs.cancelQueue hs.refuse
theorem execCancel (hs : Tidy o s) : OutTidy o (execCancel q s) := .event hs.writeCancel

/-- A fold that carries something beside the state. -/
theorem foldl_fst {α β : Type} {f : State × β → α → State × β} {rs : List α} {b : β} (hs : Tidy o s)
    (hf : ∀ a r, Tidy o a.1 → Tidy o (f a r).1) : Tidy o (rs.foldl f (s, b)).1 := by
  induction rs generalizing s b with
  | nil => exact hs
  | cons r rs ih => exact ih (hf (s, b) r hs)

theorem dispWrite {j : JobEnt} {va : Nat} {bs : List Byte} (hs : Tidy o s) : Tidy o (s.dispWrite j ld va bs) := hs.foldl_fst fun a r h => by
  split
  · exact h.countErr
  · exact h.wrPhys

theorem dropLost (hs : Tidy o s) : Tidy o (s.dropLost l) := hs.foldl fun _ _ h => h.modCl

theorem execLaunchEnd (hs : Tidy o s) : OutTidy o (execLaunchEnd l s) := by
  unfold Machine.execLaunchEnd
  split
  · exact .refused
  · split
    · exact .refused
    · extract_lets j ld ws s1 s2
      have h1 : Tidy o s1 := hs.foldl fun _ _ h => h.dispWrite
      have h2 : Tidy o s2 := ite h1.frame h1
      exact .event h2.dropLost.setLaunch

/-! ## The Gaffer's registers -/

theorem execTrapRecordEnqueue (hs : Tidy o s) : OutTidy o (execTrapRecordEnqueue cl s) := by
  unfold Machine.execTrapRecordEnqueue
  extract_lets v
  split
  · exact .refused
  · exact .event hs.wrVault.modCl.tallyCl.mapLive

theorem answer {v1 v2 : Nat} (hs : Tidy o s) : Tidy o (s.answer cl v1 v2) := by
  unfold State.answer
  extract_lets r lost
  have hl : Tidy o lost := hs.modCl
  split
  · exact hl
  · split
    · exact hl
    · exact ite hl hs.modHome.wakeHome

theorem execSvcAnswer {v : BitVec 64} (hs : Tidy o s) : OutTidy o (execSvcAnswer cl v s) := .event hs.modCl.answer
theorem pass (hs : Tidy o s) : Tidy o (s.pass cl) := hs.draw.modCl fun _ hc => Cluster.memOk_mapCores hc
theorem lehrMsg {code arg : Nat} (hs : Tidy o s) : Tidy o (s.lehrMsg cl code arg) := hs.modCl
theorem execSmaskWrite {k : BitVec 3} (hs : Tidy o s) : OutTidy o (execSmaskWrite cl k s) := .event (ite hs.pass.modCl hs)
theorem setRail {a b : Bool} (hs : Tidy o s) : Tidy o (s.setRail cl a b) := hs.pass.modCl
theorem execRailWrite {b : Bool} (hs : Tidy o s) : OutTidy o (execRailWrite cl b s) := .event hs.setRail
theorem execRailChangeComplete (hs : Tidy o s) : OutTidy o (execRailChangeComplete cl s) := .event hs.modCl
theorem say {b : Bool} (hs : Tidy o s) : Tidy o (s.say b v) := hs.frame
theorem execDbgdataRead (hs : Tidy o s) : OutTidy o (execDbgdataRead c s) := .event hs.say
theorem dbgRegs {f : Regs → Regs} (hs : Tidy o s) : Tidy o (s.dbgRegs c f) := hs.modCtx
theorem execDbgdataWrite {v : BitVec 64} (hs : Tidy o s) : OutTidy o (execDbgdataWrite c v s) := .event (ite hs.dbgRegs hs)
theorem execDbgfeWrite {v : BitVec 64} (hs : Tidy o s) : OutTidy o (execDbgfeWrite c v s) := .event (ite hs.dbgRegs.wake hs)
theorem readLmsg (hs : Tidy o s) : Tidy o (s.readLmsg cl) := hs.modCl.say
theorem execLmsgRead (hs : Tidy o s) : OutTidy o (execLmsgRead cl s) := .event hs.readLmsg

/-! ## The Lehr -/

theorem modPower {f : Power → Power} (hs : Tidy o s) : Tidy o (s.modPower f) := hs.frame
theorem setFloor (hs : Tidy o s) : Tidy o (s.setFloor l v) := ite hs hs.modLd
theorem refloor (hs : Tidy o s) : Tidy o s.refloor := by
  unfold State.refloor
  extract_lets fs s1
  have h1 : Tidy o s1 := hs.foldl fun _ _ h => h.setFloor
  exact h1.modPower

theorem setCap {w : Nat} (hs : Tidy o s) : Tidy o (s.setCap w) := by
  unfold State.setCap
  extract_lets clamped s1
  have h1 : Tidy o s1 := ite hs.frame hs
  exact h1.modPower.refloor

theorem setFprio (hs : Tidy o s) : Tidy o (s.setFprio v) := hs.modPower.refloor
theorem setTalarm (hs : Tidy o s) : Tidy o (s.setTalarm v) := ite hs hs.modPower
theorem execPcapWrite (hs : Tidy o s) : OutTidy o (execPcapWrite s) := .next hs.setCap
theorem execFprioWrite (hs : Tidy o s) : OutTidy o (execFprioWrite s) := .next hs.setFprio
theorem execTalarmWrite (hs : Tidy o s) : OutTidy o (execTalarmWrite s) := .next hs.setTalarm
theorem setLforce {b : Bool} (hs : Tidy o s) : Tidy o (s.setLforce cl b) := ite hs.setRail.lehrMsg hs.setRail
theorem setLk (hs : Tidy o s) : Tidy o (s.setLk cl n) := hs.pass.modCl
theorem setFast {b : Bool} (hs : Tidy o s) : Tidy o (s.setFast cl b) := hs.pass.modCl
theorem passAll (hs : Tidy o s) : Tidy o s.passAll := hs.foldl fun _ _ h => h.pass

theorem applyStep (hs : Tidy o s) : Tidy o (s.applyStep cl n) := by
  unfold State.applyStep
  split
  · exact hs.setLforce
  · exact hs.setLk
  · exact hs.setLk
  · exact hs.setLk
  · exact hs.setFast
  · exact hs

theorem undoStep (hs : Tidy o s) : Tidy o (s.undoStep cl n) := by
  unfold State.undoStep
  split
  · exact hs.setLforce
  · exact hs.setLk
  · exact hs.setLk
  · exact hs.setLk
  · exact hs.setFast
  · exact hs

theorem stepUp {mask : Nat} (hs : Tidy o s) : Tidy o (s.stepUp mask cl) := ite hs (ite hs.setFast.modCl (ite hs hs.applyStep.modCl))

theorem execLehrPredict (hs : Tidy o s) : OutTidy o (execLehrPredict s) := .event (hs.modPower.foldl fun _ _ h => h.stepUp)

theorem execLehrMeasure (hs : Tidy o s) : OutTidy o (execLehrMeasure s) := by
  unfold Machine.execLehrMeasure
  extract_lets r s1 s2 warm s3
  have h2 : Tidy o s2 := hs.modPower.foldl fun _ _ h => h.modCl
  have h3 : Tidy o s3 := h2.foldl fun _ _ h => h.stepUp
  exact .event h3.modPower

theorem execLehrUndoStep (hs : Tidy o s) : OutTidy o (execLehrUndoStep s) := .event (ite hs.setFast.modCl hs.undoStep.modCl)
theorem execFastThrottle (hs : Tidy o s) : OutTidy o (execFastThrottle s) := .event hs.passAll.modPower
theorem execFastThrottleEnd (hs : Tidy o s) : OutTidy o (execFastThrottleEnd s) := .event hs.passAll.modPower

theorem execLehrMigrate {target : Nat} (hs : Tidy o s) : OutTidy o (execLehrMigrate cl team target s) := by
  unfold Machine.execLehrMigrate
  split
  · exact .refused
  · exact .event (lehrMsg (hs.modCl.setTeam.foldl fun _ _ h => h.askPreempt))

theorem moveSpawners {f : SpawnReq → SpawnReq} (hs : Tidy o s) : Tidy o (s.moveSpawners f) :=
  hs.mapClusters (g := fun e => (e.1, { e.2 with teams := e.2.teams.map fun t => (t.1, t.2.map fun v => { v with pending := v.pending.map f }) }))
    fun _ hc => Cluster.memOk_congr hc

theorem moveTeam {target js : Nat} {tm : Team} (hs : Tidy o s) : Tidy o (s.moveTeam cl team target js tm) := by
  unfold State.moveTeam
  extract_lets raw new at_ t2 images recs ready watch ix s1 s2 s3 s4 s5 s6 s7 s8
  have h3 : Tidy o s3 := hs.setReady.setWatch.copyVault.foldl fun _ _ h => h.recWr
  have h5 : Tidy o s5 := h3.modCl.foldl fun _ _ h => h.setSaved
  have h8 : Tidy o s8 := h5.setTeam.modCl.setReady.setWatch
  exact h8.moveSpawners

theorem execTeamMoveComplete {base : Nat} (hs : Tidy o s) : OutTidy o (execTeamMoveComplete cl team base s) := by
  unfold Machine.execTeamMoveComplete
  split
  · exact .refused
  · split
    · exact .refused
    · extract_lets images
      split
      · exact .ite (.event hs.moveTeam) (.next hs.setTeam)
      · exact .next hs.setTeam

/-! ## Partitions -/

theorem tellGaffers {b : Bool} (hs : Tidy o s) : Tidy o (s.tellGaffers l b) := hs.foldl fun _ _ h => h.modCl

theorem freezeEnt {e : QEnt} (hs : Tidy o s) : Tidy o (s.freezeEnt h l q e) := by
  unfold State.freezeEnt
  refine ite hs.modHome ?_
  split
  · exact hs.modHome
  · exact hs.modHome.deferTrap

theorem freezeQueues (hs : Tidy o s) : Tidy o (s.freezeQueues h l) := by
  unfold State.freezeQueues
  split
  · exact hs
  · exact wakeHome (hs.foldl fun _ _ h => h.foldl fun _ _ h => h.freezeEnt)

theorem freezeCore (hs : Tidy o s) : Tidy o (s.freezeCore c l) := hs.modMx
theorem freezeMarvers (hs : Tidy o s) : Tidy o (s.freezeMarvers cl l) := ite hs.modCl hs

theorem freezePart (hs : Tidy o s) : Tidy o (s.freezePart l) := by
  unfold State.freezePart
  extract_lets p live saved s1 s2 s3 s4 s5 s6 s7 s8
  have h1 : Tidy o s1 := hs.foldl fun _ _ h => h.freezeQueues
  have h2 : Tidy o s2 := h1.foldl fun _ _ h => h.freezeQueues.syncSaved
  have h3 : Tidy o s3 := h2.foldl fun _ _ h => h.freezeCore
  have h4 : Tidy o s4 := h3.foldl fun _ _ h => h.freezeMarvers
  have h5 : Tidy o s5 := h4.foldl fun _ _ h => h.dropPreload
  have h6 : Tidy o s6 := h5.foldl fun _ _ h => h.askPreempt
  have h7 : Tidy o s7 := h6.frame
  have h8 : Tidy o s8 := h7.foldl fun _ _ h => h.failDoomed
  exact ite hs h8.tellGaffers.modLd

theorem resumeRecord (hs : Tidy o s) : Tidy o (s.resumeRecord l cl crec) := by
  unfold State.resumeRecord
  split
  · exact hs
  · refine ite hs ?_
    extract_lets cx w fl cx' s1
    clear_value w
    have h1 : Tidy o s1 := hs.setSaved
    split
    · exact h1.recWr.addWatch
    · exact h1.recWr.recWr.addReady

theorem resumeLive (hs : Tidy o s) : Tidy o (s.resumeLive l x) := ite hs.modPr.modFl hs

theorem resumePart (hs : Tidy o s) : Tidy o (s.resumePart l) := by
  unfold State.resumePart
  extract_lets p lost s1 s2 ks s3 s4 s5 s6
  have h1 : Tidy o s1 := hs.modLd
  have h2 : Tidy o s2 := ite (tellGaffers h1.frame) h1
  have h3 : Tidy o s3 := h2.foldl fun _ _ h => h.modLaunch
  have h4 : Tidy o s4 := h3.foldl fun _ _ h => h.resumeRecord
  have h5 : Tidy o s5 := h4.foldl fun _ _ h => h.resumeLive
  have h6 : Tidy o s6 := h5.frame
  exact ite hs (h6.foldl fun _ _ h => ite h.cancelLaunch h)

theorem dropCtx (hs : Tidy o s) : Tidy o (s.dropCtx x) := hs.leaveMx.modCore.setCtx

theorem loseMsg {tag : Option Nat} (hs : Tidy o s) : Tidy o (s.loseMsg tag) := by
  unfold State.loseMsg
  split
  · exact hs
  · split
    · exact hs
    · exact addLost hs.frame

end Sys2Proof.Machine.Tidy

namespace Sys2Proof.Machine

theorem Cluster.memOk_without {l : Nat} {p : Nat → Bool} {gone : List Nat} {c : Cluster} (hc : c.memOk = true) :
    (c.without_ l p gone).memOk = true := by
  unfold Cluster.without_
  extract_lets c'
  have hc' : c'.memOk = true := by
    unfold c'
    split
    · exact Cluster.memOk_stopMarvers hc
    · exact hc
  exact Cluster.memOk_congr hc'

theorem Cluster.memOk_retireWhole {c : Cluster} (hc : c.memOk = true) : c.retireWhole.memOk = true := by
  have keeps (ks : List Nat) (c : Cluster) (hc : c.memOk = true) :
      (ks.foldl (fun c k => c.setCore k { c.core k with retired := true }) c).memOk = true := by
    induction ks generalizing c with
    | nil => exact hc
    | cons k ks ih => exact ih _ (Cluster.memOk_setCore hc (Cluster.wf_core hc k))
  exact keeps _ _ hc

end Sys2Proof.Machine

namespace Sys2Proof.Machine.Tidy

variable {o : Bool} {s t : State} {x : CtxId} {c : CoreId} {h : Home} {cl crec team l ld q n v : Nat}

theorem destroyPart (hs : Tidy o s) : Tidy o (s.destroyPart l) := by
  unfold State.destroyPart
  extract_lets mine gone lost s1 s2 s3 s4 s5 s6
  have h1 : Tidy o s1 := hs.foldl fun _ _ h => h.loseMsg
  have h2 : Tidy o s2 := h1.foldl fun _ _ h => h.addLost
  have h3 : Tidy o s3 := h2.frame
  have h4 : Tidy o s4 := h3.foldl fun _ _ h => h.dropCtx
  have h5 : Tidy o s5 := h4.foldl fun _ _ h => h.setReady.setWatch.modCl fun _ hc => Cluster.memOk_without hc
  have h6 : Tidy o s6 := h5.frame
  exact h6.modLd.refloor

theorem goLost (hs : Tidy o s) : Tidy o (s.goLost l) := by
  have h1 : Tidy o (s.modLd l fun d => { d with hstate := 1, timeouts := 0, bound := none }) := hs.modLd
  exact ite hs (ite (tellGaffers h1.frame) hs.modLd)

theorem dropHostWindow (hs : Tidy o s) : Tidy o (s.dropHostWindow l) := hs.foldl fun _ _ h => h.tlbDrop

theorem rebind (hs : Tidy o s) : Tidy o (s.rebind l) := ite hs.refuse (modLd (tellGaffers (hs.dropHostWindow.foldl fun _ _ h => h.putHost)))

theorem execRebind (hs : Tidy o s) : OutTidy o (execRebind s) := .next (ite hs.rebind hs.refuse)
theorem tdisp {st : Nat} (hs : Tidy o s) : Tidy o (s.tdisp l st) := ite hs.modLd.freezePart hs.modLd
theorem tdispError (hs : Tidy o s) : Tidy o (s.tdispError l) := ite hs.tdisp hs

theorem afterRestart (hs : Tidy o s) : Tidy o (s.afterRestart l) :=
  ite hs.modLd.tdispError.freezePart (ite hs.modLd (ite hs.modLd.freezePart (ite hs hs.modLd.rebind)))

theorem bind {port host : Nat} {shown : Option Nat} (hs : Tidy o s) : Tidy o (s.bind l port host shown) := hs.modLd

theorem execFmBind (hs : Tidy o s) : OutTidy o (execFmBind s) := .event (ite hs.modLd (ite (ite hs.bind.afterRestart hs.bind) hs.frame))

theorem execHostMemoryWrite (hs : Tidy o s) : OutTidy o (execHostMemoryWrite s) := by
  refine .event ?_
  split
  · exact hs.wrDram.say
  · exact hs.say

theorem execLinkDown (hs : Tidy o s) : OutTidy o (execLinkDown s) := by
  have h1 : Tidy o { s with ports := s.ports.filter fun q => q != s.req.port } := hs.frame
  exact .event (ite hs (h1.foldl fun _ _ h => h.goLost))

theorem execCompletionTimeout (hs : Tidy o s) : OutTidy o (execCompletionTimeout s) := .event (ite hs.modLd.goLost hs.modLd)
theorem execHostDeadReport (hs : Tidy o s) : OutTidy o (execHostDeadReport s) := .event hs.goLost
theorem execWarmRestart (hs : Tidy o s) : OutTidy o (execWarmRestart s) := .event hs.modLd.goLost

theorem execLinkUp (hs : Tidy o s) : OutTidy o (execLinkUp s) := by
  unfold Machine.execLinkUp
  extract_lets p s1
  have h1 : Tidy o s1 := hs.frame
  exact .event (h1.foldl fun _ _ h => h.afterRestart)

theorem execFreeze (hs : Tidy o s) : OutTidy o (execFreeze s) := .next (ite hs.refuse (ite hs.freezePart hs))
theorem thaw (hs : Tidy o s) : Tidy o (s.thaw l) := ite hs.resumePart hs.refuse
theorem execThaw (hs : Tidy o s) : OutTidy o (execThaw s) := .next (ite hs.thaw hs.refuse)
theorem invalidate_ (hs : Tidy o s) : Tidy o (s.invalidate_ l) := ite hs.destroyPart hs.refuse
theorem execPartitionDestroy (hs : Tidy o s) : OutTidy o (execPartitionDestroy s) := .next (ite hs.invalidate_ hs.refuse)

theorem ldctl (hs : Tidy o s) : Tidy o (s.ldctl l v) := by
  unfold State.ldctl
  extract_lets bit was s1 s2 s3 s4
  have h2 : Tidy o s2 := hs.modLd.refloor
  have h3 : Tidy o s3 := ite h2.resumePart h2
  have h4 : Tidy o s4 := ite h3.rebind h3
  exact ite h4.freezePart h4

theorem ldWrite {off : Nat} (hs : Tidy o s) : Tidy o (s.ldWrite l off v) :=
  ite hs.refuse
    (ite (ite (ite hs.freezePart hs.refuse) (ite (ite hs.destroyPart hs.refuse) (ite hs.refuse (ite hs.refuse hs.ldctl))))
      (ite hs.refuse (ite hs.refuse (ite hs.modLd.refloor hs.modLd))))

theorem execLdctlWrite (hs : Tidy o s) : OutTidy o (execLdctlWrite s) := .event hs.ldWrite

/-! ## Sessions -/

section Sessions
variable {f : State → State}

theorem modSpdm {f : Spdm → Spdm} (hs : Tidy o s) : Tidy o (s.modSpdm l f) := hs.modLd
theorem sayBytes (hs : Tidy o s) : Tidy o s.sayBytes := hs.draw.frame
theorem answerSpdm (hs : Tidy o s) (hf : ∀ s, Tidy o s → Tidy o (f s)) : Tidy o (s.answerSpdm f) := ite (hf _ hs) hs.say
theorem attest (hs : Tidy o s) (hf : ∀ s, Tidy o s → Tidy o (f s)) : Tidy o (s.attest l f) := hs.answerSpdm fun s h => ite (hf s h) h.say
theorem expire (hs : Tidy o s) : Tidy o (s.expire l) := ite hs.modSpdm.tdispError hs.modSpdm
theorem expired (hs : Tidy o s) : Tidy o (s.expired l) := ite hs.expire hs
theorem message {auth : Bool} (hs : Tidy o s) (hf : ∀ s, Tidy o s → Tidy o (f s)) : Tidy o (s.message l auth f) :=
  ite (hf _ hs.expired.modSpdm) hs.expired.say
theorem inOrOut (hs : Tidy o s) (hf : ∀ s, Tidy o s → Tidy o (f s)) : Tidy o (s.inOrOut l f) := ite (hs.message hf) (hf s hs)
theorem inSession (hs : Tidy o s) (hf : ∀ s, Tidy o s → Tidy o (f s)) : Tidy o (s.inSession l f) := hs.message hf

theorem execGetVersion (hs : Tidy o s) : OutTidy o (execGetVersion s) := .next (hs.answerSpdm fun _ h => h.modSpdm.say)
theorem execGetCapabilities (hs : Tidy o s) : OutTidy o (execGetCapabilities s) := .next (hs.answerSpdm fun _ h => ite h.modSpdm.say h.say)
theorem execNegotiateAlgorithms (hs : Tidy o s) : OutTidy o (execNegotiateAlgorithms s) :=
  .next (hs.answerSpdm fun _ h => ite h.modSpdm.say h.say)
theorem execGetDigests (hs : Tidy o s) : OutTidy o (execGetDigests s) := .next (hs.attest fun _ h => h.inOrOut fun _ h => h.sayBytes)
theorem execGetCertificate (hs : Tidy o s) : OutTidy o (execGetCertificate s) := .next (hs.attest fun _ h => h.inOrOut fun _ h => h.sayBytes)
theorem execChallenge (hs : Tidy o s) : OutTidy o (execChallenge s) := .next (hs.attest fun _ h => h.inOrOut fun _ h => h.sayBytes)

theorem execGetMeasurements (hs : Tidy o s) : OutTidy o (execGetMeasurements s) := .next (hs.attest fun _ h => h.inOrOut fun s h => by
  split
  · exact h.frame
  · exact h.say)

theorem execKeyExchange (hs : Tidy o s) : OutTidy o (execKeyExchange s) := .next (hs.expired.attest fun _ h => ite h.say h.modSpdm.sayBytes)
theorem execFinish (hs : Tidy o s) : OutTidy o (execFinish s) := .next (hs.answerSpdm fun _ h => ite h.modSpdm.modLd.sayBytes h.say)
theorem execEndSession (hs : Tidy o s) : OutTidy o (execEndSession s) := .next (hs.inSession fun _ h => h.expire.say)
theorem execHeartbeat (hs : Tidy o s) : OutTidy o (execHeartbeat s) := .next (hs.inSession fun _ h => h.say)
theorem execKeyUpdate (hs : Tidy o s) : OutTidy o (execKeyUpdate s) := .next (hs.inSession fun _ h => h.modSpdm.say)
theorem execSessionExpiry (hs : Tidy o s) : OutTidy o (execSessionExpiry s) := .event hs.expire
theorem expireAll (hs : Tidy o s) : Tidy o s.expireAll := hs.foldl fun _ _ h => h.expired
theorem execLockInterfaceRequest (hs : Tidy o s) : OutTidy o (execLockInterfaceRequest s) :=
  .next (hs.inSession fun _ h => ite h.modLd.modSpdm.say h.say)
theorem execGetDeviceInterfaceReport (hs : Tidy o s) : OutTidy o (execGetDeviceInterfaceReport s) :=
  .next (hs.inSession fun _ h => ite h.frame h.say)
theorem execGetDeviceInterfaceState (hs : Tidy o s) : OutTidy o (execGetDeviceInterfaceState s) := .next (hs.inSession fun _ h => h.say)
theorem execStartInterfaceRequest (hs : Tidy o s) : OutTidy o (execStartInterfaceRequest s) :=
  .next (hs.inSession fun _ h => ite (say (ite h.modLd.resumePart h.modLd)) h.say)
theorem execStopInterfaceRequest (hs : Tidy o s) : OutTidy o (execStopInterfaceRequest s) := .next (hs.inSession fun _ h => h.tdisp.modSpdm.say)
theorem execLockedRegisterError (hs : Tidy o s) : OutTidy o (execLockedRegisterError s) := .event hs.tdispError

end Sessions
end Sys2Proof.Machine.Tidy
end

section
/-! The invariant, eighth part: errors and retirements, bring-up, and the control registers. -/

namespace Sys2Proof.Machine.Tidy

set_option Elab.async false

variable {o : Bool} {s t : State} {x : CtxId} {c : CoreId} {cl key pa n v off : Nat}

/-! ## Health and retirement -/

theorem modHealth {f : Health → Health} (hs : Tidy o s) : Tidy o (s.modHealth f) := hs.frame
theorem report_ (hs : Tidy o s) : Tidy o s.report_ := hs.frame
theorem worsen (hs : Tidy o s) : Tidy o (s.worsen n) := ite hs (ite (hs.modHealth.foldl fun _ _ h => h.lehrMsg) hs.modHealth)
theorem dieMsg {code arg : Nat} (hs : Tidy o s) : Tidy o (s.dieMsg cl code arg) := hs.foldl fun _ _ h => h.lehrMsg
theorem retireMsg (hs : Tidy o s) : Tidy o (s.retireMsg cl) := hs.report_.dieMsg.draw

theorem retireCluster {dead : Bool} (hs : Tidy o s) : Tidy o (s.retireCluster cl dead) := by
  unfold State.retireCluster
  extract_lets n s1 s2 s3
  have h1 : Tidy o s1 := hs.modCl fun c hc => by
    split
    · exact Cluster.memOk_retireWhole hc
    · exact Cluster.memOk_congr hc
  have h3 : Tidy o s3 := h1.modHealth.worsen.report_.dieMsg
  exact ite hs (ite h3.worsen h3)

theorem retireCore (hs : Tidy o s) : Tidy o (s.retireCore c) := by
  unfold State.retireCore
  extract_lets s1 s2 s3 s4
  have h3 : Tidy o s3 := hs.modCore.modHealth.worsen.report_.dieMsg
  have h4 : Tidy o s4 := h3.foldl fun _ _ h => h.askPreempt
  exact ite hs (ite h4.retireCluster h4)

theorem retireChannel (hs : Tidy o s) : Tidy o (s.retireChannel key) := by
  unfold State.retireChannel
  extract_lets s1 s2
  have h1 : Tidy o s1 := hs.frame
  have h2 : Tidy o s2 := h1.modHealth.worsen.retireMsg
  exact ite hs (ite h2.worsen h2)

/-! ## Errors that a code finds -/

theorem arrayLog {die kind unit addr : Nat} (hs : Tidy o s) : Tidy o (s.arrayLog die kind unit addr) := hs.logAdd.draw
theorem granuleError (hs : Tidy o s) : Tidy o (s.granuleError cl off) := ite hs.modCl.modCl.worsen.retireMsg hs.modCl
theorem lmemError (hs : Tidy o s) : Tidy o (s.lmemError c) := ite hs.modCore.retireCore hs.modCore
theorem linkRetry {a b : Nat} (hs : Tidy o s) : Tidy o (s.linkRetry a b) := hs.logAdd

theorem rowError (hs : Tidy o s) : Tidy o (s.rowError pa) := by
  unfold State.rowError
  extract_lets row errs used s1
  have h1 : Tidy o s1 := hs.frame
  exact ite (ite h1.worsen h1) hs.frame

theorem struck {w : Struck} {fatal : Bool} (hs : Tidy o s) : Tidy o (s.struck w fatal) := by
  unfold State.struck
  extract_lets kind
  split
  · exact ite (draw (lmemError (hs.arrayLog.tallyCl.modCore fun _ h => wf_wrMem _ _ _ _ h))) hs.arrayLog.tallyCl
  · extract_lets cl s1
    have h1 : Tidy o s1 := hs.arrayLog.tallyCl
    exact ite (draw (granuleError (h1.withVault (wf_wrMem _ _ _ _ h1.memories.1)))) h1
  · extract_lets s1
    have h1 : Tidy o s1 := hs.arrayLog
    exact ite (draw (h1.withDram (wf_wrMem _ _ _ _ h1.memories.2.1))) h1.rowError
  · refine ite (draw (hs.arrayLog.tallyCl.modCl fun c hc => ?_)) hs.arrayLog.tallyCl
    obtain ⟨hcode, hcores⟩ := (cluster_memOk_iff c).1 hc
    exact (cluster_memOk_iff _).2 ⟨wf_wrMem _ _ _ _ hcode, hcores⟩
  · exact ite hs.arrayLog.tallyCl.modMx hs.arrayLog.tallyCl
  · exact ite hs.arrayLog.tallyCl.modMx hs.arrayLog.tallyCl
  · exact ite hs.modMx hs
  · exact ite hs.modMarver hs
  · exact ite hs hs.linkRetry

theorem strike {w : Struck} {k : ErrKind} (hs : Tidy o s) : Tidy o (s.strike w k) := by
  cases k with
  | none => exact hs
  | corrected => exact hs.struck
  | uncorrectable => exact hs.struck

theorem execPatrolScrub (hs : Tidy o s) : OutTidy o (execPatrolScrub s) := .event hs.strike

/-! ## DRAM channels, die links and clusters -/

theorem modChan {f : Chan → Chan} (hs : Tidy o s) : Tidy o (s.modChan key f) := hs.frame
theorem busLog {kind lane count : Nat} (hs : Tidy o s) : Tidy o (s.busLog pa kind lane count) := hs.logAdd.draw
theorem retryPassed {group : Nat} (hs : Tidy o s) : Tidy o (s.retryPassed pa group n) := hs.busLog.modChan

theorem execBusRetry {die ch group : Nat} {pass : Bool} (hs : Tidy o s) : OutTidy o (execBusRetry die ch group pass s) := by
  unfold Machine.execBusRetry
  extract_lets pa c n s1
  have h1 : Tidy o s1 := ite hs.tallyCl hs
  exact .event (ite hs.modChan (ite h1.retryPassed h1.modChan))

theorem swapLanes {count : Nat} {ls : List Nat} (hs : Tidy o s) : Tidy o (s.swapLanes key pa count ls).1 := by
  induction ls generalizing s with
  | nil => exact hs
  | cons l ls ih =>
    unfold State.swapLanes
    extract_lets n
    split
    · exact hs
    · exact ih hs.busLog.modChan

theorem execBusDiagnosisComplete {die ch : Nat} {ls : List Nat} {pass : Bool} (hs : Tidy o s) :
    OutTidy o (execBusDiagnosisComplete die ch ls pass s) := by
  unfold Machine.execBusDiagnosisComplete
  extract_lets key c r s1 s2
  split
  · exact .refused
  · have h1 : Tidy o s1 := hs.swapLanes.modChan
    have h2 : Tidy o s2 := ite h1 h1.retireMsg
    exact .event (ite h2 h2.busLog.retireChannel)

theorem replayLog (hs : Tidy o s) : Tidy o (s.replayLog c) := ite hs.frame hs.logAdd
theorem datapathError (hs : Tidy o s) : Tidy o (s.datapathError c) := ite hs.modCore.arrayLog.retireCore hs.modCore.arrayLog

theorem matrixLost (hs : Tidy o s) : Tidy o (s.matrixLost c) := by
  unfold State.matrixLost
  split
  · exact hs
  · split
    · exact hs.failMma
    · exact hs.modMx

theorem vectorLost {r : RegRef} (hs : Tidy o s) : Tidy o (s.vectorLost x r n) := hs.modCtx

theorem execReheatReplay {matrix again : Bool} (hs : Tidy o s) : OutTidy o (execReheatReplay c matrix again s) := by
  unfold Machine.execReheatReplay
  extract_lets cx
  clear_value cx
  split
  · exact .refused
  · extract_lets x s1
    have h1 : Tidy o s1 := hs.replayLog.tally
    refine .ite (.event (ite h1.matrixLost.datapathError h1)) ?_
    split
    · exact .refused
    · exact .next (ite h1.vectorLost.datapathError h1)

theorem loseCluster (hs : Tidy o s) : Tidy o (s.loseCluster cl) := by
  unfold State.loseCluster
  extract_lets c ls live tags s1 s2 s3
  have h1 : Tidy o s1 := hs.foldl fun _ _ h => h.loseMsg
  have h2 : Tidy o s2 := h1.modCl
  have h3 : Tidy o s3 := h2.foldl fun _ _ h => h.modLaunch
  exact h3.foldl fun _ _ h => h.askPreempt

theorem isolateDie {d : Nat} (hs : Tidy o s) : Tidy o (s.isolateDie d) :=
  ite hs (report_ (worsen (hs.modHealth.foldl fun _ _ h => h.loseCluster.retireCluster)))

theorem execDieLinkDown {a b : Nat} (hs : Tidy o s) : OutTidy o (execDieLinkDown a b s) := by
  unfold Machine.execDieLinkDown
  extract_lets s1 s2
  have h1 : Tidy o s1 := hs.frame
  have h2 : Tidy o s2 := h1.logAdd
  exact .event (h2.foldl fun _ _ h => h.isolateDie)

theorem execDieLinkReroute (hs : Tidy o s) : OutTidy o (execDieLinkReroute s) := .event hs.frame
theorem execClusterFailure (hs : Tidy o s) : OutTidy o (execClusterFailure cl s) := .event hs.loseCluster.retireCluster.modCl

/-! ## Bring-up -/

variable {fails : List (Nat × Nat)} {up : List Nat} {ok : Bool}

theorem modBoot {f : Boot → Boot} (hs : Tidy o s) : Tidy o (s.modBoot f) := hs.frame
theorem measure {ix : Nat} (hs : Tidy o s) : Tidy o (s.measure ix) := hs.draw.frame

theorem fuses (hs : Tidy o s) : Tidy o s.fuses := by
  unfold State.fuses
  extract_lets cores cls chs s1 s2 s3 out
  have h1 : Tidy o s1 := hs.foldl fun _ _ h => h.modCore
  have h2 : Tidy o s2 := h1.foldl fun _ _ h => h.modCl fun _ hc => Cluster.memOk_retireWhole hc
  have h3 : Tidy o s3 := h2.foldl fun _ _ h => h.modChan
  exact h3.modHealth

theorem allLforce {b : Bool} (hs : Tidy o s) : Tidy o (s.allLforce b) := hs.foldl fun _ _ h => h.modCl

theorem train (hs : Tidy o s) : Tidy o (s.train fails) := by
  unfold State.train
  extract_lets s1
  have h1 : Tidy o s1 := hs.foldl fun _ _ h => ite h.retireChannel h.modChan
  exact h1.foldl fun _ _ h => ite h.isolateDie h

theorem clear (hs : Tidy o s) : Tidy o s.clear := by
  obtain ⟨-, -, hh, -⟩ := hs.memories
  refine of_memories wf_nil wf_nil hh (fun e he => ?_) hs.2
  obtain ⟨e', -, rfl⟩ := List.mem_map.1 he
  refine (cluster_memOk_iff _).2 ⟨wf_nil, fun v hv => ?_⟩
  obtain ⟨v', -, rfl⟩ := List.mem_map.1 hv
  exact wf_nil

theorem loadGaffers (hs : Tidy o s) : Tidy o s.loadGaffers := hs.foldl fun _ _ h => h.withVault (wf_wrBytes _ _ _ h.memories.1)
theorem handoff (hs : Tidy o s) : Tidy o (s.handoff cl) := hs.wrVault
theorem release (hs : Tidy o s) : Tidy o s.release := hs.foldl fun _ _ h => h.modCl
theorem measureRom (hs : Tidy o s) : Tidy o s.measureRom := ite hs hs.measure

theorem handOver (hs : Tidy o s) : Tidy o s.handOver := by
  unfold State.handOver
  extract_lets s1 s2
  have h1 : Tidy o s1 := release (hs.foldl fun _ _ h => h.handoff)
  have h2 : Tidy o s2 := h1.foldl fun _ _ h => h.bind
  exact h2.modBoot

theorem bootStep (hs : Tidy o s) : Tidy o (s.bootStep n fails) := by
  refine modBoot ?_
  split
  · exact hs.measureRom.measure
  · exact hs.measure.fuses
  · exact hs.measure.allLforce
  · exact hs.train.clear
  · exact (hs.measure (ix := 4)).loadGaffers.frame
  · exact hs.handOver
  · exact hs

theorem trainPorts (hs : Tidy o s) : Tidy o (s.trainPorts up) := ite hs.frame hs.frame
theorem bring (hs : Tidy o s) : Tidy o (s.bring ok fails up) :=
  ite hs (ite (modBoot (ite hs.measureRom hs)) (ite hs.trainPorts.bootStep hs.bootStep))
theorem bringNext (hs : Tidy o s) : Tidy o s.bringNext := hs.draw.bring
theorem execRecoveryImage (hs : Tidy o s) : OutTidy o (execRecoveryImage s) := .event (ite hs.modBoot.bring hs.modBoot)

theorem rebooted (hs : Tidy o s) : Tidy o s.rebooted := of_memories wf_nil wf_nil hs.memories.2.2.1 (List.forall_mem_nil _) fun _ => rfl
theorem execModuleReset (hs : Tidy o s) : OutTidy o (execModuleReset s) := .next hs.rebooted

/-! ## Control registers -/

theorem writeCtxctl (hs : Tidy o s) : Tidy o (s.writeCtxctl x v) := ite hs.modPr.modPr.writeGo hs.modPr.modPr.writeStopreq

theorem ctxWrite {k : Nat} (hs : Tidy o s) : Tidy o (s.ctxWrite x k v) := by
  unfold State.ctxWrite
  refine ite (ite hs.writeCreg hs) ?_
  split
  · exact hs.writeCtxctl
  · exact hs.modCtx
  · exact hs.modCtx
  iterate 6 exact hs.modPr
  exact ite hs.modPr hs

theorem wakeSvc (hs : Tidy o s) : Tidy o (s.wakeSvc cl) := hs.mapLive
theorem writePmctl (hs : Tidy o s) : Tidy o (s.writePmctl cl v) := ite hs.modCl.pageMoveGo hs.modCl

theorem writeFresp (hs : Tidy o s) : Tidy o (s.writeFresp cl v) := by
  unfold State.writeFresp
  split
  · exact hs.respond
  · exact hs.respond
  · exact hs

theorem clWrite (hs : Tidy o s) : Tidy o (s.clWrite cl off v) := by
  unfold State.clWrite
  split
  · exact ite hs.modCl hs
  · exact hs.setRail
  · exact hs.modCl
  · exact hs.modCl.wakeSvc
  · exact hs.modCl.wakeSvc
  · exact hs.modCl
  · exact hs.modCl
  · exact hs.modCl.answer
  · exact hs.modCl
  · exact hs.modCl
  · exact hs.modCl
  · exact ite hs.askPreempt hs
  · exact hs.tlbiWrite
  · exact hs.modCl
  · exact hs.modCl
  · exact hs.modCl
  · exact hs.modCl
  · exact hs.modCl
  · exact hs.writeFresp
  · exact hs.modCl
  · exact hs.modCl
  · exact hs.modCl
  · exact hs.writePmctl
  · exact hs

theorem dbgWrite (hs : Tidy o s) : Tidy o (s.dbgWrite c off v) := by
  unfold State.dbgWrite
  split
  · exact hs.modCore
  · exact ite hs.dbgRegs hs
  · exact ite hs.dbgRegs.wake hs
  · exact hs

theorem coreEvWrite (hs : Tidy o s) : Tidy o (s.coreEvWrite c off v) := ite hs.modCore (ite hs.modCore hs)
theorem clEvWrite (hs : Tidy o s) : Tidy o (s.clEvWrite cl off v) := ite hs.modCl hs.modCl
theorem coreWrite (hs : Tidy o s) : Tidy o (s.coreWrite c off v) := ite hs.ctxWrite (ite hs.coreEvWrite hs.dbgWrite)
theorem ctlWrite (hs : Tidy o s) : Tidy o (s.ctlWrite cl off v) :=
  ite hs.clWrite (ite hs.modCl (ite hs.modCl (ite hs.clEvWrite (ite hs.coreWrite hs))))
theorem ctlTouch (hs : Tidy o s) : Tidy o (s.ctlTouch cl off) := ite hs.modCl hs

theorem mgmtWrite (hs : Tidy o s) : Tidy o (s.mgmtWrite off v) := by
  unfold State.mgmtWrite
  refine ite hs.ldWrite ?_
  split
  · exact hs.setCap
  · exact hs.modPower
  · exact hs.setTalarm
  · exact hs.setFprio
  · exact hs

theorem queueWrite {q : Nat} (hs : Tidy o s) : Tidy o (s.queueWrite q off v) := by
  unfold State.queueWrite
  refine ite hs.refuse ?_
  split
  · exact hs.writeQctl
  · exact ite hs.modWq hs.refuse
  · exact ite hs.writeCancel hs
  · exact hs

theorem execHostMemoryRead (hs : Tidy o s) : OutTidy o (execHostMemoryRead s) := by
  refine .ite (.event hs.say) (.ite (.event hs.say) (.event ?_))
  split
  · exact ite hs.say hs.frame
  · exact hs.say

theorem execControlRegisterWrite {v : BitVec 64} (hs : Tidy o s) : OutTidy o (execControlRegisterWrite cl off v s) :=
  .event (ite hs.pass.ctlWrite (ite hs.mgmtWrite (ite hs.queueWrite hs)))

/-! ## The Gaffer's loads and stores -/

theorem followStatus {crec : Nat} (hs : Tidy o s) : Tidy o (s.followStatus cl crec) := by
  unfold State.followStatus
  extract_lets st r w s1 s2 s3 s4
  have h1 : Tidy o s1 := hs.modCl
  have h2 : Tidy o s2 := ite h1.dropWatch h1
  have h3 : Tidy o s3 := by
    unfold s3
    split
    · exact h2.setSaved
    · exact h2
  have h4 : Tidy o s4 := ite hs.dropReady hs
  exact ite (ite h3 h3.recWr.addReady) (ite (ite h4 h4.addWatch) (ite h4.dropWatch h4))

theorem faultLeave (hs : Tidy o s) : Tidy o s.faultLeave := hs.foldl fun _ _ h => h.leave

theorem dropTouched (hs : Tidy o s) : Tidy o (s.dropTouched off n) := by
  unfold State.dropTouched
  extract_lets hit
  exact ite (hs.mapClusters (g := fun c => (c.1, { c.2 with preload := c.2.preload.filter fun e => !hit c.1 e.2.crec })) fun _ hc => Cluster.memOk_congr hc) hs

theorem gafferVault (hs : Tidy o s) : Tidy o (s.gafferVault off n v) := faultLeave (hs.wrVault.dropTouched.foldl fun _ _ h => h.followStatus)

theorem gafferLoad {w : GWhere} (hs : Tidy o s) : Tidy o (s.gafferLoad cl n w) := by
  cases w with
  | reg off => exact hs.pass.ctlTouch.say
  | _ => exact hs.say

theorem wrCode {a : Nat} (hs : Tidy o s) : Tidy o (s.modCl cl fun c => c.wrCode a n v) := hs.modCl fun c hc => by
  obtain ⟨hcode, hcores⟩ := (cluster_memOk_iff c).1 hc
  exact (cluster_memOk_iff _).2 ⟨wf_wrMem _ _ _ _ hcode, hcores⟩

theorem gafferStore {w : GWhere} (hs : Tidy o s) : Tidy o (s.gafferStore cl n v w) := by
  cases w with
  | reg off => exact hs.pass.ctlWrite.say
  | code a => exact hs.wrCode.say
  | lmem k a => exact hs.wrLmem.say
  | vault off => exact hs.gafferVault.say
  | dram pa => exact hs.wrDram.say
  | none => exact hs.say

theorem execGafferAccess {mode : GMode} {addr : Nat} {op : GOp} (hs : Tidy o s) : OutTidy o (execGafferAccess cl mode addr n op s) := by
  unfold Machine.execGafferAccess
  extract_lets w
  refine .ite .refused (.ite (.next hs.say) ?_)
  cases op with
  | load => exact .event hs.gafferLoad
  | store v => exact .event hs.gafferStore

end Sys2Proof.Machine.Tidy
end

section
/-! The invariant, last part: every instruction keeps it, and so do what falls due at a tick, a core's turn, and a step. -/

namespace Sys2Proof.Machine.Tidy

set_option Elab.async false

variable {o : Bool} {s t : State} {x : CtxId} {c : CoreId} {h : Home} {cl n : Nat}

/-! ## Every instruction and event -/

theorem exec (hs : Tidy o s) : (i : Instr) → OutTidy o (Machine.exec i s)
  | .nop => hs.execNop | .br .. => hs.execBr | .bri .. => hs.execBri | .call .. => hs.execCall | .calli .. => hs.execCalli
  | .ret .. => hs.execRet | .bmz .. => hs.execBmz | .bsel .. => hs.execBsel | .loop .. => hs.execLoop | .lexit .. => hs.execLexit
  | .wait .. => hs.execWait | .wquiet .. => hs.execWquiet | .yield .. => hs.execYield | .spawn .. => hs.execSpawn
  | .done .. => hs.execDone | .pont .. => hs.execPont | .commit .. => hs.execCommit | .abort .. => hs.execAbort | .svc .. => hs.execSvc
  | .trap .. => hs.execTrap | .brk .. => hs.execBrk | .mfc .. => hs.execMfc | .mtc .. => hs.execMtc | .tbar .. => hs.execTbar
  | .permit .. => hs.execPermit
  | .add .. | .sub .. | .and .. | .or .. | .xor .. | .andn .. | .shl .. | .shr .. | .sar .. | .mul .. | .mulh .. | .mulhu .. | .min ..
  | .max .. | .minu .. | .maxu .. | .ins .. | .fadd .. | .fsub .. | .fmul .. | .fmin .. | .fmax .. => hs.sBin
  | .div .. | .divu .. | .rem .. | .remu .. => hs.sDiv | .cmp .. => hs.execCmp | .sel .. => hs.execSel
  | .addi .. | .andi .. | .ori .. | .xori .. | .shli .. | .shri .. | .sari .. | .lih .. | .clz .. | .popc .. | .ext ..
  | .fcvt .. => hs.sUn
  | .li .. => hs.execLi | .lea .. => hs.execLea | .leai .. => hs.execLeai | .amovSToA .. => hs.execAmovSToA
  | .amovAToS .. => hs.execAmovAToS | .plog .. => hs.execPlog | .widf .. => hs.execWidf | .widfTeam .. => hs.execWidfTeam
  | .widfRank .. => hs.execWidfRank | .ffma .. => hs.execFfma | .fcmp .. => hs.execFcmp
  | .vadd .. | .vsub .. | .vmul .. | .vmin .. | .vmax .. | .vand .. | .vor .. | .vxor .. | .vshl .. | .vshr .. | .vsar ..
  | .vcmp .. => hs.vBin
  | .vfma .. => hs.execVfma | .vabs .. | .vneg .. => hs.vUn | .vcvt .. => hs.execVcvt | .vsel .. => hs.execVsel | .vred .. => hs.execVred
  | .vbcast .. => hs.execVbcast | .vext .. => hs.execVext | .vins _ ty .. => hs.execVins (ty := ty) | .vperm .. => hs.execVperm
  | .vexp2 .. | .vrcp .. | .vrsq .. => hs.vTrans | .vamax .. => hs.execVamax | .kpush .. => hs.execKpush | .kinv .. => hs.execKinv
  | .kpop .. => hs.execKpop | .ktop .. => hs.execKtop | .vld .. => hs.execVld | .vst .. | .vsts .. | .vsct .. => hs.vStore
  | .vlds .. => hs.execVlds | .vgth .. => hs.execVgth | .ldl .. => hs.execLdl | .stl .. => hs.execStl | .viota .. => hs.execViota
  | .viotaRank .. => hs.execViotaRank | .ld .. => hs.execLd | .st .. => hs.execSt | .ldv .. => hs.execLdv | .stv .. => hs.execStv
  | .qld .. => hs.execQld | .qvld .. => hs.execQvld | .qpop .. => hs.execQpop | .qst .. => hs.execQst | .qvst .. => hs.execQvst
  | .atadd .. | .atand .. | .ator .. | .atxor .. | .atmin .. | .atmax .. | .atswp .. | .atcas .. | .atincw .. | .atbadd .. | .atfadd ..
  | .sarv .. => hs.atomic
  | .sinit .. => hs.execSinit | .bfacq .. => hs.execBfacq | .bfrel .. => hs.execBfrel | .gcopy .. => hs.execGcopy
  | .mnest .. => hs.execMnest | .mprec .. => hs.execMprec | .mwld .. => hs.execMwld | .mma .. => hs.execMma | .mdrn .. => hs.execMdrn
  | .mpert .. => hs.execMpert | .mstat .. => hs.execMstat | .xsend .. => hs.execXsend | .xst .. => hs.execXst | .xld .. => hs.execXld
  | .xred .. => hs.execXred | .regionLengthRollback .. => hs.execRegionLengthRollback | .heldCommandIssue .. => hs.execHeldCommandIssue
  | .doneComplete .. => hs.execDoneComplete | .launchEnd .. => hs.execLaunchEnd | .push .. => hs.execPush
  | .dependenceMet .. => hs.execDependenceMet | .launchCheck .. => hs.execLaunchCheck | .teamCreate .. => hs.execTeamCreate
  | .itemCreate .. => hs.execItemCreate | .continuationPlace .. => hs.execContinuationPlace | .contextSelect .. => hs.execContextSelect
  | .quantumExpiry .. => hs.execQuantumExpiry | .stallTimeout .. => hs.execStallTimeout | .registerFill .. => hs.execRegisterFill
  | .eviction .. => hs.execEviction | .waitWake .. => hs.execWaitWake | .waitTimeout .. => hs.execWaitTimeout
  | .loopIterationEnd .. => hs.execLoopIterationEnd | .accessPerform .. => hs.execAccessPerform
  | .queueDataArrival .. => hs.execQueueDataArrival | .syncArrival .. | .syncErrorArrival .. => hs.syncEvent
  | .ringSlotAcquire .. => hs.execRingSlotAcquire | .trackerRelease .. => hs.execTrackerRelease
  | .matrixPassStart .. => hs.execMatrixPassStart | .matrixPassRetire .. => hs.execMatrixPassRetire
  | .tileWindowClose .. => hs.execTileWindowClose | .tstatUpdate .. => hs.execTstatUpdate | .weightLoadStart .. => hs.execWeightLoadStart
  | .weightLoadLand .. => hs.execWeightLoadLand | .drainLand .. => hs.execDrainLand | .deferredTrap .. => hs.execDeferredTrap
  | .gatherSectorLand .. => hs.execGatherSectorLand | .gatherTransferComplete .. => hs.execGatherTransferComplete
  | .marverEntryStart .. => hs.execMarverEntryStart | .marverEntryLand .. => hs.execMarverEntryLand
  | .xsendDeliver .. => hs.execXsendDeliver | .xstArrival .. => hs.execXstArrival | .xldRequestArrival .. => hs.execXldRequestArrival
  | .xldReplyArrival .. => hs.execXldReplyArrival | .xredMerge .. => hs.execXredMerge | .xredApply .. => hs.execXredApply
  | .countingWave .. => hs.execCountingWave | .packetDrop .. => hs.execPacketDrop | .lossRecordReceive .. => hs.execLossRecordReceive
  | .breakpointStop .. => hs.execBreakpointStop | .ctxctlStopreq .. => hs.execCtxctlStopreq | .contextStop .. => hs.execContextStop
  | .replay .. => hs.execReplay | .next .. => hs.execNext | .replaynb .. => hs.execReplaynb | .redirect .. => hs.execRedirect
  | .trapRecordEnqueue .. => hs.execTrapRecordEnqueue | .svcAnswer .. => hs.execSvcAnswer | .smaskWrite .. => hs.execSmaskWrite
  | .railWrite .. => hs.execRailWrite | .dbgdataRead .. => hs.execDbgdataRead | .dbgdataWrite .. => hs.execDbgdataWrite
  | .dbgfeWrite .. => hs.execDbgfeWrite | .budgetOverrun .. => hs.execBudgetOverrun | .pageWalk .. => hs.execPageWalk
  | .faultRecordEnqueue .. => hs.execFaultRecordEnqueue | .retry .. => hs.execRetry | .fail .. => hs.execFail
  | .tlbiPages .. => hs.execTlbiPages | .tlbiJobSlot .. => hs.execTlbiJobSlot | .tlbiAll .. => hs.execTlbiAll
  | .tlbiComplete .. => hs.execTlbiComplete | .pageMoveGo .. => hs.execPageMoveGo | .pageMoveComplete .. => hs.execPageMoveComplete
  | .preempt .. => hs.execPreempt | .preemptionTake .. => hs.execPreemptionTake | .preload .. => hs.execPreload
  | .qctlWrite .. => hs.execQctlWrite | .cancel .. => hs.execCancel | .queueMakeResident .. => hs.execQueueMakeResident
  | .jobTableWrite .. => hs.execJobTableWrite | .jobSlotUpdate .. => hs.execJobSlotUpdate | .busRetry .. => hs.execBusRetry
  | .busDiagnosisComplete .. => hs.execBusDiagnosisComplete | .reheatReplay .. => hs.execReheatReplay
  | .dieLinkDown .. => hs.execDieLinkDown | .lehrMigrate .. => hs.execLehrMigrate | .lmsgRead .. => hs.execLmsgRead
  | .controlRegisterWrite .. => hs.execControlRegisterWrite | .gafferAccess .. => hs.execGafferAccess
  | .railChangeComplete .. => hs.execRailChangeComplete | .clusterFailure .. => hs.execClusterFailure
  | .teamMoveComplete .. => hs.execTeamMoveComplete | .reservedOpcode _ w _ => hs.execReservedOpcode (w := w)
  | .getVersion => hs.execGetVersion | .getCapabilities => hs.execGetCapabilities | .negotiateAlgorithms => hs.execNegotiateAlgorithms
  | .getDigests => hs.execGetDigests | .getCertificate => hs.execGetCertificate | .challenge => hs.execChallenge
  | .getMeasurements => hs.execGetMeasurements | .keyExchange => hs.execKeyExchange | .finish => hs.execFinish
  | .endSession => hs.execEndSession | .heartbeat => hs.execHeartbeat | .keyUpdate => hs.execKeyUpdate
  | .sessionExpiry => hs.execSessionExpiry | .lockInterfaceRequest => hs.execLockInterfaceRequest
  | .getDeviceInterfaceReport => hs.execGetDeviceInterfaceReport | .getDeviceInterfaceState => hs.execGetDeviceInterfaceState
  | .startInterfaceRequest => hs.execStartInterfaceRequest | .stopInterfaceRequest => hs.execStopInterfaceRequest
  | .fmBind => hs.execFmBind | .hostMemoryWrite => hs.execHostMemoryWrite | .hostMemoryRead => hs.execHostMemoryRead
  | .linkDown => hs.execLinkDown | .completionTimeout => hs.execCompletionTimeout | .hostDeadReport => hs.execHostDeadReport
  | .warmRestart => hs.execWarmRestart | .linkUp => hs.execLinkUp | .rebind => hs.execRebind | .freeze => hs.execFreeze
  | .thaw => hs.execThaw | .partitionDestroy => hs.execPartitionDestroy | .ldctlWrite => hs.execLdctlWrite
  | .patrolScrub => hs.execPatrolScrub | .dieLinkReroute => hs.execDieLinkReroute | .lehrPredict => hs.execLehrPredict
  | .lehrMeasure => hs.execLehrMeasure | .lehrUndoStep => hs.execLehrUndoStep | .fastThrottle => hs.execFastThrottle
  | .fastThrottleEnd => hs.execFastThrottleEnd | .pcapWrite => hs.execPcapWrite | .fprioWrite => hs.execFprioWrite
  | .talarmWrite => hs.execTalarmWrite | .moduleReset => hs.execModuleReset | .recoveryImage => hs.execRecoveryImage
  | .lockedRegisterError => hs.execLockedRegisterError | .waveSumsArrival => hs.execWaveSumsArrival

/-! ## What falls due at a tick -/

theorem tryRun {ev : State → Out} (hs : Tidy o s) (he : OutTidy o (ev s)) : Tidy o (s.tryRun ev) := by
  unfold State.tryRun
  split
  · exact he _ ‹_›
  · exact hs

theorem noteWait (hs : Tidy o s) : Tidy o (s.noteWait h) := by
  unfold State.noteWait
  split
  · exact hs
  · split
    · exact hs
    · exact ite hs.latch hs

theorem dueWait (hs : Tidy o s) : Tidy o (s.dueWait h) := by
  unfold State.dueWait
  split
  · exact hs
  · split
    · exact hs
    · exact ite (hs.tryRun hs.execWaitWake) (ite (hs.tryRun hs.execWaitTimeout) hs)

theorem duePerform (hs : Tidy o s) : Tidy o (s.duePerform h n) := by
  induction n generalizing s with
  | zero => exact hs
  | succ n ih =>
    unfold State.duePerform
    split
    · exact hs
    · exact ih (hs.tryRun hs.execAccessPerform)

theorem dueQueue {q : Nat} (hs : Tidy o s) : Tidy o (s.dueQueue h q n) := by
  induction n generalizing s with
  | zero => exact hs
  | succ n ih =>
    unfold State.dueQueue
    split
    · exact hs
    · extract_lets w s1
      have h1 : Tidy o s1 := tryRun (hs.tryRun hs.execPageWalk) (execPageWalk (hs.tryRun hs.execPageWalk))
      exact ih (h1.tryRun h1.execQueueDataArrival)

theorem dueWrites (hs : Tidy o s) : Tidy o (s.dueWrites h) := by
  unfold State.dueWrites
  extract_lets n s1
  have h1 : Tidy o s1 := hs.duePerform
  exact ite hs (ite (duePerform (h1.foldl fun _ _ h => h.dueQueue)) h1)

theorem landRest {ch id req : Nat} (hs : Tidy o s) : Tidy o (s.landRest c ch id req n) := by
  induction n generalizing s with
  | zero => exact hs
  | succ n ih => exact ite (ih (hs.tryRun hs.execGatherSectorLand)) hs

theorem dueParts (hs : Tidy o s) : Tidy o s.dueParts := hs.foldl fun _ _ h => h.landRest

theorem dueArrivals (hs : Tidy o s) : Tidy o (s.dueArrivals n) := by
  induction n generalizing s with
  | zero => exact hs
  | succ n ih =>
    unfold State.dueArrivals
    split
    · exact hs
    · refine ih (hs.tryRun ?_)
      split
      · exact hs.syncEvent
      · exact hs.syncEvent

theorem dueEvict (hs : Tidy o s) : Tidy o (s.dueEvict cl) := ite (hs.tryRun hs.execEviction) hs
theorem dueCreate (hs : Tidy o s) : Tidy o (s.dueCreate cl) := hs.foldl fun _ _ h => h.tryRun h.execItemCreate

theorem duePlace (hs : Tidy o s) : Tidy o (s.duePlace cl) := by
  unfold State.duePlace
  split
  · exact hs
  · split
    · exact hs
    · exact hs.tryRun hs.execContinuationPlace

theorem dueSlots (hs : Tidy o s) : Tidy o s.dueSlots := hs.foldl fun _ _ h => h.foldl fun _ _ h => ite (h.tryRun h.execJobSlotUpdate) h
theorem dueResident (hs : Tidy o s) : Tidy o s.dueResident := hs.foldl fun _ _ h => ite (h.tryRun h.execQueueMakeResident) h

theorem movePages (hs : Tidy o s) : Tidy o (s.movePages cl) := by
  unfold State.movePages
  extract_lets v
  split
  · exact hs
  · exact ite hs.draw.moveParts.modCl hs.draw

theorem counted (hs : Tidy o s) : Tidy o s.counted := by
  refine hs.mapClusters (g := fun e => (e.1, (if s.clusterRuns e.1 then e.2.ticked else e.2).pass s.draws e.1 s.power.fast)) fun e he => ?_
  have ht : (if s.clusterRuns e.1 then e.2.ticked else e.2).memOk = true := by
    split
    · exact Cluster.memOk_mapCores he
    · exact he
  exact Cluster.memOk_mapCores ht

theorem clustersDue (hs : Tidy o s) : Tidy o s.clustersDue := hs.foldl fun _ _ h => h.dueEvict.dueCreate.duePlace.movePages.failDoomed
theorem dueReroute (hs : Tidy o s) : Tidy o s.dueReroute := ite hs.frame hs

theorem dueAll (hs : Tidy o s) : Tidy o s.dueAll := by
  unfold State.dueAll
  extract_lets s1 s2
  have h1 : Tidy o s1 := hs.foldl fun _ _ h => h.dueWait.dueWrites
  have h2 : Tidy o s2 := ite h1 h1.dueParts.dueArrivals
  exact h2.dueSlots.dueResident.faultLeave.clustersDue.retireGone.expireAll.dueReroute

theorem due (hs : Tidy o s) : Tidy o s.due :=
  frame (s := s.dueAll) hs.dueAll (by constructor <;> simp only [State.due])
theorem ticked (hs : Tidy o s) : Tidy o s.ticked := due (counted (hs.foldl fun _ _ h => h.noteWait))

/-! ## A core's turn -/

theorem runIn (hs : Tidy o s) (i : Instr) : Tidy o (s.runIn i) := by
  unfold State.runIn
  split
  · exact hs.exec i _ ‹_›
  · exact hs

theorem runBundle {words : Nat} {b : Bundle} (hs : Tidy o s) : Tidy true (s.runBundle x words b) :=
  (((hs.openBundle.runIn _).runIn _).runIn _).runIn _

theorem issueWords {words : Nat} (hs : Tidy false s) : Tidy false (s.issueWords x words) := by
  unfold State.issueWords
  extract_lets b
  split
  · exact hs.stopBundle
  · exact hs.closeBundle hs.runBundle

theorem issueNext (hs : Tidy false s) : Tidy false (s.issueNext x) := by
  unfold State.issueNext
  extract_lets c
  refine ite hs.stall ?_
  split
  · exact hs.takeTrap
  · exact ite hs.stopBundle hs.modCtx.issueWords

theorem firstOf {is : List Instr} (hs : Tidy o s) (ht : s.firstOf is = some t) : Tidy o t := by
  induction is with
  | nil => cases ht
  | cons i is ih =>
    unfold State.firstOf at ht
    split at ht
    · rename_i he
      cases ht
      exact hs.exec i _ he
    · exact ih ht

theorem retryDone (hs : Tidy o s) : Tidy o (s.retryDone x) := ite hs.completeDone hs.stall

theorem execIssue (hs : Tidy false s) : OutTidy false (execIssue c s) := by
  unfold Machine.execIssue
  split
  · exact .refused
  · extract_lets x
    refine .ite .refused ?_
    split
    · exact .next (hs.firstOf ‹_›)
    · refine .ite (.next hs.retryDone) ?_
      split
      · exact .next hs.stall
      · exact .ite (.next (issueNext hs.frame)) .refused

/-! ## A step -/

theorem hostStores {ld addr : Nat} {b : Byte} (hs : Tidy o s) : Tidy o (s.hostStores ld addr b) := hs.withHost (wf_wrMem _ _ _ _ (hs.wf_host ld))

theorem execEvent {i : Instr} (hs : Tidy o s) : OutTidy o (execEvent i s) := .ite .refused (hs.exec i)

theorem execTurn {v : Turn} (hs : Tidy false s) : OutTidy false (execTurn v s) := by
  cases v with
  | issue c => exact hs.execIssue
  | tick => exact .next hs.ticked
  | event i => exact hs.execEvent
  | request r i => exact execEvent hs.frame
  | hostStore ld addr b => exact .next hs.hostStores
  | strike w k => exact .next hs.strike

theorem drawn {v : Turn} (hs : Tidy false s) : Tidy false (s.drawn v) := by
  unfold State.drawn
  split
  · exact hs.execTurn _ ‹_›
  · exact hs.ticked

theorem step (hs : Tidy false s) : OutTidy false (step s) := by
  unfold Machine.step
  split
  · exact execTurn hs.frame
  · exact .ite (.next hs.bringNext) (.next hs.draw.drawn)

end Sys2Proof.Machine.Tidy
end

section
/-! The invariant's statements. -/

open Sys2Proof Sys2Proof.Machine

/-- Settles O2: a module has no memory contents and no bundle in flight right after reset. -/
theorem resetMeetsInvariant : Obligations.ResetMeetsInvariant := ⟨rfl, rfl⟩

/-- Settles O3, from `Tidy.step`: every operation of the model keeps `Tidy`, and a bundle's end leaves none open. -/
theorem stepKeepsInvariant : Obligations.StepKeepsInvariant :=
  fun s t hs ht => (tidy_false_iff t).1 (((tidy_false_iff s).2 hs).step t ht)

end

section
/-! Slots: every slot instruction answers. -/

open Sys2Proof Sys2Proof.Machine

/-- Settles O4: a slot instruction's meaning is one slot of a bundle (`exec_slot`), and a slot always answers (`runSlot_next`). -/
theorem everySlotInstructionAnswers : Obligations.EverySlotInstructionAnswers := by
  intro i s hi
  obtain ⟨k, c, br, body, hexec⟩ := exec_slot i hi
  obtain ⟨t, ht⟩ := runSlot_next k c br body s
  exact ⟨t, (hexec s).trans ht⟩

end

section
/-! Registers: the three ways a read of a cell can end, and what a write or a fill leaves in each class. -/

namespace Sys2Proof.Machine

/-! ## Reading -/

section Reading

variable {e : Env} {w : Nat} {r : RegRef} {c : RCell w}

theorem rdCell_of_unmarked (hf : c.full = true) (hm : c.mark.cause = 0) : rdCell e r c = .ok c.val := by simp [rdCell, hf, hm]

theorem rdCell_of_empty (hf : c.full = false) : rdCell e r c = .error (if e.te then .trap 0x03 (regDetail r) else .block (.reg r)) := by
  cases h : e.te <;> simp [rdCell, hf, h, trap, block]

theorem rdCell_of_marked (hf : c.full = true) (hm : c.mark.cause ≠ 0) (hl : e.lax = false) :
    rdCell e r c = .error (.trap c.mark.cause c.mark.detail) := by simp [rdCell, hf, hm, hl, trap]

end Reading

theorem rdS_of_ne_zero (e : Env) {n : BitVec 6} (hn : n ≠ 0) : rdS e n = rdCell e (.s n.toNat) (e.pre.regs.sc n.toNat) := if_neg hn

@[simp] theorem rdP_zero (e : Env) : rdP e 0 = true := rfl

/-! ## Writing -/

@[simp] theorem wr_s_zero (r : Regs) (v : Nat) : r.wr (.s 0) v = r := rfl
@[simp] theorem wr_p_zero (r : Regs) (v : Nat) : r.wr (.p 0) v = r := rfl

theorem sc_wr_same (r : Regs) {n : Nat} (hn : n ≠ 0) (v : Nat) : (r.wr (.s n) v).sc n = { val := BitVec.ofNat 64 v } := by
  simp [Regs.wr, sc_setS, hn]
theorem ac_wr_same (r : Regs) (n v : Nat) : (r.wr (.a n) v).ac n = { val := BitVec.ofNat 64 v } := by simp [Regs.wr, ac_setA]
theorem vc_wr_same (r : Regs) (n v : Nat) : (r.wr (.v n) v).vc n = { val := BitVec.ofNat 1024 v } := by simp [Regs.wr, vc_setV]
theorem pv_wr_same (r : Regs) {n : Nat} (hn : n ≠ 0) (v : Nat) : (r.wr (.p n) v).pv n = (v % 2 == 1) := by simp [Regs.wr, pv_setP, hn]

/-! ## Filling -/

/-- The datum of an older producer is discarded (R116). -/
theorem land_of_stale {r : Regs} {k : RegRef} {p : Nat} (h : ¬ r.prodOf k = p) (v : Nat) (m : Mark) : r.land k p v m = r := if_pos (.inr h)

theorem sc_land_same {r : Regs} {n p : Nat} (hn : n ≠ 0) (hp : p ≠ 0) (h : (r.sc n).prod = p) (v : Nat) (m : Mark) :
    (r.land (.s n) p v m).sc n = { val := BitVec.ofNat 64 v, mark := m } := by
  have hlive : ¬ (p = 0 ∨ ¬ r.prodOf (.s n) = p) := by simp [hp, Regs.prodOf, h]
  simp only [Regs.land, if_neg hlive]
  simp [sc_setS, hn]

end Sys2Proof.Machine

open Sys2Proof Sys2Proof.Machine

/-- Settles O13: the reads are the three cases of `rdCell`, class by class; the writes and fills are the laws of `Regs.wr` and `Regs.land`. -/
theorem readingAndWritingRegisters : Obligations.ReadingAndWritingRegisters := by
  refine ⟨fun e => ⟨rdS_zero e, rdP_zero e, ?_, ?_, ?_, ?_,
    fun _ hf hm => rdCell_of_unmarked hf hm, fun _ hf => rdCell_of_empty hf, fun _ hf hm hl => rdCell_of_marked hf hm hl,
    fun _ hf hm => rdCell_of_unmarked hf hm, fun _ hf hm hl => rdCell_of_marked hf hm hl, fun _ hf => rdCell_of_empty hf⟩,
    fun r k v => ⟨?_, fun _ hn => sc_wr_same r hn v, fun n => ac_wr_same r n v, fun n => vc_wr_same r n v, fun _ hn => pv_wr_same r hn v,
      sameRegsBut_wr r k v, fun _ m h => land_of_stale h v m, fun _ _ m hn hp h => sc_land_same hn hp h v m⟩⟩
  · intro n hn hf hm
    rw [rdS_of_ne_zero e hn, rdCell_of_unmarked hf hm]
  · intro n hn hf hte
    rw [rdS_of_ne_zero e hn, rdCell_of_empty hf, hte]; rfl
  · intro n hn hf hte
    rw [rdS_of_ne_zero e hn, rdCell_of_empty hf, hte]; rfl
  · intro n hn hf hm hl
    rw [rdS_of_ne_zero e hn, rdCell_of_marked hf hm hl]
  · rintro (rfl | rfl)
    · exact wr_s_zero r v
    · exact wr_p_zero r v

end

section
/-! Precise stops: an update that no memory and no trap record stands in leaves both alone, so a trap adds its one record and a block
adds nothing. -/

namespace Sys2Proof.Machine

open Sys2Proof.Claim

/-! ## What updates of a core and of a context leave of every cluster -/

section Keep

variable {β : Type} (p : Cluster → β) (s : State)

/-- A part of a cluster that no core stands in: an update of a core leaves it alone. -/
theorem cl_modCore_keep (c : CoreId) (f : Core → Core) (k : Nat) (hp : ∀ c j o, p (Cluster.setCore c j o) = p c := by exact fun _ _ _ => rfl) :
    p ((s.modCore c f).cl k) = p (s.cl k) := by
  rw [cl_modCore]
  split
  · next h => rw [hp, h]
  · rfl

theorem cl_modCtx_keep (x : CtxId) (f : Ctx → Ctx) (k : Nat) (hp : ∀ c j o, p (Cluster.setCore c j o) = p c := by exact fun _ _ _ => rfl) :
    p ((s.modCtx x f).cl k) = p (s.cl k) := cl_modCore_keep p s x.coreId (fun o => o.setCtx x.cx (f (o.ctx x.cx))) k hp

/-- A part of a cluster that an update of clusters leaves alone, in every cluster. -/
theorem cl_modCl_keep (j : Nat) (f : Cluster → Cluster) (k : Nat) (hp : ∀ c, p (f c) = p c := by exact fun _ => rfl) :
    p ((s.modCl j f).cl k) = p (s.cl k) := by
  rw [cl_modCl]
  split
  · next h => rw [hp, h]
  · rfl

/-- A part of a cluster that no core stands in and that stopping a context leaves alone. -/
theorem cl_stop_keep (x : CtxId) (k : Nat) (hp : ∀ c j o, p (Cluster.setCore c j o) = p c := by exact fun _ _ _ => rfl) :
    p ((s.stop x).cl k) = p (s.cl k) := (cl_modCore_keep p _ _ _ k hp).trans (cl_modCtx_keep p s x _ k hp)

/-- Counting a cluster's events leaves all of it but its counters alone. -/
theorem cl_tallyCl_keep (j code n k : Nat) (hp : ∀ (c : Cluster) a b, p { c with evsel := a, evcnt := b } = p c := by exact fun _ _ _ => rfl) :
    p ((s.tallyCl j code n).cl k) = p (s.cl k) := by
  unfold State.tallyCl
  split
  · rfl
  · exact cl_modCl_keep p s j _ k fun c => hp c _ _

end Keep

/-! ## Which updates leave every byte -/

section Bytes

variable {s t u : State}

theorem sameBytes_refl (s : State) : sameBytes s s := ⟨fun _ => rfl, fun _ => rfl, fun _ _ => rfl, fun _ _ => rfl, fun _ _ => rfl⟩

theorem sameBytes_trans (h : sameBytes s t) (h' : sameBytes t u) : sameBytes s u := by
  obtain ⟨hv, hd, hh, hl, hc⟩ := h
  obtain ⟨hv', hd', hh', hl', hc'⟩ := h'
  exact ⟨fun a => (hv' a).trans (hv a), fun a => (hd' a).trans (hd a), fun ld a => (hh' ld a).trans (hh ld a),
    fun c a => (hl' c a).trans (hl c a), fun k a => (hc' k a).trans (hc k a)⟩

theorem sameBytes_modCl (s : State) (k : Nat) (f : Cluster → Cluster) (hcode : ∀ c, (f c).code = c.code := by exact fun _ => rfl)
    (hcores : ∀ c, (f c).cores = c.cores := by exact fun _ => rfl) : sameBytes s (s.modCl k f) := by
  refine ⟨fun _ => rfl, fun _ => rfl, fun _ _ => rfl, fun c a => ?_, fun j a => ?_⟩
  · simp only [State.core, Cluster.core]
    rw [cl_modCl_keep Cluster.cores s k f c.cl hcores]
  · rw [cl_modCl_keep Cluster.code s k f j hcode]

theorem sameBytes_modCore (s : State) (c : CoreId) (f : Core → Core) (hf : ∀ o, (f o).lmem = o.lmem := by exact fun _ => rfl) :
    sameBytes s (s.modCore c f) := by
  refine ⟨fun _ => rfl, fun _ => rfl, fun _ _ => rfl, fun i a => ?_, fun k a => ?_⟩
  · rw [core_modCore]
    split
    · next h => rw [hf, h]
    · rfl
  · rw [cl_modCore_keep Cluster.code s c f k]

theorem sameBytes_modCtx (s : State) (x : CtxId) (f : Ctx → Ctx) : sameBytes s (s.modCtx x f) :=
  sameBytes_modCore s x.coreId fun o => o.setCtx x.cx (f (o.ctx x.cx))

theorem sameBytes_tallyCl (s : State) (k code n : Nat) : sameBytes s (s.tallyCl k code n) := by
  unfold State.tallyCl
  split
  · exact sameBytes_refl s
  · exact sameBytes_modCl s k _

theorem sameBytes_stop (s : State) (x : CtxId) : sameBytes s (s.stop x) := sameBytes_trans (sameBytes_modCtx s x _) (sameBytes_modCore _ _ _)

theorem sameBytes_stall (s : State) (x : CtxId) (w : Blk) : sameBytes s (s.stall x w) := sameBytes_modCtx s x _

theorem sameBytes_addRecord (s : State) (k : Nat) (r : TrapRec) : sameBytes s (s.addRecord k r) := sameBytes_modCl s k _

end Bytes

/-! ## The waiting records -/

@[simp] theorem trapSeq_addRecord (s : State) (k : Nat) (r : TrapRec) : ((s.addRecord k r).cl k).trapSeq = ((s.cl k).trapSeq + 1) % 65536 := by
  simp [State.addRecord]
@[simp] theorem trapWait_addRecord (s : State) (k : Nat) (r : TrapRec) :
    ((s.addRecord k r).cl k).trapWait = (s.cl k).trapWait ++ [{ r with seq := (s.cl k).trapSeq }] := by simp [State.addRecord]

/-- A context that stops gives up its core's issue (R288). -/
theorem run_stop (s : State) (x : CtxId) : ((s.stop x).core x.coreId).run ≠ some x.cx := by
  simp only [State.stop, core_modCore, if_true]
  split <;> simp_all

/-! ## Taking a trap -/

section TakeTrap

variable (s : State) (x : CtxId) (cause slot baddr detail : Nat) (flag rb delay : Bool)

/-- Counting a fault of cause 0x07, which comes before the record is sent, leaves all of a cluster but its counters. -/
theorem cl_missCounted {β : Type} (p : Cluster → β) (cl k : Nat)
    (hp : ∀ (c : Cluster) a b, p { c with evsel := a, evcnt := b } = p c := by exact fun _ _ _ => rfl) :
    p ((if cause = 0x07 then s.tallyCl cl 0x10B 1 else s).cl k) = p (s.cl k) := by
  split
  · exact cl_tallyCl_keep p s cl _ _ k hp
  · rfl

theorem bun_takeTrap : (s.takeTrap x cause slot baddr detail flag rb delay).bun = s.bun := by
  show (if cause = 0x07 then s.tallyCl x.cl 0x10B 1 else s).bun = s.bun
  unfold State.tallyCl
  split
  · split <;> rfl
  · rfl

theorem run_takeTrap : ((s.takeTrap x cause slot baddr detail flag rb delay).core x.coreId).run ≠ some x.cx := run_stop _ x

theorem sameBytes_takeTrap : sameBytes s (s.takeTrap x cause slot baddr detail flag rb delay) := by
  refine sameBytes_trans ?_ (sameBytes_trans (sameBytes_addRecord _ x.cl _) (sameBytes_stop _ x))
  split
  · exact sameBytes_tallyCl s _ _ _
  · exact sameBytes_refl s

theorem trapSeq_takeTrap : ((s.takeTrap x cause slot baddr detail flag rb delay).cl x.cl).trapSeq = ((s.cl x.cl).trapSeq + 1) % 65536 := by
  unfold State.takeTrap
  rw [cl_stop_keep Cluster.trapSeq, trapSeq_addRecord, cl_missCounted s cause Cluster.trapSeq]

/-- One record joins the cluster's waiting records, under the next SEQ (R297 to R299). -/
theorem trapWait_takeTrap : ((s.takeTrap x cause slot baddr detail flag rb delay).cl x.cl).trapWait =
    (s.cl x.cl).trapWait ++ [{ recordOf x (s.ctx x) 0 cause slot baddr detail flag rb delay with seq := (s.cl x.cl).trapSeq }] := by
  unfold State.takeTrap
  rw [cl_stop_keep Cluster.trapWait, trapWait_addRecord, cl_missCounted s cause Cluster.trapWait, cl_missCounted s cause Cluster.trapSeq]

end TakeTrap

/-! ## The end of a bundle that stops -/

theorem ctx_stall (s : State) (x y : CtxId) (w : Blk) : (s.stall x w).ctx y =
    if y = x then { s.ctx x with pr := { (s.ctx x).pr with st := .stalled, blk := some w, parkTick := s.tick } } else s.ctx y := ctx_modCtx s x y _

/-- A bundle that stops ends from the state before it: what its slots have made is dropped (R9, R139). -/
theorem closeBundle_of_stop {s0 s1 : State} {b : Bun} {k : Nat} {st : Stop} (hb : s1.bun = some b) (hh : b.pre.fl.holdsAll = false)
    (hp : pickStop b.outs = some (k, st)) : closeBundle s0 s1 = s0.stopBundle b k st := by
  simp [closeBundle, hb, hh, hp]

theorem stopBundle_block (s : State) (b : Bun) (k : Nat) (w : Blk) : s.stopBundle b k (.block w) = s.stall b.x w := rfl

theorem stopBundle_trap {b : Bun} (s : State) (k cause d : Nat) (hr : b.pre.region = none) :
    s.stopBundle b k (.trap cause d) = s.takeTrap b.x cause k b.baddr (trapDetail b k cause d) false false b.pre.delayed := by
  simp [State.stopBundle, hr]

end Sys2Proof.Machine

open Sys2Proof Sys2Proof.Machine

/-- Settles O11: such a bundle's end is `takeTrap` on the state before it, or `stall` on it, whatever its slots have written. -/
theorem trapsAndBlocksArePrecise : Obligations.TrapsAndBlocksArePrecise := by
  constructor
  · intro s0 s1 b k cause d t c h0 h1 hh hp hr
    have ht : t = s0.takeTrap b.x cause k b.baddr (trapDetail b k cause d) false false b.pre.delayed :=
      (closeBundle_of_stop h1 hh hp).trans (stopBundle_trap s0 k cause d hr)
    rw [ht]
    exact ⟨(bun_takeTrap ..).trans h0, (ctx_takeTrap ..).trans (if_pos rfl), fun y hy => (ctx_takeTrap ..).trans (if_neg hy),
      sameBytes_takeTrap .., run_takeTrap _ _ _ _ _ _ _ _ _, trapSeq_takeTrap .., trapWait_takeTrap ..⟩
  · intro s0 s1 b k w t c h0 h1 hh hp
    have ht : t = s0.stall b.x w := closeBundle_of_stop h1 hh hp
    rw [ht]
    exact ⟨h0, (ctx_stall ..).trans (if_pos rfl), fun y hy => (ctx_stall ..).trans (if_neg hy), sameBytes_stall ..,
      fun i => cl_modCtx_keep Cluster.trapWait s0 b.x _ i⟩

end

section
/-! Slots that do nothing: whatever its meaning, a slot whose condition is false leaves its bundle as it is, and so does a C-slot form whose
predicate is false once the check that it makes all the same has passed. -/

namespace Sys2Proof.Machine

/-! ## Slots held back -/

/-- An instruction with a condition is one slot that runs under it (R40, R118, R127). -/
theorem exec_slot_cond {i : Instr} {c : Cond} (h : condOf i = some c) : ∃ k br body, ∀ s, exec i s = runSlot k c br body s := by
  cases i <;> simp only [condOf, Option.some.injEq, reduceCtorEq] at h <;> exact h ▸ ⟨_, _, _, fun _ => rfl⟩

variable {p : BitVec 3} {s : State} {b : Bun} {body : Env → State → Rd State}

theorem condRuns_cCond (p : BitVec 3) (c : Ctx) : condRuns (cCond p) c = c.regs.pv p.toNat := by simp [condRuns, cCond, loopRuns]

theorem cSlot_held (hb : s.bun = some b) (hp : b.pre.regs.pv p.toNat = false) : cSlot p body s = .next s :=
  runSlot_held hb ((condRuns_cCond p b.pre).trans hp)

/-- The check of such a form is made whatever its predicate; where it passes and the predicate is false, nothing happens (R118, R131). -/
theorem dSlot_held {br : Bool} {chk : Env → Bool} (hb : s.bun = some b) (hp : b.pre.regs.pv p.toNat = false)
    (hc : chk (b.cenv 0) = true) : dSlot p br chk body s = .next s := by
  refine runSlot_ok (b := b) ⟨hb, condRuns_cCond 0 b.pre⟩ ?_
  rw [show chk (b.env (cCond 0)) = true from hc]
  simp only [need, hp, if_true, Bool.false_eq_true, if_false, env_pre]
  rfl

end Sys2Proof.Machine

open Sys2Proof Sys2Proof.Machine Sys2Proof.Claim

/-- Settles O9: a held slot runs nothing; of the C-slot's forms each is a slot under its predicate, or one whose check passes here. -/
theorem slotsAndLoneInstructions : Obligations.SlotsAndLoneInstructions := by
  refine ⟨fun i c s b hc hb hr => ?_, fun p sd sa sb aa mask n k disp s b hb hp => ⟨fun i hi => ?_, fun hd i hi => ?_⟩, fun i s hi hb => ?_⟩
  · obtain ⟨slot, br, body, h⟩ := exec_slot_cond hc
    rw [h, runSlot_held hb hr]
  · simp only [predicated, List.mem_append, List.mem_cons, List.not_mem_nil, or_false] at hi
    rcases hi with (hi | hi) | hi
    · rcases hi with rfl | rfl | rfl | rfl | rfl | rfl | rfl | rfl | rfl | rfl | rfl | rfl | rfl | rfl <;> exact cSlot_held hb hp
    · split at hi
      · next hk =>
        obtain rfl := List.mem_singleton.mp hi
        exact dSlot_held hb hp (by simpa [cregKnown] using hk)
      · exact absurd hi List.not_mem_nil
    · split at hi
      · next hk =>
        obtain rfl := List.mem_singleton.mp hi
        exact dSlot_held hb hp (by simpa [cregKnown] using hk)
      · exact absurd hi List.not_mem_nil
  · have hchk : (b.pre.dslot == 0) = true := by simpa using hd
    simp only [branchClass, List.mem_cons, List.not_mem_nil, or_false] at hi
    rcases hi with rfl | rfl | rfl | rfl | rfl | rfl | rfl | rfl <;> exact dSlot_held hb hp hchk
  · obtain ⟨k, c, br, body, h⟩ := exec_slot i hi
    exact ⟨br, (s.openAlone br).slot k c body, h _, (h s).trans (runSlot_alone hb)⟩

end

section
/-! Two statements that states outside the machine's reach refute: a channel with more than eight lanes swapped, and a table of clusters out
of order. -/

namespace Sys2Proof.Machine

/-- A channel under diagnosis with nine lanes swapped, one more than it has spare lanes (R366). -/
def overSwapped : State :=
  { State.reset with tick := 200, chans := [(0, { swaps := (List.range 9).map fun i => (i, i), diag := some 0 })] }

/-- With no lane to swap the diagnosis passes, however many are swapped already. -/
theorem overSwapped_stays : ∃ t, exec (.busDiagnosisComplete 0 0 [] true) overSwapped = .next t ∧ (t.chan 0).retired = false :=
  ⟨_, rfl, rfl⟩

/-- A team of launch 0 and key 0 with the free records `free`. -/
def teamWith (free : List Nat) : Team :=
  { launch := 0, key := 0, live := 0, phase := 0, arrivals := 0, cap := 1, vbase := 0, jslot := 0, nextItem := 0, items := 0, free := free
    pending := [], sched := false, moving := none, bound := 0, moved := none }

/-- Cluster 5, with a full team, listed before cluster 3, with one of the same key that has a record free; the current context is in
cluster 3. -/
def unsortedTeams : State :=
  { State.reset with clusters := [(5, { teams := [(0, some (teamWith []))] }), (3, { teams := [(0, some (teamWith [0]))] })], cur := ⟨3, 0, 0⟩ }

/-- SPAWN notes its wait at its own context first, which puts cluster 3 in front; the team found then is the one with a record free, and the
new record's DEADLINE stands at its offset 24 (R26). -/
theorem unsortedTeams_spawns : ∃ t, exec (.spawn 0 0 0 0 0) unsortedTeams = .next t ∧ rdByte t.vault (0 + recDEADLINE) = 0xFF :=
  ⟨_, rfl, by decide +kernel⟩

end Sys2Proof.Machine

open Sys2Proof Sys2Proof.Machine Sys2Proof.Claim

/-- Refutes O58: where nine lanes of a channel are swapped already, a diagnosis that finds no lane failing and passes does not retire the
channel, though 8 is less than their number. -/
theorem not_reliabilityEvents : ¬ Obligations.ReliabilityEvents := by
  intro h
  obtain ⟨-, hdiag, -⟩ := h overSwapped
  obtain ⟨t, ht, -, -, hret⟩ := hdiag 0 0 [] true 0 rfl (by simp) List.nodup_nil (by decide)
  obtain ⟨u, hu, hkept⟩ := overSwapped_stays
  obtain rfl : t = u := Host.Outcome.next.inj (ht.symm.trans hu)
  exact Bool.false_ne_true (hkept.symm.trans (hret (.inr (by decide))))

/-- Refutes O46: in a state whose table of clusters is out of order the first team of a key changes with the first write to the spawner's
context, so a SPAWN whose team has no record free makes a continuation in another one. -/
theorem not_doneAndSpawn : ¬ Obligations.DoneAndSpawn := by
  intro h
  obtain ⟨-, -, hfull, -⟩ := h 0 0 0 0 0 unsortedTeams 0 0 0 0 0 0 0 ⟨rfl, rfl, rfl, rfl, rfl, rfl, rfl⟩ rfl rfl rfl rfl rfl rfl rfl rfl rfl
  obtain ⟨t, ht, -, ⟨hvault, -⟩, -⟩ := hfull 5 0 (teamWith []) rfl rfl rfl
  obtain ⟨u, hu, hnew⟩ := unsortedTeams_spawns
  obtain rfl : t = u := Host.Outcome.next.inj (ht.symm.trans hu)
  exact absurd (hnew.symm.trans (hvault _)) (by decide)

end

section
/-! Running a C-slot meaning, slices of a little-endian read, and BSEL's choice among the entries of its table. -/

namespace Sys2Proof.Machine

open Sys2Proof.Claim

/-! ## Running a slot's meaning -/

@[simp] theorem ok_bind {α β : Type} (a : α) (f : α → Rd β) : (Except.ok a >>= f : Rd β) = f a := rfl
@[simp] theorem need_true (st : Stop) : need true st = .ok () := rfl

/-- A form with a check of its own, once the check passes and the predicate is true: its meaning's effect. -/
theorem dSlot_ok {p : BitVec 3} {s t : State} {b : Bun} {br : Bool} {chk : Env → Bool} {body : Env → State → Rd State} (hb : s.bun = some b)
    (hp : b.pre.regs.pv p.toNat = true) (hc : chk (b.cenv p) = true) (he : body (b.cenv p) s = .ok t) : dSlot p br chk body s = .next t := by
  refine runSlot_ok (b := b) ⟨hb, condRuns_cCond 0 b.pre⟩ ?_
  rw [show chk (b.env (cCond 0)) = true from hc, show (b.env (cCond 0)).pre.regs.pv p.toNat = true from hp]
  exact he

theorem noRegion_ok {e : Env} (h : e.pre.region = none) : noRegion e = .ok () := by simp [noRegion, Env.inRegion, h]

theorem bundleAddr_ok {a : Nat} (h : a % 16 = 0) : bundleAddr a = .ok a := if_pos h

/-! ## Slices of a read -/

theorem rdMem_lt (m : Memory) (a n : Nat) : rdMem m a n < 256 ^ n := by
  induction n generalizing a with
  | zero => exact Nat.one_pos
  | succ n ih =>
    have hb := (rdByte m a).isLt
    have hn := ih (a + 1)
    rw [rdMem, Nat.pow_succ]
    omega

theorem rdMem_add (m : Memory) (a j k : Nat) : rdMem m a (j + k) = rdMem m a j + 256 ^ j * rdMem m (a + j) k := by
  induction j generalizing a with
  | zero => simp [rdMem]
  | succ j ih =>
    rw [show j + 1 + k = (j + k) + 1 by omega, rdMem, rdMem, ih, show a + 1 + j = a + (j + 1) by omega, Nat.pow_succ]
    ring

/-- Bytes `k` to `k + j - 1` of a read are the read of those bytes. -/
theorem rdMem_slice (m : Memory) (a : Nat) {n k j : Nat} (h : k + j ≤ n) : rdMem m a n / 256 ^ k % 256 ^ j = rdMem m (a + k) j := by
  obtain ⟨r, rfl⟩ := Nat.exists_eq_add_of_le h
  rw [Nat.add_assoc, rdMem_add, Nat.add_mul_div_left _ _ (by positivity), Nat.div_eq_of_lt (rdMem_lt m a k), Nat.zero_add, rdMem_add,
    Nat.add_mul_mod_self_left, Nat.mod_eq_of_lt (rdMem_lt ..)]

/-- The same with the place and the width in bits. -/
theorem rdVault_bits (s : State) (off : Nat) {n lo w : Nat} (k j : Nat) (hlo : lo = 8 * k) (hw : w = 8 * j) (h : k + j ≤ n) :
    s.rdVault off n / 2 ^ lo % 2 ^ w = s.rdVault (off + k) j := by
  have h := rdMem_slice s.vault off h
  rwa [show (256 : Nat) = 2 ^ 8 from rfl, ← Nat.pow_mul, ← Nat.pow_mul, ← hlo, ← hw] at h

/-! ## Searching a table, and the largest of its bounds -/

/-- Bound `i` of the entries in the bits of a table. -/
def boundOf (tbl i : Nat) : Nat := tbl / 2 ^ (128 * (i + 1)) % 2 ^ 32

theorem bselFind_eq_some {tbl d i : Nat} : ∀ {n j : Nat}, j ≤ i → i < j + n → d ≤ boundOf tbl i →
    (∀ k, j ≤ k → k < i → boundOf tbl k < d) →
    bselFind tbl d n j = some i
  | 0, j, hj, hi, _, _ => absurd hi (by omega)
  | n + 1, j, hj, hi, hd, hb => by
    rcases Nat.eq_or_lt_of_le hj with rfl | hlt
    · exact if_pos hd
    · exact (if_neg (Nat.not_le.mpr (hb j le_rfl hlt))).trans
        (bselFind_eq_some hlt (by omega) hd fun k hk => hb k (by omega))

theorem bselFind_eq_none {tbl d : Nat} : ∀ {n j : Nat}, (∀ k, j ≤ k → k < j + n → boundOf tbl k < d) → bselFind tbl d n j = none
  | 0, _, _ => rfl
  | n + 1, j, hb => (if_neg (Nat.not_le.mpr (hb j le_rfl (by omega)))).trans (bselFind_eq_none fun k hk hk' => hb k (by omega) (by omega))

theorem foldl_max_le {f : Nat → Nat} {m : Nat} : ∀ {n : Nat}, (∀ i, i < n → f i ≤ m) →
    (List.range n).foldl (fun acc i => Nat.max acc (f i)) 0 ≤ m
  | 0, _ => Nat.zero_le m
  | n + 1, h => by
    rw [List.range_succ, List.foldl_append]
    exact Nat.max_le.mpr ⟨foldl_max_le fun i hi => h i (by omega), h n (by omega)⟩

theorem le_foldl_max {f : Nat → Nat} : ∀ {n k : Nat}, k < n → f k ≤ (List.range n).foldl (fun acc i => Nat.max acc (f i)) 0
  | n + 1, k, h => by
    rw [List.range_succ, List.foldl_append]
    rcases Nat.lt_succ_iff_lt_or_eq.mp h with h | rfl
    · exact (le_foldl_max h).trans (Nat.le_max_left ..)
    · exact Nat.le_max_right ..

theorem foldl_max_eq {f : Nat → Nat} {n k : Nat} (hk : k < n) (h : ∀ i, i < n → f i ≤ f k) :
    (List.range n).foldl (fun acc i => Nat.max acc (f i)) 0 = f k := Nat.le_antisymm (foldl_max_le h) (le_foldl_max hk)

/-! ## Reading a bucket table -/

theorem rdTable_ok {s : State} {e : Env} {ea n off : Nat} (hc : s.vaultCheck e.x ea n = some off) (hq : e.pre.fl.acq = [])
    (hw : ownWritten s e.pre off n = true) (hb : s.vaultBad off n = false) : rdTable s e ea n = .ok (s.rdVault off n) := by
  simp [rdTable, hc, hq, hw, hb]

/-- A table in the vault at `off` as BSEL accepts it: `n` entries, their number alone in the first 8 bytes, and the reserved halves clear. -/
structure BucketTable (s : State) (b : Bun) (t off n : Nat) : Prop where
  aligned : t % 16 = 0
  head : s.vaultCheck b.x t 16 = some off
  whole : s.vaultCheck b.x t (16 + 16 * n) = some off
  headOwn : ownWritten s b.pre off 16 = true
  wholeOwn : ownWritten s b.pre off (16 + 16 * n) = true
  headGood : s.vaultBad off 16 = false
  wholeGood : s.vaultBad off (16 + 16 * n) = false
  pos : 1 ≤ n
  le : n ≤ 64
  count : s.rdVault off 8 = n
  clear : ∀ i, i < n → s.rdVault (off + 16 * (i + 1) + 4) 4 = 0

namespace BucketTable

variable {s : State} {b : Bun} {t off n : Nat}

/-- The table's bits as BSEL reads them. -/
abbrev bits (s : State) (off n : Nat) : Nat := s.rdVault off (16 + 16 * n)

theorem boundOf_eq (s : State) (off : Nat) {n i : Nat} (h : i < n) : boundOf (bits s off n) i = s.rdVault (off + 16 * (i + 1)) 4 :=
  rdVault_bits s off (16 * (i + 1)) 4 (by omega) rfl (by omega)

theorem target_eq (s : State) (off : Nat) {n i : Nat} (h : i < n) :
    bits s off n / 2 ^ (128 * (i + 1) + 64) % 2 ^ 64 = s.rdVault (off + 16 * (i + 1) + 8) 8 :=
  rdVault_bits s off (16 * (i + 1) + 8) 8 (by omega) rfl (by omega)

theorem headBits (s : State) (off : Nat) : s.rdVault off 16 % 2 ^ 64 = s.rdVault off 8 := by
  simpa using rdVault_bits s off (n := 16) 0 8 rfl rfl (by omega)

theorem overflow_eq (s : State) (off : Nat) : s.rdVault off 16 / 2 ^ 64 = s.rdVault (off + 8) 8 := by
  have hlt : s.rdVault off 16 < 2 ^ 128 := rdMem_lt s.vault off 16
  rw [← rdVault_bits s off (n := 16) (lo := 64) (w := 64) 8 8 rfl rfl (by omega)]
  omega

theorem count_eq (T : BucketTable s b t off n) : s.rdVault off 16 % 2 ^ 7 = n := by
  have h := (headBits s off).trans T.count
  have := T.le
  omega

theorem count_ok (T : BucketTable s b t off n) :
    (n != 0 && decide (n ≤ 64) && s.rdVault off 16 / 2 ^ 7 % 2 ^ 57 == 0) = true := by
  have h := (headBits s off).trans T.count
  have := T.pos
  have := T.le
  simp only [Bool.and_eq_true, bne_iff_ne, ne_eq, decide_eq_true_eq, beq_iff_eq]
  omega

theorem clear_ok (T : BucketTable s b t off n) :
    ((List.range n).all fun i => bits s off n / 2 ^ (128 * (i + 1) + 32) % 2 ^ 32 == 0) = true := by
  simp only [List.all_eq_true, List.mem_range, beq_iff_eq]
  exact fun i hi => (rdVault_bits s off (16 * (i + 1) + 4) 4 (by omega) rfl (by omega)).trans (T.clear i hi)

end BucketTable

/-- What BSEL does once it has read its table: the branch to the chosen bucket, or to the overflow target. -/
def bselTake (sd : BitVec 6) (d h tbl n : Nat) (e : Env) (s : State) : Rd State :=
  match bselFind tbl d n 0 with
  | some i => do
    let b := tbl / 2 ^ (128 * (i + 1)) % 2 ^ 32
    let tgt ← bundleAddr (tbl / 2 ^ (128 * (i + 1) + 64) % 2 ^ 64)
    let s := s.modCt e.x fun c => { c with padv := d % 2 ^ 32, padb := b }
    .ok ((s.wrReg e.x (.s sd.toNat) (b - d)).branch e.x tgt)
  | none => do
    let big := (List.range n).foldl (fun acc i => Nat.max acc (tbl / 2 ^ (128 * (i + 1)) % 2 ^ 32)) 0
    let tgt ← bundleAddr (h / 2 ^ 64)
    .ok ((s.wrReg e.x (.s sd.toNat) (d - big)).branch e.x tgt)

/-- BSEL with its table in order is its choice (R153). -/
theorem execBsel_ok {p : BitVec 3} {sd sa : BitVec 6} {aT : BitVec 4} {s u : State} {b : Bun} {d t : Word} {off n : Nat} (hb : s.bun = some b)
    (hs : b.pre.dslot = 0) (hp : b.pre.regs.pv p.toNat = true) (hr : b.pre.region = none) (hq : b.pre.fl.acq = [])
    (hd : rdS (b.cenv p) sa = .ok d) (ht : rdA (b.cenv p) aT = .ok t) (T : BucketTable s b t.toNat off n)
    (he : bselTake sd d.toNat (s.rdVault off 16) (BucketTable.bits s off n) n (b.cenv p) s = .ok u) : execBsel p sd sa aT s = .next u := by
  refine dSlot_ok hb hp (beq_iff_eq.mpr hs) ?_
  have hhead : rdTable s (b.cenv p) t.toNat 16 = .ok (s.rdVault off 16) := rdTable_ok T.head hq T.headOwn T.headGood
  have hwhole : rdTable s (b.cenv p) t.toNat (16 + 16 * n) = .ok (BucketTable.bits s off n) := rdTable_ok T.whole hq T.wholeOwn T.wholeGood
  rw [noRegion_ok hr, ok_bind, hd, ok_bind, ht, ok_bind, T.aligned, beq_self_eq_true, need_true, ok_bind, hhead, ok_bind]
  dsimp only
  rw [T.count_eq, T.count_ok, need_true, ok_bind, hwhole, ok_bind, T.clear_ok, need_true, ok_bind]
  exact he

theorem ctx_branch (s : State) (x y : CtxId) (t : Nat) :
    (s.branch x t).ctx y = if y = x then { s.ctx x with target := some t, delay := 2 } else s.ctx y :=
  ctx_modCtx s x y fun c => { c with target := some t, delay := 2 }

theorem sameBytes_branch (s : State) (x : CtxId) (t : Nat) : sameBytes s (s.branch x t) :=
  sameBytes_modCtx s x fun c => { c with target := some t, delay := 2 }

theorem sameBytes_wrReg (s : State) (x : CtxId) (k : RegRef) (v : Nat) : sameBytes s (s.wrReg x k v) := sameBytes_modCtx s x _
theorem sameBytes_modCt (s : State) (x : CtxId) (f : Cont → Cont) : sameBytes s (s.modCt x f) := sameBytes_modCtx s x _

@[simp] theorem ctx_wrReg (s : State) (x y : CtxId) (k : RegRef) (v : Nat) :
    (s.wrReg x k v).ctx y = if y = x then (s.ctx x).wr k v else s.ctx y := ctx_modCtx s x y _
@[simp] theorem ctx_modCt (s : State) (x y : CtxId) (f : Cont → Cont) :
    (s.modCt x f).ctx y = if y = x then { s.ctx x with ct := f (s.ctx x).ct } else s.ctx y := ctx_modCtx s x y _

end Sys2Proof.Machine

open Sys2Proof Sys2Proof.Machine Sys2Proof.Claim

/-- Settles O42: the entry that `bselFind` answers is the first whose bound is at least the count; without one the largest bound counts. -/
theorem bucketSelect : Obligations.BucketSelect := by
  intro p sd sa aT s b d t off n hb hs hp hr hq ho ho' hd ht ha hc hc' hg hg' hn hn' hcnt hz bound go
  have T : BucketTable s b t.toNat off n := ⟨ha, hc, hc', ho, ho', hg, hg', hn, hn', hcnt, hz⟩
  refine ⟨fun i hi hle hlt hal => ?_, fun k hk hlt hmax hal => ?_⟩
  · have hfind : bselFind (BucketTable.bits s off n) d.toNat n 0 = some i :=
      bselFind_eq_some (Nat.zero_le i) (by omega) (hle.trans_eq (BucketTable.boundOf_eq s off hi).symm)
        fun j _ hj => (BucketTable.boundOf_eq s off (hj.trans hi)).trans_lt (hlt j hj)
    have htake : bselTake sd d.toNat (s.rdVault off 16) (BucketTable.bits s off n) n (b.cenv p) s =
        .ok (((s.modCt b.x fun c => { c with padv := d.toNat % 2 ^ 32, padb := bound i }).wrReg b.x (.s sd.toNat) (bound i - d.toNat)).branch b.x
          (s.rdVault (off + 16 * (i + 1) + 8) 8)) := by
      have hbound := BucketTable.boundOf_eq s off hi
      rw [boundOf] at hbound
      rw [bselTake, hfind]
      dsimp only
      rw [BucketTable.target_eq s off hi, hbound, bundleAddr_ok hal]
      rfl
    refine ⟨_, execBsel_ok hb hs hp hr hq hd ht T htake, ?_, ?_, ?_⟩
    · simp [ctx_branch, Ctx.wr]
    · exact congrArg (Option.map fun b => { b with taken := true }) hb
    · exact sameBytes_trans (sameBytes_trans (sameBytes_modCt s b.x _) (sameBytes_wrReg _ b.x _ _)) (sameBytes_branch _ b.x _)
  · have hbound : ∀ j, j < n → boundOf (BucketTable.bits s off n) j = bound j := fun j hj => BucketTable.boundOf_eq s off hj
    have hfind : bselFind (BucketTable.bits s off n) d.toNat n 0 = none :=
      bselFind_eq_none fun j _ hj => (hbound j (by omega)).trans_lt (hlt j (by omega))
    have hbig : (List.range n).foldl (fun acc i => Nat.max acc (boundOf (BucketTable.bits s off n) i)) 0 = bound k :=
      (foldl_max_eq hk fun i hi => (hbound i hi).trans_le ((hmax i hi).trans_eq (hbound k hk).symm)).trans (hbound k hk)
    have htake : bselTake sd d.toNat (s.rdVault off 16) (BucketTable.bits s off n) n (b.cenv p) s =
        .ok ((s.wrReg b.x (.s sd.toNat) (d.toNat - bound k)).branch b.x (s.rdVault (off + 8) 8)) := by
      simp only [boundOf] at hbig
      rw [bselTake, hfind]
      dsimp only
      rw [BucketTable.overflow_eq, hbig, bundleAddr_ok hal]
      rfl
    refine ⟨_, execBsel_ok hb hs hp hr hq hd ht T htake, ?_, ?_, ?_⟩
    · simp [ctx_branch, Ctx.wr]
    · exact congrArg (Option.map fun b => { b with taken := true }) hb
    · exact sameBytes_trans (sameBytes_wrReg s b.x _ _) (sameBytes_branch _ b.x _)

end

section
/-! A C-slot instruction alone in its bundle: the bundle that meets no stop ends by what its slots have left for its end, and its context
passes to the next bundle. -/

namespace Sys2Proof.Machine

open Sys2Proof.Claim

/-! ## Counting, and passing to the next bundle -/

theorem sameBytes_tally (s : State) (x : CtxId) (code n : Nat) : sameBytes s (s.tally x code n) := by
  unfold State.tally
  split
  · exact sameBytes_refl s
  · exact sameBytes_modCore s x.coreId _

@[simp] theorem bun_tally (s : State) (x : CtxId) (code n : Nat) : (s.tally x code n).bun = s.bun := by
  unfold State.tally
  split <;> rfl

@[simp] theorem run_tally (s : State) (x : CtxId) (code n : Nat) (o : CoreId) : ((s.tally x code n).core o).run = (s.core o).run := by
  unfold State.tally
  split
  · rfl
  · rw [core_modCore]
    split
    · next h => rw [h]
    · rfl

theorem ctx_issued (s : State) (b : Bun) (y : CtxId) : (s.issued b).ctx y = if y = b.x then (s.ctx b.x).advance b else s.ctx y := by
  have hcore : ∀ (t : State) (c : CoreId) k, (t.modCore c fun o => { o with issuer := k }).ctx y = t.ctx y := by
    intro t c k
    rw [ctx_modCore]
    split
    · next h => rw [← h]; rfl
    · rfl
  simp only [State.issued, ctx_tally, hcore, ctx_modCtx]

@[simp] theorem bun_issued (s : State) (b : Bun) : (s.issued b).bun = s.bun := by simp [State.issued, State.modCore]

theorem sameBytes_issued (s : State) (b : Bun) : sameBytes s (s.issued b) :=
  sameBytes_trans (sameBytes_trans (sameBytes_trans (sameBytes_modCtx s b.x _) (sameBytes_modCore _ _ _)) (sameBytes_tally ..)) (sameBytes_tally ..)

/-- Outside a loop, with no branch taken and none pending, the next bundle in order follows (R149). -/
theorem advance_inOrder {c : Ctx} {b : Bun} (hl : b.pre.loop = none) (ht : b.taken = false) (hb : b.br = false) (hd : c.delay = 0) :
    c.advance b = { c with
      pc := (c.pc + 16) % 2 ^ 64
      dslot := c.dslot - 1
      ct := { c.ct with issued := (c.ct.issued + 1) % 2 ^ 64 }
      pr := { c.pr with qcount := c.pr.qcount + 1, nb := false }
      vres := c.vresAfter b
      qres := none
      region := c.region.map fun g => ({ g with rlen := g.rlen + b2n b.pre.region.isSome } : Region) } := by
  simp [Ctx.advance, hl, ht, hb, Ctx.passBundle, hd]

/-- Inside a loop that goes on, the sequencer names the next bundle (R39). -/
theorem loop_advance {c : Ctx} {b : Bun} {l l' : LoopSt} (hp : b.pre.loop.isSome = true) (hl : c.loop = some l) (hn : l.next = some l') :
    (c.advance b).loop = some l' := by
  obtain ⟨l0, hl0⟩ := Option.isSome_iff_exists.mp hp
  simp [Ctx.advance, hl0, hl, hn, Ctx.setLoop]

/-! ## A bundle that holds one instruction -/

/-- The bundle of a C-slot instruction run alone, with what it has left for its end. -/
def aloneBun (s : State) (br : Bool) (ps : List Post) : Bun :=
  { openedBun s.cur (s.ctx s.cur) ((s.bundleAt s.cur).getD 0) br with posts := ps }

/-- Its context passes to the next bundle. -/
theorem ctx_issued_alone (s u : State) (br : Bool) (ps : List Post) :
    (u.issued (aloneBun s br ps)).ctx s.cur = (u.ctx s.cur).advance (aloneBun s br ps) := (ctx_issued ..).trans (if_pos rfl)

variable {s u : State} {p : BitVec 3} {body : Env → State → Rd State}

theorem slot_ok {k : Slot} {c : Cond} {t : State} {b : Bun} (h : s.issues b c) (he : body (b.env c) s = .ok t) : s.slot k c body = t :=
  Host.Outcome.next.inj ((show runSlot k c false body s = .next (s.slot k c body) by rw [runSlot, h.1]).symm.trans (runSlot_ok h he))

theorem openAlone_issues (s : State) (br : Bool) {c : Cond} (h : condRuns c (s.ctx s.cur) = true) :
    (s.openAlone br).issues (openedBun s.cur (s.ctx s.cur) ((s.bundleAt s.cur).getD 0) br) c := ⟨rfl, h⟩

theorem cSlot_alone (hb : s.bun = none) (hp : (s.ctx s.cur).regs.pv p.toNat = true) (he : body s.env (s.openAlone false) = .ok u) :
    cSlot p body s = .next (closeBundle s u) := by
  rw [cSlot, runSlot_alone hb, slot_ok (openAlone_issues s false ((condRuns_cCond p _).trans hp)) he]

theorem dSlot_alone {br : Bool} {chk : Env → Bool} (hb : s.bun = none) (hp : (s.ctx s.cur).regs.pv p.toNat = true) (hc : chk s.env = true)
    (he : body s.env (s.openAlone br) = .ok u) : dSlot p br chk body s = .next (closeBundle s u) := by
  rw [dSlot, runSlot_alone hb, slot_ok (openAlone_issues s br (condRuns_cCond 0 _)) (t := u)]
  show (do need (chk s.env) (.trap 0x01 0); if (s.ctx s.cur).regs.pv p.toNat then body s.env (s.openAlone br) else .ok (s.openAlone br)) = _
  rw [hc, need_true, ok_bind, if_pos hp, he]

/-- A bundle that meets no stop and waits for nothing ends by what its slots have left: the early effects, the passage, the late effects. -/
theorem closeBundle_alone {br : Bool} {ps : List Post} (hu : u.bun = some (aloneBun s br ps)) (hh : (s.ctx s.cur).fl.holdsAll = false)
    (hc : ps.contains .commit = false) (hq : (aloneBun s br ps).quietWait = none) :
    closeBundle s u = ps.foldl (fun (t : State) q => t.lateEffect (aloneBun s br ps) q)
      ((ps.foldl (fun (t : State) q => t.early (aloneBun s br ps) q) { u with bun := none }).issued (aloneBun s br ps)) := by
  have hcommit : ∀ c, (aloneBun s br ps).waitsToCommit c = none := fun c =>
    if_neg (by rw [show (aloneBun s br ps).posts = ps from rfl, hc]; exact Bool.false_ne_true)
  rw [closeBundle, hu]
  dsimp only
  rw [if_neg (by rw [show (aloneBun s br ps).pre = s.ctx s.cur from rfl, hh]; exact Bool.false_ne_true),
    show pickStop (aloneBun s br ps).outs = none from rfl]
  dsimp only
  rw [show (aloneBun s br ps).late = none from rfl]
  dsimp only
  rw [hcommit, hq]
  rfl

theorem withBun_none (hb : s.bun = none) : ({ s with bun := none } : State) = s := by
  cases s
  cases hb
  rfl

/-- One that has left a single effect for its end and written nothing before it. -/
theorem closeBundle_post {br : Bool} {q : Post} (hb : s.bun = none) (hh : (s.ctx s.cur).fl.holdsAll = false) (hc : q ≠ .commit)
    (hq : (aloneBun s br [q]).quietWait = none) : closeBundle s ((s.openAlone br).post q) =
      ((s.early (aloneBun s br [q]) q).issued (aloneBun s br [q])).lateEffect (aloneBun s br [q]) q := by
  have hcommit : [q].contains Post.commit = false := by simpa [eq_comm] using hc
  refine (closeBundle_alone (br := br) (ps := [q]) rfl hh hcommit hq).trans ?_
  rw [show ({ (s.openAlone br).post q with bun := none } : State) = s from withBun_none hb]
  rfl

/-- One that has written and left nothing for its end. -/
theorem closeBundle_wrote {br : Bool} (hu : u.bun = some (aloneBun s br [])) (hh : (s.ctx s.cur).fl.holdsAll = false) :
    closeBundle s u = ({ u with bun := none } : State).issued (aloneBun s br []) := closeBundle_alone hu hh rfl rfl

/-- A bundle that ends at a plain boundary passes to the next one, whatever it has written elsewhere. -/
theorem wentOn_issued {br : Bool} {ps : List Post} (hs : s.plain) (hbr : br = false) (hu : u.bun = none)
    (hpc : (u.ctx s.cur).pc = (s.ctx s.cur).pc) (hd : (u.ctx s.cur).delay = (s.ctx s.cur).delay)
    (hi : (u.ctx s.cur).ct.issued = (s.ctx s.cur).ct.issued) : WentOn s (u.issued (aloneBun s br ps)) := by
  obtain ⟨-, hloop, -, -, hdelay, -, -⟩ := hs
  have hctx := ctx_issued_alone s u br ps
  rw [advance_inOrder hloop rfl hbr (hd.trans hdelay)] at hctx
  refine ⟨(bun_issued ..).trans hu, ?_, ?_⟩
  · rw [hctx, State.nextPc, ← hpc]
  · rw [hctx, ← hi]

/-! ## What a C-slot form that reads L-mem sees -/

theorem lmemAcc_ok {e : Env} {a n k : Nat} (ha : a % k = 0) (hw : InWindow e.pre.pr a n) : lmemAcc e a n k = .ok () := by
  obtain ⟨hlo, hhi, htop⟩ := hw
  have hok : e.pre.pr.lmemOk a n = true := by simp only [Priv.lmemOk, hlo, hhi, htop, decide_true, Bool.and_self]
  rw [lmemAcc, if_neg (not_not.mpr ha), hok, need_true]

theorem viewLmem_alone (s : State) (br : Bool) (a n : Nat) (h : (s.ctx s.cur).heldSt = []) :
    viewLmem (s.openAlone br) s.env a n = s.rdLmem s.cur.coreId a n := by
  show (if (s.ctx s.cur).heldSt.isEmpty then _ else _) = _
  rw [h]
  rfl

end Sys2Proof.Machine
end

section
/-! Hardware loops: how LOOP starts the sequencer, what LEXIT leaves, and the step at the end of a kernel iteration. -/

namespace Sys2Proof.Machine

open Sys2Proof.Claim

/-! ## The sequencer -/

@[simp] theorem regs_setLoop (c : Ctx) (ret : Nat) (l : Option LoopSt) : (c.setLoop ret l).regs = c.regs := by cases l <;> rfl
@[simp] theorem loop_setLoop (c : Ctx) (ret : Nat) (l : Option LoopSt) : (c.setLoop ret l).loop = l := by cases l <;> rfl
@[simp] theorem pc_setLoop_none (c : Ctx) (ret : Nat) : (c.setLoop ret none).pc = ret := rfl
@[simp] theorem pc_setLoop_some (c : Ctx) (ret : Nat) (l : LoopSt) : (c.setLoop ret (some l)).pc = l.addr % 2 ^ 64 := rfl

theorem start_of_prologue {l : LoopSt} (h : l.plen ≠ 0) : l.start = some { l with phase := .pro, pos := 0 } := if_neg h
theorem start_of_kernel {l : LoopSt} (h : l.plen = 0) (hr : ((l.trips.take l.nlev).all fun t => t != 0) = true) :
    l.start = some { l with phase := .ker, pos := 0 } := (if_pos h).trans (if_pos hr)
theorem start_of_none {l : LoopSt} (h : l.plen = 0) (hr : ((l.trips.take l.nlev).all fun t => t != 0) = false) : l.start = l.enterEpi :=
  (if_pos h).trans (if_neg (ne_true_of_eq_false hr))
theorem enterEpi_some {l : LoopSt} (h : l.elen ≠ 0) : l.enterEpi = some { l with phase := .epi, pos := 0, due := false } := if_neg h
theorem enterEpi_none {l : LoopSt} (h : l.elen = 0) : l.enterEpi = none := if_pos h

/-- In the kernel the sequencer goes on, keeping whether LEXIT has ended the loop. -/
theorem next_of_kernel {l : LoopSt} (h : l.phase = .ker) : ∃ l', l.next = some l' ∧ l'.lexit = l.lexit := by
  unfold LoopSt.next
  rw [h]
  dsimp only
  split <;> exact ⟨_, rfl, rfl⟩

theorem risingLevel_eq_some {l : LoopSt} {j : Nat} (hj : j < l.nlev) (hr : l.counters.getD j 0 + 1 < l.trips.getD j 0)
    (hb : ∀ i, i < j → ¬ l.counters.getD i 0 + 1 < l.trips.getD i 0) : l.risingLevel = some j := by
  rw [LoopSt.risingLevel, List.find?_range_eq_some]
  exact ⟨decide_eq_true hr, List.mem_range.mpr hj, fun i hi => by simpa using hb i hi⟩

theorem risingLevel_eq_none {l : LoopSt} (hb : ∀ i, i < l.nlev → ¬ l.counters.getD i 0 + 1 < l.trips.getD i 0) : l.risingLevel = none := by
  rw [LoopSt.risingLevel, List.find?_eq_none]
  exact fun i hi => by simpa using hb i (List.mem_range.mp hi)

/-- After the last iteration, or after LEXIT, the loop goes to its epilogue. -/
theorem iterate_ended {c : Ctx} {l : LoopSt} (h : l.lexit = true ∨ ∀ i, i < l.nlev → ¬ l.counters.getD i 0 + 1 < l.trips.getD i 0) :
    c.iterate l = c.setLoop l.ret l.enterEpi := by
  unfold Ctx.iterate
  rcases h with h | h
  · rw [if_pos h]
  · rw [risingLevel_eq_none h]
    split <;> rfl

/-- The counters once level `j` rises: those below it start again. -/
def risen (l : LoopSt) (j : Nat) : List Nat :=
  (List.range 6).map fun i => if i < j then 0 else if i = j then l.counters.getD i 0 + 1 else l.counters.getD i 0

theorem getD_risen (l : LoopSt) (j : Nat) {i : Nat} (hi : i < 6) :
    (risen l j).getD i 0 = if i < j then 0 else if i = j then l.counters.getD i 0 + 1 else l.counters.getD i 0 := by
  simp [risen, List.getD_eq_getElem?_getD, hi]

theorem iterate_rising {c : Ctx} {l : LoopSt} {j : Nat} (hx : l.lexit = false) (hr : l.risingLevel = some j) :
    c.iterate l = ({ c with regs := addStrides c.regs (l.strides.filter fun e => e.level == j) } : Ctx).setLoop l.ret
      (some { l with counters := risen l j, due := false, pos := 0 }) := by
  rw [Ctx.iterate, hx, hr]
  rfl

theorem ofNat_zextI (x : Int) : BitVec.ofNat 64 (zextI x 64) = BitVec.ofInt 64 x := by
  apply BitVec.eq_of_toNat_eq
  rw [BitVec.toNat_ofNat, BitVec.toNat_ofInt, zextI]
  omega

/-- One stride moves its address register, modulo 2^64. -/
theorem addStrides_one (r : Regs) (e : Stride) : ((addStrides r [e]).ac e.reg).val = BitVec.ofInt 64 ((r.ac e.reg).val.toNat + e.step) := by
  show ((r.wr (.a e.reg) _).ac e.reg).val = _
  rw [ac_wr_same, ofNat_zextI]

/-- With every address register full and unmarked the iteration ends. -/
theorem execLoopIterationEnd_ok {x : CtxId} {s : State} {l : LoopSt} (ha : (s.ctx x).active = true) (hl : (s.ctx x).loop = some l) (hd : l.due = true)
    (hr : ∀ n, ((s.ctx x).regs.ac n).full = true ∧ ((s.ctx x).regs.ac n).mark.cause = 0) :
    execLoopIterationEnd x s = .next (s.modCtx x fun c => c.iterate l) := by
  have hmark : (l.reads.find? fun r => ((s.ctx x).regs.ac r).mark.cause != 0) = none := by
    simp [(hr _).2]
  have hfull : (l.reads.all fun r => ((s.ctx x).regs.ac r).full) = true := by simp [(hr _).1]
  rw [execLoopIterationEnd, hl]
  dsimp only
  rw [hmark, ha, hd, hfull]
  rfl

/-! ## LOOP and LEXIT -/

/-- LOOP with its record in order leaves the start of its sequencer to the end of its bundle. -/
theorem execLoop_alone {p : BitVec 3} {aR : BitVec 4} {s : State} {a : Word} (hs : s.plain) (hp : (s.ctx s.cur).regs.pv p.toNat = true)
    (hheld : (s.ctx s.cur).heldSt = []) (ha : rdA s.env aR = .ok a) (hal : a.toNat % 64 = 0) (hw : InWindow (s.ctx s.cur).pr a.toNat 256)
    (hl : let l := loopOf (s.rdLmem s.cur.coreId a.toNat 256) s.nextPc
      1 ≤ l.nlev ∧ l.nlev ≤ 6 ∧ 1 ≤ l.klen ∧ l.klen ≤ 64 ∧ l.ker % 16 = 0
        ∧ (l.plen = 0 ∨ l.pro % 16 = 0) ∧ (l.elen = 0 ∨ l.epi % 16 = 0))
    (hres : loopReserved (s.rdLmem s.cur.coreId a.toNat 256) = true) :
    let l := loopOf (s.rdLmem s.cur.coreId a.toNat 256) s.nextPc
    let b := aloneBun s false [.loopStart l]
    execLoop p aR s = .next ((s.issued b).modCtx s.cur fun c => c.setLoop l.ret l.start) := by
  intro l b
  obtain ⟨hb, hloop, hreg, hhold, -, hds, -⟩ := hs
  obtain ⟨hn1, hn6, hk1, hk64, hker, hpro, hepi⟩ := hl
  refine (dSlot_alone (u := (s.openAlone false).post (.loopStart l)) hb hp (by exact beq_iff_eq.mpr hds) ?_).trans
    (congrArg Host.Outcome.next (closeBundle_post hb hhold (by simp) rfl))
  rw [noRegion_ok hreg, ok_bind, show s.env.pre.loop.isNone = true by rw [State.env, hloop]; rfl, need_true, ok_bind, ha, ok_bind, lmemAcc_ok hal hw, ok_bind,
    viewLmem_alone s false _ _ hheld]
  dsimp only
  rw [show (s.env.baddr + 16) % 2 ^ 64 = s.nextPc from rfl, hres,
    show decide (1 ≤ l.nlev ∧ l.nlev ≤ 6 ∧ 1 ≤ l.klen ∧ l.klen ≤ 64) = true from decide_eq_true ⟨hn1, hn6, hk1, hk64⟩]
  have hpro' : (l.plen == 0 || l.pro % 16 == 0) = true := by simpa using hpro
  have hepi' : (l.elen == 0 || l.epi % 16 == 0) = true := by simpa using hepi
  rw [Bool.and_self, need_true, ok_bind, show (l.ker % 16 == 0) = true from beq_iff_eq.mpr hker, need_true, ok_bind, hpro', need_true, ok_bind,
    hepi', need_true, ok_bind]

/-- LEXIT in a kernel bundle marks its loop at the end of its bundle. -/
theorem execLexit_alone {p : BitVec 3} {s : State} {l : LoopSt} (hb : s.bun = none) (hh : (s.ctx s.cur).fl.holdsAll = false)
    (hp : (s.ctx s.cur).regs.pv p.toNat = true) (hl : (s.ctx s.cur).loop = some l) (hk : l.phase = .ker) :
    let b := aloneBun s false [.lexit]
    execLexit p s = .next ((s.modCtx s.cur fun c => { c with loop := c.loop.map fun l => { l with lexit := true } }).issued b) := by
  refine (cSlot_alone (u := (s.openAlone false).post .lexit) hb hp ?_).trans
    (congrArg Host.Outcome.next (closeBundle_post hb hh (by simp) rfl))
  rw [show s.env.pre.loop = some l from hl]
  dsimp only
  rw [hk]
  rfl

/-- A trap that its slot meets also when only empty registers are asked for is the slot's stop. -/
theorem slotStop_same {body : Env → State → Rd State} {e : Env} {s : State} {cause d : Nat}
    (h : body { e with lax := true } s = .error (.trap cause d)) : slotStop body e s (.trap cause d) = .trap cause d := by
  unfold slotStop
  rw [h]
  split
  · next h' =>
    injection h' with h'
    exact h'.symm
  · next h' => cases h'
  · rfl

/-- Outside a kernel bundle it stops. -/
theorem execLexit_outside {p : BitVec 3} {s : State} {b : Bun} (hi : s.issues b (cCond p))
    (hl : b.pre.loop = none ∨ ∃ l, b.pre.loop = some l ∧ l.phase ≠ .ker) : execLexit p s = .next (noted s b 0 (.trap 0x01 0)) := by
  have hno : (match b.pre.loop with | some l => l.phase == .ker | none => false) = false := by
    rcases hl with h | ⟨l, h, hk⟩
    · rw [h]
    · rw [h]; simpa using hk
  have hbody : ∀ e : Env, e.pre = b.pre → (do
      need (match e.pre.loop with | some l => l.phase == .ker | none => false) (.trap 0x01 0)
      .ok (s.post .lexit) : Rd State) = .error (.trap 0x01 0) := by
    intro e he
    rw [he, hno]
    rfl
  refine (runSlot_stop hi (hbody (b.env (cCond p)) rfl)).trans ?_
  rw [slotStop_same (hbody _ rfl)]
  rfl

end Sys2Proof.Machine

open Sys2Proof Sys2Proof.Machine Sys2Proof.Claim

/-- Settles O43: LOOP and LEXIT leave their effect to the end of a bundle that meets no stop; the end of an iteration is `Ctx.iterate`, whose
cases are the lowest rising level and none. -/
theorem hardwareLoops : Obligations.HardwareLoops := by
  refine ⟨fun p aR s a hs hp hheld ha hal hw => ?_, fun p s l hb hh hp hl hk => ?_, fun p s b hi hl => execLexit_outside hi hl, fun x s l => ?_⟩
  · intro r l runs hn1 hn6 hk1 hk64 hres hker hpro hepi
    have hctx : ((s.issued (aloneBun s false [.loopStart l])).modCtx s.cur fun c => c.setLoop l.ret l.start).ctx s.cur =
        ((s.ctx s.cur).advance (aloneBun s false [.loopStart l])).setLoop l.ret l.start := by
      rw [ctx_modCtx, if_pos rfl, ctx_issued_alone]
    have hplain := hs
    obtain ⟨hb, hloop, -, -, hdelay, -, -⟩ := hplain
    have hregs := congrArg Ctx.regs (advance_inOrder (b := aloneBun s false [.loopStart l]) hloop rfl rfl hdelay)
    refine ⟨_, execLoop_alone hs hp hheld ha hal hw ⟨hn1, hn6, hk1, hk64, hker, hpro, hepi⟩ hres, (bun_issued ..).trans hb, 
      sameBytes_trans (sameBytes_issued ..) (sameBytes_modCtx ..), ?_⟩
    rw [hctx]
    refine ⟨(regs_setLoop ..).trans hregs, fun h => ?_, fun h hr => ?_, fun h hr he => ?_, fun h hr he => ?_⟩
    · rw [start_of_prologue h]
      exact ⟨rfl, Nat.mod_eq_of_lt (Nat.mod_lt _ (by positivity))⟩
    · rw [start_of_kernel h hr]
      exact ⟨rfl, Nat.mod_eq_of_lt (Nat.mod_lt _ (by positivity))⟩
    · rw [start_of_none h hr, enterEpi_some he]
      exact ⟨rfl, Nat.mod_eq_of_lt (Nat.mod_lt _ (by positivity))⟩
    · rw [start_of_none h hr, enterEpi_none he]
      exact ⟨rfl, rfl⟩
  · obtain ⟨l', hn, hlex⟩ := next_of_kernel (l := { l with lexit := true }) hk
    refine ⟨_, l', execLexit_alone hb hh hp hl hk, ?_, hlex⟩
    rw [ctx_issued_alone]
    refine loop_advance (l := { l with lexit := true }) (by rw [show (aloneBun s false [.lexit]).pre.loop = some l from hl]; rfl) ?_ hn
    rw [ctx_modCtx, if_pos rfl, hl]
    rfl
  · intro c ha hl hd hr
    have hctx : (s.modCtx x fun c => c.iterate l).ctx x = c.iterate l := (ctx_modCtx ..).trans (if_pos rfl)
    refine ⟨_, execLoopIterationEnd_ok ha hl hd hr, sameBytes_modCtx .., fun y hy => (ctx_modCtx ..).trans (if_neg hy), fun j hx hj hn hri hbe => ?_,
      fun hend => ?_⟩
    · rw [hctx, iterate_rising hx (risingLevel_eq_some hj hri hbe)]
      refine ⟨_, loop_setLoop .., rfl, rfl, rfl, fun i hi => getD_risen l j hi, fun e he => ?_⟩
      rw [regs_setLoop, he]
      exact addStrides_one c.regs e
    · rw [hctx, iterate_ended hend]
      refine ⟨regs_setLoop .., fun he => ?_, fun he => ?_⟩
      · rw [enterEpi_none he]
        exact ⟨rfl, rfl⟩
      · rw [enterEpi_some he]
        exact ⟨_, rfl, rfl, rfl, rfl⟩

end

section
/-! WAIT: its first test as the bundle issues, and the three ways it goes on. -/

namespace Sys2Proof.Machine

open Sys2Proof.Claim

/-! ## Parking -/

theorem ctx_park (s : State) (x y : CtxId) (w : WaitSt) : (s.park x w).ctx y =
    if y = x then { s.ctx x with wait := some w, pr := { (s.ctx x).pr with st := .parked, parkTick := s.tick } } else s.ctx y := by
  have hrun : ∀ (t : State) (c : CoreId) (g : Core → Option Nat), (t.modCore c fun o => { o with run := g o }).ctx y = t.ctx y := by
    intro t c g
    rw [ctx_modCore]
    split
    · next h => rw [← h]; rfl
    · rfl
  exact (hrun _ _ _).trans (ctx_modCtx ..)

theorem run_park (s : State) (x : CtxId) (w : WaitSt) : ((s.park x w).core x.coreId).run ≠ some x.cx := by
  simp only [State.park, core_modCore, if_true]
  split <;> simp_all

theorem sameBytes_park (s : State) (x : CtxId) (w : WaitSt) : sameBytes s (s.park x w) :=
  sameBytes_trans (sameBytes_modCtx s x _) (sameBytes_modCore _ _ _)

theorem wentOn_park {s t : State} (h : WentOn s t) (w : WaitSt) : WentOn s (t.park s.cur w) := by
  obtain ⟨hb, hpc, hi⟩ := h
  refine ⟨hb, ?_, ?_⟩
  · rw [ctx_park, if_pos rfl]; exact hpc
  · rw [ctx_park, if_pos rfl]; exact hi

/-! ## WAIT's result -/

/-- A WAIT's result: its register, and WTO. -/
def State.waitResult (s : State) (x : CtxId) (sd v : Nat) (late : Bool) : State :=
  (s.modCt x fun c => { c with wto := late }).wrReg x (.s sd) v

theorem ctx_waitResult (s : State) (x : CtxId) (sd v : Nat) (late : Bool) : (s.waitResult x sd v late).ctx x =
    { s.ctx x with regs := (s.ctx x).regs.wr (.s sd) v, ct := { (s.ctx x).ct with wto := late } } := by
  simp [State.waitResult, Ctx.wr]

theorem sameBytes_waitResult (s : State) (x : CtxId) (sd v : Nat) (late : Bool) : sameBytes s (s.waitResult x sd v late) :=
  sameBytes_trans (sameBytes_modCt ..) (sameBytes_wrReg ..)

variable {s : State}

/-- A bundle that has made a WAIT's result and leaves nothing for its end. -/
theorem closeBundle_waitResult (hb : s.bun = none) (hh : (s.ctx s.cur).fl.holdsAll = false) (sd v : Nat) (late : Bool) :
    closeBundle s ((s.openAlone false).waitResult s.cur sd v late) = (s.waitResult s.cur sd v late).issued (aloneBun s false []) := by
  rw [closeBundle_wrote (br := false) rfl hh,
    show ({ (s.openAlone false).waitResult s.cur sd v late with bun := none } : State) = ({ s with bun := none } : State).waitResult s.cur sd v late
      from rfl, withBun_none hb]

/-- What is true of a WAIT's result at a plain boundary. -/
theorem waitResult_issued (hs : s.plain) (sd v : Nat) (late : Bool) :
    let t := (s.waitResult s.cur sd v late).issued (aloneBun s false [])
    WentOn s t ∧ sameBytes s t ∧ (t.ctx s.cur).regs = (s.ctx s.cur).regs.wr (.s sd) v ∧ (t.ctx s.cur).ct.wto = late
      ∧ (t.ctx s.cur).wait = (s.ctx s.cur).wait := by
  intro t
  have hplain := hs
  obtain ⟨hb, hloop, -, -, hdelay, -, -⟩ := hplain
  have hctx := ctx_waitResult s s.cur sd v late
  have hend : t.ctx s.cur = _ := (ctx_issued_alone ..).trans ((congrArg (Ctx.advance · _) hctx).trans (advance_inOrder hloop rfl rfl hdelay))
  refine ⟨wentOn_issued hs rfl hb ?_ ?_ ?_, sameBytes_trans (sameBytes_waitResult ..) (sameBytes_issued ..), ?_, ?_, ?_⟩
  · rw [hctx]
  · rw [hctx]
  · rw [hctx]
  · rw [hend]
  · rw [hend]
  · rw [hend]

/-- A bundle that leaves a park for its end passes, and its context parks at the next one. -/
theorem closeBundle_park (hb : s.bun = none) (hh : (s.ctx s.cur).fl.holdsAll = false) {w : WaitSt} (hquiet : w.quiet = none) :
    closeBundle s ((s.openAlone false).post (.park w)) = (s.issued (aloneBun s false [.park w])).park s.cur w :=
  closeBundle_post hb hh (by simp) (by simp [Bun.quietWait, aloneBun, hquiet])

/-- What is true of a context that parks behind a bundle at a plain boundary. -/
theorem parks_issued (hs : s.plain) (w : WaitSt) :
    let t := (s.issued (aloneBun s false [.park w])).park s.cur w
    WentOn s t ∧ sameBytes s t ∧ (t.ctx s.cur).regs = (s.ctx s.cur).regs ∧ (t.ctx s.cur).wait = some w ∧ (t.ctx s.cur).pr.st = .parked
      ∧ (t.core s.cur.coreId).run ≠ some s.cur.cx := by
  intro t
  have hplain := hs
  obtain ⟨hb, hloop, -, -, hdelay, -, -⟩ := hplain
  have hend : t.ctx s.cur = _ := (ctx_park ..).trans (if_pos rfl)
  have hissued := (ctx_issued_alone s s false [.park w]).trans (advance_inOrder hloop rfl rfl hdelay)
  refine ⟨wentOn_park (wentOn_issued hs rfl hb rfl rfl rfl) _, sameBytes_trans (sameBytes_issued ..) (sameBytes_park ..), ?_, ?_, ?_, run_park _ _ _⟩
  · rw [hend, hissued]
  · rw [hend]
  · rw [hend]

/-- What a WAIT makes of its first test. -/
def waitEnd (x : CtxId) (sd sat : Nat) (w : WaitSt) (u : State) : Rd State :=
  if modeMet w.all w.conds.length sat then .ok (u.waitResult x sd sat false)
  else if w.deadline = some u.tick then .ok (u.waitResult x sd (sat + 16) true)
  else .ok (u.post (.park { w with wsat := sat }))

/-- A WAIT whose block and conditions are in order comes to its first test (R44). -/
theorem execWait_alone {p : BitVec 3} {sd : BitVec 6} {aB : BitVec 4} {a : Word} {u : State} {blk : Nat} {w : WaitSt} {sat : Nat} (hs : s.plain)
    (hp : (s.ctx s.cur).regs.pv p.toNat = true) (hheld : (s.ctx s.cur).heldSt = []) (ha : rdA s.env aB = .ok a) (hal : a.toNat % 16 = 0)
    (hw : InWindow (s.ctx s.cur).pr a.toNat 80) (hblk : s.rdLmem s.cur.coreId a.toNat 80 = blk)
    (hres : blk / 2 ^ 5 % 2 ^ 27 = 0 ∧ blk / 2 ^ 64 % 2 ^ 64 = 0) (hwait : waitOf s blk sd.toNat (s.ctx s.cur).pc = w)
    (hck : w.conds.forM (condCheck s s.env) = .ok ()) (hst : w.conds.all (condSettled s s.env) = true)
    (hsat : testAll s (.live s.cur) (s.ctx s.cur) w.conds 0 = sat) (he : waitEnd s.cur sd.toNat sat w (s.openAlone false) = .ok u) :
    execWait p sd aB s = .next (closeBundle s u) := by
  obtain ⟨hb, -, hreg, -, -, -, -⟩ := hs
  have hneed : (blk / 2 ^ 5 % 2 ^ 27 == 0 && blk / 2 ^ 64 % 2 ^ 64 == 0) = true := by rw [hres.1, hres.2]; rfl
  refine cSlot_alone hb hp ?_
  rw [noRegion_ok hreg, ok_bind, ha, ok_bind, lmemAcc_ok hal hw, ok_bind, viewLmem_alone s false _ _ hheld, hblk]
  dsimp only
  rw [hneed, need_true, ok_bind, show waitOf (s.openAlone false) blk sd.toNat s.env.baddr = w from hwait,
    show condCheck (s.openAlone false) s.env = condCheck s s.env from rfl, hck, ok_bind,
    show condSettled (s.openAlone false) s.env = condSettled s s.env from rfl, hst, need_true, ok_bind,
    show testAll (s.openAlone false) (.live s.env.x) s.env.pre w.conds 0 = sat from hsat]
  exact he

/-- The three ways a WAIT goes on from its first test. -/
theorem firstTest_goesOn (hs : s.plain) {i : Instr} {sd sat : Nat} {w : WaitSt} (hquiet : w.quiet = none)
    (hend : ∀ u, waitEnd s.cur sd sat w (s.openAlone false) = .ok u → exec i s = .next (closeBundle s u)) :
    ∃ t, exec i s = .next t ∧ WentOn s t ∧ sameBytes s t
      ∧ (modeMet w.all w.conds.length sat = true → (t.ctx s.cur).regs = (s.ctx s.cur).regs.wr (.s sd) sat ∧ (t.ctx s.cur).ct.wto = false
          ∧ (t.ctx s.cur).wait = (s.ctx s.cur).wait)
      ∧ (modeMet w.all w.conds.length sat = false → w.deadline = some s.tick →
          (t.ctx s.cur).regs = (s.ctx s.cur).regs.wr (.s sd) (sat + 16) ∧ (t.ctx s.cur).ct.wto = true)
      ∧ (modeMet w.all w.conds.length sat = false → w.deadline ≠ some s.tick → (t.ctx s.cur).regs = (s.ctx s.cur).regs
          ∧ (t.ctx s.cur).wait = some { w with wsat := sat } ∧ (t.ctx s.cur).pr.st = .parked ∧ (t.core s.cur.coreId).run ≠ some s.cur.cx) := by
  have hplain := hs
  obtain ⟨hb, -, -, hhold, -, -, -⟩ := hplain
  by_cases hm : modeMet w.all w.conds.length sat = true
  · obtain ⟨hwent, hbytes, hregs, hwto, hwait⟩ := waitResult_issued hs sd sat false
    rw [hend _ (if_pos hm), closeBundle_waitResult hb hhold]
    exact ⟨_, rfl, hwent, hbytes, fun _ => ⟨hregs, hwto, hwait⟩, fun h => absurd hm (by simp [h]), fun h => absurd hm (by simp [h])⟩
  · by_cases hd : w.deadline = some s.tick
    · obtain ⟨hwent, hbytes, hregs, hwto, -⟩ := waitResult_issued hs sd (sat + 16) true
      rw [hend _ ((if_neg hm).trans (if_pos hd)), closeBundle_waitResult hb hhold]
      exact ⟨_, rfl, hwent, hbytes, fun h => absurd h hm, fun _ _ => ⟨hregs, hwto⟩, fun _ h => absurd hd h⟩
    · obtain ⟨hwent, hbytes, hregs, hwait, hst, hrun⟩ := parks_issued hs { w with wsat := sat }
      rw [hend _ ((if_neg hm).trans (if_neg hd)), closeBundle_park hb hhold (w := { w with wsat := sat }) hquiet]
      exact ⟨_, rfl, hwent, hbytes, fun h => absurd h hm, fun _ h => absurd h hd, fun _ _ => ⟨hregs, hwait, hst, hrun⟩⟩

end Sys2Proof.Machine

open Sys2Proof Sys2Proof.Machine Sys2Proof.Claim

/-- Settles O44: the first test of a WAIT that is in order completes it, or its time-out of 0 ends it, or it parks. -/
theorem waits : Obligations.Waits := by
  intro p sd aB s a hs hp hheld ha hal hw x blk w sat hz hz' hck hst
  exact firstTest_goesOn hs rfl fun _ => execWait_alone hs hp hheld ha hal hw rfl ⟨hz, hz'⟩ rfl hck hst rfl

end

section
/-! What changes of lists, records and teams leave of the contexts. -/

namespace Sys2Proof.Machine

open Sys2Proof.Claim

/-! ## Every context and every saved image where it was -/

/-- LINK fields are bytes of the vault: rewriting them changes no cluster (R26). -/
theorem clusters_relink (s : State) (rs : List Nat) : (relink s rs).clusters = s.clusters := by
  induction rs generalizing s with
  | nil => rfl
  | cons a rs ih => cases rs with
    | nil => rfl
    | cons b rs => exact ih _

theorem cl_relink (s : State) (rs : List Nat) (k : Nat) : (relink s rs).cl k = s.cl k := congrArg (tget _ · k) (clusters_relink s rs)

/-- No core of any cluster has changed, and no saved image. -/
structure SameHomes (s t : State) : Prop where
  cores : ∀ k, (t.cl k).cores = (s.cl k).cores
  saved : ∀ k, (t.cl k).saved = (s.cl k).saved

namespace SameHomes

variable {s t u : State}

theorem refl (s : State) : SameHomes s s := ⟨fun _ => rfl, fun _ => rfl⟩
theorem trans (h : SameHomes s t) (h' : SameHomes t u) : SameHomes s u :=
  ⟨fun k => (h'.cores k).trans (h.cores k), fun k => (h'.saved k).trans (h.saved k)⟩

theorem frame (h : SameHomes s t) (hu : u.clusters = t.clusters := by rfl) : SameHomes s u := by
  have hcl : ∀ k, u.cl k = t.cl k := fun k => congrArg (tget _ · k) hu
  exact ⟨fun k => by rw [hcl]; exact h.cores k, fun k => by rw [hcl]; exact h.saved k⟩

theorem modCl (h : SameHomes s t) {j : Nat} {f : Cluster → Cluster}
    (hf : ∀ c, (f c).cores = c.cores ∧ (f c).saved = c.saved := by exact fun _ => ⟨rfl, rfl⟩) :
    SameHomes s (t.modCl j f) := by
  refine ⟨fun k => ?_, fun k => ?_⟩ <;> rw [cl_modCl] <;> split
  · next e => rw [(hf _).1, ← e, h.cores]
  · exact h.cores k
  · next e => rw [(hf _).2, ← e, h.saved]
  · exact h.saved k

theorem core (h : SameHomes s t) (c : CoreId) : t.core c = s.core c := congrArg (tget _ · c.core) (h.cores c.cl)
theorem ctx (h : SameHomes s t) (y : CtxId) : t.ctx y = s.ctx y := congrArg (Core.ctx · y.cx) (h.core y.coreId)
theorem savedImg (h : SameHomes s t) (cl crec : Nat) : t.saved cl crec = s.saved cl crec := congrArg (tget none · crec) (h.saved cl)

theorem recWr (h : SameHomes s t) {crec fld n v : Nat} : SameHomes s (t.recWr crec fld n v) := h.frame

theorem relink (h : SameHomes s t) (rs : List Nat) : SameHomes s (relink t rs) := h.frame (clusters_relink t rs)

theorem setReady (h : SameHomes s t) {cl : Nat} {rs : List Nat} : SameHomes s (t.setReady cl rs) := h.modCl.relink rs
theorem setWatch (h : SameHomes s t) {cl : Nat} {rs : List Nat} : SameHomes s (t.setWatch cl rs) := h.modCl.relink rs
theorem addReady (h : SameHomes s t) {cl crec : Nat} : SameHomes s (t.addReady cl crec) := h.setReady
theorem addWatch (h : SameHomes s t) {cl crec : Nat} : SameHomes s (t.addWatch cl crec) := h.setWatch
theorem dropReady (h : SameHomes s t) {cl crec : Nat} : SameHomes s (t.dropReady cl crec) := h.setReady.recWr
theorem dropWatch (h : SameHomes s t) {cl crec : Nat} : SameHomes s (t.dropWatch cl crec) := h.setWatch.recWr
theorem recWait (h : SameHomes s t) {crec : Nat} {w : WaitSt} {wto : Bool} : SameHomes s (t.recWait crec w wto) := h.recWr.recWr.recWr
theorem setTeam (h : SameHomes s t) {cl k : Nat} {v : Team} : SameHomes s (t.setTeam cl k v) := h.modCl

theorem modTeam (h : SameHomes s t) {cl k : Nat} {f : Team → Team} : SameHomes s (t.modTeam cl k f) := by
  unfold State.modTeam
  split
  · exact h
  · exact h.setTeam

theorem modLaunch (h : SameHomes s t) {l : Nat} {f : Launch → Launch} : SameHomes s (t.modLaunch l f) := by
  unfold State.modLaunch
  split
  · exact h
  · exact h.frame

theorem freeRecord (h : SameHomes s t) {cl k crec : Nat} : SameHomes s (t.freeRecord cl k crec) := by
  unfold State.freeRecord
  split
  · exact h.recWr
  · exact h.recWr.recWr.setTeam

theorem msgRetire (h : SameHomes s t) {tag : Option Nat} : SameHomes s (t.msgRetire tag) := by
  unfold State.msgRetire
  split
  · exact h
  · split
    · exact h
    · split <;> exact h.frame

end SameHomes

/-! ## Every context's privileged block and every core's issue slot as it was -/

/-- What a core keeps of who runs on it. -/
def Core.sameSeats (o o' : Core) : Prop := o'.run = o.run ∧ ∀ j, (o'.ctx j).pr = (o.ctx j).pr

/-- Every context keeps its privileged block, and every core its issue slot. -/
structure SameSeats (s t : State) : Prop where
  core : ∀ c, (s.core c).sameSeats (t.core c)

theorem SameHomes.seats {s t : State} (h : SameHomes s t) : SameSeats s t := ⟨fun c => by rw [h.core]; exact ⟨rfl, fun _ => rfl⟩⟩

namespace SameSeats

variable {s t u : State}

theorem trans (h : SameSeats s t) (h' : SameSeats t u) : SameSeats s u :=
  ⟨fun c => ⟨(h'.core c).1.trans (h.core c).1, fun j => ((h'.core c).2 j).trans ((h.core c).2 j)⟩⟩

theorem modCl (h : SameSeats s t) {k : Nat} {f : Cluster → Cluster} (hf : ∀ (c : Cluster) i, (c.core i).sameSeats ((f c).core i)) :
    SameSeats s (t.modCl k f) := by
  refine h.trans ⟨fun c => ?_⟩
  rw [core_modCl]
  split
  · next e => subst e; exact hf _ _
  · exact ⟨rfl, fun _ => rfl⟩

theorem setSaved (h : SameSeats s t) {cl crec : Nat} {v : Option Saved} : SameSeats s (t.setSaved cl crec v) := h.modCl fun _ _ => ⟨rfl, fun _ => rfl⟩

theorem setCtx (h : SameSeats s t) {x : CtxId} {v : Ctx} (hv : v.pr = (t.ctx x).pr) : SameSeats s (t.setCtx x v) := by
  refine h.trans ⟨fun c => ?_⟩
  rw [core_setCtx]
  split
  · next e =>
    subst e
    refine ⟨rfl, fun j => ?_⟩
    rw [core_ctx_setCtx]
    split
    · next e => subst e; exact hv
    · rfl
  · exact ⟨rfl, fun _ => rfl⟩

theorem modHome (h : SameSeats s t) {w : Home} {f : Ctx → Ctx} (hf : ∀ c, (f c).pr = c.pr) : SameSeats s (t.modHome w f) := by
  unfold State.modHome
  split
  · exact h
  · next c hc => cases w with
    | live x => exact h.setCtx (by rw [hf, ← Option.some.inj (show some (t.ctx x) = some c from hc)])
    | saved cl crec =>
      unfold State.setHome
      dsimp only
      split
      · exact h
      · exact h.setSaved

/-- A change of contexts that leaves their privileged blocks. -/
theorem mapCtxs_sameSeats {cl : Nat} {f : CoreId → Ctx → Ctx} (hf : ∀ m y, (f m y).pr = y.pr) (c : Cluster) (i : Nat) :
    (c.core i).sameSeats ((c.mapCtxs cl f).core i) :=
  have hpr : ∀ m (o : Core) j, (Core.ctx { o with ctxs := o.ctxs.map fun y => (y.1, f m y.2) } j).pr = (o.ctx j).pr :=
    fun m o j => tget_map_keep Ctx.pr (fun _ y => f m y) (fun _ y => hf m y) o.ctxs j
  ⟨tget_map_keep Core.run (fun k o => { o with ctxs := o.ctxs.map fun y => (y.1, f ⟨cl, k⟩ y.2) }) (fun _ _ => rfl) c.cores i,
   fun j => tget_map_keep (fun o => (Core.ctx o j).pr) (fun k o => { o with ctxs := o.ctxs.map fun y => (y.1, f ⟨cl, k⟩ y.2) })
     (fun k o => hpr ⟨cl, k⟩ o j) c.cores i⟩

theorem barrierCheck (h : SameSeats s t) {cl k : Nat} : SameSeats s (t.barrierCheck cl k) := by
  unfold State.barrierCheck
  split
  · exact h
  · split
    · refine (h.trans (SameHomes.refl t).setTeam.seats).modCl (mapCtxs_sameSeats fun _ y => ?_)
      split
      · rw [Ctx.notePhase]; split <;> rfl
      · rfl
    · exact h

theorem stopMarvers_sameSeats (c : Cluster) (i : Nat) : (c.core i).sameSeats (c.stopMarvers.core i) :=
  let f (o : Core) : Core := { o with mx := { o.mx with
    rings := o.mx.rings.map fun r => (r.1, { r.2 with waiting := r.2.waiting.filter fun a => !a.isMarver }) } }
  ⟨tget_map_keep Core.run (fun _ => f) (fun _ _ => rfl) c.cores i,
   fun j => tget_map_keep (fun o => (Core.ctx o j).pr) (fun _ => f) (fun _ _ => rfl) c.cores i⟩

theorem newRecord (h : SameSeats s t) {cl k : Nat} {q : SpawnReq} : SameSeats s (t.newRecord cl k q) := by
  unfold State.newRecord
  split
  · exact h
  · split
    · exact h
    · refine (SameSeats.setSaved ?_).trans (SameHomes.refl _).addReady.seats
      exact h.trans (SameHomes.refl t).setTeam.frame.recWr.recWr.recWr.recWr.recWr.recWr.recWr.recWr.seats

theorem spawnStatus (h : SameSeats s t) {o : Option (SpawnBy × Nat × Nat)} {v : Nat} : SameSeats s (t.spawnStatus o v) := by
  unfold State.spawnStatus
  split
  · exact h
  · split
    · exact h
    · exact h.modHome fun _ => rfl

theorem servePending (h : SameSeats s t) {cl k : Nat} : SameSeats s (t.servePending cl k) := by
  unfold State.servePending
  split
  · exact h
  · split
    · exact (h.trans (SameHomes.refl t).setTeam.seats).newRecord.spawnStatus
    · exact h

theorem teamRetire (h : SameSeats s t) {cl k : Nat} : SameSeats s (t.teamRetire cl k) := by
  unfold State.teamRetire
  split
  · exact h
  · split
    · refine SameSeats.trans ?_ (SameHomes.refl _).modLaunch.seats
      split
      · exact (h.trans (SameHomes.refl t).modCl.seats).modCl stopMarvers_sameSeats
      · exact h.trans (SameHomes.refl t).modCl.seats
    · exact h

theorem retireCont (s : State) (cl : Nat) (c : Ctx) : SameSeats s (s.retireCont cl c) :=
  ((SameHomes.refl s).freeRecord.modTeam.seats.barrierCheck.trans (SameHomes.refl _).msgRetire.seats).servePending.teamRetire

end SameSeats

/-! ## A context whose continuation has gone -/

/-- A context is Idle, and does not hold its core's issue slot. -/
def State.vacant (s : State) (x : CtxId) : Prop := (s.ctx x).pr.st = .idle ∧ (s.core x.coreId).run ≠ some x.cx

theorem SameSeats.vacant {s t : State} {x : CtxId} (h : SameSeats s t) (hs : s.vacant x) : t.vacant x := by
  obtain ⟨hst, hrun⟩ := hs
  refine ⟨?_, ?_⟩
  · rw [State.ctx, (h.core x.coreId).2]; exact hst
  · rw [(h.core x.coreId).1]; exact hrun

/-- A context is emptied, and gives up its core's issue slot. -/
theorem vacant_emptied (s : State) (x : CtxId) (c : Ctx) :
    ((s.modCore x.coreId fun o => { o with run := if o.run = some x.cx then none else o.run }).setCtx x (emptied c)).vacant x := by
  refine ⟨?_, ?_⟩
  · rw [ctx_setCtx, if_pos rfl]; rfl
  · rw [core_setCtx, if_pos rfl, core_setCtx_run, core_modCore, if_pos rfl]
    dsimp only
    split
    · exact nofun
    · assumption

theorem vacant_completeDone (s : State) (x : CtxId) : (s.completeDone x).vacant x := (SameSeats.retireCont ..).vacant (vacant_emptied ..)

end Sys2Proof.Machine
end

section
/-! Contexts at their boundaries: selection, quanta, stalls, fills, waits that end, held commands and the length of a region. -/

namespace Sys2Proof.Machine

open Sys2Proof.Claim

/-! ## What an event answers -/

/-- An enabled event answers its state. -/
theorem does_event {i : Instr} {s t : State} {n : String} {ok : Bool} {p : State → Prop} (he : exec i s = event n ok t) (hok : ok = true) (hp : p t) :
    Does i s p := ⟨t, by rw [he, hok, event_true], hp⟩

/-! ## Cores, waking and rolling back -/

/-- Counting a core's events leaves all of every core but its counters. -/
theorem core_tally_keep {β : Type} (p : Core → β) (s : State) (x : CtxId) (code n : Nat) (o : CoreId)
    (hp : ∀ (c : Core) a b, p { c with evsel := a, evcnt := b } = p c := by exact fun _ _ _ => rfl) : p ((s.tally x code n).core o) = p (s.core o) := by
  unfold State.tally
  split
  · rfl
  · rw [core_modCore]
    split
    · next h => rw [h]; exact hp ..
    · rfl

/-- A change of a core that leaves its contexts leaves every context. -/
theorem ctx_modCore_keep (s : State) (c : CoreId) (f : Core → Core) (y : CtxId) (hf : ∀ o, (f o).ctxs = o.ctxs := by exact fun _ => rfl) :
    (s.modCore c f).ctx y = s.ctx y := by
  rw [ctx_modCore]
  split
  · next h => rw [Core.ctx, hf, ← h]; rfl
  · rfl

/-- A change of a context leaves all of every core but its contexts. -/
theorem core_modCtx_keep {β : Type} (p : Core → β) (s : State) (x : CtxId) (f : Ctx → Ctx) (o : CoreId)
    (hp : ∀ (c : Core) k v, p (c.setCtx k v) = p c := by exact fun _ _ _ => rfl) : p ((s.modCtx x f).core o) = p (s.core o) := by
  rw [core_modCtx]
  split
  · next h => rw [hp, h]
  · rfl

theorem ctx_wake (s : State) (x y : CtxId) : (s.wake x).ctx y = if y = x then (s.ctx x).wake else s.ctx y := ctx_modCtx ..

/-- A blocked context that is Stalled goes on, and one that is Parked is Ready (R33). -/
theorem wake_stalled {c : Ctx} (hb : c.pr.blk.isSome = true) (hst : c.pr.st = .stalled) (hs : c.pr.stopped = false) :
    c.wake = { c with pr := { c.pr with st := .running, blk := none } } := by
  obtain ⟨b, hb⟩ := Option.isSome_iff_exists.mp hb
  simp [Ctx.wake, Priv.wake, hb, hst, hs]

theorem wake_parked {c : Ctx} (hb : c.pr.blk.isSome = true) (hst : c.pr.st = .parked) :
    c.wake = { c with pr := { c.pr with st := .ready, blk := none } } := by
  obtain ⟨b, hb⟩ := Option.isSome_iff_exists.mp hb
  simp [Ctx.wake, Priv.wake, hb, hst]

theorem sameBytes_rollback (s : State) (x : CtxId) (baddr slot cause tcause : Nat) : sameBytes s (s.rollback x baddr slot cause tcause) := by
  have hnotice : ∀ (t : State) pont, sameBytes t (t.rbNotice x slot pont) := by
    intro t pont
    unfold State.rbNotice
    dsimp only
    split
    · exact sameBytes_refl t
    · exact sameBytes_addRecord ..
  unfold State.rollback
  split
  · exact sameBytes_refl s
  · exact sameBytes_trans (sameBytes_trans (sameBytes_trans (sameBytes_modCtx ..) (hnotice ..)) (sameBytes_modCtx ..)) (sameBytes_tally ..)

/-- The cause of R224 stands in bits 8 to 4 of RBCAUSE (R225). -/
theorem rbcauseOf_cause (baddr slot tcause : Nat) {cause : Nat} (hc : cause < 2 ^ 5) (ht : tcause < 2 ^ 4) :
    rbcauseOf baddr slot cause tcause / 2 ^ 4 % 2 ^ 5 = cause := by
  unfold rbcauseOf
  omega

/-- Rolling back leaves a context at its region's fallback with the checkpoint's registers (R224, R225). -/
theorem rolledBack_rollback {s : State} {x : CtxId} {g : Region} (h : (s.ctx x).region = some g) (baddr slot : Nat) {cause tcause : Nat}
    (hc : cause < 2 ^ 5) (ht : tcause < 2 ^ 4) : RolledBack (s.rollback x baddr slot cause tcause) x g cause := by
  have hctx := (ctx_rollback h baddr slot cause tcause x).trans (if_pos rfl)
  refine ⟨?_, ?_, ?_, ?_⟩
  · rw [hctx]; rfl
  · rw [hctx]; rfl
  · rw [hctx]; rfl
  · rw [hctx]; exact rbcauseOf_cause baddr slot tcause hc ht

/-- A trap stops its context where it stands, and its record is the cluster's latest (R288, R297). -/
theorem stopped_takeTrap (s : State) (x : CtxId) (cause slot baddr detail : Nat) (flag rb delay : Bool) :
    Stopped (s.takeTrap x cause slot baddr detail flag rb delay) x (s.ctx x).regs cause slot baddr detail := by
  have hctx := (ctx_takeTrap s x x cause slot baddr detail flag rb delay).trans (if_pos rfl)
  refine ⟨by rw [hctx], by rw [hctx], _, by rw [trapWait_takeTrap, List.getLast?_concat], rfl, rfl, rfl, rfl, rfl, rfl, rfl, ?_⟩
  rw [hctx]
  rfl

/-! ## Selection, quanta and stalls (R33 to R35) -/

section

variable {s : State} {x : CtxId}

theorem does_contextSelect {o : CoreId} {k : Nat} (hk : s.nextReady o = some k) (hrun : (s.core o).run = none) (hin : s.coreIn o = true) :
    Does (.contextSelect o) s fun t =>
      (t.core o).run = some k ∧ (t.core o).last = some k ∧ (t.ctx ⟨o.cl, o.core, k⟩).pr.st = .running ∧ (t.ctx ⟨o.cl, o.core, k⟩).pr.qcount = 0
        ∧ (t.ctx ⟨o.cl, o.core, k⟩).regs = (s.ctx ⟨o.cl, o.core, k⟩).regs ∧ sameBytes s t := by
  have hexec : execContextSelect o s = event "CONTEXT_SELECT" ((s.core o).run.isNone && s.coreIn o)
      ((s.modPr ⟨o.cl, o.core, k⟩ fun p => { p with st := .running, qcount := 0, blk := none }).takeSlot ⟨o.cl, o.core, k⟩) := by
    rw [execContextSelect, hk]
  refine does_event hexec (by simp [hrun, hin]) ⟨?_, ?_, ?_, ?_, ?_, sameBytes_trans (sameBytes_modCtx ..)
    (sameBytes_trans (sameBytes_modCore _ _ _) (sameBytes_tally ..))⟩
  · exact (core_tally_keep Core.run _ _ _ _ o).trans (congrArg Core.run ((core_modCore ..).trans (if_pos rfl)))
  · exact (core_tally_keep Core.last _ _ _ _ o).trans (congrArg Core.last ((core_modCore ..).trans (if_pos rfl)))
  all_goals simp [modPr_eq]

/-- A quantum's end where another context of the core is Ready, and where no work waits (R35). -/
theorem quantum_other (h : s.otherReady x = true) (cause : Nat) :
    s.quantum x cause = (s.modPr x fun p => { p with st := .ready, qcount := 0 }).modCore x.coreId fun o => { o with run := none } := if_pos h

theorem quantum_fresh (h : s.otherReady x = false) (hw : s.workWaits x.cl (s.ctx x).ct.prio = false) (cause : Nat) :
    s.quantum x cause = s.modPr x fun p => { p with qcount := 0 } := by
  simp [State.quantum, h, hw]

theorem does_quantumExpiry (hact : (s.ctx x).active = true) (hst : (s.ctx x).pr.st = .running) (hq : 4096 ≤ (s.ctx x).pr.qcount)
    (hreg : (s.ctx x).region = none) (hbtw : (s.ctx x).between = true) (hdef : (s.ctx x).fl.defer = []) (hpre : (s.ctx x).pr.pre = none)
    (hover : (s.ctx x).pr.overrun = false) (hdone : (s.ctx x).doneWait = false) : Does (.quantumExpiry x) s fun t =>
      (s.otherReady x = true → (t.ctx x).pr.st = .ready ∧ (t.core x.coreId).run = none ∧ (t.ctx x).regs = (s.ctx x).regs)
        ∧ (s.otherReady x = false → s.workWaits x.cl (s.ctx x).ct.prio = false →
          t.ctx x = { s.ctx x with pr := { (s.ctx x).pr with qcount := 0 } }) := by
  refine does_event (n := "QUANTUM_EXPIRY") rfl (by simp [hact, hst, hq, hreg, hbtw, hdef, hpre, hover, hdone]) ⟨fun h => ?_, fun h hw => ?_⟩
  · rw [quantum_other h]
    have hctx := (ctx_modCore_keep (s.modPr x fun p => { p with st := .ready, qcount := 0 }) x.coreId (fun o => { o with run := none }) x).trans
      ((ctx_modCtx ..).trans (if_pos rfl))
    exact ⟨by rw [hctx], by rw [core_modCore, if_pos rfl], by rw [hctx]⟩
  · rw [quantum_fresh h hw, modPr_eq, ctx_modCtx, if_pos rfl]

theorem does_stallTimeout (hact : (s.ctx x).active = true) (hst : (s.ctx x).pr.st = .stalled) (h : s.otherReady x = true) :
    Does (.stallTimeout x) s fun t => t.ctx x = { s.ctx x with pr := { (s.ctx x).pr with st := .parked, parkTick := s.tick } }
      ∧ (t.core x.coreId).run = none :=
  does_event (n := "STALL_TIMEOUT") rfl (by simp [hact, hst, h])
    ⟨(ctx_modCore_keep _ x.coreId (fun o => { o with run := none }) x).trans ((ctx_modCtx ..).trans (if_pos rfl)), by rw [core_modCore, if_pos rfl]⟩

/-! ## DONE completes (R31, R33) -/

theorem stopped_of_active {c : Ctx} (h : c.active = true) : c.pr.stopped = false := by
  simp only [Ctx.active, Bool.and_eq_true, Bool.not_eq_true'] at h
  exact h.2

theorem execDoneComplete_ok (hact : (s.ctx x).active = true) (hdone : (s.ctx x).doneWait = true) (hquiet : s.quietCtx x = true)
    (hst : (s.ctx x).pr.st ≠ .ready) :
    exec (.doneComplete x) s = event "DONE_COMPLETE" true (if (s.ctx x).pr.st = .running then s.completeDone x else s.wake x) := by
  show execDoneComplete x s = _
  simp [execDoneComplete, hact, hdone, hquiet, bne_iff_ne.mpr hst]

theorem does_doneComplete_running (hact : (s.ctx x).active = true) (hdone : (s.ctx x).doneWait = true) (hquiet : s.quietCtx x = true)
    (hst : (s.ctx x).pr.st = .running) : Does (.doneComplete x) s fun t => (t.ctx x).pr.st = .idle ∧ (t.core x.coreId).run ≠ some x.cx := by
  refine does_event ((execDoneComplete_ok hact hdone hquiet (by simp [hst])).trans (congrArg _ (if_pos hst))) rfl ?_
  exact vacant_completeDone s x

theorem does_doneComplete_wakes (hact : (s.ctx x).active = true) (hdone : (s.ctx x).doneWait = true) (hquiet : s.quietCtx x = true)
    (hst : (s.ctx x).pr.st ≠ .ready) (hst' : (s.ctx x).pr.st ≠ .running) : Does (.doneComplete x) s fun t => t.ctx x = (s.ctx x).wake :=
  does_event ((execDoneComplete_ok hact hdone hquiet hst).trans (congrArg _ (if_neg hst'))) rfl ((ctx_wake ..).trans (if_pos rfl))

/-! ## A fill lands (R116) -/

theorem sc_landP7 (r : Regs) (b : Option Bool) (n : Nat) : (r.landP7 b).sc n = r.sc n := by
  cases b with
  | none => rfl
  | some b => simp [Regs.landP7, Regs.setP, Regs.sc]

/-- A fill reaches its register where its producer is still the register's newest. -/
theorem sc_land (r : Regs) {n p : Nat} (hn : n ≠ 0) (hp : p ≠ 0) (v : Nat) (m : Mark) :
    (r.land (.s n) p v m).sc n = if (r.sc n).prod = p then { val := BitVec.ofNat 64 v, mark := m } else r.sc n := by
  split
  · next h => exact sc_land_same hn hp h v m
  · next h => rw [land_of_stale (k := .s n) h]

theorem does_registerFill {h : Home} {i : Nat} {d : Ctx} {f : Fill} (hd : s.home h = some d) (hf : d.fl.fills[i]? = some f) :
    Does (.registerFill h i) s fun t => h = .live x → (t.ctx x).fl.fills = listDrop (s.ctx x).fl.fills i
      ∧ ∀ n, n ≠ 0 → f.reg = .s n → f.prod ≠ 0 →
      (t.ctx x).regs.sc n = if ((s.ctx x).regs.sc n).prod = f.prod then { val := BitVec.ofNat 64 f.val, mark := f.mark } else (s.ctx x).regs.sc n := by
  have hexec : execRegisterFill h i s = .next ((((s.refresh h).modHome h fun c =>
      ({ c with fl := { c.fl with fills := listDrop c.fl.fills i } } : Ctx).land f).syncSaved h).wakeHome h) := by
    simp only [execRegisterFill, hd, hf]
  refine ⟨_, hexec, fun hx => ?_⟩
  subst hx
  have hland : ((s.modCtx x fun c => ({ c with fl := { c.fl with fills := listDrop c.fl.fills i } } : Ctx).land f).wake x).ctx x =
      (({ s.ctx x with fl := { (s.ctx x).fl with fills := listDrop (s.ctx x).fl.fills i } } : Ctx).land f).wake := by
    rw [ctx_wake, if_pos rfl, ctx_modCtx, if_pos rfl]
  refine ⟨congrArg (fun c => c.fl.fills) hland, fun n hn hr hp => (congrArg (fun c => c.regs.sc n) hland).trans ?_⟩
  show (((s.ctx x).regs.land f.reg f.prod f.val f.mark).landP7 f.p7).sc n = _
  rw [sc_landP7, hr, sc_land _ hn hp]

/-! ## Waits that end (R44, R45, R279, R280) -/

/-- A resident wait that is tested. -/
theorem execWaitWake_live {w : WaitSt} (hw : (s.ctx x).wait = some w) (ht : s.inTime w = true) :
    exec (.waitWake (.live x)) s = event "WAIT_WAKE" (s.waitDone (.live x) (s.ctx x) w || (w.quiet.isNone && s.waitSat (.live x) (s.ctx x) w != w.wsat))
      (if s.waitDone (.live x) (s.ctx x) w then s.waitEnds (.live x) (s.ctx x) w else s.waitLatches (.live x) (s.ctx x) w) := by
  show execWaitWake (.live x) s = _
  simp only [execWaitWake, State.home, hw]
  rw [show s.waitOf (.live x) w = w from rfl, ht]
  rfl

theorem execWaitTimeout_live {w : WaitSt} {d : Nat} (hw : (s.ctx x).wait = some w) (hd : w.deadline = some d) (hlate : d < s.tick) (hmet : w.met = none) :
    exec (.waitTimeout (.live x)) s = event "WAIT_TIMEOUT" true
      (if w.quiet.isSome then s.endQuiet (.live x) w.baddr 16 else s.endWait (.live x) w.sd (w.wsat + 16) true) := by
  show execWaitTimeout (.live x) s = _
  simp only [execWaitTimeout, State.home, hw]
  rw [show s.waitOf (.live x) w = w from rfl]
  simp [hd, hlate, hmet, State.waitTests]

theorem modHome_live (f : Ctx → Ctx) : s.modHome (.live x) f = s.modCtx x f := rfl

/-- A resident continuation's wait ends in its context alone. -/
theorem endWith_live (f : Ctx → Ctx) (wto : Bool) : s.endWith (.live x) f wto = s.modCtx x fun c => f c.unwait := rfl

theorem unwait_parked {c : Ctx} (h : c.pr.st = .parked) : c.unwait.pr.st = .ready := if_pos h

/-- What a resident context is once its WAIT has ended, and once its WQUIET has. -/
theorem ctx_endWait (s : State) (x : CtxId) (sd v : Nat) (wto : Bool) : (s.endWait (.live x) sd v wto).ctx x =
    { (s.ctx x).unwait with regs := (s.ctx x).regs.wr (.s sd) v, ct := { (s.ctx x).ct with wto := wto } } := by
  rw [State.endWait, endWith_live, ctx_modCtx, if_pos rfl]; rfl

theorem ctx_endQuiet (s : State) (x : CtxId) (baddr v : Nat) : (s.endQuiet (.live x) baddr v).ctx x = { (s.ctx x).unwait with qres := some (baddr, v) } := by
  rw [State.endQuiet, endWith_live, ctx_modCtx, if_pos rfl]

theorem does_waitWake_met {w : WaitSt} (hw : (s.ctx x).wait = some w) (hq : w.quiet = none) (ht : s.inTime w = true)
    (hm : modeMet w.all w.conds.length (testAll s (.live x) (s.ctx x) w.conds w.wsat) = true) : Does (.waitWake (.live x)) s fun t =>
      (t.ctx x).wait = none ∧ (t.ctx x).regs = (s.ctx x).regs.wr (.s w.sd) (testAll s (.live x) (s.ctx x) w.conds w.wsat) ∧ (t.ctx x).ct.wto = false
        ∧ ((s.ctx x).pr.st = .parked → (t.ctx x).pr.st = .ready) := by
  have hdone : s.waitDone (.live x) (s.ctx x) w = true := by rw [State.waitDone, hq]; exact hm
  have hends : s.waitEnds (.live x) (s.ctx x) w = s.endWait (.live x) w.sd (testAll s (.live x) (s.ctx x) w.conds w.wsat) false := by
    rw [State.waitEnds, hq]; rfl
  refine does_event (execWaitWake_live hw ht) (by rw [hdone]; rfl) ?_
  rw [if_pos hdone, hends, ctx_endWait]
  exact ⟨rfl, rfl, rfl, fun h => unwait_parked h⟩

theorem does_waitWake_latches {w : WaitSt} (hw : (s.ctx x).wait = some w) (hq : w.quiet = none) (ht : s.inTime w = true)
    (hm : modeMet w.all w.conds.length (testAll s (.live x) (s.ctx x) w.conds w.wsat) = false) (hall : w.all = true)
    (hne : testAll s (.live x) (s.ctx x) w.conds w.wsat ≠ w.wsat) : Does (.waitWake (.live x)) s fun t =>
      t.ctx x = { s.ctx x with wait := some { w with wsat := testAll s (.live x) (s.ctx x) w.conds w.wsat } } := by
  have hdone : s.waitDone (.live x) (s.ctx x) w = false := by rw [State.waitDone, hq]; exact hm
  refine does_event (execWaitWake_live hw ht) (by rw [hdone, hq]; simpa [State.waitSat] using hne) ?_
  rw [if_neg (by simp [hdone]), State.waitLatches, if_pos (by simp [hall, hq])]
  exact (congrArg (State.ctx · x) (modHome_live _)).trans ((ctx_modCtx s x x _).trans (if_pos rfl))

/-- Losses that no record has named: the context stops on the trap that names them, out of its wait (R280). -/
theorem quietFound_losses (s : State) (x : CtxId) (w : WaitSt) (q : Quiet) (hl : (s.cnt q.job).reported < (q.last.map fun l => l.2.2).getD 0) :
    s.quietFound (.live x) w q = ((s.modCnt q.job fun c => { c with reported := (q.last.map fun l => l.2.2).getD 0 }).modCtx x Ctx.unwait).takeTrap x 0x0E 0
      w.baddr ((q.last.map fun l => l.2.2).getD 0 - (s.cnt q.job).reported) false false (s.ctx x).delayed := if_pos hl

theorem quietFound_quiet (s : State) (x : CtxId) (w : WaitSt) (q : Quiet) (hl : ¬ (s.cnt q.job).reported < (q.last.map fun l => l.2.2).getD 0) :
    s.quietFound (.live x) w q = s.endQuiet (.live x) w.baddr 1 := if_neg hl

/-- A trap that takes a context out of its wait. -/
theorem takeTrap_unwait (s u : State) (x : CtxId) (hu : u.ctx x = (s.ctx x).unwait) (hb : sameBytes s u) (baddr detail : Nat) (late : Bool) :
    let t := u.takeTrap x 0x0E 0 baddr detail false false late
    (t.ctx x).wait = none ∧ (t.ctx x).pc = (s.ctx x).pc ∧ sameBytes s t ∧ Stopped t x (s.ctx x).regs 0x0E 0 baddr detail := by
  intro t
  have hctx : t.ctx x = _ := (ctx_takeTrap u x x 0x0E 0 baddr detail false false late).trans (if_pos rfl)
  have hstop := stopped_takeTrap u x 0x0E 0 baddr detail false false late
  rw [hu] at hctx hstop
  exact ⟨by rw [hctx]; rfl, by rw [hctx]; rfl, sameBytes_trans hb (sameBytes_takeTrap ..), hstop⟩

theorem sameBytes_endQuiet (s : State) (x : CtxId) (baddr v : Nat) : sameBytes s (s.endQuiet (.live x) baddr v) := by
  rw [State.endQuiet, endWith_live]
  exact sameBytes_modCtx ..

theorem does_waitWake_quiet {w : WaitSt} {q : Quiet} {lost : Nat} (hw : (s.ctx x).wait = some w) (hq : w.quiet = some q) (hf : q.found = true)
    (ht : s.inTime w = true) (hlost : (q.last.map fun l => l.2.2).getD 0 = lost) :
    Does (.waitWake (.live x)) s fun t => (t.ctx x).wait = none ∧ (t.ctx x).pc = (s.ctx x).pc ∧ sameBytes s t
      ∧ (lost ≤ (s.cnt q.job).reported → (t.ctx x).regs = (s.ctx x).regs ∧ (t.ctx x).qres = some (w.baddr, 1)
          ∧ ((s.ctx x).pr.st = .parked → (t.ctx x).pr.st = .ready))
      ∧ ((s.cnt q.job).reported < lost → Stopped t x (s.ctx x).regs 0x0E 0 w.baddr (lost - (s.cnt q.job).reported)) := by
  have hdone : s.waitDone (.live x) (s.ctx x) w = true := by rw [State.waitDone, hq]; exact hf
  have hends : s.waitEnds (.live x) (s.ctx x) w = s.quietFound (.live x) w q := by rw [State.waitEnds, hq]
  refine does_event (execWaitWake_live hw ht) (by rw [hdone]; rfl) ?_
  rw [if_pos hdone, hends]
  by_cases hl : (s.cnt q.job).reported < lost
  · rw [quietFound_losses _ _ _ _ (hlost ▸ hl), hlost]
    obtain ⟨hwait, hpc, hbytes, hstop⟩ := takeTrap_unwait s ((s.modCnt q.job fun c => { c with reported := lost }).modCtx x Ctx.unwait) x
      ((ctx_modCtx ..).trans (if_pos rfl))
      (sameBytes_trans (t := s.modCnt q.job fun c => { c with reported := lost }) (sameBytes_refl s) (sameBytes_modCtx ..))
      w.baddr (lost - (s.cnt q.job).reported) (s.ctx x).delayed
    exact ⟨hwait, hpc, hbytes, fun h => absurd hl (Nat.not_lt.mpr h), fun _ => hstop⟩
  · rw [quietFound_quiet _ _ _ _ (hlost ▸ hl)]
    have hctx := ctx_endQuiet s x w.baddr 1
    exact ⟨by rw [hctx]; rfl, by rw [hctx]; rfl, sameBytes_endQuiet ..,
      fun _ => ⟨by rw [hctx]; rfl, by rw [hctx], fun h => by rw [hctx]; exact unwait_parked h⟩,
      fun h => absurd h hl⟩

theorem does_waitTimeout {w : WaitSt} {d : Nat} (hw : (s.ctx x).wait = some w) (hd : w.deadline = some d) (hlate : d < s.tick) (hmet : w.met = none) :
    Does (.waitTimeout (.live x)) s fun t => (t.ctx x).wait = none ∧ ((s.ctx x).pr.st = .parked → (t.ctx x).pr.st = .ready)
      ∧ (w.quiet = none → (t.ctx x).regs = (s.ctx x).regs.wr (.s w.sd) (w.wsat + 16) ∧ (t.ctx x).ct.wto = true)
      ∧ (w.quiet.isSome = true → (t.ctx x).regs = (s.ctx x).regs ∧ (t.ctx x).qres = some (w.baddr, 16)) := by
  refine does_event (execWaitTimeout_live hw hd hlate hmet) rfl ?_
  by_cases hq : w.quiet.isSome = true
  · rw [if_pos hq, ctx_endQuiet]
    exact ⟨rfl, fun h => unwait_parked h, fun h => absurd hq (by simp [h]), fun _ => ⟨rfl, rfl⟩⟩
  · rw [if_neg hq, ctx_endWait]
    exact ⟨rfl, fun h => unwait_parked h, fun _ => ⟨rfl, rfl⟩, fun h => absurd h hq⟩

/-! ## Held commands (R230, R256) -/

section

variable {h : HeldCmd} {rest : List HeldCmd} (hc : (s.ctx x).heldCmd = h :: rest) (hr : h.region = false) (hrun : s.clusterRuns x.cl = true)
  (hroom : (heldGo h.instr).2 = true → (s.core x.coreId).mx.trackerRoom = true)
include hc hr hrun hroom

theorem does_heldCommandIssue_ok {u : State} (hu : (heldGo h.instr).1 s x h h.count = .ok u) : Does (.heldCommandIssue x) s fun t =>
    (t.ctx x).heldCmd = (u.ctx x).heldCmd.tail ∧ (t.core x.coreId).mx = (u.core x.coreId).mx ∧ sameBytes u t := by
  have hexec : execHeldCommandIssue x s = event "HELD_COMMAND_ISSUE"
      (s.clusterRuns x.cl && !h.region && (!(heldGo h.instr).2 || (s.core x.coreId).mx.trackerRoom))
      ((u.modCtx x fun c => { c with heldCmd := c.heldCmd.tail }).wake x) := by
    simp only [execHeldCommandIssue, hc, hu]
  refine does_event hexec ?_ ⟨?_, ?_, sameBytes_trans (sameBytes_modCtx ..) (sameBytes_modCtx ..)⟩
  · cases hg : (heldGo h.instr).2 with
    | false => simp [hrun, hr]
    | true => simp [hrun, hr, hroom hg]
  · rw [ctx_wake, if_pos rfl, ctx_modCtx, if_pos rfl]; rfl
  · exact (core_modCtx_keep Core.mx ..).trans (core_modCtx_keep Core.mx ..)

theorem does_heldCommandIssue_trap {cause d : Nat} (hu : (heldGo h.instr).1 s x h h.count = .error (.trap cause d)) : Does (.heldCommandIssue x) s fun t =>
    (t.ctx x).heldCmd = [] ∧ (t.core x.coreId).mx = (s.core x.coreId).mx
      ∧ (t.ctx x).fl.defer = (s.ctx x).fl.defer ++ [⟨cause, 0, some h.cbaddr, if cause = 0x01 then h.cdetail else d, h.cdelay⟩] := by
  have hexec : execHeldCommandIssue x s = event "HELD_COMMAND_ISSUE"
      (s.clusterRuns x.cl && !h.region && (!(heldGo h.instr).2 || (s.core x.coreId).mx.trackerRoom))
      (((s.modCtx x fun c => { c with heldCmd := [] }).deferTrap (.live x) cause 0 (some h.cbaddr)
          (if cause = 0x01 then h.cdetail else d) h.cdelay).wake x) := by
    simp only [execHeldCommandIssue, hc, hu]
  have hctx : ((((s.modCtx x fun c => { c with heldCmd := [] }).deferTrap (.live x) cause 0 (some h.cbaddr)
      (if cause = 0x01 then h.cdetail else d) h.cdelay).wake x).ctx x) = Ctx.wake { s.ctx x with
        heldCmd := []
        fl := { (s.ctx x).fl with defer := (s.ctx x).fl.defer ++ [⟨cause, 0, some h.cbaddr, if cause = 0x01 then h.cdetail else d, h.cdelay⟩] } } := by
    rw [ctx_wake, if_pos rfl]
    refine congrArg Ctx.wake (((ctx_setCtx ..).trans (if_pos rfl)).trans ?_)
    rw [ctx_modCtx, if_pos rfl]
  refine does_event hexec ?_ ⟨congrArg Ctx.heldCmd hctx, ?_, congrArg (fun c => c.fl.defer) hctx⟩
  · cases hg : (heldGo h.instr).2 with
    | false => simp [hrun, hr]
    | true => simp [hrun, hr, hroom hg]
  · exact (core_modCtx_keep Core.mx ..).trans ((congrArg (fun t => (State.core t x.coreId).mx) (modHome_live _)).trans
      ((core_modCtx_keep Core.mx ..).trans (core_modCtx_keep Core.mx ..)))

end

/-! ## The length of a region (R224) -/

theorem does_regionLengthRollback {g : Region} (hact : (s.ctx x).active = true) (hst : (s.ctx x).pr.st = .running) (hg : (s.ctx x).region = some g)
    (hlen : 4096 ≤ g.rlen) (hturn : (s.ctx x).turning = false) : Does (.regionLengthRollback x) s fun t => RolledBack t x g 0x06 ∧ sameBytes s t :=
  does_event (n := "REGION_LENGTH_ROLLBACK") rfl (by simp [hact, hst, hg, hlen, hturn])
    ⟨rolledBack_rollback hg _ _ (by decide) (by decide), sameBytes_rollback ..⟩

end

end Sys2Proof.Machine

open Sys2Proof Sys2Proof.Machine Sys2Proof.Claim

/-- Settles O50: each event of a context at its boundary, by what the event makes of that context. -/
theorem contextEvents : Obligations.ContextEvents := by
  intro s x c
  refine ⟨fun o k hk hrun hin => does_contextSelect hk hrun hin, does_quantumExpiry, does_stallTimeout,
    fun hact hdone hquiet => ⟨?_, fun hblk => ⟨?_, ?_⟩⟩,
    fun h i d f hd hf => does_registerFill hd hf,
    fun w hw hq => fun ht => ⟨does_waitWake_met hw hq ht, does_waitWake_latches hw hq ht⟩, fun w q hw hq hf ht => does_waitWake_quiet hw hq hf ht rfl,
    fun w d hw hd hlate hmet => does_waitTimeout hw hd hlate hmet,
    fun h rest hc hr hrun hroom => ⟨fun u hu => does_heldCommandIssue_ok hc hr hrun hroom hu,
      fun cause d hu => does_heldCommandIssue_trap hc hr hrun hroom hu⟩,
    fun g hact hst hg hlen hturn => does_regionLengthRollback hact hst hg hlen hturn⟩
  · exact does_doneComplete_running hact hdone hquiet
  · intro hst
    have hwake := does_doneComplete_wakes hact hdone hquiet (by simp [c, hst]) (by simp [c, hst])
    rwa [wake_stalled hblk hst (stopped_of_active hact)] at hwake
  · intro hst
    have hwake := does_doneComplete_wakes hact hdone hquiet (by simp [c, hst]) (by simp [c, hst])
    rwa [wake_parked hblk hst] at hwake

end

section
/-! Traps at a boundary, stops, and the four ways of R289. -/

namespace Sys2Proof.Machine

open Sys2Proof.Claim

/-! ## Deferred traps, breakpoints and the budget -/

/-- A quantum's end that lapses changes the quantum's count alone. -/
theorem ctx_lapse (s : State) (x : CtxId) : ∃ n, (s.lapse x).ctx x = { s.ctx x with pr := { (s.ctx x).pr with qcount := n } } := by
  unfold State.lapse
  dsimp only
  split
  · exact ⟨0, (ctx_modCtx ..).trans (if_pos rfl)⟩
  · exact ⟨_, rfl⟩

section

variable {s : State} {x : CtxId}

theorem does_deferredTrap {d : Defer} {rest : List Defer} (hd : (s.ctx x).fl.defer = d :: rest) (hact : (s.ctx x).active = true)
    (hdone : (s.ctx x).doneWait = false) (hturn : (s.ctx x).turning = false) (hreg : (s.ctx x).region = none) : Does (.deferredTrap x) s fun t =>
      Stopped t x (s.ctx x).regs d.cause d.slot (d.baddr.getD (s.ctx x).pc) d.detail ∧ (t.ctx x).fl.defer = rest ∧ (t.ctx x).pc = (s.ctx x).pc := by
  have hexec : execDeferredTrap x s = event "DEFERRED_TRAP" ((s.ctx x).active && !(s.ctx x).doneWait && !(s.ctx x).turning)
      (((s.lapse x).modFl x fun f => { f with defer := rest }).takeTrap x d.cause d.slot (d.baddr.getD (s.ctx x).pc) d.detail false false
        (if d.baddr.isSome then d.delay else (s.ctx x).delayed)) := by
    simp only [execDeferredTrap, hd, hreg]
    rfl
  obtain ⟨n, hlapse⟩ := ctx_lapse s x
  have hctx : ((s.lapse x).modFl x fun f => { f with defer := rest }).ctx x = _ := ((ctx_modCtx ..).trans (if_pos rfl)).trans (by rw [hlapse])
  refine does_event hexec (by simp [hact, hdone, hturn]) ⟨?_, ?_, ?_⟩
  · have hstop := stopped_takeTrap ((s.lapse x).modFl x fun f => { f with defer := rest }) x d.cause d.slot (d.baddr.getD (s.ctx x).pc) d.detail false false
      (if d.baddr.isSome then d.delay else (s.ctx x).delayed)
    rw [hctx] at hstop
    exact hstop
  · rw [ctx_takeTrap, if_pos rfl, hctx]
  · rw [ctx_takeTrap, if_pos rfl, hctx]

theorem does_breakpointStop {n : Nat} (hn : (s.ctx x).pr.breakAt (s.ctx x).pc = some n) (hact : (s.ctx x).active = true) (hst : (s.ctx x).pr.st = .running)
    (hnb : (s.ctx x).pr.nb = false) (hdone : (s.ctx x).doneWait = false) (hturn : (s.ctx x).turning = false) : Does (.breakpointStop x) s fun t =>
      Stopped t x (s.ctx x).regs 0x09 0 (s.ctx x).pc n ∧ (t.ctx x).region = (s.ctx x).region ∧ (t.ctx x).pc = (s.ctx x).pc ∧ sameBytes s t := by
  have hexec : execBreakpointStop x s = event "BREAKPOINT_STOP"
      ((s.ctx x).active && (s.ctx x).pr.st == .running && !(s.ctx x).pr.nb && !(s.ctx x).doneWait && !(s.ctx x).turning)
      (s.takeTrap x 0x09 0 (s.ctx x).pc n true false (s.ctx x).delayed) := by
    simp only [execBreakpointStop, hn]
  refine does_event hexec (by simp [hact, hst, hnb, hdone, hturn]) ⟨stopped_takeTrap .., ?_, ?_, sameBytes_takeTrap ..⟩
  all_goals rw [ctx_takeTrap, if_pos rfl]

theorem does_budgetOverrun (hact : (s.ctx x).active = true) (hover : (s.ctx x).pr.overrun = true) (hreg : (s.ctx x).region = none)
    (hbtw : (s.ctx x).between = true) (hpre : (s.ctx x).pr.pre = none) (hdef : (s.ctx x).fl.defer = []) (hdone : (s.ctx x).doneWait = false) :
    Does (.budgetOverrun x) s fun t => Stopped t x (s.ctx x).regs 0x0B 0 (s.ctx x).pc (s.ctx x).pr.used ∧ (t.ctx x).pr.overrun = false := by
  obtain ⟨n, hlapse⟩ := ctx_lapse s x
  have hctx : ((s.lapse x).modPr x fun p => { p with overrun := false }).ctx x = _ := ((ctx_modCtx ..).trans (if_pos rfl)).trans (by rw [hlapse])
  refine does_event (n := "BUDGET_OVERRUN") rfl (by simp [hact, hover, hreg, hbtw, hpre, hdef, hdone]) ⟨?_, ?_⟩
  · have hstop := stopped_takeTrap ((s.lapse x).modPr x fun p => { p with overrun := false }) x 0x0B 0 (s.ctx x).pc (s.ctx x).pr.used false false
      (s.ctx x).delayed
    rw [hctx] at hstop
    exact hstop
  · rw [ctx_takeTrap, if_pos rfl, hctx]

/-! ## STOPREQ (R288) -/

/-- Taking the core's issue slot, or leaving it, reaches no context and no byte. -/
theorem ctx_mayTakeSlot (u : State) (x y : CtxId) (p : Prop) [Decidable p] : (if p then u.takeSlot x else u).ctx y = u.ctx y := by
  split
  · exact ctx_takeSlot ..
  · rfl

theorem sameBytes_mayTakeSlot (u : State) (x : CtxId) (p : Prop) [Decidable p] : sameBytes u (if p then u.takeSlot x else u) := by
  split
  · exact sameBytes_trans (sameBytes_modCore _ _ _) (sameBytes_tally ..)
  · exact sameBytes_refl u

/-- A resumed context that STOPREQ does not hold: nothing of it changes but its state of R33 and its stop. -/
theorem ctx_unstop (h : (s.ctx x).pr.stopreq = false) :
    ∃ st blk, (s.unstop x).ctx x = { s.ctx x with pr := { (s.ctx x).pr with stopped := false, st := st, blk := blk } } := by
  have hctx : ∀ f : Priv → Priv, (s.modPr x f).ctx x = { s.ctx x with pr := f (s.ctx x).pr } := fun f => (ctx_modCtx ..).trans (if_pos rfl)
  unfold State.unstop
  dsimp only
  rw [if_neg (by rw [show ((s.core x.coreId).ctx x.cx).pr.stopreq = false from h]; exact Bool.false_ne_true)]
  exact ⟨_, _, (ctx_mayTakeSlot ..).trans (hctx _)⟩

theorem unstop_held (h : (s.ctx x).pr.stopreq = true) : s.unstop x = s := if_pos h

theorem sameBytes_unstop (s : State) (x : CtxId) : sameBytes s (s.unstop x) := by
  unfold State.unstop
  dsimp only
  split
  · exact sameBytes_refl s
  · exact sameBytes_trans (sameBytes_modCtx ..) (sameBytes_mayTakeSlot ..)

theorem writeStopreq_true (s : State) (x : CtxId) : s.writeStopreq x true =
    if (s.ctx x).pr.st == .ready || (s.ctx x).pr.st == .stalled || (s.ctx x).pr.st == .parked
    then (s.modPr x fun p => { p with stopreq := true, goPend := p.goPend && true }).stop x
    else s.modPr x fun p => { p with stopreq := true, goPend := p.goPend && true } := rfl

theorem writeStopreq_false (s : State) (x : CtxId) : s.writeStopreq x false =
    if (s.ctx x).pr.goPend && (s.ctx x).pr.stopped then (s.modPr x fun p => { p with stopreq := false, goPend := p.goPend && false }).unstop x
    else s.modPr x fun p => { p with stopreq := false, goPend := p.goPend && false } := rfl

/-- A write of STOPREQ changes nothing of its context but the block of R287, where it stands; one that sets it stops a context that waits. -/
theorem ctx_writeStopreq (s : State) (x : CtxId) (v : Bool) : ∃ p, (s.writeStopreq x v).ctx x = { s.ctx x with pr := p } ∧ p.stopreq = v
    ∧ (v = true → ((s.ctx x).pr.st = .ready ∨ (s.ctx x).pr.st = .stalled ∨ (s.ctx x).pr.st = .parked) → p.stopped = true) := by
  have hctx : ∀ f : Priv → Priv, (s.modPr x f).ctx x = { s.ctx x with pr := f (s.ctx x).pr } := fun f => (ctx_modCtx ..).trans (if_pos rfl)
  cases v with
  | true =>
    rw [writeStopreq_true]
    split
    · exact ⟨_, by rw [ctx_stop, if_pos rfl, hctx], rfl, fun _ _ => rfl⟩
    · next h => exact ⟨_, hctx _, rfl, fun _ hst => absurd (by simpa [or_assoc] using hst) h⟩
  | false =>
    rw [writeStopreq_false]
    split
    · obtain ⟨st, blk, hu⟩ := ctx_unstop (s := s.modPr x fun p => { p with stopreq := false, goPend := p.goPend && false }) (x := x) (by rw [hctx])
      exact ⟨_, by rw [hu, hctx], rfl, fun h => absurd h Bool.false_ne_true⟩
    · exact ⟨_, hctx _, rfl, fun h => absurd h Bool.false_ne_true⟩

theorem does_ctxctlStopreq (v : Bool) (hrel : s.released x.cl = true) : Does (.ctxctlStopreq x v) s fun t =>
    (t.ctx x).pr.stopreq = v ∧ (t.ctx x).regs = (s.ctx x).regs ∧ (t.ctx x).pc = (s.ctx x).pc
      ∧ (v = true → ((s.ctx x).pr.st = .ready ∨ (s.ctx x).pr.st = .stalled ∨ (s.ctx x).pr.st = .parked) → (t.ctx x).pr.stopped = true) := by
  obtain ⟨p, hctx, hreq, hstop⟩ := ctx_writeStopreq s x v
  refine does_event (n := "CTXCTL_STOPREQ") rfl hrel ?_
  rw [hctx]
  exact ⟨hreq, rfl, rfl, hstop⟩

theorem does_contextStop (hact : (s.ctx x).active = true) (hreq : (s.ctx x).pr.stopreq = true) : Does (.contextStop x) s fun t =>
    t.ctx x = { s.ctx x with pr := { (s.ctx x).pr with stopped := true } } ∧ (t.core x.coreId).run ≠ some x.cx :=
  does_event (n := "CONTEXT_STOP") rfl (by simp [hact, hreq]) ⟨(ctx_stop ..).trans (if_pos rfl), run_stop s x⟩

/-! ## The four ways to go on (R289) -/

/-- A stopped context as GO with RESUME `n` makes it, but for its stop. -/
def Ctx.going (c : Ctx) (n : Nat) : Ctx :=
  let c : Ctx := { c with pr := { c.pr with resume := n, goPend := c.pr.stopreq, nb := decide (n = 2) } }
  match n with
  | 1 => c.skipBundle
  | 3 => { c with target := none, delay := 0, dslot := 0 }
  | _ => c

/-- Each way changes its context and resumes it. -/
theorem writeGo_going {n : Nat} (hn : n < 4) (hs : (s.ctx x).pr.stopped = true) :
    ∃ u, s.writeGo x n = u.unstop x ∧ u.ctx x = (s.ctx x).going n ∧ sameBytes s u := by
  let s1 := s.modPr x fun p => { p with resume := n, goPend := p.stopreq }
  have hbreaks : ∀ nb, ((s1.breaks x nb).ctx x) = { s.ctx x with pr := { (s.ctx x).pr with resume := n, goPend := (s.ctx x).pr.stopreq, nb := nb } } := by
    intro nb
    refine ((ctx_modCtx ..).trans (if_pos rfl)).trans ?_
    rw [show s1.ctx x = { s.ctx x with pr := { (s.ctx x).pr with resume := n, goPend := (s.ctx x).pr.stopreq } } from (ctx_modCtx ..).trans (if_pos rfl)]
  have hbytes : ∀ nb, sameBytes s (s1.breaks x nb) := fun nb => sameBytes_trans (sameBytes_modCtx s x _) (sameBytes_modCtx ..)
  have hgo : s.writeGo x n = match n with
      | 0 => s1.resumeReplay x
      | 1 => s1.resumeNext x
      | 2 => s1.resumeReplaynb x
      | _ => s1.resumeRedirect x := if_pos (by simp [hs, hn])
  rw [hgo]
  obtain rfl | rfl | rfl | rfl : n = 0 ∨ n = 1 ∨ n = 2 ∨ n = 3 := by omega
  · exact ⟨_, rfl, hbreaks false, hbytes false⟩
  · exact ⟨_, rfl, ((ctx_modCtx ..).trans (if_pos rfl)).trans (congrArg Ctx.skipBundle (hbreaks false)),
      sameBytes_trans (hbytes false) (sameBytes_modCtx ..)⟩
  · exact ⟨_, rfl, hbreaks true, hbytes true⟩
  · exact ⟨_, rfl, ((ctx_modCtx ..).trans (if_pos rfl)).trans
      (congrArg (fun c : Ctx => { c with target := none, delay := 0, dslot := 0 }) (hbreaks false)), sameBytes_trans (hbytes false) (sameBytes_modCtx ..)⟩

/-- Passing a bundle moves the PC, the pending target and the sequencer alone. -/
theorem skipBundle_keeps (c : Ctx) : c.skipBundle.regs = c.regs ∧ c.skipBundle.ct = c.ct ∧ c.skipBundle.pr = c.pr := by
  unfold Ctx.skipBundle
  split
  · unfold Ctx.passBundle
    dsimp only
    split <;> exact ⟨rfl, rfl, rfl⟩
  · unfold Ctx.setLoop
    split <;> exact ⟨rfl, rfl, rfl⟩

theorem going_keeps (c : Ctx) (n : Nat) : (c.going n).regs = c.regs ∧ (c.going n).ct = c.ct
    ∧ (c.going n).pr = { c.pr with resume := n, goPend := c.pr.stopreq, nb := decide (n = 2) } := by
  unfold Ctx.going
  dsimp only
  split
  · exact skipBundle_keeps _
  · exact ⟨rfl, rfl, rfl⟩
  · exact ⟨rfl, rfl, rfl⟩

/-- Outside a loop NEXT passes the bundle at PC: the next in order follows, or the pending target (R149). -/
theorem pc_going_next {c : Ctx} (hl : c.loop = none) :
    (c.delay = 0 → (c.going 1).pc = (c.pc + 16) % 2 ^ 64) ∧ ∀ a, c.delay = 1 → c.target = some a → (c.going 1).pc = a := by
  refine ⟨fun hd => ?_, fun a hd ha => ?_⟩
  · simp [Ctx.going, Ctx.skipBundle, hl, Ctx.passBundle, hd]
  · simp [Ctx.going, Ctx.skipBundle, hl, Ctx.passBundle, hd, ha]

/-- What a resumed context's way makes of it. -/
theorem writeGo_resumes {n : Nat} (hn : n < 4) (hs : (s.ctx x).pr.stopped = true) (hreq : (s.ctx x).pr.stopreq = false) (hl : (s.ctx x).loop = none) :
    let c := s.ctx x
    let t := s.writeGo x n
    (t.ctx x).pr.stopped = false ∧ (t.ctx x).regs = c.regs ∧ (t.ctx x).ct = c.ct ∧ (t.ctx x).pr.resume = n ∧ sameBytes s t
      ∧ (t.ctx x).pr.nb = decide (n = 2)
      ∧ (n = 0 ∨ n = 2 → (t.ctx x).pc = c.pc ∧ (t.ctx x).target = c.target ∧ (t.ctx x).delay = c.delay)
      ∧ (n = 1 → (c.delay = 0 → (t.ctx x).pc = (c.pc + 16) % 2 ^ 64) ∧ ∀ a, c.delay = 1 → c.target = some a → (t.ctx x).pc = a)
      ∧ (n = 3 → (t.ctx x).pc = c.pc ∧ (t.ctx x).target = none ∧ (t.ctx x).delay = 0) := by
  intro c t
  obtain ⟨u, hu, huc, hbytes⟩ := writeGo_going hn hs
  obtain ⟨hregs, hct, hpr⟩ := going_keeps (s.ctx x) n
  obtain ⟨st, blk, hend⟩ := ctx_unstop (s := u) (x := x) (by rw [huc, hpr]; exact hreq)
  have ht : t.ctx x = { c.going n with pr := { (c.going n).pr with stopped := false, st := st, blk := blk } } := by
    rw [show t = u.unstop x from hu, hend, huc]
  rw [ht]
  refine ⟨rfl, hregs, hct, by rw [hpr], ?_, by rw [hpr], ?_, ?_, ?_⟩
  · rw [show t = u.unstop x from hu]
    exact sameBytes_trans hbytes (sameBytes_unstop ..)
  · rintro (rfl | rfl) <;> exact ⟨rfl, rfl, rfl⟩
  · rintro rfl
    exact pc_going_next hl
  · rintro rfl
    exact ⟨rfl, rfl, rfl⟩

/-- STOPREQ holds a context that GO has named. -/
theorem writeGo_held {n : Nat} (hn : n < 4) (hs : (s.ctx x).pr.stopped = true) (hreq : (s.ctx x).pr.stopreq = true) :
    ((s.writeGo x n).ctx x).pr.stopped = true ∧ ((s.writeGo x n).ctx x).pr.goPend = true := by
  obtain ⟨u, hu, huc, -⟩ := writeGo_going hn hs
  obtain ⟨-, -, hpr⟩ := going_keeps (s.ctx x) n
  have hend : s.writeGo x n = u := hu.trans (unstop_held (by rw [huc, hpr]; exact hreq))
  rw [hend, huc, hpr]
  exact ⟨hs, hreq⟩

/-- GO for a context that is not stopped is refused: ERR rises. -/
theorem writeGo_refused {n : Nat} (hn : n < 4) (hs : (s.ctx x).pr.stopped = false) :
    (s.writeGo x n).ctx x = { s.ctx x with pr := { (s.ctx x).pr with resume := n, err := true } } := by
  have hgo : s.writeGo x n = s.modPr x fun p => { p with resume := n % 8, err := true } := if_neg (by simp [hs])
  rw [hgo, modPr_eq, ctx_modCtx, if_pos rfl, Nat.mod_eq_of_lt (by omega)]

/-- The four ways, each under its RESUME. -/
theorem exec_go {n : Nat} {i : Instr} (h : (n, i) ∈ ([(0, .replay x), (1, .next x), (2, .replaynb x), (3, .redirect x)] : List (Nat × Instr))) :
    n < 4 ∧ ∃ nm, exec i s = event nm (s.released x.cl) (s.writeGo x n) := by
  simp only [List.mem_cons, Prod.mk.injEq, List.not_mem_nil, or_false] at h
  obtain ⟨rfl, rfl⟩ | ⟨rfl, rfl⟩ | ⟨rfl, rfl⟩ | ⟨rfl, rfl⟩ := h
  all_goals exact ⟨by decide, _, rfl⟩

end

end Sys2Proof.Machine
end

section
/-! Pre-emption, leaving a context, preloads, and placing a record (R26 to R29, R36, R317, R321 to R325). -/

namespace Sys2Proof.Machine

open Sys2Proof.Claim

/-! ## Leaving a context -/

/-- A continuation has left its context: the context is vacant, and the saved image has what the continuation had. -/
def Left (s : State) (x : CtxId) (t : State) : Prop :=
  t.vacant x ∧ ∃ img, t.saved x.cl (s.ctx x).pr.crec = some img ∧ img.fresh = false ∧ img.ctx.regs = (s.ctx x).regs ∧ img.ctx.pc = (s.ctx x).pc
    ∧ img.ctx.ct = (s.ctx x).ct ∧ img.base = (s.ctx x).pr.fbase ∧ img.size = (s.ctx x).pr.flen

theorem Left.keep {s t u : State} {x : CtxId} (h : Left s x t) (hs : SameHomes t u) : Left s x u := by
  obtain ⟨hv, img, hi⟩ := h
  exact ⟨hs.seats.vacant hv, img, by rw [hs.savedImg]; exact hi⟩

theorem saved_setSaved_same (s : State) (cl crec : Nat) (i : Saved) : (s.setSaved cl crec (some i)).saved cl crec = some i := by
  rw [State.saved, State.setSaved, cl_modCl, if_pos rfl]
  exact tget_tput_same ..

theorem saved_setSaved_none (s : State) (cl crec : Nat) : (s.setSaved cl crec none).saved cl crec = none := by
  rw [State.saved, State.setSaved, cl_modCl, if_pos rfl]
  exact tget_terase_same ..

theorem saved_setCtx (s : State) (x : CtxId) (v : Ctx) (cl crec : Nat) : (s.setCtx x v).saved cl crec = s.saved cl crec :=
  congrArg (tget none · crec) (cl_modCtx_keep (p := Cluster.saved) s x (fun _ => v) cl)

theorem saved_modCore (s : State) (c : CoreId) (f : Core → Core) (cl crec : Nat) : (s.modCore c f).saved cl crec = s.saved cl crec :=
  congrArg (tget none · crec) (cl_modCore_keep (p := Cluster.saved) s c f cl)

theorem saved_leaveMx (s : State) (x : CtxId) (cl crec : Nat) : (s.leaveMx x).saved cl crec = s.saved cl crec := by
  unfold State.leaveMx
  split
  · exact saved_modCore ..
  · rfl

/-- Leaving saves the continuation and empties its context; the record and the lists follow (R28, R318). -/
theorem left_leave (s : State) (x : CtxId) (status cause : Nat) : Left s x (s.leave x status cause) := by
  unfold State.leave
  dsimp only
  generalize hu : State.setCtx _ x (emptied _) = u
  have hleft : Left s x u := by
    subst hu
    refine ⟨vacant_emptied .., _, ((saved_setCtx ..).trans ((saved_modCore ..).trans (saved_leaveMx ..))).trans (saved_setSaved_same ..), ?_⟩
    exact ⟨rfl, rfl, rfl, rfl, rfl, rfl⟩
  refine hleft.keep ?_
  have hrec : SameHomes u (((u.recWr (s.ctx x).pr.crec recPC 8 (s.ctx x).pc).recWr (s.ctx x).pr.crec recCAUSE 2 cause).recWr
      (s.ctx x).pr.crec recSTATUS 1 status) :=
    (SameHomes.refl u).recWr.recWr.recWr
  generalize State.recWr _ _ recSTATUS 1 status = v at hrec ⊢
  have hwait : SameHomes u (match (s.ctx x).wait with
      | some w => v.recWait (s.ctx x).pr.crec w (s.ctx x).ct.wto
      | none => v.recWr (s.ctx x).pr.crec 33 1 (b2n (s.ctx x).ct.wto)) := by
    split
    · exact hrec.recWait
    · exact hrec.recWr
  split
  · exact hwait.recWr.addReady
  · split
    · exact hwait.addWatch
    · exact hwait

/-- A parked continuation leaves with what it has: the wait that stands for a block is no part of it. -/
theorem left_leaveParked (s : State) (x : CtxId) (cause : Nat) (frozen : Bool) : Left s x (s.leaveParked x cause frozen) := by
  unfold State.leaveParked
  dsimp only
  split
  · exact left_leave ..
  · next r _ _ =>
    have hleft := left_leave (s.modCtx x fun c => { c with wait := some (regWait r c.pc) }) x (if frozen = true then stFrozen else stParked) cause
    simp only [Left, ctx_modCtx, if_true] at hleft
    exact hleft
  · exact left_leave ..

/-! ## Pre-emption -/

section

variable {s : State} {x : CtxId}

theorem toNat_bit8 (v : BitVec 64) : v.getLsbD 8 = true ↔ v.toNat / 2 ^ 8 % 2 = 1 := by
  rw [BitVec.getLsbD, Nat.testBit_eq_decide_div_mod_eq, decide_eq_true_eq]

theorem exec_preempt {cl : Nat} {v : BitVec 64} (hrel : s.released cl = true) : exec (.preempt cl v) s = .next
    (if v.toNat / 2 ^ 8 % 2 = 1 then s.askPreempt ⟨cl, v.toNat % 32 / 4, v.toNat % 32 % 4⟩ .software else s) := by
  show event "PREEMPT" (s.released cl) _ = _
  rw [hrel, event_true]

theorem preempt_ignored {cl : Nat} {v : BitVec 64} (hrel : s.released cl = true) (hv : v.getLsbD 8 = false) : exec (.preempt cl v) s = .next s := by
  rw [exec_preempt hrel, if_neg]
  rw [← toNat_bit8, hv]
  exact Bool.false_ne_true

theorem preempt_idle {cl : Nat} {v : BitVec 64} (hrel : s.released cl = true) (hv : v.getLsbD 8 = true)
    (hst : (s.ctx ⟨cl, v.toNat % 32 / 4, v.toNat % 32 % 4⟩).pr.st = .idle) : exec (.preempt cl v) s = .next s := by
  rw [exec_preempt hrel, if_pos ((toNat_bit8 v).mp hv), State.askPreempt, if_pos hst]

theorem does_preempt {cl : Nat} {v : BitVec 64} {y : CtxId} (hy : (⟨cl, v.toNat % 32 / 4, v.toNat % 32 % 4⟩ : CtxId) = y) (hrel : s.released cl = true)
    (hv : v.getLsbD 8 = true) (hst : (s.ctx y).pr.st ≠ .idle) (hpre : (s.ctx y).pr.pre = none) : Does (.preempt cl v) s fun t =>
      t.ctx y = { s.ctx y with pr := { (s.ctx y).pr with pre := some .software } } := by
  refine ⟨_, exec_preempt hrel, ?_⟩
  have hask : s.askPreempt y .software = s.modPr y fun p => { p with pre := preOver p.pre .software } := if_neg hst
  have hctx : (s.modPr y fun p => { p with pre := preOver p.pre .software }).ctx y = _ := (ctx_modCtx ..).trans (if_pos rfl)
  rw [if_pos ((toNat_bit8 v).mp hv), hy, hask]
  simp only [hctx, hpre]
  rfl

/-- Waking keeps a request. -/
theorem wake_pre (c : Ctx) : c.wake.pr.pre = c.pr.pre := by
  unfold Ctx.wake Priv.wake
  split
  · rfl
  · split
    · split <;> rfl
    all_goals rfl

section

variable {src : PreSrc} (hsrc : (s.ctx x).pr.pre = some src) (hact : (s.ctx x).active = true)
  (hstands : (s.ctx x).between = true ∨ (s.ctx x).pr.st = .parked) (hdef : (s.ctx x).fl.defer = []) (hrun : s.clusterRuns x.cl = true)
include hsrc hact hstands hdef hrun

theorem does_preemptionTake_rollback {g : Region} (hg : (s.ctx x).region = some g) : Does (.preemptionTake x) s fun t =>
    RolledBack t x g 0x0A ∧ (t.ctx x).pr.pre = some src ∧ sameBytes s t := by
  have hexec : execPreemptionTake x s = event "PREEMPTION_TAKE"
      ((s.ctx x).active && ((s.ctx x).between || (s.ctx x).pr.st == .parked) && (s.ctx x).fl.defer.isEmpty && s.clusterRuns x.cl)
      (s.rollback x (s.ctx x).pc 0 0x0A 0) := by
    simp only [execPreemptionTake, hsrc, hg]
    rfl
  refine does_event hexec (by simp [hact, hstands, hdef, hrun]) ⟨rolledBack_rollback hg _ _ (by decide) (by decide), ?_, sameBytes_rollback ..⟩
  rw [ctx_rollback hg, if_pos rfl, wake_pre]
  exact hsrc

/-- What becomes of a continuation that a request takes. -/
def State.taken (s : State) (x : CtxId) (src : PreSrc) : State :=
  match src with
  | .cancel => s.completeDone x
  | .freeze => if (s.ctx x).pr.st = .parked then s.leaveParked x 4 true else s.leave x stFrozen 4
  | _ => if (s.ctx x).pr.st = .parked then s.leaveParked x 4 false else s.leave x stReady 4

omit hsrc hact hstands hdef hrun in
/-- Every request but a cancel saves the continuation. -/
theorem left_taken (s : State) (x : CtxId) {src : PreSrc} (h : src ≠ .cancel) : Left s x (s.taken x src) := by
  unfold State.taken
  split
  · exact absurd rfl h
  all_goals
    split
    · exact left_leaveParked ..
    · exact left_leave ..

theorem does_preemptionTake (hreg : (s.ctx x).region = none) (hdone : (s.ctx x).doneWait = false) (hheld : (s.ctx x).heldCmd = [])
    (heng : s.enginesHalt x = true) (hmar : s.marversHalt x = true) (hperf : src = .cancel → (s.ctx x).performed = true) :
    Does (.preemptionTake x) s fun t => (t.ctx x).pr.st = .idle ∧ (t.core x.coreId).run ≠ some x.cx
      ∧ (src ≠ .cancel → ∃ img, t.saved x.cl (s.ctx x).pr.crec = some img ∧ img.fresh = false ∧ img.ctx.regs = (s.ctx x).regs
        ∧ img.ctx.pc = (s.ctx x).pc ∧ img.ctx.ct = (s.ctx x).ct ∧ img.base = (s.ctx x).pr.fbase ∧ img.size = (s.ctx x).pr.flen) := by
  have hexec : execPreemptionTake x s = event "PREEMPTION_TAKE"
      ((s.ctx x).active && s.clusterRuns x.cl && ((s.ctx x).between || (s.ctx x).pr.st == .parked) && (s.ctx x).fl.defer.isEmpty && !(s.ctx x).doneWait
        && (s.ctx x).heldCmd.isEmpty && s.enginesHalt x && s.marversHalt x && (src != .cancel || (s.ctx x).performed)) (s.taken x src) := by
    simp only [execPreemptionTake, hsrc, hreg]
    rfl
  have hcancel : (src != .cancel || (s.ctx x).performed) = true := by
    by_cases h : src = .cancel
    · rw [hperf h, Bool.or_true]
    · rw [bne_iff_ne.mpr h, Bool.true_or]
  refine does_event hexec (by simp [hact, hstands, hdef, hrun, hdone, hheld, heng, hmar, hcancel]) ?_
  by_cases h : src = .cancel
  · subst h
    obtain ⟨hst, hrun'⟩ := vacant_completeDone s x
    exact ⟨hst, hrun', fun h => absurd rfl h⟩
  · obtain ⟨⟨hst, hrun'⟩, himg⟩ := left_taken s x h
    exact ⟨hst, hrun', fun _ => himg⟩

end

/-! ## Eviction (R36) -/

theorem does_eviction {cl k : Nat} (hk : s.victim cl = some k) (hidle : s.anyIdle cl = false) : Does (.eviction cl) s fun t =>
    (t.ctx ⟨cl, k / 4, k % 4⟩).pr.st = .idle
      ∧ ∃ img, t.saved cl (s.ctx ⟨cl, k / 4, k % 4⟩).pr.crec = some img ∧ img.ctx.regs = (s.ctx ⟨cl, k / 4, k % 4⟩).regs := by
  have hexec : execEviction cl s = event "EVICTION" (!s.anyIdle cl) (s.leaveParked ⟨cl, k / 4, k % 4⟩ 1 false) := by
    simp only [execEviction, hk]
  obtain ⟨⟨hst, -⟩, img, hsaved, -, hregs, -⟩ := left_leaveParked s ⟨cl, k / 4, k % 4⟩ 1 false
  exact does_event hexec (by simp [hidle]) ⟨hst, img, hsaved, hregs⟩

/-! ## Preloads (R325) -/

/-- Keys that a filter drops. -/
theorem any_filter_key {α : Type} (t : Tab α) (p : Nat → Bool) {k : Nat} (h : p k = false) :
    (t.filter fun e => p e.1).any (fun e => e.1 == k) = false := by
  rw [List.any_eq_false]
  intro e he hk
  have hp : p e.1 = true := (List.mem_filter.mp he).2
  rw [beq_iff_eq.mp hk, h] at hp
  exact Bool.false_ne_true hp

theorem tget_of_no_key {α : Type} {d : α} {t : Tab α} {k : Nat} (h : t.any (fun e => e.1 == k) = false) : tget d t k = d := by
  have happend := tget_append d t [] k
  rw [List.append_nil, h] at happend
  exact happend

/-- A range taken over from elsewhere leaves every byte outside it. -/
theorem rdByte_splice_outside (m new : Memory) (lo n a : Nat) (h : a < lo ∨ lo + n ≤ a) : rdByte (splice m lo n new) a = rdByte m a := by
  have hmid : (new.filter fun e => decide (lo ≤ e.1 ∧ e.1 < lo + n)).any (fun e => e.1 == a) = false :=
    any_filter_key new (fun j => decide (lo ≤ j ∧ j < lo + n)) (by simp; omega)
  have hlow : tget 0 (m.filter fun e => decide (e.1 < lo)) a = if decide (a < lo) then tget 0 m a else 0 := tget_filter 0 m (fun j => decide (j < lo)) a
  have hhigh : tget 0 (m.filter fun e => decide (lo + n ≤ e.1)) a = if decide (lo + n ≤ a) then tget 0 m a else 0 :=
    tget_filter 0 m (fun j => decide (lo + n ≤ j)) a
  rw [rdByte, splice, List.append_assoc, tget_append, tget_append, hmid, if_neg Bool.false_ne_true, hlow, hhigh]
  obtain hlt | hge := h
  · rw [decide_eq_true hlt, decide_eq_false (p := lo + n ≤ a) (by omega), if_pos rfl, if_neg Bool.false_ne_true]
    split
    · rfl
    · next hkey =>
      have habsent := tget_of_no_key (d := (0 : Byte)) (Bool.eq_false_iff.mpr hkey)
      rw [hlow, decide_eq_true hlt, if_pos rfl] at habsent
      exact habsent.symm
  · have hkey : (m.filter fun e => decide (e.1 < lo)).any (fun e => e.1 == a) = false :=
      any_filter_key m (fun j => decide (j < lo)) (decide_eq_false (by omega))
    rw [hkey, if_neg Bool.false_ne_true, if_pos (decide_eq_true hge)]
    rfl

theorem sameBytesBut_trans {s t u : State} {c : CoreId} {p : Nat → Prop} (h : sameBytesBut s t c p) (h' : sameBytes t u) : sameBytesBut s u c p := by
  obtain ⟨hv, hd, hh, hl, hc⟩ := h
  obtain ⟨hv', hd', hh', hl', hc'⟩ := h'
  exact ⟨fun a => (hv' a).trans (hv a), fun a => (hd' a).trans (hd a), fun ld a => (hh' ld a).trans (hh ld a),
    fun c' a ha => (hl' c' a).trans (hl c' a ha), fun k a => (hc' k a).trans (hc k a)⟩

theorem sameBytesBut_importFrame (s : State) (c : CoreId) (save base n : Nat) :
    sameBytesBut s (s.importFrame c save base n) c fun a => base ≤ a ∧ a < base + n := by
  refine ⟨fun _ => rfl, fun _ => rfl, fun _ _ => rfl, fun c' a ha => ?_, fun k a => ?_⟩
  · rw [State.importFrame, core_modCore]
    split
    · next h => exact (rdByte_splice_outside _ _ _ _ _ (by by_contra hin; exact ha ⟨h, by omega⟩)).trans (by rw [h])
    · rfl
  · exact congrArg (fun m => rdByte m a) (cl_modCore_keep Cluster.code s c _ k)

/-- Where a preload lies: in no frame and no window of its core (R325). -/
theorem preloadBase_free {s : State} {c : CoreId} {n b k : Nat} (h : s.preloadBase c n = some b) (hk : k < 4) :
    let o := (s.core c).ctx k
    o.pr.st = .idle ∨ ((o.pr.fbase + o.pr.flen ≤ b ∨ b + n ≤ o.pr.fbase) ∧ (o.pr.lwlim ≤ b ∨ b + n ≤ o.pr.lwbase)) := by
  intro o
  have hfree := List.find?_some h
  simp only [frameFits, Core.noWindow, Bool.and_eq_true, List.all_eq_true, List.mem_range, Bool.or_eq_true, decide_eq_true_eq, beq_iff_eq] at hfree
  obtain ⟨⟨⟨-, hframe⟩, hwin⟩, -⟩ := hfree
  obtain (hfour | hidle) | hframe := hframe k hk
  · omega
  · exact .inl hidle
  · obtain hidle | hwin := hwin k hk
    · exact .inl hidle
    · exact .inr ⟨hframe, hwin⟩

theorem does_preload {crec : Nat} (hst : (s.ctx x).pr.st ≠ .idle) (hready : (s.readyOf x.cl).contains crec = true) :
    Does (.preload x crec) s fun t => ∃ p,
    tget { crec := 0 } (t.cl x.cl).preload (x.core * 4 + x.cx) = p ∧ p.crec = crec ∧ p.owner = (s.ctx x).pr.crec ∧ (∀ y, t.ctx y = s.ctx y)
      ∧ sameBytesBut s t x.coreId (fun a => p.base ≤ a ∧ a < p.base + p.size)
      ∧ ∀ k, k < 4 → p.size ≠ 0 → let o := (s.core x.coreId).ctx k
        o.pr.st = .idle ∨ ((o.pr.fbase + o.pr.flen ≤ p.base ∨ p.base + p.size ≤ o.pr.fbase)
          ∧ (o.pr.lwlim ≤ p.base ∨ p.base + p.size ≤ o.pr.lwbase)) := by
  let s0 := s.modCl x.cl fun c => { c with preload := terase c.preload (x.core * 4 + x.cx) }
  let n := s.halfFrame x.cl crec
  let p : Preload := { crec := crec, base := (s0.preloadBase x.coreId n).getD 0, size := if (s0.preloadBase x.coreId n).isSome then n else 0
                       owner := (s.ctx x).pr.crec }
  let u := s.importFrame x.coreId (s.saveOf crec) p.base p.size
  have hhomes : SameHomes u (u.modCl x.cl fun c => { c with preload := tput c.preload (x.core * 4 + x.cx) p }) := (SameHomes.refl u).modCl
  refine does_event (n := "PRELOAD") (t := u.modCl x.cl fun c => { c with preload := tput c.preload (x.core * 4 + x.cx) p }) rfl
    (by rw [hready, bne_iff_ne.mpr hst]; rfl) ⟨p, ?_, rfl, rfl, fun y => ?_, ?_, fun k hk hsize => ?_⟩
  · rw [cl_modCl, if_pos rfl]
    exact tget_tput_same ..
  · exact (hhomes.ctx y).trans (ctx_modCore_keep ..)
  · exact sameBytesBut_trans (sameBytesBut_importFrame s x.coreId (s.saveOf crec) p.base p.size) (sameBytes_modCl ..)
  · obtain ⟨b, hb⟩ : ∃ b, s0.preloadBase x.coreId n = some b := by
      by_contra hnone
      exact hsize (if_neg fun h => hnone (Option.isSome_iff_exists.mp h))
    have hp : p = { crec := crec, base := b, size := n, owner := (s.ctx x).pr.crec } := by
      show Preload.mk _ _ _ _ _ = _
      rw [hb]
      rfl
    have hfree := preloadBase_free hb hk
    rw [((SameHomes.refl s).modCl (j := x.cl) (f := fun c => { c with preload := terase c.preload (x.core * 4 + x.cx) })).core x.coreId] at hfree
    rw [hp]
    exact hfree

/-! ## Placing a record (R29, R317) -/

theorem cl_setReady (s : State) (cl : Nat) (rs : List Nat) (k : Nat) : (s.setReady cl rs).cl k = if k = cl then { s.cl cl with ready := rs } else s.cl k :=
  (cl_relink ..).trans (cl_modCl ..)

theorem cl_recWr (s : State) (crec fld n v k : Nat) : (s.recWr crec fld n v).cl k = s.cl k := rfl

theorem ready_setSaved (s : State) (cl crec : Nat) (v : Option Saved) (k : Nat) : ((s.setSaved cl crec v).cl k).ready = (s.cl k).ready :=
  cl_modCl_keep Cluster.ready ..

theorem ready_dropReady (s : State) (cl crec : Nat) : ((s.dropReady cl crec).cl cl).ready.contains crec = false := by
  rw [show (s.dropReady cl crec).cl cl = (s.setReady cl ((s.readyList cl).filter fun r => r != crec)).cl cl from rfl, cl_setReady, if_pos rfl]
  simp

theorem ready_dropWatch (s : State) (cl crec k : Nat) : ((s.dropWatch cl crec).cl k).ready = (s.cl k).ready :=
  (congrArg Cluster.ready (cl_relink ..)).trans (cl_modCl_keep Cluster.ready ..)

/-- A record leaves the lists and the saved images, and its context takes it: what follows reaches no context, image or ready list. -/
theorem seated {u t : State} {x : CtxId} {crec : Nat} {c : Ctx} {f : Cluster → Cluster}
    (ht : t = (((((u.dropReady x.cl crec).dropWatch x.cl crec).setSaved x.cl crec none).setCtx x c).modCl x.cl f).recWr crec recSTATUS 1 stRunning)
    (hf : ∀ l : Cluster, (f l).cores = l.cores ∧ (f l).saved = l.saved ∧ (f l).ready = l.ready) :
    t.ctx x = c ∧ t.saved x.cl crec = none ∧ (t.cl x.cl).ready.contains crec = false := by
  have hhomes : SameHomes ((((u.dropReady x.cl crec).dropWatch x.cl crec).setSaved x.cl crec none).setCtx x c) t := by
    rw [ht]
    exact ((SameHomes.refl _).modCl fun l => ⟨(hf l).1, (hf l).2.1⟩).recWr
  refine ⟨(hhomes.ctx x).trans ((ctx_setCtx ..).trans (if_pos rfl)), ?_, ?_⟩
  · rw [hhomes.savedImg, saved_setCtx, saved_setSaved_none]
  · have hready : (t.cl x.cl).ready = ((u.dropReady x.cl crec).cl x.cl).ready := by
      rw [ht, cl_recWr, cl_modCl_keep Cluster.ready _ x.cl f x.cl fun l => (hf l).2.2, cl_setCtx, if_pos rfl, cluster_setCore_ready,
        ready_setSaved, ready_dropWatch]
    rw [hready, ready_dropReady]

/-- PLACING leaves the context with the record's PC and identifier, its frame's window, and the registers of the save area, or of a start. -/
theorem place_ends (s : State) (x : CtxId) (crec base : Nat) (i : Saved) : ∃ c, (s.place x crec base i).ctx x = c
    ∧ (s.place x crec base i).saved x.cl crec = none ∧ ((s.place x crec base i).cl x.cl).ready.contains crec = false
    ∧ c.pr.st = .ready ∧ c.pc = s.recRd crec recPC 8 / 16 * 16 ∧ c.ct.wid = s.recRd crec recWID 8 ∧ c.pr.lwbase = base ∧ c.pr.lwlim = base + i.size
    ∧ c.pr.fbase = base ∧ c.pr.flen = i.size ∧ c.regs = placedA15 i base (if i.fresh then i.ctx else importCtx s (s.saveOf crec) i.ctx).regs := by
  obtain ⟨u, c, f, hplace, hf, hc⟩ : ∃ (u : State) (c : Ctx) (f : Cluster → Cluster), s.place x crec base i =
        (((((u.dropReady x.cl crec).dropWatch x.cl crec).setSaved x.cl crec none).setCtx x c).modCl x.cl f).recWr crec recSTATUS 1 stRunning
      ∧ (∀ l : Cluster, (f l).cores = l.cores ∧ (f l).saved = l.saved ∧ (f l).ready = l.ready)
      ∧ c.pr.st = .ready ∧ c.pc = s.recRd crec recPC 8 / 16 * 16 ∧ c.ct.wid = s.recRd crec recWID 8 ∧ c.pr.lwbase = base ∧ c.pr.lwlim = base + i.size
      ∧ c.pr.fbase = base ∧ c.pr.flen = i.size ∧ c.regs = placedA15 i base (if i.fresh then i.ctx else importCtx s (s.saveOf crec) i.ctx).regs :=
    ⟨_, _, _, rfl, fun _ => ⟨rfl, rfl, rfl⟩, rfl, rfl, rfl, rfl, rfl, rfl, rfl, rfl⟩
  obtain ⟨hctx, hsaved, hready⟩ := seated hplace hf
  exact ⟨c, hctx, hsaved, hready, hc⟩

theorem does_continuationPlace {crec base : Nat} {i : Saved} (hi : s.saved x.cl crec = some i) (hready : (s.readyOf x.cl).contains crec = true)
    (hplace : s.mayPlaceAt x crec base = true) (hfirst : s.comesFirst x.cl (s.recKey crec) = false) : Does (.continuationPlace x crec base) s fun t =>
      (t.ctx x).pr.st = .ready ∧ (t.ctx x).pc = s.recRd crec recPC 8 / 16 * 16
        ∧ (t.ctx x).ct.wid = s.recRd crec recWID 8 ∧ (t.ctx x).pr.lwbase = base ∧ (t.ctx x).pr.lwlim = base + i.size ∧ (t.ctx x).pr.fbase = base
        ∧ (t.ctx x).pr.flen = i.size ∧ t.saved x.cl crec = none ∧ (t.cl x.cl).ready.contains crec = false
        ∧ (i.fresh = true → ((t.ctx x).regs.ac 15).val = BitVec.ofNat 64 base ∧ ∀ n, (t.ctx x).regs.sc n = i.ctx.regs.sc n) := by
  have hexec : execContinuationPlace x crec base s = event "CONTINUATION_PLACE"
      ((s.readyOf x.cl).contains crec && s.mayPlaceAt x crec base && !s.comesFirst x.cl (s.recKey crec)) (s.place x crec base i) := by
    simp only [execContinuationPlace, hi]
  obtain ⟨c, hctx, hsaved, hgone, hst, hpc, hwid, hbase, hlim, hfb, hfl, hregs⟩ := place_ends s x crec base i
  refine does_event hexec (by rw [hready, hplace, hfirst]; rfl) ?_
  rw [hctx]
  refine ⟨hst, hpc, hwid, hbase, hlim, hfb, hfl, hsaved, hgone, fun hfresh => ?_⟩
  rw [hregs, hfresh, placedA15, hfresh]
  exact ⟨by rw [ac_setA, if_pos rfl]; rfl, fun n => rfl⟩

end

end Sys2Proof.Machine

open Sys2Proof Sys2Proof.Machine Sys2Proof.Claim

/-- Settles O51: each event by what it makes of the context or the record that it names. -/
theorem stopAndPlacementEvents : Obligations.StopAndPlacementEvents := by
  refine ⟨fun s x => ⟨fun d rest hd hact hdone hturn hreg => does_deferredTrap hd hact hdone hturn hreg,
    fun n hn hact hst hnb hdone hturn => does_breakpointStop hn hact hst hnb hdone hturn, does_budgetOverrun, does_ctxctlStopreq, does_contextStop,
    fun n i hrel hi => ?_⟩, fun s x => ⟨fun cl v hrel => ⟨preempt_ignored hrel, does_preempt rfl hrel, preempt_idle hrel⟩,
    fun src hsrc hact hstands hdef hrun => ⟨fun g hg => does_preemptionTake_rollback hsrc hact hstands hdef hrun hg,
      does_preemptionTake hsrc hact hstands hdef hrun⟩,
    fun cl k hk hidle => does_eviction hk hidle, fun crec hst hready => does_preload hst hready,
    fun crec base i hi hready hplace hfirst => does_continuationPlace hi hready hplace hfirst⟩⟩
  obtain ⟨hn, nm, hexec⟩ := exec_go (s := s) hi
  exact ⟨fun hs => does_event hexec hrel (writeGo_refused hn hs), fun hs hreq hl => does_event hexec hrel (writeGo_resumes hn hs hreq hl),
    fun hs hreq => does_event hexec hrel (writeGo_held hn hs hreq)⟩

end

section
/-! The push window, queue descriptors and the job table (R308 to R312, R351). -/

namespace Sys2Proof.Machine

open Sys2Proof.Claim

/-! ## Descriptors and devices -/

theorem wq_modWq (s : State) (q k : Nat) (f : WQueue → WQueue) : (s.modWq q f).wq k = if k = q then f (s.wq q) else s.wq k := tget_tmod ..
theorem ld_modLd (s : State) (l k : Nat) (f : Ld → Ld) : (s.modLd l f).ld k = if k = l then f (s.ld l) else s.ld k := tget_tmod ..

/-- A record that becomes a Head leaves every descriptor. -/
theorem wqs_headUp (s : State) (q : Nat) : (s.headUp q).wqs = s.wqs := by
  unfold State.headUp
  dsimp only
  split
  · rfl
  · split <;> rfl

theorem wq_headUp (s : State) (q k : Nat) : (s.headUp q).wq k = s.wq k := congrArg (tget _ · k) (wqs_headUp s q)

variable {s : State}

/-- One bit of a written word. -/
theorem getLsbD_eq_div (v : BitVec 64) (i : Nat) : v.getLsbD i = (v.toNat / 2 ^ i % 2 ^ 1 == 1) := by
  rw [BitVec.getLsbD, Nat.testBit_eq_decide_div_mod_eq, Nat.pow_one]
  rfl

/-! ## Pushes (R310, R312) -/

section

variable {ld off : Nat} {bytes : List Byte} (hld : ld < 16) (hoff : off < 2 ^ 24) (hbytes : bytes ≠ [])
include hld hoff hbytes

theorem push_enabled : (decide (ld < 16 ∧ off < 2 ^ 24) && !bytes.isEmpty) = true := by
  rw [decide_eq_true ⟨hld, hoff⟩]
  simpa using hbytes

theorem does_push_closed (h : s.pushOpen ld = false) : Does (.push ld off bytes) s fun t => (t.ld ld).errs = (s.ld ld).errs + 1 ∧ t.wqs = s.wqs := by
  refine does_event (n := "PUSH") rfl (push_enabled hld hoff hbytes) ?_
  rw [if_pos (by simp [h]), State.countErr, ld_modLd, if_pos rfl]
  exact ⟨rfl, rfl⟩

variable {q : Nat} (hopen : s.pushOpen ld = true) (hq : s.queuesNamed ld (off / 256) = [q])
include hopen hq

theorem does_push_malformed (h : off % 256 ≠ 0 ∨ bytes.length ≠ 256) : Does (.push ld off bytes) s fun t => t.wq q = { s.wq q with qerr := true } := by
  refine does_event (n := "PUSH") rfl (push_enabled hld hoff hbytes) ?_
  rw [if_neg (by simp [hopen]), if_pos h, hq]
  exact (wq_modWq ..).trans (if_pos rfl)

variable (hal : off % 256 = 0) (hlen : bytes.length = 256)
include hal hlen

/-- A whole record of a queue's own identifier reaches the queue. -/
theorem does_push_whole {p : State → Prop} (h : p (s.accept ld q (leNat bytes))) : Does (.push ld off bytes) s p := by
  refine does_event (n := "PUSH") rfl (push_enabled hld hoff hbytes) ?_
  rw [if_neg (by simp [hopen]), if_neg (by simp [hal, hlen]), hq]
  exact h

omit hld hoff hbytes hopen hq hal hlen

theorem accept_ring (raw : Nat) (hroom : (s.wq q).ring.length < 2 ^ (s.wq q).log2) (hnone : (s.wq q).borrowed = []) :
    ((s.accept ld q raw).wq q).ring = (s.wq q).ring ++ [raw] ∧ ((s.accept ld q raw).wq q).accepted = ((s.wq q).accepted + 1) % 2 ^ 64 := by
  rw [State.accept, if_pos ⟨hroom, by simp [hnone]⟩, wq_headUp, wq_modWq, if_pos rfl]
  exact ⟨rfl, rfl⟩

theorem accept_full (raw : Nat) (hfull : 2 ^ (s.wq q).log2 ≤ (s.wq q).ring.length ∨ (s.wq q).borrowed ≠ []) : s.accept ld q raw =
    if s.borrowedBy ld < (s.ld ld).cquota then
      s.modWq q fun w => { w with borrowed := w.borrowed ++ [raw], accepted := (w.accepted + 1) % 2 ^ 64, lastUsed := s.tick }
    else s.modWq q fun w => { w with refused := (w.refused + 1) % 2 ^ 64 } := by
  refine if_neg fun h => ?_
  obtain ⟨hroom, hnone⟩ := h
  obtain h | h := hfull
  · omega
  · exact h (List.isEmpty_iff.mp hnone)

theorem accept_borrows (raw : Nat) (hfull : 2 ^ (s.wq q).log2 ≤ (s.wq q).ring.length ∨ (s.wq q).borrowed ≠ [])
    (hroom : s.borrowedBy ld < (s.ld ld).cquota) :
    ((s.accept ld q raw).wq q).borrowed = (s.wq q).borrowed ++ [raw] ∧ ((s.accept ld q raw).wq q).accepted = ((s.wq q).accepted + 1) % 2 ^ 64 := by
  rw [accept_full raw hfull, if_pos hroom, wq_modWq, if_pos rfl]
  exact ⟨rfl, rfl⟩

theorem accept_refuses (raw : Nat) (hfull : 2 ^ (s.wq q).log2 ≤ (s.wq q).ring.length ∨ (s.wq q).borrowed ≠ [])
    (hroom : (s.ld ld).cquota ≤ s.borrowedBy ld) :
    (s.accept ld q raw).wq q = { s.wq q with refused := ((s.wq q).refused + 1) % 2 ^ 64 } := by
  rw [accept_full raw hfull, if_neg (by omega), wq_modWq, if_pos rfl]

end

/-! ## Writes of descriptors (R309, R351) -/

/-- A refused write raises REFERR, and leaves every queue. -/
theorem refused_refuse (s : State) (l : Nat) : Refused s (s.refuse l) l := (ld_modLd ..).trans (if_pos rfl)

/-- A write of QCTL is taken: its writer may write it, and its device has room for a valid descriptor. -/
def State.qctlTakes (s : State) (q : Nat) (v : BitVec 64) : Prop :=
  s.queueOpen q (v.toNat / 2 ^ 48 % 2 ^ 4) = true ∧ (v.getLsbD 63 = true → s.queuesOf (v.toNat / 2 ^ 48 % 2 ^ 4) q < 256)

theorem qctlTakes_iff (q : Nat) (v : BitVec 64) : (!s.queueOpen q (v.toNat / 2 ^ 48 % 2 ^ 4)
    || (v.toNat / 2 ^ 63 % 2 ^ 1 == 1 && decide (256 ≤ s.queuesOf (v.toNat / 2 ^ 48 % 2 ^ 4) q))) = true ↔ ¬ s.qctlTakes q v := by
  rw [State.qctlTakes, getLsbD_eq_div]
  cases s.queueOpen q (v.toNat / 2 ^ 48 % 2 ^ 4) <;> cases v.toNat / 2 ^ 63 % 2 ^ 1 == 1 <;> simp

theorem does_qctlWrite_takes {q : Nat} {v : BitVec 64} (hq : q < 4096) (h : s.qctlTakes q v) : Does (.qctlWrite q v) s fun t =>
    (t.wq q).valid = v.getLsbD 63 ∧ (t.wq q).part = v.toNat / 2 ^ 48 % 2 ^ 4 ∧ (t.wq q).jobix = v.toNat / 2 ^ 32 % 2 ^ 8
      ∧ (t.wq q).ceil = v.toNat / 2 ^ 28 % 2 ^ 3 ∧ (t.wq q).log2 = v.toNat / 2 ^ 16 % 2 ^ 4 ∧ (t.wq q).vqid = v.toNat % 2 ^ 16
      ∧ (t.wq q).ring = (s.wq q).ring := by
  refine does_event (n := "QCTL_WRITE") rfl (decide_eq_true hq) ?_
  rw [State.writeQctl, if_neg fun hr => (qctlTakes_iff q v).mp hr h, wq_headUp, wq_modWq, if_pos rfl, getLsbD_eq_div]
  dsimp only
  split <;> exact ⟨rfl, rfl, rfl, rfl, rfl, by rw [Nat.pow_zero, Nat.div_one], rfl⟩

theorem does_qctlWrite_refused {q : Nat} {v : BitVec 64} (hq : q < 4096) (h : ¬ s.qctlTakes q v) : Does (.qctlWrite q v) s fun t =>
    Refused s t ((s.queueBy).getD (v.toNat / 2 ^ 48 % 2 ^ 4)) ∧ t.wqs = s.wqs := by
  refine does_event (n := "QCTL_WRITE") rfl (decide_eq_true hq) ?_
  rw [State.writeQctl, if_pos ((qctlTakes_iff q v).mpr h)]
  exact ⟨refused_refuse .., rfl⟩

theorem does_cancel_open {q : Nat} (hq : q < 4096) (h : s.queueOpen q (s.wq q).part = true) : Does (.cancel q) s fun t =>
    (t.wq q).ring = [] ∧ (t.wq q).borrowed = [] := by
  refine does_event (n := "CANCEL") rfl (decide_eq_true hq) ?_
  rw [State.writeCancel, if_pos h, State.cancelQueue, wq_modWq, if_pos rfl]
  exact ⟨rfl, rfl⟩

theorem does_cancel_refused {q : Nat} (hq : q < 4096) (h : s.queueOpen q (s.wq q).part = false) : Does (.cancel q) s fun t =>
    Refused s t ((s.queueBy).getD (s.wq q).part) ∧ t.wqs = s.wqs := by
  refine does_event (n := "CANCEL") rfl (decide_eq_true hq) ?_
  rw [State.writeCancel, if_neg (by simp [h])]
  exact ⟨refused_refuse .., rfl⟩

theorem does_queueMakeResident {q : Nat} (hres : (s.wq q).resident = false) (hring : (s.wq q).ring ≠ [])
    (hroom : (s.wqs.filter fun e => e.2.resident).length < 1024) : Does (.queueMakeResident q) s fun t =>
      t.wq q = { s.wq q with resident := true, lastUsed := s.tick } := by
  refine ⟨s.modWq q fun w => { w with resident := true, lastUsed := s.tick }, ?_, (wq_modWq ..).trans (if_pos rfl)⟩
  show execQueueMakeResident q s = _
  unfold execQueueMakeResident
  dsimp only
  rw [if_neg (by simp [hres, hring]), if_pos hroom]

/-! ## The job table (R308, R351) -/

theorem does_jobTableWrite_ok {ld ix : Nat} {e : JobEntry} (hld : ld < 16) (hix : ix < 256) (h : s.jobWriteOk ld ix (entryOf e) = true) :
    Does (.jobTableWrite ld ix e) s fun t => tget { } t.jobs ix = entryOf e ∧ t.lds = s.lds := by
  refine does_event (n := "JOB_TABLE_WRITE") rfl (decide_eq_true ⟨hld, hix⟩) ?_
  rw [if_pos h]
  exact ⟨tget_tput_same .., rfl⟩

theorem does_jobTableWrite_refused {ld ix : Nat} {e : JobEntry} (hld : ld < 16) (hix : ix < 256) (h : s.jobWriteOk ld ix (entryOf e) = false) :
    Does (.jobTableWrite ld ix e) s fun t => t.jobs = s.jobs ∧ t.ld ld = { s.ld ld with referr := true, errs := (s.ld ld).errs + 1 } := by
  refine does_event (n := "JOB_TABLE_WRITE") rfl (decide_eq_true ⟨hld, hix⟩) ?_
  rw [if_neg (by simp [h]), State.countErr, State.refuse, ld_modLd, if_pos rfl, ld_modLd, if_pos rfl]
  exact ⟨rfl, rfl⟩

theorem does_jobSlotUpdate {cl slot ix : Nat} {o : JobSlot} (ho : tget { } (s.cl cl).jobs slot = o) (hix : o.ix = some ix) (hteams : 0 < o.teams)
    (hstale : o.stale.isSome = true) : Does (.jobSlotUpdate cl slot) s fun t => tget { } (t.cl cl).jobs slot = o.copy ix (tget { } s.jobs ix) := by
  have hexec : execJobSlotUpdate cl slot s = event "JOB_SLOT_UPDATE" (decide (0 < o.teams) && o.stale.isSome)
      (s.modCl cl fun c => { c with jobs := tput c.jobs slot (o.copy ix (tget { } s.jobs ix)) }) := by
    simp only [execJobSlotUpdate, ho, hix]
  refine does_event hexec (by simp [hteams, hstale]) ?_
  rw [cl_modCl, if_pos rfl]
  exact tget_tput_same ..

end Sys2Proof.Machine
end

section
/-! Launches from the head of a queue to their completion (R19, R22, R30, R305 to R307, R313 to R316). -/

namespace Sys2Proof.Machine

open Sys2Proof.Claim

/-! ## Launches and teams as they stand -/

theorem launch_setLaunch (s : State) (l k : Nat) (v : Launch) : (s.setLaunch l v).launch k = if k = l then some v else s.launch k := tget_tput ..

theorem team_setTeam_same (s : State) (cl k : Nat) (v : Team) : (s.setTeam cl k v).team cl k = some v := by
  rw [State.team, State.setTeam, cl_modCl, if_pos rfl]
  exact tget_tput_same ..

/-- No launch has changed, and no team of any cluster. -/
structure SameTables (s t : State) : Prop where
  launches : t.launches = s.launches
  teams : ∀ k, (t.cl k).teams = (s.cl k).teams

namespace SameTables

variable {s t u : State}

theorem refl (s : State) : SameTables s s := ⟨rfl, fun _ => rfl⟩

theorem frame (h : SameTables s t) (hl : u.launches = t.launches := by rfl) (hc : u.clusters = t.clusters := by rfl) : SameTables s u :=
  ⟨hl.trans h.launches, fun k => (congrArg Cluster.teams (show u.cl k = t.cl k from congrArg (tget _ · k) hc)).trans (h.teams k)⟩

theorem modCl (h : SameTables s t) {j : Nat} {f : Cluster → Cluster} (hf : ∀ c, (f c).teams = c.teams := by exact fun _ => rfl) :
    SameTables s (t.modCl j f) := ⟨h.launches, fun k => (cl_modCl_keep Cluster.teams t j f k hf).trans (h.teams k)⟩

theorem setCtx (h : SameTables s t) {x : CtxId} {v : Ctx} : SameTables s (t.setCtx x v) :=
  ⟨h.launches, fun k => (cl_modCtx_keep Cluster.teams t x (fun _ => v) k).trans (h.teams k)⟩

theorem setSaved (h : SameTables s t) {cl crec : Nat} {v : Option Saved} : SameTables s (t.setSaved cl crec v) := h.modCl

theorem modHome (h : SameTables s t) {w : Home} {f : Ctx → Ctx} : SameTables s (t.modHome w f) := by
  unfold State.modHome
  split
  · exact h
  · cases w with
    | live x => exact h.setCtx
    | saved cl crec =>
      unfold State.setHome
      dsimp only
      split
      · exact h
      · exact h.setSaved

theorem spawnStatus (h : SameTables s t) {o : Option (SpawnBy × Nat × Nat)} {v : Nat} : SameTables s (t.spawnStatus o v) := by
  unfold State.spawnStatus
  split
  · exact h
  · split
    · exact h
    · exact h.modHome

theorem msgRetire (h : SameTables s t) {tag : Option Nat} : SameTables s (t.msgRetire tag) := by
  unfold State.msgRetire
  split
  · exact h
  · split
    · exact h
    · split <;> exact h.frame

theorem addReady (h : SameTables s t) {cl crec : Nat} : SameTables s (t.addReady cl crec) := by
  have hlaunches : ∀ (v : State) rs, (relink v rs).launches = v.launches := by
    intro v rs
    induction rs generalizing v with
    | nil => rfl
    | cons a rs ih => cases rs with
      | nil => rfl
      | cons b rs => exact ih _
  exact h.modCl.frame (hlaunches _ _) (clusters_relink _ _)

theorem team (h : SameTables s t) (cl k : Nat) : t.team cl k = s.team cl k := congrArg (tget none · k) (h.teams cl)
theorem launch (h : SameTables s t) (l : Nat) : t.launch l = s.launch l := congrArg (tget none · l) h.launches

end SameTables

/-! ## A new record (R26, R27) -/

/-- What a record that has just been made starts from (R27). -/
def StartsFrom (raw : Nat) (q : SpawnReq) (img : Saved) : Prop :=
  img.fresh = true ∧ img.ctx.pc = q.entry ∧ img.ctx.pr.mb = lMB raw ∧ img.ctx.ct.wid = q.wid ∧ ∃ a14, img.ctx.regs = startRegs (lArgp raw) a14 q.args

/-- A team's first free record becomes the continuation's: its image, and its place at the end of the ready list. -/
theorem newRecord_makes {s : State} {cl k i : Nat} {tm : Team} {rest : List Nat} (ht : s.team cl k = some tm) (hf : tm.free = i :: rest) (q : SpawnReq) :
    ∃ u img, s.newRecord cl k q = (u.setSaved cl (recAddr (s.lraw tm.launch) tm.vbase i) (some img)).addReady cl (recAddr (s.lraw tm.launch) tm.vbase i)
      ∧ SameTables (s.setTeam cl k { tm with free := rest }) u ∧ (∀ j, (u.cl j).ready = (s.cl j).ready) ∧ StartsFrom (s.lraw tm.launch) q img := by
  unfold State.newRecord
  simp only [ht, hf]
  refine ⟨_, _, rfl, (SameTables.refl _).frame, fun j => ?_, rfl, rfl, rfl, rfl, _, rfl⟩
  exact cl_modCl_keep Cluster.ready s cl (fun c => { c with teams := tput c.teams k (some { tm with free := rest }) }) j

theorem newRecord_tables {s : State} {cl k i : Nat} {tm : Team} {rest : List Nat} (ht : s.team cl k = some tm) (hf : tm.free = i :: rest) (q : SpawnReq) :
    SameTables (s.setTeam cl k { tm with free := rest }) (s.newRecord cl k q) := by
  obtain ⟨u, img, hmake, hu, -⟩ := newRecord_makes ht hf q
  rw [hmake]
  exact hu.setSaved.addReady

/-! ## Dependences (R307) -/

theorem getElem?_listSet_same {α : Type} {l : List α} {k : Nat} {a v : α} (h : l[k]? = some a) : (listSet l k v)[k]? = some v := by
  induction l generalizing k with
  | nil => simp at h
  | cons b l ih => cases k with
    | zero => rfl
    | succ k => exact ih (by simpa using h)

section

variable {s : State} {l : Nat} {v : Launch} (hv : s.launch l = some v)
include hv

theorem does_dependenceMet {d : Nat} {k : Dep} (hk : v.deps[d]? = some k) (hst : v.st = .head) (hmet : k.met = false)
    (hadv : k.adv = true ∨ genOf (s.rdVault k.off 16) ≠ k.gen) : Does (.dependenceMet l d) s fun t =>
      ∃ w k', t.launch l = some w ∧ w.deps[d]? = some k' ∧ k'.met = true ∧ k'.err = (decide (s.rdVault k.off 16 / 2 ^ 88 % 2 = 1) && !k.errok) := by
  have hexec : execDependenceMet l d s = event "DEPENDENCE_MET" (v.st == .head && !k.met && (k.adv || genOf (s.rdVault k.off 16) != k.gen))
      (s.setLaunch l { v with deps := listSet v.deps d { k with met := true, err := s.rdVault k.off 16 / 2 ^ 88 % 2 == 1 && !k.errok } }) := by
    simp only [execDependenceMet, hv, hk]
  have hok : (v.st == .head && !k.met && (k.adv || genOf (s.rdVault k.off 16) != k.gen)) = true := by
    rw [hst, hmet]
    simpa using hadv
  exact does_event hexec hok ⟨_, _, (launch_setLaunch ..).trans (if_pos rfl), getElem?_listSet_same hk, rfl, rfl⟩

/-! ## Taking a Head (R313, R314) -/

omit hv in
/-- A free slot is not that of a launch which has not been reported, where some slot up to the table's length stands empty. -/
theorem freeSlot_ne {u : State} {l i : Nat} {w : Launch} (hw : u.launch l = some w) (hr : w.reported = false) (hi : i ≤ u.launches.length)
    (hempty : u.launch i = none) : u.freeSlot ≠ l := by
  unfold State.freeSlot
  cases hfind : (List.range (u.launches.length + 1)).find? fun j => match u.launch j with
      | none => true
      | some w => w.reported with
  | none =>
    have hnot := List.find?_eq_none.mp hfind i (List.mem_range.mpr (Nat.lt_succ_of_le hi))
    simp [hempty] at hnot
  | some j =>
    have hj := List.find?_some hfind
    intro h
    rw [show j = l from h, hw] at hj
    exact Bool.false_ne_true (hr.symm.trans hj)

omit hv in
theorem length_tput {α : Type} (t : Tab α) (k : Nat) (a : α) : t.length ≤ (tput t k a).length := by
  induction t with
  | nil => exact Nat.zero_le _
  | cons e t ih =>
    unfold tput
    split
    · exact Nat.le_succ _
    · split
      · exact Nat.le_refl _
      · exact Nat.succ_le_succ ih

omit hv in
/-- The next Head of a queue takes a slot of its own. -/
theorem launch_headUp {u : State} {l i : Nat} {w : Launch} (hw : u.launch l = some w) (hr : w.reported = false) (hi : i ≤ u.launches.length)
    (hempty : u.launch i = none) (q : Nat) : (u.headUp q).launch l = some w := by
  unfold State.headUp
  dsimp only
  split
  · exact hw
  · split
    · exact hw
    · rw [launch_setLaunch, if_neg (freeSlot_ne hw hr hi hempty).symm, hw]

/-- A launch that has been checked with a status: it runs, or has ended. -/
def Launch.checked (v : Launch) (st tick : Nat) : Launch := { v with st := if st = 0 then .running else .ended st, tick := tick, deps := [] }

/-- A queue whose Head has been taken. -/
def WQueue.headTaken (tick : Nat) (w : WQueue) : WQueue := { w.popHead with taken := (w.taken + 1) % 2 ^ 64, lastUsed := tick }

/-- The Head leaves its queue, and the rotations move on; the queue's next record is not yet a Head. -/
def State.headTaken (s : State) (l : Nat) (v : Launch) (st : Nat) : State :=
  let u := (s.setLaunch l (v.checked st s.tick)).modWq v.queue (WQueue.headTaken s.tick)
  { u with rotLd := ((s.wq v.queue).part + 1) % 16, rotQ := tset 0 u.rotQ (s.wq v.queue).part ((v.queue + 1) % 4096) }

omit hv in
theorem launch_headTaken (s : State) (l : Nat) (v : Launch) (st k : Nat) :
    (s.headTaken l v st).launch k = if k = l then some (v.checked st s.tick) else s.launch k := launch_setLaunch ..

omit hv in
theorem taken_headTaken (s : State) (l : Nat) (v : Launch) (st : Nat) :
    ((s.headTaken l v st).wq v.queue).taken = ((s.wq v.queue).taken + 1) % 2 ^ 64 := by
  show (tget { } (tmod { } s.wqs v.queue (WQueue.headTaken s.tick)) v.queue).taken = _
  rw [tget_tmod, if_pos rfl]
  rfl

theorem does_launchCheck (hnext : s.nextHead = some l) (hr : v.reported = false) (hfree : ∃ i, i ≤ s.launches.length ∧ s.launch i = none) {st : Nat}
    (hst : checkStatus (s.launchJob l) v.raw (v.deps.any fun d => d.err) = st) :
    Does (.launchCheck l) s fun t => ∃ w, t.launch l = some w ∧ w.raw = v.raw ∧ (st = 0 → w.st = .running) ∧ (st ≠ 0 → w.st = .ended st)
      ∧ (t.wq v.queue).taken = ((s.wq v.queue).taken + 1) % 2 ^ 64 := by
  obtain ⟨i, hi, hempty⟩ := hfree
  have hexec : execLaunchCheck l s = event "LAUNCH_CHECK" (s.nextHead == some l) ((s.headTaken l v st).headUp v.queue) := by
    simp only [execLaunchCheck, hv, hst]
    rfl
  have hil : i ≠ l := by
    rintro rfl
    rw [hv] at hempty
    exact Option.some_ne_none _ hempty
  have hhead := launch_headUp ((launch_headTaken s l v st l).trans (if_pos rfl)) hr (hi.trans (length_tput s.launches l (some (v.checked st s.tick))))
    ((launch_headTaken ..).trans ((if_neg hil).trans hempty)) v.queue
  refine does_event hexec (by rw [hnext, beq_self_eq_true]) ⟨_, hhead, rfl, fun h => if_pos h, fun h => if_neg h, ?_⟩
  rw [wq_headUp, taken_headTaken]

end

/-! ## Teams (R22, R30, R315, R316) -/

/-- What binding gives a team, and its members leave as it is. -/
def Team.boundAs (l key vbase js tick items : Nat) (tm : Team) : Prop :=
  tm.launch = l ∧ tm.key = key ∧ tm.vbase = vbase ∧ tm.jslot = js ∧ tm.bound = tick ∧ tm.items = items

/-- A team stands, with what binding gave it, and the launches are `ls`. -/
def TeamStands (cl k l key vbase js tick items : Nat) (ls : Tab (Option Launch)) (t : State) : Prop :=
  t.launches = ls ∧ ∃ tm, t.team cl k = some tm ∧ tm.boundAs l key vbase js tick items

section

variable {cl k l key vbase js tick items : Nat} {ls : Tab (Option Launch)} {t u : State}

theorem TeamStands.keep (h : TeamStands cl k l key vbase js tick items ls t) (hu : SameTables t u) : TeamStands cl k l key vbase js tick items ls u := by
  obtain ⟨hl, tm, ht, hrest⟩ := h
  exact ⟨hu.launches.trans hl, tm, (hu.team cl k).trans ht, hrest⟩

/-- Spawns that join their team take records of it, or learn that none is free: the team stands (R30). -/
theorem TeamStands.enrol (h : TeamStands cl k l key vbase js tick items ls t) (qs : List SpawnReq) :
    TeamStands cl k l key vbase js tick items ls (t.enrol cl k qs) := by
  refine List.foldlRecOn qs _ h fun t ht q _ => ?_
  obtain ⟨hl, tm, htm, hrest⟩ := ht
  rw [htm]
  dsimp only
  cases hfree : tm.free with
  | nil => exact TeamStands.keep ⟨hl, tm, htm, hrest⟩ (SameTables.refl t).spawnStatus.msgRetire
  | cons i rest =>
    let tm' : Team := { tm with live := tm.live + 1 }
    have htables := newRecord_tables (team_setTeam_same t cl k tm') hfree q
    have hset : TeamStands cl k l key vbase js tick items ls ((t.setTeam cl k tm').setTeam cl k { tm' with free := rest }) :=
      ⟨hl, _, team_setTeam_same .., hrest⟩
    rw [if_neg (by simp)]
    refine (hset.keep htables).keep ?_
    rw [← hfree]
    exact (SameTables.refl _).spawnStatus

end

section

variable {s : State} {l : Nat} {v : Launch} {cl vbase key js : Nat} {own : Bool}

/-- A launch once its next team has been bound. -/
def Launch.bound (v : Launch) (key : Nat) (own : Bool) : Launch :=
  { v with
    nextTeam := v.nextTeam + b2n own, liveTeams := v.liveTeams + 1, pendingNew := v.pendingNew.filter fun q => teamKey v.raw q.wid != key
    st := if teamCount v.raw ≤ v.nextTeam + b2n own then .draining else v.st }

theorem TeamStands.ofTables {s u : State} {cl k l key vbase js tick items : Nat} {tm : Team} (hu : SameTables (s.setTeam cl k tm) u)
    (hb : tm.boundAs l key vbase js tick items) (w : Launch) :
    TeamStands cl k l key vbase js tick items (tput s.launches l (some w)) (u.setLaunch l w) :=
  ⟨congrArg (tput · l (some w)) hu.launches, tm, (hu.team cl k).trans (team_setTeam_same ..), hb⟩

/-- Binding leaves the team, and its launch's counts. -/
theorem bindTeam_stands (s : State) (l : Nat) (v : Launch) (key : Nat) (own : Bool) (cl vbase js : Nat) : ∃ k,
    TeamStands cl k l key vbase js s.tick (if own then teamSize v.raw else 0) (tput s.launches l (some (v.bound key own)))
      (s.bindTeam l v key own cl vbase js) := by
  unfold State.bindTeam
  extract_lets raw k mine n tm s1 ix s2 s3 next s4
  have h2 : SameTables s1 s2 := (SameTables.refl s1).modCl
  have h3 : SameTables s1 s3 := by
    show SameTables s1 (if lSchedv raw then _ else s2)
    split
    · exact h2.modCl.modCl.modCl
    · exact h2
  exact ⟨k, (TeamStands.ofTables h3 ⟨rfl, rfl, rfl, rfl, rfl, rfl⟩ (v.bound key own)).enrol mine⟩

variable {s : State} {l : Nat} {v : Launch} {cl vbase key js : Nat} {own : Bool}

section

variable (hv : s.launch l = some v) (hkey : s.createKey l = some (key, own)) (hslot : s.slotFor cl (s.launchJob l) = some js)
  (hbest : s.bestCluster l = some cl) (hfits : s.fitsVault cl v.raw vbase = true)
  (hfirst : ∀ k, s.createsFirst k l = true → (s.createKey k).isSome = true → s.bestCluster k = none)
include hv hkey hslot hbest hfits hfirst

theorem does_teamCreate {p : State → Prop}
    (h : p (if lSchedv v.raw && !s.schedOk cl (lSched v.raw) then s.setLaunch l { v with bad := 0x06, st := .draining }
    else s.bindTeam l v key own cl vbase js)) : Does (.teamCreate l cl vbase) s p := by
  have hexec : execTeamCreate l cl vbase s = event "TEAM_CREATE"
      (s.bestCluster l == some cl && s.fitsVault cl v.raw vbase
        && !((s.launches.map Prod.fst).any fun k => s.createsFirst k l && (s.createKey k).isSome && (s.bestCluster k).isSome))
      (if lSchedv v.raw && !s.schedOk cl (lSched v.raw) then s.setLaunch l { v with bad := 0x06, st := .draining }
       else s.bindTeam l v key own cl vbase js) := by
    simp only [execTeamCreate, hv, hkey, hslot]
  have hnone : ((s.launches.map Prod.fst).any fun k => s.createsFirst k l && (s.createKey k).isSome && (s.bestCluster k).isSome) = false := by
    refine List.any_eq_false.mpr fun k _ hk => ?_
    simp only [Bool.and_eq_true] at hk
    obtain ⟨⟨hfst, hsome⟩, hbk⟩ := hk
    rw [hfirst k hfst hsome] at hbk
    exact Bool.false_ne_true hbk
  exact does_event hexec (by rw [hbest, hfits, hnone, beq_self_eq_true]; rfl) h

theorem does_teamCreate_badSched (hs : lSchedv v.raw = true) (hok : s.schedOk cl (lSched v.raw) = false) : Does (.teamCreate l cl vbase) s fun t =>
    t.launch l = some { v with bad := 0x06, st := .draining } := by
  refine does_teamCreate hv hkey hslot hbest hfits hfirst ?_
  rw [if_pos (by simp [hs, hok]), launch_setLaunch, if_pos rfl]

theorem does_teamCreate_binds (hok : lSchedv v.raw = false ∨ s.schedOk cl (lSched v.raw) = true) : Does (.teamCreate l cl vbase) s fun t =>
    (∃ w, t.launch l = some w ∧ w.liveTeams = v.liveTeams + 1 ∧ w.nextTeam = v.nextTeam + b2n own)
      ∧ ∃ k tm, t.team cl k = some tm ∧ tm.launch = l ∧ tm.key = key ∧ tm.vbase = vbase ∧ tm.jslot = js ∧ tm.bound = s.tick
        ∧ tm.items = (if own then teamSize v.raw else 0) := by
  refine does_teamCreate hv hkey hslot hbest hfits hfirst ?_
  rw [if_neg (by rcases hok with h | h <;> simp [h])]
  obtain ⟨k, hl, tm, htm, hbound⟩ := bindTeam_stands s l v key own cl vbase js
  refine ⟨⟨v.bound key own, ?_, rfl, rfl⟩, k, tm, htm, hbound⟩
  rw [State.launch, hl]
  exact tget_tput_same ..

end

/-! ## Items (R22) -/

theorem readyList_nil (h : (s.cl cl).ready = []) : s.readyList cl = [] := by
  rw [State.readyList, State.chain, h]
  rfl

theorem ac_startRegs_13 (argp a14 : Nat) : ((startRegs argp a14 []).ac 13).val = BitVec.ofNat 64 argp := by
  show (((Regs.wr _ (.a 13) argp).wr (.a 14) a14).ac 13).val = _
  rw [show ∀ r : Regs, (r.wr (.a 14) a14).ac 13 = r.ac 13 from fun r => by simp [Regs.wr, ac_setA], ac_wr_same]

theorem markItem_ready (s : State) (cl crec k : Nat) : ((s.markItem cl crec).cl k).ready = (s.cl k).ready := ready_setSaved ..

theorem teams_markItem (s : State) (cl crec : Nat) : SameTables s (s.markItem cl crec) := (SameTables.refl s).setSaved

section

variable {team i : Nat} {tm : Team} {rest : List Nat} (hfree : tm.free = i :: rest)
include hfree

/-- A team's next item as a record: it stands at the end of the ready list, and the team counts one item more. -/
theorem item_made (q : SpawnReq) {crec : Nat} (hcrec : recAddr (s.lraw tm.launch) tm.vbase i = crec) :
    let t := ((s.setTeam cl team { tm with nextItem := tm.nextItem + 1 }).newRecord cl team q).markItem cl crec
    (∃ r, (t.cl cl).ready = r ++ [crec] ∧ ((s.cl cl).ready = [] → r = []))
      ∧ t.team cl team = some { tm with nextItem := tm.nextItem + 1, free := rest }
      ∧ ∃ img, t.saved cl crec = some img ∧ StartsFrom (s.lraw tm.launch) q img := by
  intro t
  let s1 := s.setTeam cl team { tm with nextItem := tm.nextItem + 1 }
  obtain ⟨u, img, hmake, htables, hready, hstart⟩ := newRecord_makes (s := s1)
    (team_setTeam_same s cl team { tm with nextItem := tm.nextItem + 1 }) hfree q
  rw [show recAddr (s1.lraw tm.launch) tm.vbase i = crec from hcrec] at hmake
  have hready1 : ∀ j, (s1.cl j).ready = (s.cl j).ready := fun j =>
    cl_modCl_keep Cluster.ready s cl (fun c => { c with teams := tput c.teams team (some { tm with nextItem := tm.nextItem + 1 }) }) j
  have hsaved : (s1.newRecord cl team q).saved cl crec = some img := by
    rw [hmake, (SameHomes.refl _).addReady.savedImg, saved_setSaved_same]
  refine ⟨⟨(u.setSaved cl crec (some img)).readyList cl, ?_, fun hnil => readyList_nil ?_⟩, ?_, { img with item := true }, ?_, hstart⟩
  · rw [show (t.cl cl).ready = ((s1.newRecord cl team q).cl cl).ready from markItem_ready .., hmake, State.addReady, cl_setReady, if_pos rfl]
  · rw [ready_setSaved, hready, hready1, hnil]
  · rw [show t.team cl team = (s1.newRecord cl team q).team cl team from (teams_markItem ..).team .., hmake,
      (htables.setSaved.addReady).team, team_setTeam_same]
  · show ((s1.newRecord cl team q).setSaved cl crec (((s1.newRecord cl team q).saved cl crec).map fun i => { i with item := true })).saved cl crec = _
    rw [hsaved]
    exact saved_setSaved_same ..

/-- What a team's next item is made for. -/
def State.itemReq (s : State) (v : Launch) (tm : Team) : SpawnReq :=
  { wid := itemWid v.raw tm.key tm.nextItem, prio := s.launchPrio tm.launch, entry := lEntry v.raw, args := [], tag := none, origin := none }

theorem nextItem_made (ht : s.team cl team = some tm) (hv : s.launch tm.launch = some v) (hitem : tm.nextItem < tm.items) (hmov : tm.moving = none)
    (hst : v.st = .running ∨ v.st = .draining) : s.nextItem cl team =
      some (((s.setTeam cl team { tm with nextItem := tm.nextItem + 1 }).newRecord cl team (s.itemReq v tm)).markItem cl (recAddr v.raw tm.vbase i),
        recAddr v.raw tm.vbase i) := by
  unfold State.nextItem
  simp only [ht, hfree, hv]
  exact if_pos ⟨hitem, by rw [hmov]; rfl, hst⟩

theorem does_itemCreate (ht : s.team cl team = some tm) (hv : s.launch tm.launch = some v) (hitem : tm.nextItem < tm.items) (hmov : tm.moving = none)
    (hst : v.st = .running ∨ v.st = .draining) (hrun : s.clusterRuns cl = true) {crec : Nat} (hcrec : recAddr v.raw tm.vbase i = crec)
    (hplace : (((s.setTeam cl team { tm with nextItem := tm.nextItem + 1 }).newRecord cl team (s.itemReq v tm)).markItem cl crec).placeable cl crec = true)
    (hfirst : s.comesFirst cl (s.itemKey tm) = false) (hstands : s.itemStands cl (s.launchPrio tm.launch) = false) : Does (.itemCreate cl team) s fun t =>
      (∃ q, (t.cl cl).ready = q ++ [crec] ∧ ((s.cl cl).ready = [] → q = []))
        ∧ (∃ tm', t.team cl team = some tm' ∧ tm'.nextItem = tm.nextItem + 1 ∧ tm'.free = rest)
        ∧ ∃ img, t.saved cl crec = some img ∧ img.fresh = true ∧ img.ctx.pc = lEntry v.raw ∧ img.ctx.pr.mb = lMB v.raw
          ∧ img.ctx.ct.wid = itemWid v.raw tm.key tm.nextItem ∧ (img.ctx.regs.ac 13).val = BitVec.ofNat 64 (lArgp v.raw) := by
  have hnext := nextItem_made hfree ht hv hitem hmov hst
  rw [hcrec] at hnext
  have hraw : s.lraw tm.launch = v.raw := by rw [State.lraw, hv]; rfl
  have hexec : execItemCreate cl team s = event "ITEM_CREATE" true
      (((s.setTeam cl team { tm with nextItem := tm.nextItem + 1 }).newRecord cl team (s.itemReq v tm)).markItem cl crec) := by
    unfold execItemCreate
    simp only [ht, hnext, hrun, hplace, hfirst, hstands]
    rfl
  obtain ⟨hready, hteam, img, hsaved, hfresh, hpc, hmb, hwid, a14, hregs⟩ :=
    item_made (s := s) (cl := cl) (team := team) hfree (s.itemReq v tm) (hraw.symm ▸ hcrec)
  rw [hraw] at hmb hregs
  refine does_event hexec rfl ⟨hready, ⟨_, hteam, rfl, rfl⟩, img, hsaved, hfresh, hpc, hmb, hwid, ?_⟩
  rw [hregs]
  exact ac_startRegs_13 ..

end

end

/-! ## Completion (R306) -/

theorem arrivals_wrDram (s : State) (pa : Nat) (bs : List Byte) : (s.wrDram pa bs).arrivals = s.arrivals := by
  unfold State.wrDram
  split
  · rfl
  · refine List.foldlRecOn (motive := fun t => State.arrivals t = s.arrivals) _ _ rfl fun t ht b _ => ?_
    dsimp only
    split
    · exact ht
    · exact ht

theorem arrivals_wrPhys (s : State) (ld pa : Nat) (bs : List Byte) : (s.wrPhys ld pa bs).arrivals = s.arrivals := by
  unfold State.wrPhys
  split
  · exact arrivals_wrDram ..
  · unfold State.wrHost
    split <;> rfl

/-- The dispatcher's writes make no arrival. -/
theorem arrivals_dispWrite (s : State) (j : JobEnt) (ld va : Nat) (bs : List Byte) : (s.dispWrite j ld va bs).arrivals = s.arrivals := by
  unfold State.dispWrite
  refine List.foldlRecOn (motive := fun acc : State × List Byte => acc.1.arrivals = s.arrivals) _ _ rfl fun acc hacc q _ => ?_
  split
  · exact hacc
  · exact (arrivals_wrPhys ..).trans hacc

theorem arrivals_dropLost (s : State) (l : Nat) : (s.dropLost l).arrivals = s.arrivals :=
  List.foldlRecOn (motive := fun t => State.arrivals t = s.arrivals) _ _ rfl fun _ ht _ _ => ht

theorem sameBytes_dropLost (s : State) (l : Nat) : sameBytes s (s.dropLost l) :=
  List.foldlRecOn (motive := fun t => sameBytes s t) _ _ (sameBytes_refl s) fun _ ht _ _ => sameBytes_trans ht (sameBytes_modCl ..)

/-- The arrival at CSYNC of a launch that ends. -/
def State.csyncArrives (s : State) (j : JobEnt) (raw tick : Nat) : State :=
  if lCsync raw ≠ 0 ∧ vaultRef j (lCsync raw) 16 16 = true then { s with arrivals := s.arrivals ++ [⟨none, lCsync raw, 1, none, none, tick⟩] } else s

theorem sameBytes_csyncArrives (s : State) (j : JobEnt) (raw tick : Nat) : sameBytes s (s.csyncArrives j raw tick) := by
  unfold State.csyncArrives
  split <;> exact sameBytes_refl s

theorem does_launchEnd {s : State} {l st : Nat} {v : Launch} (hv : s.launch l = some v) (hover : s.launchOver l v = some st)
    (hstate : (s.ld (s.queueOf l).part).hstate ≠ 2) (hstores : s.storesLanded (s.launchJob l).jobid = true)
    (hgoes : s.dispGoes (s.launchJob l) (complWrites l st s.tick v) = true) : Does (.launchEnd l) s fun t =>
      t.launch l = some { v with st := .ended st, reported := true, tick := s.tick } ∧ (lCompl v.raw = 0 → sameBytes s t)
        ∧ (lCsync v.raw ≠ 0 → vaultRef (s.launchJob l) (lCsync v.raw) 16 16 = true →
          ∃ a, t.arrivals = s.arrivals ++ [a] ∧ a.lmem = none ∧ a.addr = lCsync v.raw ∧ a.n = 1 ∧ a.err = none ∧ a.owner = none) := by
  let u := (complWrites l st s.tick v).foldl (fun s' w => s'.dispWrite (s.launchJob l) (s.queueOf l).part w.1 w.2) s
  have hu : u.arrivals = s.arrivals := List.foldlRecOn (motive := fun t => State.arrivals t = s.arrivals) _ _ rfl fun _ ht w _ =>
    (arrivals_dispWrite ..).trans ht
  have hexec : execLaunchEnd l s = event "LAUNCH_END"
      ((s.ld (s.queueOf l).part).hstate != 2 && s.storesLanded (s.launchJob l).jobid && s.dispGoes (s.launchJob l) (complWrites l st s.tick v))
      (((u.csyncArrives (s.launchJob l) v.raw u.tick).dropLost l).setLaunch l { v with st := .ended st, reported := true, tick := s.tick }) := by
    simp only [execLaunchEnd, hv, hover]
    rfl
  refine does_event hexec (by rw [bne_iff_ne.mpr hstate, hstores, hgoes]; rfl) ⟨(launch_setLaunch ..).trans (if_pos rfl), fun hc => ?_, fun hc href => ?_⟩
  · have hnone : u = s := by
      have hw : complWrites l st s.tick v = [] := if_pos (by simp [complOk, hc])
      show (complWrites l st s.tick v).foldl _ s = s
      rw [hw]
      rfl
    rw [hnone]
    exact sameBytes_trans (sameBytes_csyncArrives ..) (sameBytes_dropLost ..)
  · refine ⟨⟨none, lCsync v.raw, 1, none, none, u.tick⟩, ?_, rfl, rfl, rfl, rfl, rfl⟩
    show ((u.csyncArrives (s.launchJob l) v.raw u.tick).dropLost l).arrivals = _
    rw [arrivals_dropLost, State.csyncArrives, if_pos ⟨hc, href⟩, ← hu]

end Sys2Proof.Machine

open Sys2Proof Sys2Proof.Machine Sys2Proof.Claim

/-- Settles O52: each event by what it makes of the queue, the entry, the slot, the team or the launch that it names. -/
theorem queueAndLaunchEvents : Obligations.QueueAndLaunchEvents := by
  refine ⟨fun s => ⟨fun ld off bytes hld hoff hbytes => ⟨does_push_closed hld hoff hbytes, fun q hopen hq =>
      ⟨does_push_malformed hld hoff hbytes hopen hq, fun hal hlen => ?_⟩⟩,
    fun q v hq => ⟨does_qctlWrite_takes hq, does_qctlWrite_refused hq⟩, fun q hq => ⟨does_cancel_open hq, does_cancel_refused hq⟩,
    fun q hres hring hroom => does_queueMakeResident hres hring hroom,
    fun ld ix e hld hix => ⟨does_jobTableWrite_ok hld hix, does_jobTableWrite_refused hld hix⟩, fun cl slot ix hix hteams hstale => ?_⟩,
    fun s l v hv => ⟨fun d k hk hst hmet hadv => does_dependenceMet hv hk hst hmet hadv, fun hnext hr hfree => does_launchCheck hv hnext hr hfree rfl,
      fun cl vbase key own js hkey hslot hbest hfits hfirst => ⟨does_teamCreate_badSched hv hkey hslot hbest hfits hfirst,
        does_teamCreate_binds hv hkey hslot hbest hfits hfirst⟩,
      fun cl team tm i rest ht hl hfree hitem hmov hst hrun hplace hfirst hstands => ?_,
      fun st hover hstate hstores hgoes => does_launchEnd hv hover hstate hstores hgoes⟩⟩
  · have hwhole := fun p => does_push_whole (p := p) hld hoff hbytes hopen hq hal hlen
    exact ⟨fun hroom hnone => hwhole _ (accept_ring _ hroom hnone), fun hfull => ⟨fun hroom => hwhole _ (accept_borrows _ hfull hroom),
      fun hroom => hwhole _ (accept_refuses _ hfull hroom)⟩⟩
  · obtain ⟨t, ht, hcopy⟩ := does_jobSlotUpdate rfl hix hteams hstale
    refine ⟨t, ht, ?_⟩
    dsimp only
    rw [hcopy]
    exact ⟨rfl, rfl, rfl, rfl, rfl, rfl, rfl⟩
  · subst hl
    exact does_itemCreate hfree ht hv hitem hmov hst hrun rfl hplace hfirst hstands

end

section
/-! Sync words: an arrival and an error arrival, field by field (R67, R68). -/

namespace Sys2Proof.Machine

/-- A sync word of its fields (R66). -/
def syncFields (target count gen status err ovf : Nat) : Nat :=
  target + count * 2 ^ 32 + gen * 2 ^ 64 + status * 2 ^ 80 + err * 2 ^ 88 + ovf * 2 ^ 89

section

variable {target count gen status err ovf : Nat} (ht : target < 2 ^ 32) (hc : count < 2 ^ 32) (hg : gen < 2 ^ 16) (hs : status < 2 ^ 8)
  (he : err < 2) (ho : ovf < 2)
include ht hc hg hs he ho

theorem syncFields_read : let w := syncFields target count gen status err ovf
    w % 2 ^ 32 = target ∧ w / 2 ^ 32 % 2 ^ 32 = count ∧ w / 2 ^ 64 % 2 ^ 16 = gen ∧ w / 2 ^ 80 % 2 ^ 8 = status ∧ w / 2 ^ 88 % 2 = err
      ∧ w / 2 ^ 89 % 2 = ovf := by
  unfold syncFields
  omega

theorem arrive_advances {n : Nat} (h0 : target ≠ 0) (hn : target ≤ count + n) :
    arrive (syncFields target count gen status err ovf) n =
      syncFields target ((count + n) % target) ((gen + (count + n) / target) % 65536) status err ovf := by
  obtain ⟨rt, rc, rg, rs, re, ro⟩ := syncFields_read ht hc hg hs he ho
  have hmod : count + n - (count + n) / target * target = (count + n) % target := by
    rw [Nat.mod_eq_sub_mul_div, Nat.mul_comm]
  simp only [arrive, rt, rc, rg, rs, re, ro, ne_eq, h0, not_false_eq_true, hn, and_self, if_true, not_true_eq_false, false_and, if_false, hmod]
  rfl

theorem arrive_counts {n : Nat} (hn : count + n < target) :
    arrive (syncFields target count gen status err ovf) n = syncFields target (count + n) gen status err ovf := by
  obtain ⟨rt, rc, rg, rs, re, ro⟩ := syncFields_read ht hc hg hs he ho
  have hlt : ¬ target ≤ count + n := Nat.not_le.mpr hn
  have hcount : (count + n) % 2 ^ 32 = count + n := Nat.mod_eq_of_lt (by omega)
  have hgen : (gen + 0) % 65536 = gen := Nat.mod_eq_of_lt (by omega)
  have hwide : ¬ 2 ^ 32 ≤ count + n := by omega
  simp only [arrive, rt, rc, rg, rs, re, ro, hlt, and_false, if_false, not_false_eq_true, hwide, hcount, hgen]
  rfl

theorem arrive_untargeted {n : Nat} (h0 : target = 0) :
    arrive (syncFields target count gen status err ovf) n =
      syncFields target ((count + n) % 2 ^ 32) gen status err (if 2 ^ 32 ≤ count + n then 1 else ovf) := by
  obtain ⟨rt, rc, rg, rs, re, ro⟩ := syncFields_read ht hc hg hs he ho
  have hgen : (gen + 0) % 65536 = gen := Nat.mod_eq_of_lt (by omega)
  have hno : ¬ (target ≠ 0 ∧ target ≤ count + n) := fun h => h.1 h0
  simp only [arrive, rt, rc, rg, rs, re, ro, hno, if_false, not_false_eq_true, true_and, hgen]
  rfl

theorem arriveErr_fields {e : Nat} (hcode : e < 256) :
    arriveErr (syncFields target count gen status err ovf) e = syncFields target count ((gen + 1) % 65536) e 1 ovf := by
  obtain ⟨rt, rc, rg, -, -, ro⟩ := syncFields_read ht hc hg hs he ho
  simp only [arriveErr, rt, rc, rg, ro, Nat.mod_eq_of_lt hcode]
  rfl

end

end Sys2Proof.Machine

open Sys2Proof Sys2Proof.Machine Sys2Proof.Claim

/-- Settles O34: what the fields of the word read as decides which branch of `arrive` is taken. -/
theorem syncWordArrivals : Obligations.SyncWordArrivals := fun _ _ _ _ _ _ _ ht hc hg hs he ho =>
  ⟨arrive_advances ht hc hg hs he ho, fun _ => arrive_counts ht hc hg hs he ho, arrive_untargeted ht hc hg hs he ho,
    fun _ => arriveErr_fields ht hc hg hs he ho⟩

end

section
/-! M-slot operations of a bundle in flight: what a slot answers where its registers can be read, and what a fresh producer leaves. -/

namespace Sys2Proof.Machine

open Sys2Proof.Claim

/-- What a slot sees, and whether only its empty registers are asked for (R140). -/
def Bun.asks (b : Bun) (c : Cond) (l : Bool) : Env := { x := b.x, pre := b.pre, baddr := b.baddr, te := c.te, lax := l }

theorem asks_false (b : Bun) (c : Cond) : b.asks c false = b.env c := rfl
@[simp] theorem asks_x (b : Bun) (c : Cond) (l : Bool) : (b.asks c l).x = b.x := rfl
@[simp] theorem asks_pre (b : Bun) (c : Cond) (l : Bool) : (b.asks c l).pre = b.pre := rfl
@[simp] theorem asks_top (b : Bun) (c : Cond) (l : Bool) : (b.asks c l).top = b.pre.regs.top := rfl

/-! ## Sources that also read where only empty ones are asked for -/

theorem rdCell_relax {e : Env} {w : Nat} {r : RegRef} {c : RCell w} {v : BitVec w} (hl : e.lax = false) (h : rdCell e r c = .ok v) (l : Bool) :
    rdCell { e with lax := l } r c = .ok v := by
  unfold rdCell at h ⊢
  by_cases hf : c.full = true
  · by_cases hm : c.mark.cause = 0
    · simpa [hf, hm] using h
    · simp [hf, hm, hl, trap] at h
  · cases ht : e.te <;> simp [hf, ht, trap, block] at h

section Relax

variable {b : Bun} {c : Cond} (l : Bool)

theorem rdA_relax {n : BitVec 4} {v : Word} (h : rdA (b.env c) n = .ok v) : rdA (b.asks c l) n = .ok v := rdCell_relax (e := b.env c) rfl h l

theorem rdV_relax {n : BitVec 5} {v : BitVec 1024} (h : rdV (b.env c) n = .ok v) : rdV (b.asks c l) n = .ok v := rdCell_relax (e := b.env c) rfl h l

theorem rdS_relax {n : BitVec 6} {v : Word} (h : rdS (b.env c) n = .ok v) : rdS (b.asks c l) n = .ok v := by
  unfold rdS at h ⊢
  split
  · next hn => rwa [if_pos hn] at h
  · next hn => exact rdCell_relax (e := b.env c) rfl (by rwa [if_neg hn] at h) l

theorem rdOld_relax {n : BitVec 5} {v : BitVec 1024} {always : Bool} (h : rdOld (b.env c) n always = .ok v) :
    rdOld (b.asks c l) n always = .ok v := by
  unfold rdOld at h ⊢
  by_cases hn : (always || decide (b.pre.regs.top ≠ 2 ^ 32 - 1)) = true
  · exact (if_pos hn).trans (rdV_relax l ((if_pos hn).symm.trans h))
  · exact (if_neg hn).trans ((if_neg hn).symm.trans h)

end Relax

/-! ## One M-slot -/

@[simp] theorem error_bind {α β : Type} (st : Stop) (f : α → Rd β) : (Except.error st >>= f : Rd β) = .error st := rfl
@[simp] theorem need_false (st : Stop) : need false st = .error st := rfl

/-- A stop that its slot meets also when only empty registers are asked for is the slot's stop. -/
theorem slotStop_stands {body : Env → State → Rd State} {e : Env} {s : State} {st : Stop} (h : body { e with lax := true } s = .error st) :
    slotStop body e s st = st := by
  cases st with
  | trap cause d => exact slotStop_same h
  | block _ => rfl
  | roll _ _ => rfl

section MSlot

variable {c : Cond} {body : Env → State → Rd State} {s : State} {b : Bun}

theorem mSlot_ok {t : State} (h : s.issues b c) (ha : b.pre.fl.acq = []) (he : body (b.env c) s = .ok t) : mSlot c body s = .next t := by
  refine runSlot_ok h ?_
  rw [holdAcq, show (b.env c).pre.fl.acq.isEmpty = true from List.isEmpty_iff.mpr ha, need_true]
  exact he

theorem mSlot_stop {st : Stop} (h : s.issues b c) (ha : b.pre.fl.acq = []) (he : ∀ l, body (b.asks c l) s = .error st) :
    mSlot c body s = .next (noted s b 3 st) := by
  have hbody : ∀ l, (do holdAcq (b.asks c l); body (b.asks c l) s) = .error st := by
    intro l
    rw [holdAcq, show (b.asks c l).pre.fl.acq.isEmpty = true from List.isEmpty_iff.mpr ha, need_true]
    exact he l
  refine (runSlot_stop h (hbody false)).trans ?_
  rw [slotStop_stands (hbody true)]
  rfl

/-- An unperformed acquire holds the bundle of any memory access (R202). -/
theorem mSlot_acq (h : s.issues b c) (ha : b.pre.fl.acq ≠ []) : mSlot c body s = .next (noted s b 3 (.block .acq)) := by
  have hbody : ∀ l, (do holdAcq (b.asks c l); body (b.asks c l) s) = .error (.block .acq) := by
    intro l
    rw [holdAcq, show (b.asks c l).pre.fl.acq.isEmpty = false by simpa using ha]
    rfl
  exact runSlot_stop (body := fun e s => do holdAcq e; body e s) h (hbody false)

end MSlot

/-! ## A fresh producer -/

@[simp] theorem prod_newProd (c : Ctx) (k : RegRef) : (c.newProd k).2 = c.fl.serial + 1 := rfl

theorem sameRegsBut_mkEmpty (r : Regs) (k : RegRef) (n : Nat) : sameRegsBut [k] r (r.mkEmpty k n) := by
  cases k with
  | s m =>
    refine ⟨fun j hj => ?_, fun _ _ => ?_, fun _ _ => ?_, fun _ _ => ?_, ?_, ?_⟩
    · exact (sc_setS ..).trans (if_neg fun h => hj (by simp [h.2]))
    all_goals simp only [Regs.mkEmpty, Regs.setS]; split <;> rfl
  | a m => exact ⟨fun _ _ => rfl, fun j hj => (ac_setA ..).trans (if_neg fun h => hj (by simp [h])), fun _ _ => rfl, fun _ _ => rfl, rfl, rfl⟩
  | v m => exact ⟨fun _ _ => rfl, fun _ _ => rfl, fun j hj => (vc_setV ..).trans (if_neg fun h => hj (by simp [h])), fun _ _ => rfl, rfl, rfl⟩
  | p m => exact ⟨fun _ _ => rfl, fun _ _ => rfl, fun _ _ => rfl, fun _ _ => rfl, rfl, rfl⟩

theorem ac_mkEmpty (r : Regs) (m n : Nat) : (r.mkEmpty (.a m) n).ac m = { r.ac m with full := false, mark := { }, prod := n } :=
  (ac_setA ..).trans (if_pos rfl)

/-! ## Tile rings (R71) -/

theorem ring_modRing (m : Mx) (n : Nat) (f : Ring → Ring) : (m.modRing n f).ring n = f (m.ring n) := by simp [Mx.modRing, Mx.ring, tget_tmod]

theorem core_modMx (s : State) (c : CoreId) (f : Mx → Mx) : ((s.modMx c f).core c).mx = f (s.core c).mx := by simp [modMx_eq]

theorem ctx_modMx (s : State) (c : CoreId) (f : Mx → Mx) (y : CtxId) : (s.modMx c f).ctx y = s.ctx y := ctx_modCore_keep ..

theorem sameBytes_modMx (s : State) (c : CoreId) (f : Mx → Mx) : sameBytes s (s.modMx c f) := sameBytes_modCore ..

theorem slotOf_base {r : Ring} {i : Nat} (hi : i < r.scount) (hs : 0 < r.ssize) : r.slotOf (r.base + i * r.ssize * 64) = some i := by
  have hpos : 0 < r.ssize * 64 := by omega
  have hsub : r.base + i * r.ssize * 64 - r.base = i * (r.ssize * 64) := by rw [Nat.add_sub_cancel_left, Nat.mul_assoc]
  rw [Ring.slotOf, hsub, Nat.mul_mod_left, Nat.mul_div_cancel _ hpos, if_pos ⟨Nat.le_add_right .., rfl, hi⟩]

theorem slotOf_none {r : Ring} {x : Nat} (h : ∀ i, i < r.scount → x ≠ r.base + i * r.ssize * 64) : r.slotOf x = none := by
  refine if_neg fun ⟨hb, hmod, hlt⟩ => h _ hlt ?_
  have hdiv := Nat.div_mul_cancel (Nat.dvd_of_mod_eq_zero hmod)
  rw [Nat.mul_assoc, hdiv]
  omega

section Stages

variable {c : Cond} {a : BitVec 4} {n : BitVec 3} {s : State} {b : Bun} (h : s.issues b c) (ha : b.pre.fl.acq = []) (hr : b.pre.region = none)
include h ha hr

/-- Neither stage is open to a context that is not matrix-bound, or on a ring that is off (R71, R214). -/
theorem ringStages_closed (hbad : b.pre.pr.mb = false ∨ ((s.core b.x.coreId).mx.ring n.toNat).scount = 0) :
    execBfacq c a n s = .next (noted s b 3 (.trap 0x01 0)) ∧ execBfrel c a n s = .next (noted s b 3 (.trap 0x01 0)) := by
  have hstops : ∀ l : Bool, ∀ rest : Rd State, (do
      noRegion (b.asks c l)
      needMb (b.asks c l)
      need (((s.core b.x.coreId).mx.ring n.toNat).scount != 0) (.trap 0x01 0)
      rest) = .error (.trap 0x01 0) := by
    intro l rest
    rw [noRegion_ok hr, ok_bind, needMb, Env.mb]
    rcases hbad with hmb | h0
    · rw [show (b.asks c l).pre.pr.mb = false from hmb]
      rfl
    · rw [h0]
      cases hmb : (b.asks c l).pre.pr.mb <;> rfl
  exact ⟨mSlot_stop h ha fun l => hstops l _, mSlot_stop h ha fun l => hstops l _⟩

variable (hmb : b.pre.pr.mb = true) (h0 : ((s.core b.x.coreId).mx.ring n.toNat).scount ≠ 0)
include hmb h0

theorem execBfacq_ok : execBfacq c a n s = .next ((s.setCtx b.x ((s.ctx b.x).newProd (.a a.toNat)).1).modMx b.x.coreId fun m =>
    m.modRing n.toNat fun r => { r with waiting := r.waiting ++ [.bfacq b.x.cx a.toNat ((s.ctx b.x).fl.serial + 1)] }) := by
  refine mSlot_ok h ha ?_
  rw [noRegion_ok hr, ok_bind, needMb, Env.mb, show (b.env c).pre.pr.mb = true from hmb, need_true, ok_bind,
    show (((s.core (b.env c).x.coreId).mx.ring n.toNat).scount != 0) = true from bne_iff_ne.mpr h0]
  rfl

variable {v : Word} (hv : rdA (b.env c) a = .ok v)
include hv

theorem execBfrel_ok {i : Nat} (hi : ((s.core b.x.coreId).mx.ring n.toNat).slotOf v.toNat = some i)
    (ho : tget 0 ((s.core b.x.coreId).mx.ring n.toNat).owner i = 1) :
    execBfrel c a n s = .next (s.modMx b.x.coreId fun m => m.modRing n.toNat fun r => (r.publish i).settle 64) := by
  refine mSlot_ok h ha ?_
  rw [noRegion_ok hr, ok_bind, needMb, Env.mb, show (b.env c).pre.pr.mb = true from hmb, need_true, ok_bind]
  dsimp only [env_x]
  rw [bne_iff_ne.mpr h0, need_true, ok_bind, hv, ok_bind]
  rw [hi]
  dsimp only
  rw [ho]
  rfl

/-- What is no slot's base, and a slot that no BFACQ holds, raise cause 0x01 (R214). -/
theorem execBfrel_bad (hi : ∀ i, ((s.core b.x.coreId).mx.ring n.toNat).slotOf v.toNat = some i →
    tget 0 ((s.core b.x.coreId).mx.ring n.toNat).owner i ≠ 1) : execBfrel c a n s = .next (noted s b 3 (.trap 0x01 0)) := by
  refine mSlot_stop h ha fun l => ?_
  rw [noRegion_ok hr, ok_bind, needMb, Env.mb, show (b.asks c l).pre.pr.mb = true from hmb, need_true, ok_bind]
  dsimp only [asks_x]
  rw [bne_iff_ne.mpr h0, need_true, ok_bind, rdA_relax l hv, ok_bind]
  split
  · rfl
  · next i hs => rw [beq_eq_false_iff_ne.mpr (hi i hs)]; rfl

end Stages

end Sys2Proof.Machine

open Sys2Proof Sys2Proof.Machine Sys2Proof.Claim

/-- Settles O36: both stages pass the same two checks first; BFREL then finds its slot by the base, as the slots of a ring do not overlap. -/
theorem tileRingStages : Obligations.TileRingStages := by
  intro c a n s b h ha hr r k
  refine ⟨ringStages_closed h ha hr, fun hmb h0 => ⟨⟨_, execBfacq_ok h ha hr hmb h0, ?_, ?_, ?_⟩, fun v hv => ⟨fun i hi hs hvi ho => ?_, fun hno => ?_,
    fun i hi hs hvi ho => ?_⟩⟩⟩
  · exact sameBytes_trans (sameBytes_modCtx s b.x fun _ => _) (sameBytes_modMx ..)
  · rw [Awaits, ctx_modMx, ctx_setCtx, if_pos rfl]
    refine ⟨sameRegsBut_mkEmpty .., ?_, ?_⟩
    · exact congrArg RCell.full (ac_mkEmpty ..)
    · exact congrArg RCell.prod (ac_mkEmpty ..)
  · rw [core_modMx, ring_modRing, core_setCtx, if_pos rfl]
    rfl
  · refine ⟨_, execBfrel_ok h ha hr hmb h0 hv (hvi ▸ slotOf_base hi hs) ho, sameBytes_modMx .., ctx_modMx s _ _, ?_⟩
    rw [core_modMx, ring_modRing]
    rfl
  · exact execBfrel_bad h ha hr hmb h0 hv fun i hi => by rw [slotOf_none hno] at hi; cases hi
  · refine execBfrel_bad h ha hr hmb h0 hv fun j hj => ?_
    rw [hvi, slotOf_base hi hs] at hj
    exact Option.some.inj hj ▸ ho

end

section
/-! Vector accesses to the vault with no lane active: what the lane checks answer, and a mask register with bits above those of the 32 lanes. -/

namespace Sys2Proof.Machine

open Sys2Proof.Claim

theorem filterMapM_none {α β : Type} {f : α → Rd (Option β)} {l : List α} (h : ∀ i ∈ l, f i = .ok none) : l.filterMapM f = .ok [] := by
  induction l with
  | nil => rfl
  | cons i l ih =>
    rw [List.filterMapM_cons, h i List.mem_cons_self, ok_bind]
    exact ih fun j hj => h j (List.mem_cons_of_mem _ hj)

/-- Lanes are checked one by one: where none is active, nothing is. -/
theorem vaultLanes_idle {s : State} {e : Env} {ea : Nat} (ha : ea % 8 = 0) (h : ∀ i, i < 32 → active e.top i = false) : vaultLanes s e ea = .ok [] := by
  rw [vaultLanes, if_neg (not_not.mpr ha)]
  exact filterMapM_none fun i hi => by rw [h i (List.mem_range.mp hi)]; rfl

theorem execStv_idle {c : Cond} {o : Ord} {sc : Scope} {vs : BitVec 5} {a : BitVec 4} {imm : BitVec 14} {s : State} {b : Bun} {base : Word}
    {v : BitVec 1024} (h : s.issues b c) (hacq : b.pre.fl.acq = []) (hpre : b.pre.region = none) (hbase : rdA (b.env c) a = .ok base)
    (hv : rdV (b.env c) vs = .ok v) (hal : effAddr base imm 128 % 8 = 0) (htop : b.pre.regs.top ≠ 0)
    (hidle : ∀ i, i < 32 → active b.pre.regs.top i = false) : execStv c o sc vs a imm s = .next s := by
  have hnohit : ((List.range 32).any fun i => active b.pre.regs.top i && vaultHit s (b.env c) ((eaImm base imm 128 + 4 * i) % 2 ^ 64) 4) = false := by
    refine List.any_eq_false.mpr fun i hi => ?_
    rw [hidle i (List.mem_range.mp hi)]
    exact Bool.false_ne_true
  have hlanes : vaultVec s (b.env c) (eaImm base imm 128) = .ok [] := (if_neg htop).trans (vaultLanes_idle hal hidle)
  have hplain : plainInRegion (b.env c) o = .ok () := by
    rw [plainInRegion]
    split
    · rfl
    · exact noRegion_ok hpre
  refine mSlot_ok h hacq ?_
  rw [storeHits, hbase]
  dsimp only
  rw [show (b.env c).top = b.pre.regs.top from rfl, hnohit, hplain, hv]
  dsimp only [aliasFirst]
  rw [ok_bind, ok_bind, ok_bind, noAlias, Bool.not_false, need_true, ok_bind, hlanes, ok_bind,
    show (b.env c).inRegion = false from congrArg Option.isSome hpre]
  rfl

/-- A context whose mask register has bit 32 set and no bit of a lane. -/
def bit32Mask : Ctx := { regs := { mask := [(1, 2 ^ 32)], depth := 1 } }

/-- It is current in a module out of reset, its bundle in flight. -/
def bit32Masked : State := { (State.reset.setCtx ⟨0, 0, 0⟩ bit32Mask) with bun := some (openedBun ⟨0, 0, 0⟩ bit32Mask 0 false) }

theorem bit32Mask_idle {i : Nat} (hi : i < 32) : active bit32Mask.regs.top i = false := by
  have hall : ∀ i : Fin 32, active bit32Mask.regs.top i = false := by decide
  exact hall ⟨i, hi⟩

end Sys2Proof.Machine

open Sys2Proof Sys2Proof.Machine Sys2Proof.Claim

/-- Refutes O30: where the mask is not zero, though no lane is active, STV checks no address; its job slot is not in use, and the bundle notes
no stop. -/
theorem not_vaultAccessesIssue : ¬ Obligations.VaultAccessesIssue := by
  rintro ⟨-, -, h⟩
  have hissues : bit32Masked.issues (openedBun ⟨0, 0, 0⟩ bit32Mask 0 false) (cCond 0) := ⟨rfl, rfl⟩
  have hstops := (h (cCond 0) .plain .pk false 0 0 0 bit32Masked _ 0 0 0 hissues rfl ⟨rfl, rfl, rfl⟩ rfl rfl rfl (fun _ => bit32Mask_idle)
    (.stv (cCond 0) .plain .pk 0 0 0) (by simp)).2.2 (by decide) (by decide)
  have hgoes := execStv_idle (o := .plain) (sc := .pk) (vs := 0) (a := 0) (imm := 0) (base := 0) (v := 0) hissues rfl rfl rfl rfl (by decide) (by decide)
    fun _ => bit32Mask_idle
  have hsame := Host.Outcome.next.inj (hgoes.symm.trans hstops)
  have houts : ([] : List (Nat × Stop)) = _ := congrArg (fun s => (s.bun.map Bun.outs).getD []) hsame
  cases houts

end

section
/-! An access of STV whose lanes lie on two dies, one of them isolated. -/

namespace Sys2Proof.Machine

/-- The access of an STV of cluster 0 at 8 bytes before the end of its home range, with lanes 0 to 2 active: lane 2 follows on die 1 (R55). -/
def twoDies : Pend :=
  { serial := 1, kind := .storeV [(0, 2 ^ 26 - 8), (1, 2 ^ 26 - 4), (2, 2 ^ 30)] (2 ^ 64), addr := 2 ^ 26 - 8, ord := .plain, sc := .pk, dst := none
    baddr := 0, ea := 2 ^ 30 - 8 }

/-- It is the only access of a context; die 1 is isolated (R374). -/
def dieIsolated : State :=
  { (State.reset.setCtx ⟨0, 0, 0⟩ { fl := { pend := [twoDies] } }) with health := { isodies := 2 } }

/-- Nothing is written on the isolated die. -/
theorem dieIsolated_keeps : ∃ t, exec (.accessPerform (.live ⟨0, 0, 0⟩) 0) dieIsolated = .next t ∧ t.rdVault (2 ^ 30) 4 = 0 :=
  ⟨_, rfl, by decide +kernel⟩

end Sys2Proof.Machine

open Sys2Proof Sys2Proof.Machine Sys2Proof.Claim

/-- Refutes O33: an access of STV whose address lies on a die that is not isolated writes nothing of its lane on one that is. -/
theorem not_accessesPerform : ¬ Obligations.AccessesPerform := by
  rintro ⟨h, -⟩
  obtain ⟨t, ht, -, -, -, -, hstores, -⟩ := h ⟨0, 0, 0⟩ dieIsolated twoDies [] rfl (by decide +kernel) (by decide +kernel) (by decide +kernel) rfl
  obtain ⟨u, hu, hkept⟩ := dieIsolated_keeps
  obtain rfl := Host.Outcome.next.inj (ht.symm.trans hu)
  have hwrote := (hstores _ _ rfl (by decide)).1 (2, 2 ^ 30) (by decide)
  rw [hkept] at hwrote
  exact absurd hwrote (by decide +kernel)

end

section
/-! The checks of direct vault accesses and of fabric operations, each by the first that fails. -/

namespace Sys2Proof.Machine

open Sys2Proof.Claim

theorem eaImm_eq (base : Word) {k : Nat} (imm : BitVec k) (n : Nat) : eaImm base imm n = effAddr base imm n := rfl

/-! ## The checks of an address -/

section Address

variable {s : State} {e : Env} {ea n k : Nat}

theorem vaultAcc_misaligned (h : ea % k ≠ 0) : vaultAcc s e ea n k = .error (.trap 0x04 ea) := if_pos h

theorem vaultAcc_uncovered (ha : ea % k = 0) (h : s.vaultCheck e.x ea n = none) : vaultAcc s e ea n k = .error (.trap 0x05 ea) := by
  rw [vaultAcc, if_neg (not_not.mpr ha), h]
  rfl

theorem filterMapM_stops {α β : Type} {f : α → Rd (Option β)} {l l' : List α} {i : α} {st : Stop} (h : ∀ j ∈ l, ∃ r, f j = .ok r)
    (hi : f i = .error st) : (l ++ i :: l').filterMapM f = .error st := by
  induction l with
  | nil => rw [List.nil_append, List.filterMapM_cons, hi, error_bind]
  | cons j l ih =>
    obtain ⟨r, hr⟩ := h j List.mem_cons_self
    have htail := ih fun j hj => h j (List.mem_cons_of_mem _ hj)
    rw [List.cons_append, List.filterMapM_cons, hr, ok_bind]
    cases r with
    | none => exact htail
    | some r => exact (congrArg (· >>= _) htail).trans (error_bind ..)

theorem active_zero (i : Nat) : active 0 i = false := by rw [active, Nat.zero_div]; rfl

theorem vaultVec_misaligned (h : ea % 8 ≠ 0) : vaultVec s e ea = .error (.trap 0x04 ea) := by
  unfold vaultVec
  split
  · rw [vaultAcc_misaligned h]
    rfl
  · exact if_pos h

/-- Lane `i` is the first active one whose bytes no window covers (R206). -/
theorem vaultVec_uncovered {i : Nat} (ha : ea % 8 = 0) (hi : i < 32) (hact : active e.top i = true)
    (h : s.vaultCheck e.x ((ea + 4 * i) % 2 ^ 64) 4 = none)
    (hfirst : ∀ j, j < i → active e.top j = true → s.vaultCheck e.x ((ea + 4 * j) % 2 ^ 64) 4 ≠ none) :
    vaultVec s e ea = .error (.trap 0x05 ((ea + 4 * i) % 2 ^ 64)) := by
  have htop : e.top ≠ 0 := fun h0 => by rw [h0, active_zero] at hact; cases hact
  have hsplit : List.range 32 = List.range i ++ i :: List.map (fun j => i + 1 + j) (List.range (31 - i)) := by
    rw [← List.singleton_append, ← List.append_assoc, ← List.range_succ, ← List.range_add]
    congr 1
    omega
  rw [vaultVec, if_neg htop, vaultLanes, if_neg (not_not.mpr ha), hsplit]
  refine filterMapM_stops (fun j hj => ?_) (by rw [if_pos hact, h]; rfl)
  split
  · next hj' =>
    obtain ⟨off, hoff⟩ := Option.ne_none_iff_exists'.mp (hfirst j (List.mem_range.mp hj) hj')
    exact ⟨_, by rw [hoff]⟩
  · exact ⟨_, rfl⟩

end Address

/-! ## A region's checks -/

theorem plainInRegion_ok {e : Env} {o : Ord} (h : e.pre.region = none ∨ o = .plain) : plainInRegion e o = .ok () := by
  unfold plainInRegion
  split
  · rfl
  · next ho => exact noRegion_ok (h.resolve_right ho)

theorem noRegion_rolls {e : Env} (h : e.pre.region.isSome = true) : noRegion e = .error (.roll 0x07 0) := by
  rw [noRegion, Env.inRegion, h]
  rfl

theorem plainInRegion_rolls {e : Env} {o : Ord} (h : e.pre.region.isSome = true) (ho : o ≠ .plain) : plainInRegion e o = .error (.roll 0x07 0) :=
  (if_neg ho).trans (noRegion_rolls h)

theorem vaultHit_eq_false {s : State} {e : Env} {ea n : Nat} : vaultHit s e ea n = false ↔ NoVaultHit s e.x ea n := by
  unfold vaultHit NoVaultHit NoHit aliasHit
  cases resolve e.x.cl ea with
  | none => simp
  | some off => cases (s.ctx e.x).region <;> simp

theorem aliasFirst_false {α : Type} (r : Rd α) : aliasFirst false r = r := by
  unfold aliasFirst
  split <;> rfl

section Stores

variable {e : Env} {o : Ord} {a : BitVec 4} {base : Word} {α : Type} {src : Rd α} {x : α} {rest : Word → α → Rd State}

/-- What every store to the vault checks before its address, with `hit` saying whether it hits one of the aliases (R204, R224). -/
def storeChecks (e : Env) (o : Ord) (a : BitVec 4) (hit : Bool) (src : Rd α) (rest : Word → α → Rd State) : Rd State := do
  aliasFirst hit (plainInRegion e o)
  let b ← rdA e a
  let v ← aliasFirst hit src
  noAlias hit
  rest b v

theorem storeChecks_hit (hb : rdA e a = .ok base) (hs : src = .ok x) : storeChecks e o a true src rest = .error (.roll 0x02 0) := by
  have hplain : plainInRegion e o = .ok () ∨ plainInRegion e o = .error (.roll 0x07 0) := by
    cases hr : e.pre.region with
    | none => exact .inl (plainInRegion_ok (.inl hr))
    | some g =>
      by_cases ho : o = .plain
      · exact .inl (plainInRegion_ok (.inr ho))
      · exact .inr (plainInRegion_rolls (by rw [hr]; rfl) ho)
  rw [storeChecks, hs, hb]
  rcases hplain with h | h <;> rw [h] <;> rfl

theorem storeChecks_past (h : e.pre.region = none ∨ o = .plain) (hb : rdA e a = .ok base) (hs : src = .ok x) :
    storeChecks e o a false src rest = rest base x := by
  rw [storeChecks, hs, hb, plainInRegion_ok h]
  rfl

theorem storeChecks_annotated (h : e.pre.region.isSome = true) (ho : o ≠ .plain) : storeChecks e o a false src rest = .error (.roll 0x07 0) := by
  rw [storeChecks, plainInRegion_rolls h ho]
  rfl

end Stores

/-! ## Loads, atomics and sync words -/

section Slots

variable {c : Cond} {o : Ord} {sc : Scope} {s : State} {b : Bun} {a : BitVec 4} {base : Word} {st : Stop}

theorem execLd_stops {sz : LSz} {chk : Bool} {sd : BitVec 6} {imm : BitVec 14} (h : s.issues b c) (ha : b.pre.fl.acq = [])
    (hp : b.pre.region = none ∨ o = .plain) (hb : rdA (b.env c) a = .ok base)
    (hacc : vaultAcc s (b.env c) (effAddr base imm sz.bytes) sz.bytes sz.bytes = .error st) :
    execLd c sz o sc chk sd a imm s = .next (noted s b 3 st) := by
  refine mSlot_stop h ha fun l => ?_
  rw [plainInRegion_ok (e := b.asks c l) hp, ok_bind, rdA_relax l hb, ok_bind]
  exact (congrArg (· >>= _) hacc).trans (error_bind ..)

theorem execLdv_stops {chk : Bool} {vd : BitVec 5} {imm : BitVec 14} {old : BitVec 1024} (h : s.issues b c) (ha : b.pre.fl.acq = [])
    (hp : b.pre.region = none ∨ o = .plain) (hb : rdA (b.env c) a = .ok base) (hold : rdOld (b.env c) vd false = .ok old)
    (hacc : vaultVec s (b.env c) (effAddr base imm 128) = .error st) : execLdv c o sc chk vd a imm s = .next (noted s b 3 st) := by
  refine mSlot_stop h ha fun l => ?_
  rw [plainInRegion_ok (e := b.asks c l) hp, ok_bind, rdA_relax l hb, ok_bind, rdOld_relax l hold, ok_bind]
  exact (congrArg (· >>= _) hacc).trans (error_bind ..)

/-- An annotated access rolls an open region back (R204). -/
theorem mSlot_annotated {rest : Env → State → Rd State} (h : s.issues b c) (ha : b.pre.fl.acq = []) (hr : b.pre.region.isSome = true)
    (ho : o ≠ .plain) : mSlot c (fun e s => do plainInRegion e o; rest e s) s = .next (noted s b 3 (.roll 0x07 0)) := by
  refine mSlot_stop h ha fun l => ?_
  rw [plainInRegion_rolls (e := b.asks c l) hr ho, error_bind]

/-- What is illegal in a region rolls it back (R223). -/
theorem mSlot_illegal {rest : Env → State → Rd State} (h : s.issues b c) (ha : b.pre.fl.acq = []) (hr : b.pre.region.isSome = true) :
    mSlot c (fun e s => do noRegion e; rest e s) s = .next (noted s b 3 (.roll 0x07 0)) := by
  refine mSlot_stop h ha fun l => ?_
  rw [noRegion_rolls (e := b.asks c l) hr, error_bind]

theorem atomic_stops {op : AtOp} {n : Nat} {rdD : Bool} {sd sb : BitVec 6} {v d : Word} (h : s.issues b c) (ha : b.pre.fl.acq = [])
    (hr : b.pre.region = none) (hb : rdA (b.env c) a = .ok base) (hv : rdS (b.env c) sb = .ok v) (hd : rdD = true → rdS (b.env c) sd = .ok d)
    (hacc : vaultAcc s (b.env c) base.toNat n n = .error st) : atomic c op n o sc rdD sd a sb s = .next (noted s b 3 st) := by
  refine mSlot_stop h ha fun l => ?_
  have hread : ∃ w, (if rdD then rdS (b.asks c l) sd else .ok 0) = .ok w := by
    cases rdD
    · exact ⟨_, rfl⟩
    · exact ⟨_, rdS_relax l (hd rfl)⟩
  obtain ⟨w, hw⟩ := hread
  rw [noRegion_ok (e := b.asks c l) hr, ok_bind, rdA_relax l hb, ok_bind, rdS_relax l hv, ok_bind, hw, ok_bind]
  exact (congrArg (· >>= _) hacc).trans (error_bind ..)

theorem execSinit_stops {sb : BitVec 6} {v : Word} (h : s.issues b c) (ha : b.pre.fl.acq = []) (hr : b.pre.region = none)
    (hb : rdA (b.env c) a = .ok base) (hv : rdS (b.env c) sb = .ok v) (hacc : vaultAcc s (b.env c) base.toNat 16 16 = .error st) :
    execSinit c o sc a sb s = .next (noted s b 3 st) := by
  refine mSlot_stop h ha fun l => ?_
  rw [noRegion_ok (e := b.asks c l) hr, ok_bind, rdA_relax l hb, ok_bind, rdS_relax l hv, ok_bind]
  exact (congrArg (· >>= _) hacc).trans (error_bind ..)

/-- The atomics of the table are one instruction, with their operation and size. -/
theorem exec_atomicOps {w8 : Bool} {rm : Rm} {sd sb : BitVec 6} {p : (Cond → Ord → Scope → BitVec 6 → BitVec 4 → BitVec 6 → Instr) × AtOp × Bool}
    (hp : p ∈ atomicOps w8 rm) : exec (p.1 c o sc sd a sb) s = atomic c p.2.1 (if w8 then 8 else 4) o sc p.2.2 sd a sb s := by
  simp only [atomicOps, List.mem_cons, List.not_mem_nil, or_false] at hp
  rcases hp with rfl | rfl | rfl | rfl | rfl | rfl | rfl | rfl | rfl | rfl | rfl <;> rfl

/-! ## Stores -/

section Checked

variable {α : Type} {src : Env → Rd α} {x : α} {hit : Env → State → Word → Bool} {rest : Env → State → Word → α → Rd State}

theorem storeHits_asks (hb : rdA (b.env c) a = .ok base) (f : Word → Bool) (l : Bool) : storeHits (b.asks c l) a f = f base := by
  rw [storeHits, rdA_relax l hb]

variable (h : s.issues b c) (ha : b.pre.fl.acq = []) (hb : rdA (b.env c) a = .ok base) (hs : ∀ l, src (b.asks c l) = .ok x)
include h ha hb

include hs in
/-- A hit comes before every other trigger (R224). -/
theorem mSlot_store_hit (hhit : ∀ l, hit (b.asks c l) s base = true) :
    mSlot c (fun e s => storeChecks e o a (storeHits e a (hit e s)) (src e) (rest e s)) s = .next (noted s b 3 (.roll 0x02 0)) :=
  mSlot_stop h ha fun l => by
    rw [storeHits_asks hb, hhit l]
    exact storeChecks_hit (rdA_relax l hb) (hs l)

variable (hno : ∀ l, hit (b.asks c l) s base = false)
include hno

theorem mSlot_store_annotated (hr : b.pre.region.isSome = true) (ho : o ≠ .plain) :
    mSlot c (fun e s => storeChecks e o a (storeHits e a (hit e s)) (src e) (rest e s)) s = .next (noted s b 3 (.roll 0x07 0)) :=
  mSlot_stop h ha fun l => by
    rw [storeHits_asks hb, hno l]
    exact storeChecks_annotated hr ho

include hs in
theorem mSlot_store_stops (hp : b.pre.region = none ∨ o = .plain) (hrest : ∀ l, rest (b.asks c l) s base x = .error st) :
    mSlot c (fun e s => storeChecks e o a (storeHits e a (hit e s)) (src e) (rest e s)) s = .next (noted s b 3 st) :=
  mSlot_stop h ha fun l => by
    rw [storeHits_asks hb, hno l]
    exact (storeChecks_past hp (rdA_relax l hb) (hs l)).trans (hrest l)

end Checked

section Scalar

variable {sz : SSz} {sS : BitVec 6} {imm : BitVec 14} {v : Word}

/-- What ST does past the checks of every store. -/
def stPast (sz : SSz) (o : Ord) (sc : Scope) (imm : BitVec 14) (e : Env) (s : State) (base v : Word) : Rd State := do
  let n := sz.bytes
  let off ← vaultAcc s e (effAddr base imm n) n n
  if e.inRegion then do
    heldRoom s e 1
    .ok (s.hold e (.mem .vault off n v.toNat e.baddr))
  else .ok (s.issueAcc e (.store n v.toNat) off (effAddr base imm n) (storeOrd o) sc none [])

theorem execSt_checks : execSt c sz o sc sS a imm s = mSlot c (fun e s => storeChecks e o a
    (storeHits e a fun b => vaultHit s e (effAddr b imm sz.bytes) sz.bytes) (rdS e sS) (stPast sz o sc imm e s)) s := rfl

variable (h : s.issues b c) (ha : b.pre.fl.acq = []) (hb : rdA (b.env c) a = .ok base) (hv : rdS (b.env c) sS = .ok v)
include h ha hb hv

theorem execSt_hit (hhit : ¬ NoVaultHit s b.x (effAddr base imm sz.bytes) sz.bytes) :
    execSt c sz o sc sS a imm s = .next (noted s b 3 (.roll 0x02 0)) :=
  mSlot_store_hit (src := fun e => rdS e sS) (hit := fun e s b => vaultHit s e (effAddr b imm sz.bytes) sz.bytes) (rest := stPast sz o sc imm)
    h ha hb (fun l => rdS_relax l hv) fun l => eq_true_of_ne_false fun hf => hhit ((vaultHit_eq_false (e := b.asks c l)).mp hf)

variable (hno : NoVaultHit s b.x (effAddr base imm sz.bytes) sz.bytes)
include hno

omit hv in
theorem execSt_annotated (hr : b.pre.region.isSome = true) (ho : o ≠ .plain) :
    execSt c sz o sc sS a imm s = .next (noted s b 3 (.roll 0x07 0)) :=
  mSlot_store_annotated (src := fun e => rdS e sS) (hit := fun e s b => vaultHit s e (effAddr b imm sz.bytes) sz.bytes) (rest := stPast sz o sc imm)
    h ha hb (fun l => (vaultHit_eq_false (e := b.asks c l)).mpr hno) hr ho

theorem execSt_stops (hp : b.pre.region = none ∨ o = .plain)
    (hacc : vaultAcc s (b.env c) (effAddr base imm sz.bytes) sz.bytes sz.bytes = .error st) :
    execSt c sz o sc sS a imm s = .next (noted s b 3 st) :=
  mSlot_store_stops (src := fun e => rdS e sS) (hit := fun e s b => vaultHit s e (effAddr b imm sz.bytes) sz.bytes) (rest := stPast sz o sc imm)
    h ha hb (fun l => rdS_relax l hv) (fun l => (vaultHit_eq_false (e := b.asks c l)).mpr hno) hp
    fun _ => (congrArg (· >>= _) hacc).trans (error_bind ..)

end Scalar

section Vector

variable {vs : BitVec 5} {imm : BitVec 14} {x : BitVec 1024}

/-- Whether an active lane of a vector access hits one of the aliases. -/
def laneHits (e : Env) (s : State) (ea : Nat) : Bool := (List.range 32).any fun i => active e.top i && vaultHit s e ((ea + 4 * i) % 2 ^ 64) 4

theorem laneHits_iff {e : Env} {ea : Nat} : laneHits e s ea = true ↔
    ∃ i, (i < 32 ∧ active e.top i = true) ∧ ¬ NoVaultHit s e.x ((ea + 4 * i) % 2 ^ 64) 4 := by
  simp only [laneHits, List.any_eq_true, List.mem_range, Bool.and_eq_true, ← vaultHit_eq_false, Bool.not_eq_false, and_assoc]

/-- What STV does past the checks of every store. -/
def stvPast (o : Ord) (sc : Scope) (imm : BitVec 14) (e : Env) (s : State) (base : Word) (v : BitVec 1024) : Rd State := do
  let ls ← vaultVec s e (effAddr base imm 128)
  if e.inRegion then do
    heldRoom s e 1
    .ok (s.hold e (.vec .vault ls v e.baddr))
  else if ls.isEmpty then .ok s
  else .ok (s.issueAcc e (.storeV ls v) ((ls.head?.map fun l => l.2).getD 0) (effAddr base imm 128) (storeOrd o) sc none [])

theorem execStv_checks : execStv c o sc vs a imm s = mSlot c (fun e s => storeChecks e o a
    (storeHits e a fun b => laneHits e s (effAddr b imm 128)) (rdV e vs) (stvPast o sc imm e s)) s := rfl

variable (h : s.issues b c) (ha : b.pre.fl.acq = []) (hb : rdA (b.env c) a = .ok base) (hv : rdV (b.env c) vs = .ok x)
include h ha hb hv

theorem execStv_hit (hhit : laneHits (b.env c) s (effAddr base imm 128) = true) :
    execStv c o sc vs a imm s = .next (noted s b 3 (.roll 0x02 0)) :=
  mSlot_store_hit (src := fun e => rdV e vs) (hit := fun e s b => laneHits e s (effAddr b imm 128)) (rest := stvPast o sc imm)
    h ha hb (fun l => rdV_relax l hv) fun _ => hhit

variable (hno : laneHits (b.env c) s (effAddr base imm 128) = false)
include hno

omit hv in
theorem execStv_annotated (hr : b.pre.region.isSome = true) (ho : o ≠ .plain) :
    execStv c o sc vs a imm s = .next (noted s b 3 (.roll 0x07 0)) :=
  mSlot_store_annotated (src := fun e => rdV e vs) (hit := fun e s b => laneHits e s (effAddr b imm 128)) (rest := stvPast o sc imm)
    h ha hb (fun _ => hno) hr ho

theorem execStv_stops (hp : b.pre.region = none ∨ o = .plain) (hacc : vaultVec s (b.env c) (effAddr base imm 128) = .error st) :
    execStv c o sc vs a imm s = .next (noted s b 3 st) :=
  mSlot_store_stops (src := fun e => rdV e vs) (hit := fun e s b => laneHits e s (effAddr b imm 128)) (rest := stvPast o sc imm)
    h ha hb (fun l => rdV_relax l hv) (fun _ => hno) hp fun _ => (congrArg (· >>= _) hacc).trans (error_bind ..)

end Vector

/-! ## Fabric operations (R271 to R274) -/

theorem fabricAddr_misaligned {q n : Nat} (h : q % n ≠ 0) : fabricAddr s b.x q n = .error (.trap 0x04 q) := by
  rw [fabricAddr, beq_eq_false_iff_ne.mpr h]
  rfl

theorem fabricAddr_bad {q n : Nat} (ha : q % n = 0)
    (h : 2 ^ 44 ≤ q ∨ q / 2 ^ 34 % 2 ^ 10 ∉ s.domain ∨ 12 ≤ q / 2 ^ 26 % 16 ∨ (s.jobSlot b.x).valid = false) :
    fabricAddr s b.x q n = .error (.trap 0x05 q) := by
  rw [fabricAddr, beq_iff_eq.mpr ha, need_true, ok_bind, slotAcc]
  cases hval : (s.jobSlot b.x).valid with
  | false => rfl
  | true =>
    have hplace : (q / 2 ^ 44 == 0 && s.inDomain (q / 2 ^ 34 % 2 ^ 10) && decide (q / 2 ^ 26 % 16 < 12)) = false := by
      rcases h with h | h | h | h
      · have hne : q / 2 ^ 44 ≠ 0 := by omega
        rw [beq_eq_false_iff_ne.mpr hne, Bool.false_and, Bool.false_and]
      · rw [show s.inDomain (q / 2 ^ 34 % 2 ^ 10) = false by simpa [State.inDomain] using h, Bool.and_false, Bool.false_and]
      · rw [decide_eq_false (Nat.not_lt.mpr h), Bool.and_false]
      · rw [hval] at h
        cases h
    rw [need_true, ok_bind, hplace]
    rfl

theorem xtyBytes_eq (ty : XTy) : xtyBytes ty = ty.bytes := by cases ty <;> rfl

theorem forall_mem_two {α : Type} {p : α → Prop} {x y : α} (hx : p x) (hy : p y) : ∀ z ∈ [x, y], p z := by simp [hx, hy]

section Fabric

variable {v : Word} {sT : BitVec 6} {imm : BitVec 8} (h : s.issues b c) (ha : b.pre.fl.acq = []) (hr : b.pre.region = none)
  (hb : rdA (b.env c) a = .ok base)
include h ha hr hb

theorem execXld_stops {sz : LSz} {sd : BitVec 6} (hacc : fabricAddr s b.x (effAddr base imm sz.bytes) sz.bytes = .error st) :
    execXld c sz o sc sd a imm s = .next (noted s b 3 st) := by
  refine mSlot_stop h ha fun l => ?_
  rw [noRegion_ok (e := b.asks c l) hr, ok_bind, rdA_relax l hb, ok_bind]
  exact (congrArg (· >>= _) hacc).trans (error_bind ..)

variable (hv : rdS (b.env c) sT = .ok v)
include hv

theorem execXst_stops {sz : SSz} (hacc : fabricAddr s b.x (effAddr base imm sz.bytes) sz.bytes = .error st) :
    execXst c sz o sc sT a imm s = .next (noted s b 3 st) := by
  refine mSlot_stop h ha fun l => ?_
  rw [noRegion_ok (e := b.asks c l) hr, ok_bind, rdA_relax l hb, ok_bind, rdS_relax l hv, ok_bind]
  exact (congrArg (· >>= _) hacc).trans (error_bind ..)

theorem execXred_stops {op : RedOp} {ty : XTy} (hacc : fabricAddr s b.x base.toNat ty.bytes = .error st) :
    execXred c op ty o sc a sT s = .next (noted s b 3 st) := by
  refine mSlot_stop h ha fun l => ?_
  rw [noRegion_ok (e := b.asks c l) hr, ok_bind, rdA_relax l hb, ok_bind, rdS_relax l hv, ok_bind]
  exact (congrArg (· >>= _) ((congrArg _ (xtyBytes_eq ty)).trans hacc)).trans (error_bind ..)

/-- XSEND stops where one of its checks does, whatever would follow them. -/
theorem execXsend_stops {nm1 : BitVec 3} (hchk : ∀ l, ∀ rest : Rd State, (do
      need (targetOk v.toNat) (.trap 0x01 0)
      lmemAcc (b.asks c l) base.toNat (8 * (nm1.toNat + 1)) 8
      slotAcc s b.x base.toNat
      need (s.inDomain (v.toNat % 2 ^ 10)) (.trap 0x05 v.toNat)
      rest) = .error st) : execXsend c o sc sT a nm1 s = .next (noted s b 3 st) := by
  refine mSlot_stop h ha fun l => ?_
  rw [noRegion_ok (e := b.asks c l) hr, ok_bind, rdA_relax l hb, ok_bind, rdS_relax l hv, ok_bind]
  exact hchk l _

end Fabric

theorem lmemAcc_misaligned {e : Env} {x n k : Nat} (h : x % k ≠ 0) : lmemAcc e x n k = .error (.trap 0x04 x) := if_pos h

theorem lmemAcc_outside {e : Env} {x n k : Nat} (ha : x % k = 0) (h : ¬ InWindow e.pre.pr x n) : lmemAcc e x n k = .error (.trap 0x05 x) := by
  have hno : e.pre.pr.lmemOk x n = false := by
    refine Bool.eq_false_iff.mpr fun hok => h ?_
    simp only [Priv.lmemOk, Bool.and_eq_true, decide_eq_true_eq] at hok
    exact ⟨hok.1.2, hok.2, hok.1.1⟩
  rw [lmemAcc, if_neg (not_not.mpr ha), hno]
  rfl

end Slots

end Sys2Proof.Machine

open Sys2Proof Sys2Proof.Machine Sys2Proof.Claim

/-- Settles O31: of every operation the first check that fails is its slot's stop, as its sources all read. -/
theorem accessFaults : Obligations.AccessFaults := by
  refine ⟨?_, ?_, ?_⟩
  · intro c w8 o sc rm chk sd sb a imm sz s b base v d h hb hv hd ea n
    refine ⟨fun ha => ⟨mSlot_acq h ha, fun p hp => ?_⟩, fun ha hr => ⟨fun hal => ?_, fun hal hc => ?_, fun p hp => ⟨fun hal => ?_, fun hal hc => ?_⟩⟩,
      fun ha hr => ⟨fun ho => mSlot_annotated h ha hr ho, fun p hp => ?_⟩⟩
    · rw [exec_atomicOps hp]
      exact mSlot_acq h ha
    · exact execLd_stops h ha (.inl hr) hb (vaultAcc_misaligned hal)
    · exact execLd_stops h ha (.inl hr) hb (vaultAcc_uncovered hal hc)
    · rw [exec_atomicOps hp]
      exact atomic_stops h ha hr hb hv (fun _ => hd) (vaultAcc_misaligned hal)
    · rw [exec_atomicOps hp]
      exact atomic_stops h ha hr hb hv (fun _ => hd) (vaultAcc_uncovered hal hc)
    · rw [exec_atomicOps hp]
      exact mSlot_illegal h ha hr
  · intro c o sc chk sd sb vd a imm sz s b base v old x h hb hv hold hx ea ev at_ lane laneHit stops
    have hhits : ¬ laneHit → laneHits (b.env c) s ev = false := fun hno => Bool.eq_false_iff.mpr fun hhit => hno (laneHits_iff.mp hhit)
    have hhit : laneHit → laneHits (b.env c) s ev = true := fun hl => laneHits_iff.mpr hl
    have hsync : ∀ {st}, b.pre.fl.acq = [] → b.pre.region = none → vaultAcc s (b.env c) base.toNat 16 16 = .error st →
        ∀ i ∈ [Instr.sarv c o sc sd a sb, .sinit c o sc a sb], stops i st := by
      intro st ha hr hacc
      refine forall_mem_two ?_ (execSinit_stops h ha hr hb hv hacc)
      exact atomic_stops (d := 0) h ha hr hb hv (fun hf => nomatch hf) hacc
    refine ⟨fun ha => ?_, fun ha hp => ⟨fun hno => ⟨fun hal => ?_, fun hal hc => ?_⟩, fun hal => ⟨?_, fun hno => ?_⟩,
        fun i hal hi hc hfirst => ⟨?_, fun hno => ?_⟩⟩,
      fun ha => ⟨execSt_hit h ha hb hv, fun hl => execStv_hit h ha hb hx (hhit hl)⟩,
      fun ha hr i hi => ⟨fun hal => hsync ha hr (vaultAcc_misaligned hal) i hi, fun hal hc => hsync ha hr (vaultAcc_uncovered hal hc) i hi⟩,
      fun ha hr => ⟨forall_mem_two (mSlot_illegal h ha hr) (mSlot_illegal h ha hr),
        fun ho => ⟨mSlot_annotated h ha hr ho, fun hno => ?_, fun hno => ?_⟩⟩⟩
    · simp only [List.forall_mem_cons]
      exact ⟨mSlot_acq h ha, mSlot_acq h ha, mSlot_acq h ha, mSlot_acq h ha, mSlot_acq h ha, by simp⟩
    · exact execSt_stops h ha hb hv hno hp (vaultAcc_misaligned hal)
    · exact execSt_stops h ha hb hv hno hp (vaultAcc_uncovered hal hc)
    · exact execLdv_stops h ha hp hb hold (vaultVec_misaligned hal)
    · exact execStv_stops h ha hb hx (hhits hno) hp (vaultVec_misaligned hal)
    · exact execLdv_stops h ha hp hb hold (vaultVec_uncovered hal hi.1 hi.2 hc fun j hj hl => hfirst j hj ⟨hj.trans hi.1, hl⟩)
    · exact execStv_stops h ha hb hx (hhits hno) hp (vaultVec_uncovered hal hi.1 hi.2 hc fun j hj hl => hfirst j hj ⟨hj.trans hi.1, hl⟩)
    · exact execSt_annotated h ha hb hno hr ho
    · exact execStv_annotated h ha hb (hhits hno) hr ho
  · intro c o sc sd sT a imm nm1 op ty sz s b base v h ha hb hv ea x t k stops bad
    refine ⟨fun hr => ⟨fun hal => execXld_stops h ha hr hb (fabricAddr_misaligned hal), fun hal hbad => execXld_stops h ha hr hb (fabricAddr_bad hal hbad),
      fun z => ⟨fun hal => execXst_stops h ha hr hb hv (fabricAddr_misaligned hal), fun hal hbad => execXst_stops h ha hr hb hv (fabricAddr_bad hal hbad)⟩,
      fun hal => execXred_stops h ha hr hb hv (fabricAddr_misaligned hal), fun hal hbad => execXred_stops h ha hr hb hv (fabricAddr_bad hal hbad),
      fun ht => ?_, fun ht => ⟨fun hal => ?_, fun hal hw => ?_, fun hal hw hj => ?_, fun hal hw hj hm => ?_⟩⟩,
      fun hr => ⟨mSlot_illegal h ha hr, mSlot_illegal h ha hr, mSlot_illegal h ha hr, fun z => mSlot_illegal h ha hr⟩⟩
    · refine execXsend_stops h ha hr hb hv fun l rest => ?_
      rw [ht]
      rfl
    · refine execXsend_stops h ha hr hb hv fun l rest => ?_
      rw [ht, need_true, ok_bind, lmemAcc_misaligned hal, error_bind]
    · refine execXsend_stops h ha hr hb hv fun l rest => ?_
      rw [ht, need_true, ok_bind, lmemAcc_outside (e := b.asks c l) hal hw, error_bind]
    · refine execXsend_stops h ha hr hb hv fun l rest => ?_
      rw [ht, need_true, ok_bind, lmemAcc_ok (e := b.asks c l) hal hw, ok_bind, slotAcc, hj]
      rfl
    · refine execXsend_stops h ha hr hb hv fun l rest => ?_
      rw [ht, need_true, ok_bind, lmemAcc_ok (e := b.asks c l) hal hw, ok_bind, slotAcc, hj, need_true, ok_bind,
        show s.inDomain (v.toNat % 2 ^ 10) = false by simpa [State.inDomain] using hm]
      rfl

end

section
/-! Packets: their arrival from another module, what one that leaves the network wakes, the fill of an XLD's register, and counting waves (R271
to R280). -/

namespace Sys2Proof.Machine

open Sys2Proof.Claim

/-! ## Frames of the operations that packets share -/

theorem cnt_modCnt (s : State) (job : Nat) (f : JobCnt → JobCnt) : (s.modCnt job f).cnt job = f (s.cnt job) :=
  (tget_tmod ..).trans (if_pos rfl)

theorem tallyCl_keep {β : Type} (p : State → β) (s : State) (k code n : Nat) (hp : ∀ t cls, p { t with clusters := cls } = p t := by exact fun _ _ => rfl) :
    p (s.tallyCl k code n) = p s := by
  unfold State.tallyCl
  split
  · rfl
  · exact hp s _

theorem sameBytes_served (s : State) (off : Nat) : sameBytes s (s.served off) := sameBytes_tallyCl ..

/-- A write of the vault on a die that is not isolated stands, and leaves every other byte (R374). -/
theorem wrVault_written {s : State} {off n : Nat} (h : s.isolated (off / 2 ^ 30) = false) (v : Nat) :
    (s.wrVault off n v).rdVault off n = v % 256 ^ n
      ∧ ∀ a, (a < off ∨ off + n ≤ a) → rdByte (s.wrVault off n v).vault a = rdByte s.vault a := by
  have hvault : (s.wrVault off n v).vault = wrMem s.vault off n v := if_neg (by rw [h]; exact Bool.false_ne_true)
  refine ⟨?_, fun a ha => ?_⟩
  · rw [State.rdVault, hvault, rdMem_wrMem_same]
  · rw [hvault, rdByte_wrMem_outside _ _ _ _ _ ha]

/-- Only contexts that a packet may have blocked are woken: the network and every byte stand. -/
def OnlyWoken (s t : State) : Prop := t.packets = s.packets ∧ t.lossRecs = s.lossRecs ∧ sameBytes s t

theorem OnlyWoken.wakeHome {s t : State} (h : OnlyWoken s t) (w : Home) : OnlyWoken s (t.wakeHome w) := by
  obtain ⟨hp, hl, hb⟩ := h
  cases w with
  | live x => exact ⟨hp, hl, sameBytes_trans hb (sameBytes_modCtx ..)⟩
  | saved _ _ => exact ⟨hp, hl, hb⟩

theorem onlyWoken_wakePkt (s : State) (p : Packet) : OnlyWoken s (s.wakePkt p) := by
  have hrefl : OnlyWoken s s := ⟨rfl, rfl, sameBytes_refl s⟩
  unfold State.wakePkt
  split
  · refine List.foldlRecOn _ _ hrefl fun t ht o _ => ?_
    split
    · exact ht
    · exact ht.wakeHome _
  · exact hrefl

theorem wakePkt_foreign {s : State} {p : Packet} (h : p.src ≠ s.modId) : s.wakePkt p = s := if_neg h
theorem failOrigin_foreign {s : State} {p : Packet} (h : p.src ≠ s.modId) (cause : Nat) : s.failOrigin p cause = s := if_neg h

/-! ## Arrivals -/

section Arrival

variable {name : String} {kinds : List PktKind} {s : State} {f : Packet → State → Out} {p : Packet}

/-- From another module: what its kind does here. -/
theorem arrival_peer (hd : p.dst = s.modId) (hs : p.src ≠ s.modId) (hk : kinds.contains p.kind = true) : arrival name kinds (.peer p) s f = f p s := by
  have htake : s.takePkt (.peer p) = some (p, s) := if_pos ⟨hd, hs⟩
  simp only [arrival, htake, hk, State.inOrder, Bool.and_self, Bool.not_true, hd, wakePkt_foreign hs]
  rfl

/-- To another module: it leaves this one. -/
theorem does_arrival_net {ins : Instr} {i : Nat} {k : PktKind} (hex : exec ins s = arrival name [k] (.net i) s f) (hp : s.packets[i]? = some p)
    (hd : p.dst ≠ s.modId)
    (ho : s.inOrder (.net i) = true) (hk : p.kind = k) :
    Does ins s fun t => t.packets = listDrop s.packets i ∧ sameBytes s t := by
  obtain ⟨hpk, -, hb⟩ := onlyWoken_wakePkt ({ s with packets := listDrop s.packets i } : State) p
  have hkind : [k].contains p.kind = true := by simp [hk]
  refine ⟨({ s with packets := listDrop s.packets i } : State).wakePkt p, hex.trans ?_, hpk, hb⟩
  have htake : s.takePkt (.net i) = some (p, { s with packets := listDrop s.packets i }) := by rw [State.takePkt, hp]; rfl
  simp only [arrival, htake, hkind, ho, Bool.and_self, Bool.not_true, if_neg hd]
  rfl

end Arrival

/-! ## The register of an XLD -/

/-- Homes are told by which contexts are in use, by their records, and by which images are saved. -/
theorem homeOf_congr {s t : State} (hc : ∀ y, (t.ctx y).pr.crec = (s.ctx y).pr.crec ∧ ((t.ctx y).pr.st = .idle ↔ (s.ctx y).pr.st = .idle))
    (hs : ∀ cl crec, t.saved cl crec = s.saved cl crec) (cl crec : Nat) : t.homeOf cl crec = s.homeOf cl crec := by
  have hin : ∀ y, ((t.ctx y).pr.st != .idle && (t.ctx y).pr.crec == crec) = ((s.ctx y).pr.st != .idle && (s.ctx y).pr.crec == crec) := by
    intro y
    rw [(hc y).1, show ((t.ctx y).pr.st != .idle) = ((s.ctx y).pr.st != .idle) by rw [Bool.eq_iff_iff, bne_iff_ne, bne_iff_ne, (hc y).2.ne]]
  unfold State.homeOf
  simp only [hin, hs]

theorem crec_wake (c : Ctx) : c.wake.pr.crec = c.pr.crec := by
  unfold Ctx.wake Priv.wake
  dsimp only
  split
  · rfl
  · split
    · split <;> rfl
    · rfl
    · rfl

theorem idle_wake (c : Ctx) : c.wake.pr.st = .idle ↔ c.pr.st = .idle := by
  unfold Ctx.wake Priv.wake
  dsimp only
  split
  · rfl
  · split
    · next h => split <;> simp [h]
    · next h => simp [h]
    · rfl

/-- The fill of an XLD's register, with the entry of its wait taken away. -/
def Ctx.fillXld (c : Ctx) (w : XWait) (reg v : Nat) (m : Mark) : Ctx :=
  ({ c with fl := { c.fl with xwaits := c.fl.xwaits.filter fun o => o.serial != w.serial } } : Ctx).land
    { reg := .s reg, prod := w.prod, val := v, mark := m, acq := w.serial }

section Xld

variable {s : State} {p : Packet} {x : CtxId} (hh : s.homeOf (homeCl p.home) p.crec = some (.live x))
include hh

/-- A resident continuation's register is filled in its context alone, or no entry waits. -/
theorem xldFill_live (v : Nat) (m : Mark) : s.xldFill p v m =
    match (s.ctx x).fl.xwaits.find? fun w => w.prod == p.prod || w.serial == p.prod with
    | none => s
    | some w => (s.modCtx x fun c => c.fillXld w p.reg v m).wake x := by
  unfold State.xldFill
  rw [hh]
  rfl

theorem homeOf_xldFill (v : Nat) (m : Mark) : (s.xldFill p v m).homeOf (homeCl p.home) p.crec = some (.live x) := by
  rw [xldFill_live hh]
  split
  · exact hh
  · next w _ =>
    refine (homeOf_congr (fun y => ?_) (fun cl crec => ?_) ..).trans hh
    · rw [ctx_wake, ctx_modCtx, if_pos rfl, ctx_modCtx]
      split
      · next hy => rw [hy, crec_wake, idle_wake]; exact ⟨rfl, Iff.rfl⟩
      · exact ⟨rfl, Iff.rfl⟩
    · exact ((congrArg (tget none · crec) (cl_modCtx_keep Cluster.saved _ x _ cl))).trans (congrArg (tget none · crec) (cl_modCtx_keep Cluster.saved s x _ cl))

variable {w : XWait} (hw : (s.ctx x).fl.xwaits = [w]) (hp : w.prod = p.prod)
include hw hp

theorem ctx_xldFill (v : Nat) (m : Mark) : (s.xldFill p v m).ctx x = ((s.ctx x).fillXld w p.reg v m).wake := by
  rw [xldFill_live hh, hw, List.find?_cons_of_pos (by simp [hp])]
  simp only [ctx_wake, ctx_modCtx, if_true]

theorem xldFill_waits (v : Nat) (m : Mark) : ((s.xldFill p v m).ctx x).fl.xwaits = [] := by
  rw [ctx_xldFill hh hw hp]
  show (s.ctx x).fl.xwaits.filter (fun o => o.serial != w.serial) = []
  rw [hw]
  simp

theorem xldFill_reg (hprod : p.prod ≠ 0) (hreg : p.reg ≠ 0) (hnew : ((s.ctx x).regs.sc p.reg).prod = p.prod) (v : Nat) (m : Mark) :
    ((s.xldFill p v m).ctx x).regs.sc p.reg = { val := BitVec.ofNat 64 v, mark := m } := by
  rw [ctx_xldFill hh hw hp]
  exact sc_land_same hreg (hp ▸ hprod) (hp ▸ hnew) v m

end Xld

theorem counts_setHome (s : State) (h : Home) (c : Ctx) : (s.setHome h c).counts = s.counts := by
  unfold State.setHome
  split
  · rfl
  · split <;> rfl

theorem counts_modHome (s : State) (h : Home) (f : Ctx → Ctx) : (s.modHome h f).counts = s.counts := by
  unfold State.modHome
  split
  · rfl
  · exact counts_setHome ..

theorem counts_syncSaved (s : State) (h : Home) : (s.syncSaved h).counts = s.counts := by
  unfold State.syncSaved
  split
  · rfl
  · split
    · rfl
    · split <;> rfl

theorem counts_wakeHome (s : State) (h : Home) : (s.wakeHome h).counts = s.counts := by cases h <;> rfl

theorem counts_xldFill (s : State) (p : Packet) (v : Nat) (m : Mark) : (s.xldFill p v m).counts = s.counts := by
  unfold State.xldFill
  split
  · rfl
  · split
    · rfl
    · split
      · rfl
      · exact (counts_wakeHome ..).trans ((counts_syncSaved ..).trans (counts_modHome ..))

theorem counts_deferFor (s : State) (cl crec cause slot : Nat) (b : Option Nat) (detail : Nat) (delay : Bool) :
    (s.deferFor cl crec cause slot b detail delay).counts = s.counts := by
  unfold State.deferFor
  split
  · rfl
  · exact counts_modHome ..

/-- What the register of an XLD takes of its reply (R275). -/
def replyMark (p : Packet) : Mark := ⟨p.mark, if p.mark = 0 then 0 else p.src * 2 ^ 34 + p.voff⟩

theorem xldReply_violation {s : State} {p : Packet} (h : p.mark = 0x05) : s.xldReply p =
    ((s.addCons p.job.toNat 1).xldFill p (extend p.lsz (p.data.headD 0).toNat) (replyMark p)).deferFor (homeCl p.home) p.crec 0x05 3 (some p.baddr)
      (p.src * 2 ^ 34 + p.voff) p.delay := if_pos h

theorem xldReply_other {s : State} {p : Packet} (h : p.mark ≠ 0x05) : s.xldReply p =
    (s.addCons p.job.toNat 1).xldFill p (extend p.lsz (p.data.headD 0).toNat) (replyMark p) := if_neg h

theorem counts_xldReply (s : State) (p : Packet) : (s.xldReply p).counts = (s.addCons p.job.toNat 1).counts := by
  by_cases h : p.mark = 0x05
  · rw [xldReply_violation h, counts_deferFor, counts_xldFill]
  · rw [xldReply_other h, counts_xldFill]

theorem deferFor_live {s : State} {x : CtxId} {cl crec : Nat} (h : s.homeOf cl crec = some (.live x)) (cause slot : Nat) (b : Option Nat) (detail : Nat)
    (delay : Bool) : (s.deferFor cl crec cause slot b detail delay).ctx x =
      { s.ctx x with fl := { (s.ctx x).fl with defer := (s.ctx x).fl.defer ++ [⟨cause, slot, b, detail, delay⟩] } } := by
  simp only [State.deferFor, h, State.deferTrap, modHome_live, ctx_modCtx, if_true]

/-! ## Handlers (R272, R356) -/

theorem sc_wr_other (r : Regs) {n m : Nat} (h : m ≠ n) (v : Nat) : (r.wr (.s n) v).sc m = r.sc m := (sc_setS ..).trans (if_neg fun k => h k.2)

/-- The first argument of a continuation stands in s1 (R27). -/
theorem startRegs_first (argp a14 : Nat) {args : List Nat} (h : args ≠ []) :
    ((startRegs argp a14 args).sc 1).val = BitVec.ofNat 64 (args.getD 0 0) := by
  have hall : ∀ n, ∀ r : Regs, (((List.range (n + 1)).foldl (fun r i => r.wr (.s (i + 1)) (args.getD i 0)) r).sc 1).val = BitVec.ofNat 64 (args.getD 0 0) := by
    intro n r
    induction n with
    | zero => exact congrArg RCell.val (sc_wr_same r Nat.one_ne_zero _)
    | succ n ih => rw [List.range_succ, List.foldl_concat, sc_wr_other _ (by omega), ih]
  obtain ⟨n, hn⟩ := Nat.exists_eq_succ_of_ne_zero (mt List.length_eq_zero_iff.mp h)
  rw [startRegs, hn]
  exact hall ..

/-- A new record in a team with a free one: its place on the ready list, and the image it starts from (R26, R27). -/
theorem newRecord_image {s : State} {cl k i : Nat} {tm : Team} {rest : List Nat} (ht : s.team cl k = some tm) (hf : tm.free = i :: rest) (q : SpawnReq) :
    let crec := recAddr (s.lraw tm.launch) tm.vbase i
    (∃ r, ((s.newRecord cl k q).cl cl).ready = r ++ [crec]) ∧ ∃ img, (s.newRecord cl k q).saved cl crec = some img ∧ img.ctx.pc = q.entry
      ∧ img.ctx.ct.tag = q.tag ∧ ∃ a14, img.ctx.regs = startRegs (lArgp (s.lraw tm.launch)) a14 q.args := by
  intro crec
  have hmake : ∃ u img, s.newRecord cl k q = (State.setSaved u cl crec (some img)).addReady cl crec ∧ img.ctx.pc = q.entry
      ∧ img.ctx.ct.tag = q.tag ∧ ∃ a14, img.ctx.regs = startRegs (lArgp (s.lraw tm.launch)) a14 q.args := by
    unfold State.newRecord
    simp only [ht, hf]
    exact ⟨_, _, rfl, rfl, rfl, _, rfl⟩
  obtain ⟨u, img, hmake, himg⟩ := hmake
  rw [hmake]
  refine ⟨⟨(u.setSaved cl crec (some img)).readyList cl, ?_⟩, img, ?_, himg⟩
  · rw [State.addReady, cl_setReady, if_pos rfl]
  · rw [(SameHomes.refl _).addReady.savedImg, saved_setSaved_same]

theorem lraw_of_launch {s : State} {l : Nat} {v : Launch} (h : s.launch l = some v) : s.lraw l = v.raw := by rw [State.lraw, h]; rfl

/-- A handler's continuation starts with its message's tag and arguments. -/
theorem startHandler_image {s : State} {p : Packet} {l cl k key entry i : Nat} {v : Launch} {tm : Team} {rest : List Nat} (hv : s.launch l = some v)
    (ht : s.team cl k = some tm) (hl : tm.launch = l) (hf : tm.free = i :: rest) :
    let t := s.startHandler p l cl k key entry
    let crec := recAddr v.raw tm.vbase i
    (∃ q, (t.cl cl).ready = q ++ [crec]) ∧ ∃ img, t.saved cl crec = some img ∧ img.ctx.pc = entry ∧ img.ctx.ct.tag = some s.freeMsg
      ∧ (p.data ≠ [] → (img.ctx.regs.sc 1).val = p.data.headD 0) := by
  intro t crec
  let s1 : State := { s with msgs := tput s.msgs s.freeMsg (some ⟨p.job.toNat, 1⟩) }
  let s2 : State := s1.setTeam cl k { tm with live := tm.live + 1 }
  let q : SpawnReq := { wid := key * 2 ^ widthFrom (s.lraw l) (lT (s.lraw l)), prio := s.launchPrio l, entry := entry, args := p.data.map BitVec.toNat
                        tag := some s.freeMsg, origin := none, core := if p.core = 0xF then none else some p.core }
  have hstart : t = s2.newRecord cl k q := by
    have hteam : s1.team cl k = some tm := ht
    have hfree : tm.free.isEmpty = false := by rw [hf]; rfl
    simp only [t, State.startHandler]
    rw [show State.team ({ s with msgs := tput s.msgs s.freeMsg (some ⟨p.job.toNat, 1⟩) }) cl k = some tm from hteam]
    dsimp only
    rw [hfree]
    rfl
  obtain ⟨hready, img, himg, hpc, htag, a14, hregs⟩ := newRecord_image (s := s2) (team_setTeam_same s1 cl k { tm with live := tm.live + 1 }) hf q
  have hcrec : recAddr (s2.lraw tm.launch) tm.vbase i = crec := by
    rw [hl, show s2.lraw l = s.lraw l from rfl, lraw_of_launch hv]
  dsimp only at hready himg
  rw [hcrec] at hready himg
  rw [hstart]
  refine ⟨hready, img, himg, hpc, htag, fun hne => ?_⟩
  rw [hregs, startRegs_first _ _ (by simpa [q] using hne)]
  obtain ⟨d, ds, hd⟩ := List.exists_cons_of_ne_nil hne
  simp [q, hd]

section Deliver

variable {s : State} {p : Packet} (hd : p.dst = s.modId) (hs : p.src ≠ s.modId) (hk : p.kind = .xsend)
include hd hs hk

/-- A message of a job that no launch serves is lost. -/
theorem xsendDeliver_unserved (h : s.serving p.job.toNat = none) (cl : Nat) :
    exec (.xsendDeliver (.peer p) cl) s = .next (s.addLost p.job.toNat 1) := by
  have hkind : [PktKind.xsend].contains p.kind = true := by rw [hk]; rfl
  show execXsendDeliver (.peer p) cl s = _
  rw [execXsendDeliver, arrival_peer hd hs hkind]
  simp only [h]

variable {l : Nat} {v : Launch} (hl : s.serving p.job.toNat = some l) (hv : s.launch l = some v)
include hl hv

theorem xsendDeliver_frozen (h : v.st.isFrozen = true) (cl : Nat) :
    exec (.xsendDeliver (.peer p) cl) s = .next { s with waiting := s.waiting ++ [p] } := by
  have hkind : [PktKind.xsend].contains p.kind = true := by rw [hk]; rfl
  show execXsendDeliver (.peer p) cl s = _
  rw [execXsendDeliver, arrival_peer hd hs hkind]
  simp only [hl, hv, Option.map_some, Option.getD_some, h, if_true]

variable (hst : v.st.isFrozen = false)
include hst

/-- So is one that names no handler, or whose handler has no cluster that runs (R280). -/
theorem xsendDeliver_undelivered (h : lHcount v.raw ≤ p.hidx ∨ s.handlerTeam l p.clu = none
    ∨ ∃ t, s.handlerTeam l p.clu = some t ∧ s.clusterRuns t.1 = false) (cl : Nat) :
    exec (.xsendDeliver (.peer p) cl) s = .next (s.addLost p.job.toNat 1) := by
  have hkind : [PktKind.xsend].contains p.kind = true := by rw [hk]; rfl
  show execXsendDeliver (.peer p) cl s = _
  rw [execXsendDeliver, arrival_peer hd hs hkind]
  simp only [hl, hv, Option.map_some, Option.getD_some, hst, Bool.false_eq_true, if_false, lraw_of_launch hv]
  by_cases hc : lHcount v.raw ≤ p.hidx
  · rw [if_pos hc]
  · rw [if_neg hc]
    rcases h.resolve_left hc with h | ⟨t, h, hrun⟩
    · simp only [h]
    · simp only [h, hrun, Bool.not_false, if_true]

theorem xsendDeliver_starts {t : Nat × Nat × Nat} {entry : Nat} (hc : p.hidx < lHcount v.raw) (ht : s.handlerTeam l p.clu = some t)
    (hrun : s.clusterRuns t.1 = true) (he : s.handlerEntry l p.hidx = some entry) :
    exec (.xsendDeliver (.peer p) t.1) s = .next (s.startHandler p l t.1 t.2.1 t.2.2 entry) := by
  have hkind : [PktKind.xsend].contains p.kind = true := by rw [hk]; rfl
  show execXsendDeliver (.peer p) t.1 s = _
  rw [execXsendDeliver, arrival_peer hd hs hkind]
  simp only [hl, hv, Option.map_some, Option.getD_some, hst, Bool.false_eq_true, if_false, lraw_of_launch hv, if_neg (Nat.not_le.mpr hc), ht, hrun,
    Bool.not_true, he, beq_self_eq_true, event_true]

end Deliver

/-! ## Losses (R280, R373) -/

/-- A log keeps the record that is added to it as its latest (R368). -/
theorem logAdd_last (s : State) (die : Nat) (bus : Bool) (r : LogRec) :
    (tget ({ } : ErrLog) (s.logAdd die bus r).logs (2 * die + b2n bus)).recs.getLast? =
      some { r with seq := (tget ({ } : ErrLog) s.logs (2 * die + b2n bus)).next, die := die, tick := s.tick } := by
  rw [State.logAdd, tget_tput_same]
  dsimp only
  split
  · next h =>
    have hne : ¬ (tget ({ } : ErrLog) s.logs (2 * die + b2n bus)).recs.length = 0 := by
      rw [List.length_append] at h
      simp only [List.length_singleton] at h
      omega
    rw [List.getLast?_tail, if_neg (by simpa using hne), List.getLast?_concat]
  · exact List.getLast?_concat

theorem homeOf_addLost (s : State) (job n cl crec : Nat) : (s.addLost job n).homeOf cl crec = s.homeOf cl crec := rfl

/-! ## Counting waves (R278, R279) -/

theorem tget_map {α : Type} {d : α} {g : Nat → α → α} (h : ∀ k, g k d = d) (t : Tab α) (k : Nat) :
    tget d (t.map fun e => (e.1, g e.1 e.2)) k = g k (tget d t k) := by
  induction t with
  | nil => exact (h k).symm
  | cons e t ih =>
    simp only [List.map_cons, tget]
    split
    · next he => rw [he]
    · exact ih

/-- A change of every context of the machine reaches each of them. -/
theorem ctx_mapCtxs {s t : State} {f : CoreId → Ctx → Ctx} (hf : ∀ m, f m { } = { })
    (h : t.clusters = s.clusters.map fun e => (e.1, e.2.mapCtxs e.1 f)) (x : CtxId) : t.ctx x = f x.coreId (s.ctx x) := by
  have hcl : t.cl x.cl = (s.cl x.cl).mapCtxs x.cl f := by
    rw [State.cl, h]
    exact tget_map (g := fun k c => Cluster.mapCtxs k f c) (fun _ => rfl) ..
  have hcore : t.core x.coreId = { s.core x.coreId with ctxs := (s.core x.coreId).ctxs.map fun y => (y.1, f x.coreId y.2) } := by
    rw [State.core, show x.coreId.cl = x.cl from rfl, hcl]
    exact tget_map (g := fun k (o : Core) => { o with ctxs := o.ctxs.map fun y => (y.1, f ⟨x.cl, k⟩ y.2) }) (fun _ => rfl) ..
  rw [State.ctx, hcore]
  exact tget_map (g := fun _ y => f x.coreId y) (fun _ => hf _) ..

end Sys2Proof.Machine
end

section
/-! What each kind of packet does where it arrives, and what a dropped, a lost and a merged one leave. -/

namespace Sys2Proof.Machine

open Sys2Proof.Claim

section Peer

variable {s : State} {p : Packet} (hd : p.dst = s.modId) (hs : p.src ≠ s.modId)
include hd hs

theorem does_xstArrival (hk : p.kind = .xst) : Does (.xstArrival (.peer p)) s fun t =>
    (t.cnt p.job.toNat).cons = ((s.cnt p.job.toNat).cons + 1) % 2 ^ 64
      ∧ ((s.jobEnt p.job.toNat).holds p.voff p.size = true → s.isolated (p.voff / 2 ^ 30) = false →
        t.rdVault p.voff p.size = (p.data.headD 0).toNat % 256 ^ p.size
          ∧ ∀ a, (a < p.voff ∨ p.voff + p.size ≤ a) → rdByte t.vault a = rdByte s.vault a)
      ∧ ((s.jobEnt p.job.toNat).holds p.voff p.size = false → sameBytes s t) := by
  have hkind : [PktKind.xst].contains p.kind = true := by rw [hk]; rfl
  let u := s.addCons p.job.toNat 1
  have hcnt : (u.cnt p.job.toNat).cons = ((s.cnt p.job.toNat).cons + 1) % 2 ^ 64 := congrArg JobCnt.cons (cnt_modCnt ..)
  have hsrc : ∀ t : State, t.modId = s.modId → p.src ≠ t.modId := fun t ht => by rw [ht]; exact hs
  cases hw : (s.jobEnt p.job.toNat).holds p.voff p.size with
  | false =>
    refine ⟨u, ?_, hcnt, nofun, fun _ => sameBytes_refl s⟩
    show execXstArrival (.peer p) s = _
    rw [execXstArrival, arrival_peer hd hs hkind]
    dsimp only
    rw [if_neg (by rw [show (s.addCons p.job.toNat 1).jobEnt p.job.toNat = s.jobEnt p.job.toNat from rfl, hw]; exact Bool.false_ne_true),
      failOrigin_foreign (hsrc u rfl)]
  | true =>
    let t := (u.served p.voff).wrVault p.voff p.size (p.data.headD 0).toNat
    have hiso : ∀ d, (u.served p.voff).isolated d = s.isolated d := fun d => tallyCl_keep (fun t => t.isolated d) u ..
    have hmod : (u.served p.voff).modId = s.modId := tallyCl_keep State.modId u ..
    refine ⟨t, ?_, ?_, fun _ hdie => ?_, nofun⟩
    · show execXstArrival (.peer p) s = _
      rw [execXstArrival, arrival_peer hd hs hkind]
      dsimp only
      rw [if_pos (show ((s.addCons p.job.toNat 1).jobEnt p.job.toNat).holds p.voff p.size = true from hw), failOrigin_foreign (hsrc t hmod), ite_self]
    · exact (congrArg (fun c => (tget ({ } : JobCnt) c p.job.toNat).cons) (tallyCl_keep State.counts u ..)).trans hcnt
    · obtain ⟨hval, hrest⟩ := wrVault_written (s := u.served p.voff) (off := p.voff) (n := p.size) ((hiso _).trans hdie) (p.data.headD 0).toNat
      exact ⟨hval, fun a ha => (hrest a ha).trans (congrArg (rdByte · a) (tallyCl_keep State.vault u ..))⟩

theorem does_xldRequestArrival (hk : p.kind = .xldReq) : Does (.xldRequestArrival (.peer p)) s fun t => sameBytes s t
    ∧ ∃ q : Packet, t.packets = s.packets ++ [q] ∧ q.kind = .xldRep ∧ q.src = p.dst ∧ q.dst = p.src ∧ q.reg = p.reg ∧ q.prod = p.prod
      ∧ ((s.jobEnt p.job.toNat).holds p.voff p.size = false → q.mark = 0x05)
      ∧ ((s.jobEnt p.job.toNat).holds p.voff p.size = true → s.vaultBad p.voff p.size = true → q.mark = 0x0C)
      ∧ ((s.jobEnt p.job.toNat).holds p.voff p.size = true → s.vaultBad p.voff p.size = false → q.mark = 0
        ∧ q.data = [BitVec.ofNat 64 (s.rdVault p.voff p.size)]) := by
  have hkind : [PktKind.xldReq].contains p.kind = true := by rw [hk]; rfl
  have hex := arrival_peer (name := "XLD_REQUEST_ARRIVAL") (f := fun p s =>
    let ok := (s.jobEnt p.job.toNat).holds p.voff p.size
    let rep : Packet := { p with
      kind := .xldRep, src := p.dst, dst := p.src, data := [BitVec.ofNat 64 (if ok then s.rdVault p.voff p.size else 0)]
      mark := if !ok then 0x05 else if s.vaultBad p.voff p.size then 0x0C else 0 }
    let s := if ok then s.served p.voff else s
    .next { s with packets := s.packets ++ [rep] }) hd hs hkind
  have hsame : ∀ ok : Bool, sameBytes s (if ok then s.served p.voff else s)
      ∧ (if ok then s.served p.voff else s).packets = s.packets := by
    intro ok
    cases ok
    · exact ⟨sameBytes_refl s, rfl⟩
    · exact ⟨sameBytes_served .., tallyCl_keep State.packets s ..⟩
  refine ⟨_, hex, (hsame _).1, _, congrArg (· ++ _) (hsame _).2, rfl, rfl, rfl, rfl, rfl, fun hw => ?_, fun hw hb => ?_, fun hw hb => ⟨?_, ?_⟩⟩
  · simp only [hw, Bool.not_false, if_true]
  · simp only [hw, hb, Bool.not_true, Bool.false_eq_true, if_false, if_true]
  · simp only [hw, hb, Bool.not_true, Bool.false_eq_true, if_false]
  · simp only [hw, if_true]

section Reply

variable (hk : p.kind = .xldRep)
include hk

theorem xldReplyArrival_peer : exec (.xldReplyArrival (.peer p)) s = .next (s.xldReply p) := by
  have hkind : [PktKind.xldRep].contains p.kind = true := by rw [hk]; rfl
  show execXldReplyArrival (.peer p) s = _
  rw [execXldReplyArrival, if_pos hk, arrival_peer hd hs hkind]

theorem does_xldReplyArrival : Does (.xldReplyArrival (.peer p)) s fun t => (t.cnt p.job.toNat).cons = ((s.cnt p.job.toNat).cons + 1) % 2 ^ 64
    ∧ ∀ x w, s.homeOf (homeCl p.home) p.crec = some (.live x) → (s.ctx x).fl.xwaits = [w] → w.prod = p.prod → p.prod ≠ 0 → p.reg ≠ 0 →
      ((s.ctx x).regs.sc p.reg).prod = p.prod → p.mark = 0 →
      (t.ctx x).regs.sc p.reg = { val := BitVec.ofNat 64 (extend p.lsz (p.data.headD 0).toNat) } ∧ (t.ctx x).fl.xwaits = [] := by
  refine ⟨_, xldReplyArrival_peer hd hs hk, ?_, fun x w hh hw hp hprod hreg hnew hmark => ?_⟩
  · rw [State.cnt, counts_xldReply]
    exact congrArg JobCnt.cons (cnt_modCnt ..)
  · rw [xldReply_other (by omega)]
    refine ⟨?_, xldFill_waits (s := s.addCons p.job.toNat 1) hh hw hp ..⟩
    rw [xldFill_reg (s := s.addCons p.job.toNat 1) hh hw hp hprod hreg hnew, replyMark, hmark]
    rfl

theorem does_xldReplyArrival_violation (hmark : p.mark = 0x05) : Does (.xldReplyArrival (.peer p)) s fun t =>
    ∀ x, s.homeOf (homeCl p.home) p.crec = some (.live x) → ∃ e ∈ (t.ctx x).fl.defer, e.cause = 0x05 ∧ e.detail = p.src * 2 ^ 34 + p.voff := by
  refine ⟨_, xldReplyArrival_peer hd hs hk, fun x hh => ?_⟩
  rw [xldReply_violation hmark, deferFor_live (homeOf_xldFill (s := s.addCons p.job.toNat 1) hh ..)]
  exact ⟨_, List.mem_concat_self .., rfl, rfl⟩

end Reply

theorem does_xredApply (hk : p.kind = .xred) : Does (.xredApply (.peer p)) s fun t =>
    (t.cnt p.job.toNat).cons = ((s.cnt p.job.toNat).cons + p.count) % 2 ^ 64
      ∧ ((s.jobEnt p.job.toNat).reduces p.voff p.size = true → s.vaultBad p.voff p.size = false →
        t.rdVault p.voff p.size = redApply p.op p.ty (s.rdVault p.voff p.size) (p.data.headD 0).toNat % 256 ^ p.size)
      ∧ (((s.jobEnt p.job.toNat).reduces p.voff p.size = false ∨ s.vaultBad p.voff p.size = true) → sameBytes s t) := by
  have hkind : [PktKind.xred].contains p.kind = true := by rw [hk]; rfl
  let u := s.addCons p.job.toNat p.count
  let t := u.served p.voff
  have hcnt : (u.cnt p.job.toNat).cons = ((s.cnt p.job.toNat).cons + p.count) % 2 ^ 64 := congrArg JobCnt.cons (cnt_modCnt ..)
  have hcnt' : (t.cnt p.job.toNat).cons = ((s.cnt p.job.toNat).cons + p.count) % 2 ^ 64 :=
    (congrArg (fun c => (tget ({ } : JobCnt) c p.job.toNat).cons) (tallyCl_keep State.counts u ..)).trans hcnt
  have hbad : t.vaultBad p.voff p.size = s.vaultBad p.voff p.size := tallyCl_keep (fun t => t.vaultBad p.voff p.size) u ..
  have hread : t.rdVault p.voff p.size = s.rdVault p.voff p.size := tallyCl_keep (fun t => t.rdVault p.voff p.size) u ..
  have hsrc : p.src ≠ t.modId := by rw [show t.modId = s.modId from tallyCl_keep State.modId u ..]; exact hs
  have happly : exec (.xredApply (.peer p)) s = .next (if (s.jobEnt p.job.toNat).reduces p.voff p.size then
      if t.vaultBad p.voff p.size then t.failOrigin p 0x0C
      else t.wrVault p.voff p.size (redApply p.op p.ty (t.rdVault p.voff p.size) (p.data.headD 0).toNat) else u.failOrigin p 0x05) := by
    show execXredApply (.peer p) s = _
    rw [execXredApply, arrival_peer hd hs hkind]
    rfl
  cases hw : (s.jobEnt p.job.toNat).reduces p.voff p.size with
  | false =>
    refine ⟨u, happly.trans ?_, hcnt, nofun, fun _ => sameBytes_refl s⟩
    rw [if_neg (by rw [hw]; exact Bool.false_ne_true), failOrigin_foreign (s := u) hs]
  | true =>
    cases hb : s.vaultBad p.voff p.size with
    | true =>
      refine ⟨t, happly.trans ?_, hcnt', fun _ => nofun, fun _ => sameBytes_served u p.voff⟩
      rw [if_pos hw, if_pos (hbad.trans hb), failOrigin_foreign hsrc]
    | false =>
      refine ⟨t.wrVault p.voff p.size (redApply p.op p.ty (t.rdVault p.voff p.size) (p.data.headD 0).toNat), happly.trans ?_, hcnt', fun _ _ => ?_,
        fun h => h.elim nofun nofun⟩
      · rw [if_pos hw, if_neg (by rw [hbad, hb]; exact Bool.false_ne_true)]
      · have hiso : t.isolated (p.voff / 2 ^ 30) = false := (Bool.or_eq_false_iff.mp (hbad.trans hb)).2
        rw [(wrVault_written hiso _).1, hread]

end Peer

/-! ## Losses -/

section Loss

variable {s : State} {p : Packet} (hd : p.dst = s.modId)
include hd

/-- A loss at its destination: counted, a lost XLD's register filled, and recorded (R280). -/
theorem lose_here : s.lose p = State.logAdd (if (s.addLost p.job.toNat p.count).lostXld p then (s.addLost p.job.toNat p.count).xldFill p 0 ⟨0x0E, 1⟩
    else s.addLost p.job.toNat p.count) fabricDie true (logRec 0x16 0 0 (Nat.min 255 p.count) (pktAddr p) p.job.toNat) := by
  rw [State.lose, if_pos hd]

theorem does_lossRecordReceive : Does (.lossRecordReceive (.peer p)) s fun t => (t.cnt p.job.toNat).lost = ((s.cnt p.job.toNat).lost + p.count) % 2 ^ 64
    ∧ (∃ r, (tget ({ } : ErrLog) t.logs (2 * fabricDie + 1)).recs.getLast? = some r ∧ r.kind = 0x16 ∧ r.count = Nat.min 255 p.count
      ∧ r.addr = pktAddr p)
    ∧ ∀ x w, p.kind = .xldRep → s.homeOf (homeCl p.home) p.crec = some (.live x) → (s.ctx x).fl.xwaits = [w] → w.prod = p.prod →
      p.prod ≠ 0 → p.reg ≠ 0 → ((s.ctx x).regs.sc p.reg).prod = p.prod → (t.ctx x).regs.sc p.reg = { val := 0, mark := ⟨0x0E, 1⟩ } := by
  let u := s.addLost p.job.toNat p.count
  refine does_event (n := "LOSS_RECORD_RECEIVE") rfl (by simp [hd]) ?_
  rw [lose_here hd]
  refine ⟨?_, ⟨_, logAdd_last .., rfl, rfl, rfl⟩, fun x w hk hh hw hp hprod hreg hnew => ?_⟩
  · have hcounts : (if u.lostXld p then u.xldFill p 0 ⟨0x0E, 1⟩ else u).counts = u.counts := by
      split
      · exact counts_xldFill ..
      · rfl
    exact (congrArg (fun c => (tget ({ } : JobCnt) c p.job.toNat).lost) hcounts).trans (congrArg JobCnt.lost (cnt_modCnt ..))
  · have hlost : u.lostXld p = true := by
      rw [State.lostXld, hk, show (p.dst == u.modId) = true from beq_iff_eq.mpr hd]
      exact Bool.or_true _
    rw [if_pos hlost]
    exact xldFill_reg (s := u) hh hw hp hprod hreg hnew 0 ⟨0x0E, 1⟩

end Loss

theorem xldReplyArrival_net (s : State) (i : Nat) : exec (.xldReplyArrival (.net i)) s =
    arrival "XLD_REPLY_ARRIVAL" [.xldRep] (.net i) s fun p s => .next (s.xldReply p) := rfl

/-! ## Merges (R274) -/

/-- Two reductions of one place as one packet. -/
def merged (a b : Packet) : Packet :=
  { a with
    count := a.count + b.count
    data := [BitVec.ofNat 64 (redMerge a.op a.ty (a.data.headD 0).toNat (b.data.headD 0).toNat)]
    also := a.also ++ pktContribs b }

theorem execXredMerge_of {s : State} {i j : Nat} {a b : Packet} (ha : s.packets[i]? = some a) (hb : s.packets[j]? = some b) :
    execXredMerge i j s = event "XRED_MERGE"
      (i != j && a.kind == .xred && b.kind == .xred && a.job == b.job && a.src == b.src && a.dst == b.dst && a.voff == b.voff && a.op == b.op
        && a.ty == b.ty && s.noneBetween a i j) { s with packets := listDrop (listSet s.packets i (merged a b)) j } := by
  rw [execXredMerge, ha, hb]
  rfl

end Sys2Proof.Machine

open Sys2Proof Sys2Proof.Machine Sys2Proof.Claim

/-- Settles O55: a packet of another module does what its kind does, one to another module leaves, and neither wakes what another module issued. -/
theorem fabricEvents : Obligations.FabricEvents := by
  refine fun s => ⟨fun p hd hs => ⟨does_xstArrival hd hs, does_xldRequestArrival hd hs, does_xldReplyArrival hd hs,
      does_xldReplyArrival_violation hd hs, does_xredApply hd hs, fun hk => ⟨fun h cl => ?_, fun l v hl hv hf cl => ?_,
        fun l v h entry tm i rest hl hv hf hc hteam hrun he htm hown hfree => ?_⟩, does_lossRecordReceive hd⟩,
    fun i p hp hd ho => ⟨fun hk => ?_, fun hk => ?_, fun hk => ?_, fun hk => ?_, fun hk cl => ?_⟩,
    fun i j a b ha hb hij hka hkb hjob hsrc hdst hoff hop hty hnone => ?_, fun i p hp => ?_, fun peers hw => ?_, fun w rest hw => ?_⟩
  · have hlost : ((s.addLost p.job.toNat 1).cnt p.job.toNat).lost = ((s.cnt p.job.toNat).lost + 1) % 2 ^ 64 := congrArg JobCnt.lost (cnt_modCnt ..)
    rcases h with h | ⟨l, v, hl, hv, hf, h⟩
    · exact ⟨_, xsendDeliver_unserved hd hs hk h cl, hlost⟩
    · exact ⟨_, xsendDeliver_undelivered hd hs hk hl hv hf h cl, hlost⟩
  · exact ⟨_, xsendDeliver_frozen hd hs hk hl hv hf cl, rfl⟩
  · exact ⟨_, xsendDeliver_starts hd hs hk hl hv hf hc hteam hrun he, startHandler_image hv htm hown hfree⟩
  · exact does_arrival_net (by show execXstArrival .. = _; unfold execXstArrival; rfl) hp hd ho hk
  · exact does_arrival_net (by show execXldRequestArrival .. = _; unfold execXldRequestArrival; rfl) hp hd ho hk
  · exact does_arrival_net (xldReplyArrival_net s i) hp hd ho hk
  · exact does_arrival_net (by show execXredApply .. = _; unfold execXredApply; rfl) hp hd ho hk
  · exact does_arrival_net (by show execXsendDeliver .. = _; unfold execXsendDeliver; rfl) hp hd ho hk
  · refine does_event (n := "XRED_MERGE") (t := { s with packets := listDrop (listSet s.packets i (merged a b)) j })
      ((execXredMerge_of ha hb).trans rfl) ?_ ⟨_, rfl, rfl, rfl, rfl, rfl⟩
    simp [hij, hka, hkb, hjob, hsrc, hdst, hoff, hop, hty, hnone]
  · obtain ⟨hpk, hl, -⟩ := onlyWoken_wakePkt ({ s with
      packets := listDrop s.packets i
      lossRecs := if p.dst = s.modId ∨ (p.src = s.modId ∧ p.count = 1) then s.lossRecs ++ [p] else s.lossRecs } : State) p
    refine ⟨_, ?_, hpk, hl⟩
    show execPacketDrop i s = _
    simp only [execPacketDrop, hp]
  · exact does_event (n := "COUNTING_WAVE") rfl (decide_eq_true hw) ⟨rfl, rfl, _, rfl, rfl⟩
  · refine ⟨{ s with waveFlight := rest, clusters := s.clusters.map fun e => (e.1, e.2.mapCtxs e.1 fun _ c => c.seeWave w) }, ?_, rfl, fun x v q hv hq => ?_⟩
    · show execWaveSumsArrival s = _
      simp only [execWaveSumsArrival, hw]
    · rw [ctx_mapCtxs (s := s) (f := fun _ c => c.seeWave w) (fun _ => rfl) rfl, Ctx.seeWave, hv, Option.map_some, hq, Option.map_some]

end

section
/-! The matrix engine at work: the tracker, weight loads, passes, tile windows, drain status and ring slots (R71, R136 to R138, R241 to R248,
R255, R266). -/

namespace Sys2Proof.Machine

open Sys2Proof.Claim

/-! ## What an engine's step leaves alone -/

/-- A projection that does not tell the two branches of a choice apart. -/
theorem proj_ite {α β : Type} (p : α → β) {c : Prop} [Decidable c] {a b : α} (h : p a = p b) : p (if c then a else b) = p b := by
  split
  · exact h
  · rfl

theorem engineTrap_eq (s : State) (c : CoreId) (k : Cmd) (code : Nat) : s.engineTrap c k code = s.modCtx (cmdCtx c k) fun x =>
    { x with fl := { x.fl with defer := x.fl.defer ++ [⟨0x0D, 0, none, engineDetail k.baddr code, false⟩] } } := rfl

/-- Core `c`'s engine has come to `m`; no byte has changed. -/
def EngineAt (s t : State) (c : CoreId) (m : Mx) : Prop := (t.core c).mx = m ∧ sameBytes s t

namespace EngineAt

variable {s t : State} {c : CoreId} {m : Mx}

theorem refl (s : State) (c : CoreId) : EngineAt s s c (s.core c).mx := ⟨rfl, sameBytes_refl s⟩

theorem modMx (h : EngineAt s t c m) (f : Mx → Mx) : EngineAt s (t.modMx c f) c (f m) := by
  obtain ⟨hm, hb⟩ := h
  exact ⟨by rw [core_modMx, hm], sameBytes_trans hb (sameBytes_modMx ..)⟩

theorem modCtx (h : EngineAt s t c m) (x : CtxId) (f : Ctx → Ctx) : EngineAt s (t.modCtx x f) c m := by
  obtain ⟨hm, hb⟩ := h
  exact ⟨(core_modCtx_keep Core.mx t x f c).trans hm, sameBytes_trans hb (sameBytes_modCtx ..)⟩

theorem wakeCore (h : EngineAt s t c m) (o : CoreId) : EngineAt s (t.wakeCore o) c m :=
  (((h.modCtx _ Ctx.wake).modCtx _ Ctx.wake).modCtx _ Ctx.wake).modCtx _ Ctx.wake

theorem engineTrap (h : EngineAt s t c m) (o : CoreId) (k : Cmd) (code : Nat) : EngineAt s (t.engineTrap o k code) c m := by
  rw [engineTrap_eq]
  exact h.modCtx ..

theorem tallyCl (h : EngineAt s t c m) (k code n : Nat) : EngineAt s (t.tallyCl k code n) c m := by
  obtain ⟨hm, hb⟩ := h
  exact ⟨(congrArg (fun l : Tab Core => (tget ({ } : Core) l c.core).mx) (cl_tallyCl_keep Cluster.cores t k code n c.cl)).trans hm,
    sameBytes_trans hb (sameBytes_tallyCl ..)⟩

theorem served (h : EngineAt s t c m) (off : Nat) : EngineAt s (t.served off) c m := h.tallyCl ..

theorem tally (h : EngineAt s t c m) (x : CtxId) (code n : Nat) : EngineAt s (t.tally x code n) c m := by
  obtain ⟨hm, hb⟩ := h
  exact ⟨(core_tally_keep Core.mx t x code n c).trans hm, sameBytes_trans hb (sameBytes_tally ..)⟩

theorem logAdd (h : EngineAt s t c m) (die : Nat) (bus : Bool) (r : LogRec) : EngineAt s (t.logAdd die bus r) c m := h

end EngineAt

theorem fl_wake (c : Ctx) : c.wake.fl = c.fl := rfl

/-- Waking a core's contexts leaves what they have in flight. -/
theorem fl_wakeCore (s : State) (c : CoreId) (y : CtxId) : ((s.wakeCore c).ctx y).fl = (s.ctx y).fl := by
  have hwake : ∀ (t : State) x, ((t.wake x).ctx y).fl = (t.ctx y).fl := fun t x => by
    rw [ctx_wake]
    split
    · next h => rw [h]; rfl
    · rfl
  exact (hwake _ _).trans ((hwake _ _).trans ((hwake _ _).trans (hwake _ _)))

/-- An engine error waits in its context for the next boundary, with its code (R248). -/
theorem engineTrap_waits (s : State) (c : CoreId) (k : Cmd) (code : Nat) :
    ∃ e ∈ ((s.engineTrap c k code).ctx (cmdCtx c k)).fl.defer, e.cause = 0x0D ∧ e.detail = engineDetail k.baddr code := by
  rw [engineTrap_eq, ctx_modCtx, if_pos rfl]
  exact ⟨_, List.mem_concat_self .., rfl, rfl⟩

/-! ## The tracker (R266) -/

theorem earlyOf_read (s : State) (c : CoreId) (reads : List Foot) : ∀ e ∈ s.earlyOf c reads, e.2 = rdMem (s.core c).lmem (8 * e.1) 8 := by
  intro e he
  obtain ⟨p, -, rfl⟩ := List.mem_map.mp he
  rfl

/-- Two changes of one command, one after the other. -/
theorem modCmd_modCmd (m : Mx) (id : Nat) (f g : Cmd → Cmd) (hf : ∀ k, (f k).id = k.id) :
    (m.modCmd id f).modCmd id g = m.modCmd id fun k => g (f k) := by
  have hone : ∀ k : Cmd, (if (if k.id = id then f k else k).id = id then g (if k.id = id then f k else k) else if k.id = id then f k else k)
      = if k.id = id then g (f k) else k := by
    intro k
    by_cases h : k.id = id
    · simp [h, hf]
    · simp [h]
  simp only [Mx.modCmd, List.map_map, Function.comp_def, hone]

variable {s : State} {c : CoreId}

theorem engineAt_readsNow {t : State} {m : Mx} (h : EngineAt s t c m) (id : Nat) :
    EngineAt s (t.readsNow c id) c (m.modCmd id fun k => { k with early := t.earlyOf c k.reads }) :=
  EngineAt.modMx (t := t.draw) h _

theorem lmem_modMx (s : State) (c : CoreId) (f : Mx → Mx) : ((s.modMx c f).core c).lmem = (s.core c).lmem := by simp [modMx_eq]

theorem does_trackerRelease {i : Nat} {k : Cmd} (hk : (s.core c).mx.cmds[i]? = some k) (hold : k.hold = true)
    (hfree : ∀ o ∈ (s.core c).mx.cmds.take i, k.conflicts o = false) : Does (.trackerRelease c i) s fun t =>
      ∃ early : Cmd → Tab Nat, (∀ q, ∀ e ∈ early q, e.2 = rdMem (s.core c).lmem (8 * e.1) 8)
        ∧ EngineAt s t c ((s.core c).mx.modCmd k.id fun q => if k.kind.isCopy then { q with hold := false, early := early q } else { q with hold := false })
        ∧ ∀ y, t.ctx y = s.ctx y := by
  let s' := s.modMx c fun m => m.modCmd k.id fun q => { q with hold := false }
  have hat : EngineAt s s' c ((s.core c).mx.modCmd k.id fun q => { q with hold := false }) := (EngineAt.refl s c).modMx _
  have hno : ((s.core c).mx.cmds.take i).any (fun o => k.conflicts o) = false := List.any_eq_false.mpr fun o ho => by rw [hfree o ho]; exact Bool.false_ne_true
  have hex : exec (.trackerRelease c i) s = event "TRACKER_RELEASE" true (if k.kind.isCopy then s'.readsNow c k.id else s') := by
    show execTrackerRelease c i s = _
    simp only [execTrackerRelease, hk, hold, hno, Bool.not_false, Bool.and_self]
    rfl
  refine does_event hex rfl ⟨fun q => s'.earlyOf c q.reads, fun q e he => ?_, ?_⟩
  · rw [earlyOf_read s' c q.reads e he, lmem_modMx]
  · cases hcopy : k.kind.isCopy with
    | false =>
      simp only [Bool.false_eq_true, if_false]
      exact ⟨hat, ctx_modMx s c _⟩
    | true =>
      simp only [if_true]
      refine ⟨?_, fun y => (ctx_modMx s'.draw c _ y).trans ((show s'.draw.ctx y = s'.ctx y from rfl).trans (ctx_modMx s c _ y))⟩
      have hread := engineAt_readsNow hat k.id
      rwa [modCmd_modCmd] at hread
      exact fun _ => rfl

/-! ## Weight loads (R241) -/

theorem does_weightLoadStart {i : Nat} {k : Cmd} {w prec kv slot : Nat} {t : Bool} {d : ODesc} (hk : (s.core c).mx.cmds[i]? = some k)
    (hkind : k.kind = .mwld w prec t kv d slot) (hrun : k.running = false) (hfree : s.cmdFree c k = true) (hcl : s.clusterRuns c.cl = true)
    (hrel : (w + 2 ^ 32 - (s.core c).mx.wrel) % 2 ^ 32 < 2) (hpub : d.space = 2 → ((s.core c).mx.ring d.ring).published slot = true) :
    Does (.weightLoadStart c i) s fun u => ∃ early : Cmd → Tab Nat, (∀ q, ∀ e ∈ early q, e.2 = rdMem (s.core c).lmem (8 * e.1) 8)
      ∧ EngineAt s u c ((s.core c).mx.modCmd k.id fun q => { q with running := true, early := early q }) ∧ ∀ y, u.ctx y = s.ctx y := by
  have hready : (d.space != 2 || ((s.core c).mx.ring d.ring).published slot) = true := by
    by_cases h2 : d.space = 2
    · rw [hpub h2]; exact Bool.or_true _
    · rw [bne_iff_ne.mpr h2]; rfl
  have hex : exec (.weightLoadStart c i) s = event "WEIGHT_LOAD_START" true
      ((s.readsNow c k.id).modMx c fun m => m.modCmd k.id fun k => { k with running := true }) := by
    show execWeightLoadStart c i s = _
    simp only [execWeightLoadStart, hk, hkind, hcl, hrun, hfree, hready, decide_eq_true hrel, Bool.not_false, Bool.and_self]
  refine does_event hex rfl ⟨fun q => s.earlyOf c q.reads, fun q => earlyOf_read s c q.reads, ?_, fun y => ?_⟩
  · have hat := (engineAt_readsNow (EngineAt.refl s c) k.id).modMx fun m => m.modCmd k.id fun k => { k with running := true }
    rwa [modCmd_modCmd] at hat
    exact fun _ => rfl
  · exact (ctx_modMx _ c _ y).trans (ctx_modMx s.draw c _ y)

theorem does_weightLoadLand {i : Nat} {k : Cmd} {w prec kv slot : Nat} {t : Bool} {d : ODesc} (hk : (s.core c).mx.cmds[i]? = some k)
    (hkind : k.kind = .mwld w prec t kv d slot) (hrun : k.running = true) (hcl : s.clusterRuns c.cl = true) :
    let m := (s.core c).mx
    let sb := (m.ring d.ring).slotBase ((m.ring d.ring).resvSlot slot)
    let sh := wldShape t kv (effN (pWW prec))
    let rs := elemRanges d sh.1 sh.2.1 (containerBits (pWFMT prec) (pWW prec)) ++
      (if fmtMx (pWFMT prec) then scaleRanges d sh.1 sh.2.1 sh.2.2 else [])
    let load : Load := { w := w, fmt := pWFMT prec, width := pWW prec, rne := pARND prec, kv := kv
                         failed := rs.any fun r => s.spaceBad c d.space sb r, vals := readWeights (s.spaceRd c k.early d.space sb) prec t kv d }
    Does (.weightLoadLand c i) s fun u => (∃ m', EngineAt s u c m' ∧ m'.cmds = (m.drop k.id).cmds ∧ m'.wrel = m.wrel ∧ m'.tiles = m.tiles
        ∧ tget none m'.planes (w % 2) = some load)
      ∧ (load.failed = true → ∃ e ∈ (u.ctx (cmdCtx c k)).fl.defer, e.cause = 0x0D ∧ e.detail = engineDetail k.baddr 0x01) := by
  intro m sb sh rs load
  let put (m : Mx) : Mx := if d.space = 2
    then (({ m with planes := tput m.planes (w % 2) (some load) } : Mx).drop k.id).modRing d.ring fun r => r.readDone slot
    else ({ m with planes := tput m.planes (w % 2) (some load) } : Mx).drop k.id
  let u := ((if d.space = 1 then s.served d.base else s).modMx c put).wakeCore c
  have hex : exec (.weightLoadLand c i) s = event "WEIGHT_LOAD_LAND" true (if load.failed then u.engineTrap c k 0x01 else u) := by
    show execWeightLoadLand c i s = _
    simp only [execWeightLoadLand, hk, hkind, hcl, hrun, Bool.and_self]
    rfl
  have hat : EngineAt s u c (put m) := by
    refine EngineAt.wakeCore (EngineAt.modMx (m := m) ?_ put) c
    split
    · exact (EngineAt.refl s c).served _
    · exact EngineAt.refl s c
  have hplanes : (put m).planes = tput m.planes (w % 2) (some load) := proj_ite Mx.planes rfl
  refine does_event hex rfl ⟨⟨put m, ?_, proj_ite Mx.cmds rfl, proj_ite Mx.wrel rfl, proj_ite Mx.tiles rfl, ?_⟩, fun hf => ?_⟩
  · split
    · exact hat.engineTrap ..
    · exact hat
  · rw [hplanes, tget_tput_same]
  · rw [if_pos hf]
    exact engineTrap_waits ..

/-! ## Passes (R245 to R248) -/

theorem cmds_finishWrites (m : Mx) (id : Nat) : (m.finishWrites id).cmds = m.cmds := rfl

theorem openBases_keep {β : Type} (p : Mx → β) (m : Mx) (k : Cmd) (hp : ∀ m ts, p { m with tiles := ts } = p m := by exact fun _ _ => rfl) :
    p (m.openBases k) = p m := by
  unfold Mx.openBases
  split
  · rfl
  · exact hp ..

theorem cmds_passWrite (m : Mx) (k : Cmd) (prec t : Nat) (ovw : Bool) (as ws : List (List Aligned)) : (m.passWrite k prec t ovw as ws).cmds = m.cmds :=
  proj_ite Mx.cmds rfl

theorem wrel_passWrite (m : Mx) (k : Cmd) (prec t : Nat) (ovw : Bool) (as ws : List (List Aligned)) : (m.passWrite k prec t ovw as ws).wrel = m.wrel :=
  proj_ite Mx.wrel rfl

/-- A pass changes nothing of its tile but its command's open writes (R246). -/
theorem tiles_passWrite (m : Mx) (k : Cmd) (prec t : Nat) (ovw : Bool) (as ws : List (List Aligned)) : ∃ f : TWrite → TWrite, (∀ w, (f w).cmd = w.cmd)
    ∧ (m.passWrite k prec t ovw as ws).tiles =
      (m.modTile t fun v => { v with writes := v.writes.map fun w => if w.cmd = k.id then f w else w }).tiles :=
  ⟨fun w =>
    let r := passImg prec ovw as ws w.img (m.firing t k.id)
    { w with img := r.1, cols := ws.length, sat := w.sat || r.2
             flushed := w.flushed || (as.any (fun l => l.any fun a => a.al.flushed) || ws.any fun l => l.any fun a => a.al.flushed) },
    fun _ => rfl, proj_ite Mx.tiles rfl⟩

/-- A tile keeps what it holds, and every open write that is not command `id`'s. -/
def Tile.KeepsBut (id : Nat) (v v' : Tile) : Prop := v'.img = v.img ∧ ∀ w ∈ v'.writes, w.cmd ≠ id → w ∈ v.writes

theorem Tile.KeepsBut.trans {id : Nat} {v v' v'' : Tile} (h : v.KeepsBut id v') (h' : v'.KeepsBut id v'') : v.KeepsBut id v'' :=
  ⟨h'.1.trans h.1, fun w hw hc => h.2 w (h'.2 w hw hc) hc⟩

theorem Tile.keepsBut_map (id : Nat) (v : Tile) {f : TWrite → TWrite} (hf : ∀ w, (f w).cmd = w.cmd) :
    v.KeepsBut id { v with writes := v.writes.map fun w => if w.cmd = id then f w else w } := by
  refine ⟨rfl, fun w hw hc => ?_⟩
  obtain ⟨w', hw', rfl⟩ := List.mem_map.mp hw
  by_cases h : w'.cmd = id
  · rw [if_pos h, hf] at hc
    exact absurd h hc
  · rwa [if_neg h]

theorem tile_modTile (m : Mx) (t g : Nat) (f : Tile → Tile) : (m.modTile t f).tile g = if g = t then f (m.tile t) else m.tile g := tget_tmod ..

theorem tile_finishWrites (m : Mx) (id g : Nat) : (m.finishWrites id).tile g = (m.tile g).finish id :=
  tget_map (d := ({ } : Tile)) (g := fun _ v => v.finish id) (fun _ => rfl) ..

theorem tile_passWrite (m : Mx) (k : Cmd) (prec t : Nat) (ovw : Bool) (as ws : List (List Aligned)) (g : Nat) :
    (m.tile g).KeepsBut k.id ((m.passWrite k prec t ovw as ws).tile g) := by
  obtain ⟨f, hf, htiles⟩ := tiles_passWrite m k prec t ovw as ws
  rw [show (m.passWrite k prec t ovw as ws).tile g = _ from congrArg (tget _ · g) htiles]
  rw [show tget ({ } : Tile) _ g = _ from tile_modTile m t g _]
  split
  · next h => exact h ▸ Tile.keepsBut_map k.id (m.tile t) hf
  · exact ⟨rfl, fun _ h _ => h⟩

/-- The engine where an error has ended its MMA: ring and WREL as if it had completed (R248). -/
def Mx.failed (m : Mx) (k : Cmd) (wrel : Bool) (d : ODesc) (l : List NLevel) (slot : Nat) : Mx :=
  ((({ m with wrel := (m.wrel + owedReleases l wrel k.next) % 2 ^ 32 } : Mx).modRing d.ring fun r => (List.range (nestSpan l)).foldl (fun r i =>
    if slot + i < r.consumed then r else r.readDone (slot + i)) r).drop k.id).finishWrites k.id

/-- The engine after a pass that met no uncorrectable activation: it has written its elements, and released its slot, the load and, with the
nest's last pass, the command (R246, R247). -/
def Mx.retired (m : Mx) (k : Cmd) (prec tile : Nat) (ovw wrel : Bool) (d : ODesc) (l : List NLevel) (slot : Nat) (keepSlot : Bool)
    (as ws : List (List Aligned)) : Mx :=
  let m := m.passWrite k prec tile ovw as ws
  let m := if keepSlot then m else m.modRing d.ring fun r => r.readDone (slot + passSlot l k.next)
  let m := { m with wrel := (m.wrel + (if k.next + 1 = nestPasses l then b2n wrel else b2n (passSwaps l k.next))) % 2 ^ 32 }
  if k.next + 1 = nestPasses l then (m.drop k.id).finishWrites k.id
  else m.modCmd k.id fun k => { k with running := false, next := k.next + 1 }

section Retired

variable (m : Mx) (k : Cmd) (prec tile : Nat) (ovw wrel : Bool) (d : ODesc) (l : List NLevel) (slot : Nat) (keepSlot : Bool) (as ws : List (List Aligned))

theorem cmds_retired : (m.retired k prec tile ovw wrel d l slot keepSlot as ws).cmds = (if k.next + 1 = nestPasses l then (m.drop k.id).cmds
    else (m.modCmd k.id fun k => { k with running := false, next := k.next + 1 }).cmds) := by
  have hcmds : ∀ b : Bool, (if b then m.passWrite k prec tile ovw as ws
      else (m.passWrite k prec tile ovw as ws).modRing d.ring fun r => r.readDone (slot + passSlot l k.next)).cmds = m.cmds := fun b => by
    cases b <;> exact cmds_passWrite ..
  unfold Mx.retired
  dsimp only
  split
  · exact congrArg (List.filter _) (hcmds keepSlot)
  · exact congrArg (List.map _) (hcmds keepSlot)

theorem wrel_retired : (m.retired k prec tile ovw wrel d l slot keepSlot as ws).wrel =
    (m.wrel + (if k.next + 1 = nestPasses l then b2n wrel else b2n (passSwaps l k.next))) % 2 ^ 32 := by
  have hwrel : ∀ b : Bool, (if b then m.passWrite k prec tile ovw as ws
      else (m.passWrite k prec tile ovw as ws).modRing d.ring fun r => r.readDone (slot + passSlot l k.next)).wrel = m.wrel := fun b => by
    cases b <;> exact wrel_passWrite ..
  unfold Mx.retired
  dsimp only
  rw [← hwrel keepSlot]
  split <;> rfl

theorem tile_retired (g : Nat) : (m.tile g).KeepsBut k.id ((m.retired k prec tile ovw wrel d l slot keepSlot as ws).tile g) := by
  have hpass : ∀ b : Bool, (m.tile g).KeepsBut k.id ((if b then m.passWrite k prec tile ovw as ws
      else (m.passWrite k prec tile ovw as ws).modRing d.ring fun r => r.readDone (slot + passSlot l k.next)).tile g) := fun b => by
    cases b <;> exact tile_passWrite ..
  unfold Mx.retired
  dsimp only
  split
  · rw [tile_finishWrites]
    exact (hpass keepSlot).trans (Tile.keepsBut_map k.id _ fun _ => rfl)
  · exact hpass keepSlot

end Retired

section Pass

variable {k : Cmd} {ld : Load} {prec n pv pb slot : Nat} {t ovw wrel : Bool} {d : ODesc} {l : List NLevel}
  (hkind : k.kind = .mma prec t ovw wrel n d l pv pb slot)
include hkind

theorem failMma_at (code : Nat) : EngineAt s (s.failMma c k code) c ((s.core c).mx.failed k wrel d l slot)
    ∧ ∃ e ∈ ((s.failMma c k code).ctx (cmdCtx c k)).fl.defer, e.cause = 0x0D ∧ e.detail = engineDetail k.baddr code := by
  have hfail : s.failMma c k code = ((s.modMx c fun m => m.failed k wrel d l slot).engineTrap c k code).wakeCore c := by
    simp only [State.failMma, hkind]
    rfl
  rw [hfail]
  refine ⟨(((EngineAt.refl s c).modMx _).engineTrap ..).wakeCore c, ?_⟩
  rw [fl_wakeCore]
  exact engineTrap_waits ..

variable (hcl : s.clusterRuns c.cl = true) (hk : (s.core c).mx.mmaNow = some k) (hl : (s.core c).mx.loadNow = some ld)
include hcl hk hl

section Start

variable (hrun : k.running = false) (hfree : s.cmdFree c k = true)
  (hpub : ((s.core c).mx.ring d.ring).published (slot + passSlot l k.next) = true)
include hrun hfree hpub

theorem exec_matrixPassStart : exec (.matrixPassStart c) s = event "MATRIX_PASS_START" true (if loadErr prec ld ≠ 0 then s.failMma c k (loadErr prec ld)
    else s.modMx c fun m => (m.openBases k).modCmd k.id fun k => { k with running := true }) := by
  show execMatrixPassStart c s = _
  simp only [execMatrixPassStart, hk, hl, hkind, hcl, hrun, hfree, hpub, Bool.not_false, Bool.and_self]

theorem does_matrixPassStart (herr : loadErr prec ld = 0) : Does (.matrixPassStart c) s fun u =>
    (∃ m', EngineAt s u c m' ∧ m'.cmds = ((s.core c).mx.modCmd k.id fun q => { q with running := true }).cmds ∧ m'.wrel = (s.core c).mx.wrel
      ∧ m'.rings = (s.core c).mx.rings) ∧ ∀ y, u.ctx y = s.ctx y := by
  refine does_event (exec_matrixPassStart hkind hcl hk hl hrun hfree hpub) rfl ?_
  rw [if_neg (not_not.mpr herr)]
  refine ⟨⟨_, (EngineAt.refl s c).modMx _, ?_, openBases_keep Mx.wrel _ k, openBases_keep Mx.rings _ k⟩, ctx_modMx s c _⟩
  exact congrArg (List.map _) (openBases_keep Mx.cmds _ k)

theorem does_matrixPassStart_failed (herr : loadErr prec ld ≠ 0) : Does (.matrixPassStart c) s fun u =>
    EngineAt s u c ((s.core c).mx.failed k wrel d l slot)
      ∧ ∃ e ∈ (u.ctx (cmdCtx c k)).fl.defer, e.cause = 0x0D ∧ e.detail = engineDetail k.baddr (loadErr prec ld) := by
  refine does_event (exec_matrixPassStart hkind hcl hk hl hrun hfree hpub) rfl ?_
  rw [if_pos herr]
  exact failMma_at hkind _

end Start

theorem exec_matrixPassRetire (hrun : k.running = true) : ∃ u tile ovw' keepSlot as ws,
    EngineAt s u c ((s.core c).mx.retired k prec tile ovw' wrel d l slot keepSlot as ws)
      ∧ exec (.matrixPassRetire c) s = event "MATRIX_PASS_RETIRE" true (if (actRanges prec t d).any (fun b => s.spaceBad c 2
          (((s.core c).mx.ring d.ring).slotBase (((s.core c).mx.ring d.ring).resvSlot (slot + passSlot l k.next))) b)
        then s.failMma c k 0x06 else u) := by
  let m := (s.core c).mx
  let tile := passTile n l k.next
  let rd := s.spaceRd c [] 2 ((m.ring d.ring).slotBase ((m.ring d.ring).resvSlot (slot + passSlot l k.next)))
  let as := (List.range 32).map fun i => alignAll (pAFMT prec) (pAW prec) (pARND prec) (actGroups rd prec t d pv pb (passChunk l k.next) i)
  let ws := (List.range (effN (pWW prec))).map fun i => alignAll ld.fmt ld.width ld.rne (wtGroups ld i)
  let keepSlot := (List.range (nestPasses l)).any fun q => decide (k.next < q) && passSlot l q == passSlot l k.next
  let s1 := s.modMx c fun m => m.retired k prec tile (ovw && passChunk l k.next == 0) wrel d l slot keepSlot as ws
  let s2 := match m.firing tile k.id with
    | some p => if p.log then s1.logAdd (c.cl / 12) false (logRec 0x04 (coreUnit c) 0 1 (p.row * 256 + p.col) p.val) else s1
    | none => s1
  have hat : EngineAt s s1 c (m.retired k prec tile (ovw && passChunk l k.next == 0) wrel d l slot keepSlot as ws) := (EngineAt.refl s c).modMx _
  have hlog : EngineAt s s2 c (m.retired k prec tile (ovw && passChunk l k.next == 0) wrel d l slot keepSlot as ws) := by
    show EngineAt s (match m.firing tile k.id with | some p => _ | none => _) c _
    split
    · split
      · exact hat.logAdd ..
      · exact hat
    · exact hat
  refine ⟨_, _, _, _, _, _, (hlog.tally (cmdCtx c k) 0x00A (passCost prec)).wakeCore c, ?_⟩
  show execMatrixPassRetire c s = _
  simp only [execMatrixPassRetire, hk, hl, hkind, hcl, hrun, Bool.and_self]
  rfl

end Pass

/-! ## Windows and drain status (R137, R138) -/

theorem does_tileWindowClose {t : Nat} {w : TWrite} (hcl : s.clusterRuns c.cl = true) (hw : ((s.core c).mx.tile t).first = some w) (hr : w.ready = true)
    (hc : w.close ≤ s.mxCount c) (hlook : ∀ k ∈ (s.core c).mx.cmds, k.awaits t = true → w.close ≤ k.count) : Does (.tileWindowClose c t) s fun u =>
      EngineAt s u c ((s.core c).mx.modTile t fun v => v.close w) ∧ ∀ y, u.ctx y = s.ctx y := by
  have hcmds : (s.core c).mx.cmds.all (fun k => !k.awaits t || decide (w.close ≤ k.count)) = true := by
    refine List.all_eq_true.mpr fun k hk => ?_
    cases ha : k.awaits t with
    | false => rfl
    | true => exact decide_eq_true (hlook k hk ha)
  have hclosable : (s.core c).mx.closable t (s.mxCount c) = some w := by
    rw [Mx.closable, hw, Option.filter_some, hr, decide_eq_true hc, hcmds]
    rfl
  have hex : exec (.tileWindowClose c t) s = event "TILE_WINDOW_CLOSE" (s.clusterRuns c.cl) (s.modMx c fun m => m.modTile t fun v => v.close w) := by
    show execTileWindowClose c t s = _
    simp only [execTileWindowClose, hclosable]
  exact does_event hex hcl ⟨(EngineAt.refl s c).modMx _, ctx_modMx s c _⟩

theorem does_tstatUpdate {t : Nat} {p : TsPend} {rest : List TsPend} (hcl : s.clusterRuns c.cl = true)
    (hp : ((s.core c).mx.tile t).tspend = p :: rest) (hl : p.landed = true) (hat : p.at_ ≤ s.mxCount c)
    (harr : ∀ a ∈ s.arrivals, a.owner ≠ some (c, p.cmd)) : Does (.tstatUpdate c t) s fun u =>
      EngineAt s u c ((s.core c).mx.modTile t fun v => { v with tstat := p.bits, tspend := rest }) ∧ ∀ y, u.ctx y = s.ctx y := by
  have hnone : s.arrivals.all (fun a => a.owner != some (c, p.cmd)) = true := List.all_eq_true.mpr fun a ha => bne_iff_ne.mpr (harr a ha)
  have hex : exec (.tstatUpdate c t) s = event "TSTAT_UPDATE" (s.clusterRuns c.cl && p.landed && decide (p.at_ ≤ s.mxCount c)
      && s.arrivals.all fun a => a.owner != some (c, p.cmd)) (s.modMx c fun m => m.modTile t fun v => { v with tstat := p.bits, tspend := rest }) := by
    show execTstatUpdate c t s = _
    simp only [execTstatUpdate, hp]
  refine does_event hex ?_ ⟨(EngineAt.refl s c).modMx _, ctx_modMx s c _⟩
  rw [hcl, hl, decide_eq_true hat, hnone]
  rfl

/-! ## Ring slots (R71) -/

theorem ring_modRing_other (m : Mx) {n g : Nat} (h : g ≠ n) (f : Ring → Ring) : (m.modRing n f).ring g = m.ring g :=
  (tget_tmod ..).trans (if_neg h)

section Acquire

variable {ring : Nat} {a : Acq} {rest : List Acq} (hcl : s.clusterRuns c.cl = true) (hw : ((s.core c).mx.ring ring).waiting = a :: rest)
  (hocc : ((s.core c).mx.ring ring).occ < ((s.core c).mx.ring ring).scount)
include hcl hw hocc

/-- Who takes a slot: a BFACQ as its first owner, an engine as its second. -/
def Acq.owner : Acq → Nat
  | .bfacq .. => 1
  | .cmd _ => 2
  | .marver _ => 2

/-- The oldest acquisition takes its ring's TAIL slot; who asked for it learns of it. -/
theorem does_ringSlotAcquire : Does (.ringSlotAcquire c ring) s fun u => ∃ m', EngineAt s u c m'
    ∧ m'.rings = ((s.core c).mx.modRing ring fun r => r.take a.owner).rings
    ∧ (∀ cx reg prod, a = .bfacq cx reg prod → (u.ctx ⟨c.cl, c.core, cx⟩).fl.fills = (s.ctx ⟨c.cl, c.core, cx⟩).fl.fills
        ++ [{ reg := .a reg, prod := prod
              val := ((s.core c).mx.ring ring).base + ((s.core c).mx.ring ring).tail * ((s.core c).mx.ring ring).ssize * 64 }]
      ∧ m'.cmds = (s.core c).mx.cmds)
    ∧ ∀ id, a = .cmd id → m'.cmds = ((s.core c).mx.modCmd id fun q => { q with got := some ((s.core c).mx.ring ring).tail }).cmds
      ∧ ∀ y, u.ctx y = s.ctx y := by
  let s1 := s.modMx c fun m => m.modRing ring fun r => r.take a.owner
  have hat : EngineAt s s1 c ((s.core c).mx.modRing ring fun r => r.take a.owner) := (EngineAt.refl s c).modMx _
  have hctx : ∀ y, s1.ctx y = s.ctx y := ctx_modMx s c _
  have hok : (s.clusterRuns c.cl && decide (((s.core c).mx.ring ring).occ < ((s.core c).mx.ring ring).scount)) = true := by
    rw [hcl, decide_eq_true hocc]
    rfl
  cases a with
  | bfacq cx reg prod =>
    let u := s1.modCtx ⟨c.cl, c.core, cx⟩ fun x => x.deliver (some (.a reg, prod))
      (((s.core c).mx.ring ring).base + ((s.core c).mx.ring ring).tail * ((s.core c).mx.ring ring).ssize * 64) { } 0 none
    have hex : exec (.ringSlotAcquire c ring) s = event "RING_SLOT_ACQUIRE"
        (s.clusterRuns c.cl && decide (((s.core c).mx.ring ring).occ < ((s.core c).mx.ring ring).scount)) u := by
      show execRingSlotAcquire c ring s = _
      simp only [execRingSlotAcquire, hw]
      rfl
    refine does_event hex hok ⟨_, hat.modCtx .., rfl, fun cx' reg' prod' ha => ?_, nofun⟩
    obtain ⟨rfl, rfl, rfl⟩ := Acq.bfacq.inj ha
    rw [show u.ctx ⟨c.cl, c.core, cx⟩ = _ from (ctx_modCtx ..).trans (if_pos rfl), hctx]
    exact ⟨rfl, rfl⟩
  | cmd id =>
    have hex : exec (.ringSlotAcquire c ring) s = event "RING_SLOT_ACQUIRE"
        (s.clusterRuns c.cl && decide (((s.core c).mx.ring ring).occ < ((s.core c).mx.ring ring).scount))
        (s1.modMx c fun m => m.modCmd id fun k => { k with got := some ((s.core c).mx.ring ring).tail }) := by
      show execRingSlotAcquire c ring s = _
      simp only [execRingSlotAcquire, hw]
      rfl
    refine does_event hex hok ⟨_, hat.modMx _, rfl, nofun, fun id' ha => ?_⟩
    obtain rfl := Acq.cmd.inj ha
    exact ⟨rfl, fun y => (ctx_modMx s1 c _ y).trans (hctx y)⟩
  | marver port =>
    let f (l : Cluster) : Cluster :=
      { l with marvers := tmod { } l.marvers port fun v => { v with live := giveSlot c.core ((s.core c).mx.ring ring).tail v.live } }
    have hex : exec (.ringSlotAcquire c ring) s = event "RING_SLOT_ACQUIRE"
        (s.clusterRuns c.cl && decide (((s.core c).mx.ring ring).occ < ((s.core c).mx.ring ring).scount)) (s1.modCl c.cl f) := by
      show execRingSlotAcquire c ring s = _
      simp only [execRingSlotAcquire, hw]
      rfl
    obtain ⟨hm, hb⟩ := hat
    refine does_event hex hok ⟨_, ⟨?_, sameBytes_trans hb (sameBytes_modCl ..)⟩, rfl, nofun, nofun⟩
    exact (congrArg Core.mx (((SameHomes.refl s1).modCl (j := c.cl) (f := f)).core c)).trans hm

end Acquire

end Sys2Proof.Machine
end

section
/-! Drains: which bytes one stores, whole or in parts, and what it leaves in the tracker (R105, R198, R250, R255). -/

namespace Sys2Proof.Machine

open Sys2Proof.Claim

/-! ## The bytes of a drain -/

theorem length_runs32 (n : Nat) (l : List FV) : (runs32 n l).length ≤ (l.length + 31) / 32 := by
  induction n generalizing l with
  | zero => exact Nat.zero_le _
  | succ n ih =>
    unfold runs32
    split
    · exact Nat.zero_le _
    · next h =>
      have hpos : 0 < l.length := List.length_pos_iff.mpr fun h0 => h (by rw [h0]; rfl)
      have hrest := ih (l.drop 32)
      rw [List.length_drop] at hrest
      rw [List.length_cons]
      omega

theorem length_scales_storeRow (fmt wbits : Nat) (rm : Rm) (sat : Bool) (vs : List FV) :
    (storeRow fmt wbits rm sat vs).scales.length ≤ (vs.length + 31) / 32 := by
  unfold storeRow
  split
  · simpa using length_runs32 8 vs
  all_goals exact Nat.zero_le _

/-- The shape of a stored tile: rows, and elements in a row. -/
def drainShape (t : Bool) (d : ODesc) : Nat × Nat := if t then (d.ncol, 32) else (32, d.ncol)

/-- The ranges of a drain's rows and of its scales. -/
def drainRanges (t : Bool) (d : ODesc) : List (Nat × Nat) :=
  elemRanges d (drainShape t d).1 (drainShape t d).2 (storeBits d.fmt d.wcode) ++ scaleRanges d (drainShape t d).1 (drainShape t d).2 true

section Rows

variable {img : Img} {prec : Nat} {t : Bool} {rm : Rm} {sat : Bool} {d : ODesc} {scale : Option Nat} {all : Bool} {lost : List Nat}

theorem length_drainRows : (drainRows img prec t rm sat d scale all lost).2.length = (drainShape t d).1 := by
  cases t <;> simp [drainRows, drainShape]

theorem length_scales_drainRows {r : StoredRow} (hr : r ∈ (drainRows img prec t rm sat d scale all lost).2) :
    r.scales.length ≤ ((drainShape t d).2 + 31) / 32 := by
  obtain ⟨i, hi, rfl⟩ := List.mem_mapIdx.mp hr
  refine (length_scales_storeRow ..).trans ?_
  cases t <;> simp [drainShape]

/-- Every byte that a drain stores lies in one of its rows or among the scales of one. -/
theorem drainPuts_inside {g : GPut} (hg : g ∈ drainPuts t d (drainRows img prec t rm sat d scale all lost).2) :
    ∃ r ∈ drainRanges t d, r.1 ≤ g.addr ∧ g.addr < r.1 + r.2 := by
  obtain ⟨l, hl, hg⟩ := List.mem_flatten.mp hg
  obtain ⟨i, hi, rfl⟩ := List.mem_mapIdx.mp hl
  have hrow : i < (drainShape t d).1 := length_drainRows (t := t) ▸ hi
  have hscales := length_scales_drainRows (List.getElem_mem hi)
  have hbytes : ∀ a n v, g ∈ (List.range n).map (fun i => (⟨a + i, 0, 8, v / 256 ^ i % 256, none⟩ : GPut)) → a ≤ g.addr ∧ g.addr < a + n := by
    intro a n v h
    obtain ⟨j, hj, rfl⟩ := List.mem_map.mp h
    have hj := List.mem_range.mp hj
    exact ⟨Nat.le_add_right .., Nat.add_lt_add_left hj a⟩
  rcases List.mem_append.mp hg with h | h
  · refine ⟨(d.base + i * d.pitch, rowBytes (drainShape t d).2 (storeBits d.fmt d.wcode)), List.mem_append_left _ ?_, ?_⟩
    · exact List.mem_map.mpr ⟨i, List.mem_range.mpr hrow, rfl⟩
    · cases t <;> exact hbytes _ _ _ h
  · refine ⟨(d.sbase + i * d.spitch, ((drainShape t d).2 + 31) / 32), List.mem_append_right _ ?_, ?_⟩
    · exact List.mem_map.mpr ⟨i, List.mem_range.mpr hrow, rfl⟩
    · obtain ⟨hlo, hhi⟩ := hbytes _ _ _ h
      exact ⟨hlo, hhi.trans_le (Nat.add_le_add_left hscales _)⟩

end Rows

/-! ## What a drain's step leaves alone -/

/-- Where a space's own offsets count from: a ring's slot, or nothing. -/
def spaceBase (space slotBase : Nat) : Nat := if space < 2 then 0 else slotBase

/-- From `s` on, core `c`'s engine has come to `m` and the arrivals to `arr`; the vault and the L-mems have kept every byte but those of one
space that `out` does not name. -/
structure DrainAt (s u : State) (c : CoreId) (space : Nat) (out : Nat → Prop) (m : Mx) (arr : List Arrival) : Prop where
  mx : (u.core c).mx = m
  arrivals : u.arrivals = arr
  vault : ∀ a, space ≠ 1 ∨ out a → rdByte u.vault a = rdByte s.vault a
  lmem : ∀ q a, space = 1 ∨ q ≠ c ∨ out a → rdByte (u.core q).lmem a = rdByte (s.core q).lmem a

namespace DrainAt

variable {s t u : State} {c : CoreId} {space : Nat} {out : Nat → Prop} {m m' : Mx} {arr : List Arrival}

/-- A step that changes no byte. -/
theorem step (h : DrainAt s t c space out m arr) (he : EngineAt t u c m') (ha : u.arrivals = t.arrivals) : DrainAt s u c space out m' arr := by
  obtain ⟨hm, hv, -, -, hl, -⟩ := he
  exact ⟨hm, ha.trans h.arrivals, fun a ho => (hv a).trans (h.vault a ho), fun q a ho => (hl q a).trans (h.lmem q a ho)⟩

theorem refl (s : State) (c : CoreId) (space : Nat) (out : Nat → Prop) : DrainAt s s c space out (s.core c).mx s.arrivals :=
  ⟨rfl, rfl, fun _ _ => rfl, fun _ _ _ => rfl⟩

theorem engine (h : DrainAt s t c space out m arr) : EngineAt t t c m := ⟨h.mx, sameBytes_refl t⟩

theorem modMx (h : DrainAt s t c space out m arr) (f : Mx → Mx) : DrainAt s (t.modMx c f) c space out (f m) arr :=
  h.step (h.engine.modMx f) rfl

theorem wakeCore (h : DrainAt s t c space out m arr) : DrainAt s (t.wakeCore c) c space out m arr :=
  h.step (h.engine.wakeCore c) rfl

theorem engineTrap (h : DrainAt s t c space out m arr) (k : Cmd) (code : Nat) : DrainAt s (t.engineTrap c k code) c space out m arr :=
  h.step (h.engine.engineTrap c k code) rfl

theorem served (h : DrainAt s t c space out m arr) (off : Nat) : DrainAt s (t.served off) c space out m arr :=
  h.step (h.engine.served off) (tallyCl_keep State.arrivals t ..)

theorem cmdArrive (h : DrainAt s t c space out m arr) (id : Nat) (vault : Bool) (addr n : Nat) (err : Option Nat) :
    ∃ a : Arrival, DrainAt s (t.cmdArrive c id vault addr n err) c space out m (arr ++ [a]) ∧ a.addr = addr ∧ a.owner = some (c, id)
      ∧ a.lmem = (if vault then none else some c) :=
  ⟨_, ⟨h.mx, congrArg (· ++ _) h.arrivals, h.vault, h.lmem⟩, rfl, rfl, rfl⟩

theorem wrLmem (h : DrainAt s t c space out m arr) (hs : space ≠ 1) {a : Nat} (ha : ∀ b, out b → b ≠ a) (v : Nat) :
    DrainAt s (t.wrLmem c a 1 v) c space out m arr := by
  refine ⟨?_, h.arrivals, h.vault, fun q b hb => ?_⟩
  · rw [State.wrLmem, core_modCore, if_pos rfl]
    exact h.mx
  · refine Eq.trans ?_ (h.lmem q b hb)
    rw [State.wrLmem, core_modCore]
    split
    · next hq =>
      rw [hq]
      have hne := ha b ((hb.resolve_left hs).resolve_left (not_not.mpr hq))
      exact rdByte_wrMem_outside _ _ _ _ _ (by omega)
    · rfl

theorem wrVault (h : DrainAt s t c 1 out m arr) {a : Nat} (ha : ∀ b, out b → b ≠ a) (v : Nat) : DrainAt s (t.wrVault a 1 v) c 1 out m arr := by
  refine ⟨h.mx, h.arrivals, fun b hb => ?_, h.lmem⟩
  have hne := ha b (hb.resolve_left (not_not.mpr rfl))
  refine Eq.trans ?_ (h.vault b hb)
  show rdByte (if _ then _ else _) b = _
  split
  · rfl
  · exact rdByte_wrMem_outside _ _ _ _ _ (by omega)

theorem spaceWr (h : DrainAt s t c space out m arr) {slotBase a : Nat} (ha : ∀ b, out b → b ≠ spaceBase space slotBase + a) (v : Nat) :
    DrainAt s (t.spaceWr c space slotBase a 1 v) c space out m arr := by
  match space with
  | 0 => exact h.wrLmem (by decide) (by simpa [spaceBase] using ha) v
  | 1 => exact h.wrVault (by simpa [spaceBase] using ha) v
  | n + 2 => exact h.wrLmem (by omega) (by simpa [spaceBase] using ha) v

theorem putBytes (h : DrainAt s t c space out m arr) {slotBase : Nat} {ps : List GPut}
    (ha : ∀ g ∈ ps, ∀ b, out b → b ≠ spaceBase space slotBase + g.addr) : DrainAt s (t.putBytes c space slotBase ps) c space out m arr := by
  have hput : DrainAt s (ps.foldl (fun s p => s.spaceWr c space slotBase p.addr 1 p.val) t) c space out m arr :=
    List.foldlRecOn (motive := fun u => DrainAt s u c space out m arr) ps _ h fun u hu g hg => hu.spaceWr (ha g hg) g.val
  obtain ⟨hm, harr, hv, hl⟩ := hput
  unfold State.putBytes State.clearWords
  dsimp only
  split
  · exact ⟨hm, harr, hv, hl⟩
  · refine ⟨?_, harr, hv, fun q b hb => Eq.trans ?_ (hl q b hb)⟩
    · rw [core_modCore, if_pos rfl]
      exact hm
    · rw [core_modCore]
      split
      · next hq => rw [hq]
      · rfl

end DrainAt

/-! ## A drain's command -/

/-- A tile's status of a drain that has landed. -/
def Tile.landDrain (v : Tile) (id : Nat) : Tile :=
  { v with tspend := v.tspend.map fun p => if p.cmd = id then { p with landed := true } else p }

/-- The engine once a drain has landed whole (R71, R82, R255). -/
def Mx.drainDone (m : Mx) (k : Cmd) (tile : Nat) (d : ODesc) : Mx :=
  let m := m.modTile tile fun v => v.landDrain k.id
  let m := if d.syncen then m.modCmd k.id fun k => { k with running := true, parts := [] } else m.drop k.id
  match k.got with
  | none => m
  | some g => m.modRing d.ring fun r => (r.publish g).settle 64

theorem drainDone_eq (s : State) (c : CoreId) (k : Cmd) (tile : Nat) (d : ODesc) (n : Nat) : s.drainDone c k tile d n =
    if d.syncen then (s.modMx c fun m => m.drainDone k tile d).cmdArrive c k.id d.syncsp d.sync n (if k.err ≠ 0 then some k.err else none)
    else if k.err ≠ 0 then (s.modMx c fun m => m.drainDone k tile d).engineTrap c k k.err else s.modMx c fun m => m.drainDone k tile d := rfl

/-- It makes its arrival, if its descriptor asks for one. -/
theorem drainDone_at {s t : State} {c : CoreId} {out : Nat → Prop} {m : Mx} {k : Cmd} {tile n : Nat} {d : ODesc}
    (h : DrainAt s t c d.space out m s.arrivals) : let u := t.drainDone c k tile d n
    (d.syncen = true ∧ (∃ a : Arrival, DrainAt s u c d.space out (m.drainDone k tile d) (s.arrivals ++ [a]) ∧ a.addr = d.sync ∧ a.owner = some (c, k.id)
        ∧ a.lmem = (if d.syncsp then none else some c)))
      ∨ (d.syncen = false ∧ DrainAt s u c d.space out (m.drainDone k tile d) s.arrivals) := by
  have hdone := h.modMx fun m => m.drainDone k tile d
  intro u
  rw [show u = _ from drainDone_eq ..]
  cases hsync : d.syncen with
  | true => exact .inl ⟨rfl, hdone.cmdArrive ..⟩
  | false =>
    simp only [Bool.false_eq_true, if_false]
    refine .inr ⟨trivial, ?_⟩
    split
    · exact hdone.engineTrap ..
    · exact hdone

theorem splitParts_fst {draw : Nat} {ps : List GPut} {g : GPut} (h : g ∈ (splitParts draw ps).1) : g ∈ ps := by
  unfold splitParts at h
  dsimp only at h
  split at h
  · exact h
  · split at h
    · exact h
    · split at h
      · exact h
      · exact (List.mem_filter.mp h).1

/-- A drain's bytes land all at once, or some now and others later. -/
theorem drainPut_at {s t : State} {c : CoreId} {out : Nat → Prop} {m : Mx} {k : Cmd} {tile n : Nat} {d : ODesc} {ps : List GPut}
    (h : DrainAt s t c d.space out m s.arrivals)
    (hps : ∀ g ∈ ps, ∀ b, out b → b ≠ spaceBase d.space ((m.ring d.ring).slotBase (k.got.getD 0)) + g.addr) :
    let u := t.drainPut c k tile d n ps
    (d.syncen = true ∧ (∃ a : Arrival, DrainAt s u c d.space out (m.drainDone k tile d) (s.arrivals ++ [a]) ∧ a.addr = d.sync ∧ a.owner = some (c, k.id)
        ∧ a.lmem = (if d.syncsp then none else some c)))
      ∨ (d.syncen = false ∧ DrainAt s u c d.space out (m.drainDone k tile d) s.arrivals)
      ∨ ∃ p : PartReq, p.late ≠ [] ∧ DrainAt s u c d.space out (m.modCmd k.id fun k => { k with parts := [p] }) s.arrivals := by
  intro u
  have hput : DrainAt s (t.draw.putBytes c d.space (((t.core c).mx.ring d.ring).slotBase (k.got.getD 0)) (splitParts t.draws ps).1) c d.space out m
      s.arrivals := by
    refine DrainAt.putBytes (t := t.draw) ⟨h.mx, h.arrivals, h.vault, h.lmem⟩ fun g hg => ?_
    rw [h.mx]
    exact hps g (splitParts_fst hg)
  show _ ∨ _
  simp only [u, State.drainPut]
  split
  · exact (drainDone_at hput).imp id .inl
  · next hlate => exact .inr (.inr ⟨_, fun h0 => hlate (List.isEmpty_iff.mpr h0), hput.modMx _⟩)

theorem filter_modCmd (m : Mx) (id : Nat) (f : Cmd → Cmd) (hf : ∀ k, (f k).id = k.id := by exact fun _ => rfl) :
    (m.modCmd id f).cmds.filter (fun q => q.id != id) = m.cmds.filter fun q => q.id != id := by
  show (m.cmds.map fun k => if k.id = id then f k else k).filter _ = _
  induction m.cmds with
  | nil => rfl
  | cons k l ih =>
    by_cases h : k.id = id
    · rw [List.map_cons, if_pos h, List.filter_cons_of_neg (by simp [hf, h]), List.filter_cons_of_neg (by simp [h]), ih]
    · rw [List.map_cons, if_neg h, List.filter_cons_of_pos (by simp [h]), List.filter_cons_of_pos (by simp [h]), ih]

theorem mem_modCmd {m : Mx} {id : Nat} {f : Cmd → Cmd} {q : Cmd} (h : q ∈ (m.modCmd id f).cmds) (hq : q.id = id) :
    ∃ k, q = f k := by
  obtain ⟨k, -, hk⟩ := List.mem_map.mp h
  by_cases hid : k.id = id
  · exact ⟨k, by rw [← hk, if_pos hid]⟩
  · rw [if_neg hid] at hk
    exact absurd (hk ▸ hq) hid

theorem cmds_drainDone (m : Mx) (k : Cmd) (tile : Nat) (d : ODesc) : (m.drainDone k tile d).cmds =
    if d.syncen then (m.modCmd k.id fun k => { k with running := true, parts := [] }).cmds else (m.drop k.id).cmds := by
  unfold Mx.drainDone
  cases d.syncen <;> cases k.got <;> rfl

/-- TSTAT may take the bits of a drain that has landed whole (R138). -/
theorem tspend_drainDone {m : Mx} {k : Cmd} {tile : Nat} {d : ODesc} {p : TsPend} (h : p ∈ ((m.drainDone k tile d).tile tile).tspend)
    (hp : p.cmd = k.id) : p.landed = true := by
  have htile : (m.drainDone k tile d).tile tile = (m.tile tile).landDrain k.id := by
    refine Eq.trans ?_ ((tile_modTile m tile tile fun v => v.landDrain k.id).trans (if_pos rfl))
    unfold Mx.drainDone
    cases d.syncen <;> cases k.got <;> rfl
  rw [htile] at h
  obtain ⟨q, -, hq⟩ := List.mem_map.mp h
  by_cases hid : q.cmd = k.id
  · rw [if_pos hid] at hq
    rw [← hq]
  · rw [if_neg hid] at hq
    exact absurd (hq ▸ hp) hid

theorem cmds_drained (m : Mx) (k : Cmd) (pk : Option Nat) (tile bits err : Nat) (oldest : Bool) (vals : List (List FV)) :
    (m.drained k pk tile bits err oldest vals).cmds = (m.modCmd k.id fun k => { k with err := err }).cmds := by
  cases pk <;> rfl

theorem rings_drained (m : Mx) (k : Cmd) (pk : Option Nat) (tile bits err : Nat) (oldest : Bool) (vals : List (List FV)) :
    (m.drained k pk tile bits err oldest vals).rings = m.rings := by
  cases pk <;> rfl

/-- What a drain that has landed whole leaves: its status, its arrival, and its place in the tracker. -/
def DrainWhole (s u : State) (c : CoreId) (id tile : Nat) (d : ODesc) : Prop :=
  (∀ p ∈ ((u.core c).mx.tile tile).tspend, p.cmd = id → p.landed = true)
    ∧ (d.syncen = true → (∀ q ∈ (u.core c).mx.cmds, q.id = id → q.running = true ∧ q.parts = [])
      ∧ ∃ a : Arrival, u.arrivals = s.arrivals ++ [a] ∧ a.addr = d.sync ∧ a.owner = some (c, id) ∧ a.lmem = (if d.syncsp then none else some c))
    ∧ (d.syncen = false → (u.core c).mx.cmds = ((s.core c).mx.cmds.filter fun q => q.id != id) ∧ u.arrivals = s.arrivals)

/-- And one that has landed in part: what is still to be written. -/
def DrainInPart (s u : State) (c : CoreId) (id : Nat) : Prop :=
  u.arrivals = s.arrivals ∧ ∀ q ∈ (u.core c).mx.cmds, q.id = id → ∃ p, q.parts = [p] ∧ p.late ≠ []

section Outcome

variable {s t u : State} {c : CoreId} {out : Nat → Prop} {m : Mx} {k : Cmd} {tile n : Nat} {d : ODesc} {arr : List Arrival}
  (hm : m.cmds.filter (fun q => q.id != k.id) = (s.core c).mx.cmds.filter fun q => q.id != k.id)
include hm

theorem drainDone_stand : (m.drainDone k tile d).cmds.filter (fun q => q.id != k.id) = (s.core c).mx.cmds.filter fun q => q.id != k.id := by
  rw [cmds_drainDone, ← hm]
  split
  · exact filter_modCmd ..
  · exact List.filter_filter.trans (by simp)

theorem drainWhole_of (h : DrainAt s u c d.space out (m.drainDone k tile d) arr)
    (hsync : d.syncen = true → ∃ a : Arrival, arr = s.arrivals ++ [a] ∧ a.addr = d.sync ∧ a.owner = some (c, k.id)
      ∧ a.lmem = (if d.syncsp then none else some c))
    (hno : d.syncen = false → arr = s.arrivals) : DrainWhole s u c k.id tile d := by
  refine ⟨fun p hp hid => tspend_drainDone (h.mx ▸ hp) hid, fun hs => ⟨fun q hq hid => ?_, ?_⟩, fun hs => ⟨?_, h.arrivals.trans (hno hs)⟩⟩
  · rw [h.mx, cmds_drainDone, if_pos hs] at hq
    obtain ⟨k', rfl⟩ := mem_modCmd hq hid
    exact ⟨rfl, rfl⟩
  · obtain ⟨a, ha, hrest⟩ := hsync hs
    exact ⟨a, h.arrivals.trans ha, hrest⟩
  · rw [h.mx, cmds_drainDone, if_neg (by rw [hs]; exact Bool.false_ne_true), ← hm]
    rfl

/-- What a drain leaves once its bytes have begun to land. -/
theorem drainPut_outcome {ps : List GPut} (h : DrainAt s t c d.space out m s.arrivals)
    (hps : ∀ g ∈ ps, ∀ b, out b → b ≠ spaceBase d.space ((m.ring d.ring).slotBase (k.got.getD 0)) + g.addr) :
    let u := (t.drainPut c k tile d n ps).wakeCore c
    (u.core c).mx.cmds.filter (fun q => q.id != k.id) = (s.core c).mx.cmds.filter (fun q => q.id != k.id)
      ∧ ((∀ a, d.space ≠ 1 ∨ out a → rdByte u.vault a = rdByte s.vault a)
        ∧ ∀ q a, d.space = 1 ∨ q ≠ c ∨ out a → rdByte (u.core q).lmem a = rdByte (s.core q).lmem a)
      ∧ (DrainWhole s u c k.id tile d ∨ DrainInPart s u c k.id) := by
  intro u
  rcases drainPut_at (tile := tile) (n := n) h hps with ⟨hs, a, ha, hrest⟩ | ⟨hs, ha⟩ | ⟨p, hp, ha⟩
  · have hu := ha.wakeCore
    refine ⟨by rw [hu.mx]; exact drainDone_stand hm, ⟨hu.vault, hu.lmem⟩, .inl (drainWhole_of hm hu (fun _ => ⟨a, rfl, hrest⟩) fun hf => ?_)⟩
    rw [hs] at hf
    cases hf
  · have hu := ha.wakeCore
    refine ⟨by rw [hu.mx]; exact drainDone_stand hm, ⟨hu.vault, hu.lmem⟩, .inl (drainWhole_of hm hu (fun hf => ?_) fun _ => rfl)⟩
    rw [hs] at hf
    cases hf
  · have hu := ha.wakeCore
    refine ⟨by rw [hu.mx]; exact (filter_modCmd ..).trans hm, ⟨hu.vault, hu.lmem⟩, .inr ⟨hu.arrivals, fun q hq hid => ?_⟩⟩
    rw [hu.mx] at hq
    obtain ⟨k', rfl⟩ := mem_modCmd hq hid
    exact ⟨p, rfl, hp⟩

end Outcome

/-! ## DRAIN_LAND -/

section Land

variable {s : State} {c : CoreId} {i : Nat} {k : Cmd} {prec tile : Nat} {t clr sat : Bool} {pk scale prev : Option Nat} {rm : Rm} {sc : Scope} {d : ODesc}
  (hcl : s.clusterRuns c.cl = true) (hk : (s.core c).mx.cmds[i]? = some k) (hkind : k.kind = .mdrn prec t clr pk rm sat sc tile d scale prev)
include hcl hk hkind

/-- A drain reads its tile and its bytes begin to land (R250). -/
theorem does_drainLand (hrun : k.running = false) (hparts : k.parts = []) (hfree : s.cmdFree c k = true)
    (hready : ((s.core c).mx.tile tile).readyAt k.count = true) (hgot : d.space = 2 → k.got.isSome = true) : Does (.drainLand c i) s fun u =>
    let sb := spaceBase d.space (((s.core c).mx.ring d.ring).slotBase (k.got.getD 0))
    let out (a : Nat) : Prop := ∀ r ∈ drainRanges t d, a < sb + r.1 ∨ sb + r.1 + r.2 ≤ a
    (u.core c).mx.cmds.filter (fun q => q.id != k.id) = (s.core c).mx.cmds.filter (fun q => q.id != k.id)
      ∧ ((∀ a, d.space ≠ 1 ∨ out a → rdByte u.vault a = rdByte s.vault a)
        ∧ ∀ q a, d.space = 1 ∨ q ≠ c ∨ out a → rdByte (u.core q).lmem a = rdByte (s.core q).lmem a)
      ∧ (DrainWhole s u c k.id tile d ∨ DrainInPart s u c k.id) := by
  let m := (s.core c).mx
  let out := drainRows ((m.tile tile).readAt k.count) prec t rm sat d scale (k.err == 0x07) k.bad
  let puts := drainPuts t d out.2
  let spared (a : Nat) : Prop := ∀ r ∈ drainRanges t d, a < spaceBase d.space ((m.ring d.ring).slotBase (k.got.getD 0)) + r.1
    ∨ spaceBase d.space ((m.ring d.ring).slotBase (k.got.getD 0)) + r.1 + r.2 ≤ a
  have hok : (s.clusterRuns c.cl && !k.running && s.cmdFree c k && (m.tile tile).readyAt k.count && (d.space != 2 || k.got.isSome)) = true := by
    have hslot : (d.space != 2 || k.got.isSome) = true := by
      by_cases h2 : d.space = 2
      · rw [hgot h2]; exact Bool.or_true _
      · rw [bne_iff_ne.mpr h2]; rfl
    rw [hcl, hrun, hfree, hslot, hready]
    rfl
  have hex : ∃ err bits oldest, exec (.drainLand c i) s = event "DRAIN_LAND" true ((((if d.space = 1 then s.served d.base else s).modMx c fun m =>
      m.drained k pk tile bits err oldest out.1).drainPut c { k with err := err } tile d puts.length puts).wakeCore c) := by
    rw [← hok]
    let seen := (m.tile tile).passStats prev k.count
    refine ⟨if s.drainLost d puts then 0x23 else if k.err ≠ 0 then k.err else if drainBad ((m.tile tile).readAt k.count) d then 0x02 else 0,
      b2n (out.2.any fun r => (rowSeen d.fmt r).1) + 2 * b2n (out.2.any fun r => (rowSeen d.fmt r).2) + 4 * b2n (seen.1 || out.2.any StoredRow.sat)
        + 8 * b2n seen.2, !(m.cmds.take i).any fun o => o.awaits tile, ?_⟩
    show execDrainLand c i s = _
    simp only [execDrainLand, hk, hkind, hparts]
    rfl
  obtain ⟨err, bits, oldest, hex⟩ := hex
  have hstart : DrainAt s (if d.space = 1 then s.served d.base else s) c d.space spared m s.arrivals := by
    split
    · exact (DrainAt.refl s c d.space spared).served _
    · exact DrainAt.refl s c d.space spared
  refine does_event hex rfl (drainPut_outcome (k := { k with err := err }) ?_ (hstart.modMx _) fun g hg b hb => ?_)
  · exact (congrArg (List.filter _) (cmds_drained ..)).trans (filter_modCmd ..)
  · obtain ⟨r, hr, hlo, hhi⟩ := drainPuts_inside hg
    have hring : (m.drained k pk tile bits err oldest out.1).ring d.ring = m.ring d.ring := congrArg (tget _ · d.ring) (rings_drained ..)
    rw [hring]
    have hout := hb r hr
    simp only [m] at hout ⊢
    omega

/-- What is left of one that has landed in part. -/
theorem does_drainLand_more {p : PartReq} {rest : List PartReq} (hparts : k.parts = p :: rest) : Does (.drainLand c i) s fun u =>
    let sb := spaceBase d.space (((s.core c).mx.ring d.ring).slotBase (k.got.getD 0))
    let out (a : Nat) : Prop := ∀ g ∈ p.late, sb + g.addr ≠ a
    (u.core c).mx.cmds.filter (fun q => q.id != k.id) = (s.core c).mx.cmds.filter (fun q => q.id != k.id)
      ∧ ((∀ a, d.space ≠ 1 ∨ out a → rdByte u.vault a = rdByte s.vault a)
        ∧ ∀ q a, d.space = 1 ∨ q ≠ c ∨ out a → rdByte (u.core q).lmem a = rdByte (s.core q).lmem a)
      ∧ (DrainWhole s u c k.id tile d ∨ DrainInPart s u c k.id) := by
  have hex : exec (.drainLand c i) s = event "DRAIN_LAND" (s.clusterRuns c.cl) ((s.drainMore c k tile d p).wakeCore c) := by
    show execDrainLand c i s = _
    simp only [execDrainLand, hk, hkind, hparts]
  let err := if s.drainLost d p.late then 0x23 else k.err
  refine does_event hex hcl (drainPut_outcome (k := { k with err := err }) ?_ ((DrainAt.refl s c d.space _).modMx _) fun g hg b hb => ?_)
  · exact filter_modCmd ..
  · exact (hb g hg).symm

end Land

end Sys2Proof.Machine
end

section
open Sys2Proof Sys2Proof.Machine Sys2Proof.Claim

/-- Settles O53: each step of the engine is one change of its core's `Mx`, whose other parts stand; a drain's bytes lie in its ranges. -/
theorem matrixEvents : Obligations.MatrixEvents := by
  refine fun s c => ⟨fun i k hk hold hfree => ?_, fun i k w prec t kv d slot hk hkind hrun hfree hcl hrel hpub => ?_,
    fun i k w prec t kv d slot hk hkind hrun hcl => ?_,
    fun k ld prec t ovw wrel n d l pv pb slot hcl hk hl hkind => ⟨fun hrun hfree hpub => ⟨fun herr => ?_, fun herr => ?_⟩,
      fun hrun => ⟨fun hbad => ?_, fun hgood => ?_⟩⟩,
    fun t w hcl hw hr hc hlook => ?_, fun t p rest hcl hp hl hat harr => ?_, fun i k prec t clr pk rm sat sc n d scale prev hcl hk hkind => ⟨?_, ?_⟩,
    fun ring a rest hcl hw hocc => ?_⟩
  · obtain ⟨t, ht, early, hread, ⟨hm, hb⟩, hctx⟩ := does_trackerRelease hk hold hfree
    refine ⟨t, ht, fun hcopy => ?_, ⟨early, hread, fun hcopy => ?_⟩, ?_, hb, hctx⟩
    · simp only [hm, hcopy]
      rfl
    · simp only [hm, hcopy]
      rfl
    · simp only [hm]
      rfl
  · obtain ⟨u, hu, early, hread, ⟨hm, hb⟩, hctx⟩ := does_weightLoadStart hk hkind hrun hfree hcl hrel hpub
    refine ⟨u, hu, ⟨early, hread, ?_⟩, ?_, hb, hctx⟩
    · simp only [hm]
      rfl
    · simp only [hm]
      rfl
  · obtain ⟨u, hu, ⟨m', ⟨hm, hb⟩, hcmds, hwrel, htiles, hplane⟩, herr⟩ := does_weightLoadLand hk hkind hrun hcl
    refine ⟨u, hu, ?_, hb, ?_, ?_, _, ?_, rfl, rfl, rfl, rfl, rfl, rfl, List.any_eq_true, herr⟩
    · simp only [hm, hcmds]
      rfl
    · simp only [hm, hwrel]
    · simp only [hm, htiles]
    · simp only [hm]
      exact hplane
  · obtain ⟨u, hu, ⟨m', ⟨hm, hb⟩, hcmds, hwrel, hrings⟩, hctx⟩ := does_matrixPassStart hkind hcl hk hl hrun hfree hpub herr
    refine ⟨u, hu, ?_, ?_, ?_, hb, hctx⟩
    · simp only [hm, hcmds]
      rfl
    · simp only [hm, hwrel]
    · simp only [hm, hrings]
  · obtain ⟨u, hu, ⟨hm, hb⟩, htrap⟩ := does_matrixPassStart_failed hkind hcl hk hl hrun hfree hpub herr
    exact ⟨u, hu, by simp only [hm]; rfl, hb, by simp only [hm]; rfl, htrap⟩
  · obtain ⟨u, tile, ovw', keepSlot, as, ws, -, hex⟩ := exec_matrixPassRetire hkind hcl hk hl hrun
    obtain ⟨⟨hm, hb⟩, htrap⟩ := failMma_at (s := s) (c := c) hkind 0x06
    refine does_event hex rfl ?_
    rw [if_pos (List.any_eq_true.mpr hbad)]
    exact ⟨by simp only [hm]; rfl, hb, by simp only [hm]; rfl, htrap⟩
  · obtain ⟨u, tile, ovw', keepSlot, as, ws, ⟨hm, hb⟩, hex⟩ := exec_matrixPassRetire hkind hcl hk hl hrun
    refine does_event hex rfl ?_
    rw [if_neg (by rw [List.any_eq_true]; rintro ⟨b, hb, hbad⟩; rw [hgood b hb] at hbad; cases hbad)]
    refine ⟨hb, fun hlast => ⟨?_, ?_⟩, fun hmore => ⟨?_, ?_⟩, fun g => ?_⟩
    · simp only [hm, cmds_retired, hlast, if_true]
      rfl
    · simp only [hm, wrel_retired, hlast, if_true]
    · simp only [hm, wrel_retired, hmore, if_false]
    · simp only [hm, cmds_retired, hmore, if_false]
      rfl
    · simp only [hm]
      exact tile_retired ..
  · obtain ⟨u, hu, ⟨hm, hb⟩, hctx⟩ := does_tileWindowClose hcl hw hr hc hlook
    refine ⟨u, hu, ?_, ?_, ?_, fun g hg => ?_, ?_, hb, hctx⟩
    · simp only [hm, tile_modTile, if_true]; rfl
    · simp only [hm, tile_modTile, if_true]; rfl
    · simp only [hm, tile_modTile, if_true]; rfl
    · simp only [hm, tile_modTile, if_neg hg]
    · simp only [hm]; rfl
  · obtain ⟨u, hu, ⟨hm, hb⟩, hctx⟩ := does_tstatUpdate hcl hp hl hat harr
    refine ⟨u, hu, ?_, ?_, fun g hg => ?_, ?_, hb, hctx⟩
    · simp only [hm, tile_modTile, if_true]
    · simp only [hm, tile_modTile, if_true]
    · simp only [hm, tile_modTile, if_neg hg]
    · simp only [hm]; rfl
  · exact does_drainLand hcl hk hkind
  · exact fun p rest hparts => does_drainLand_more hcl hk hkind hparts
  · obtain ⟨u, hu, m', ⟨hm, hb⟩, hrings, hacq, hcmd⟩ := does_ringSlotAcquire hcl hw hocc
    have hring : ∀ g, m'.ring g = ((s.core c).mx.modRing ring fun r => r.take a.owner).ring g := fun g => congrArg (tget _ · g) hrings
    have hsame : (u.core c).mx.ring ring = ((s.core c).mx.ring ring).take a.owner := by rw [hm, hring, ring_modRing]
    refine ⟨u, hu, ?_, ?_, ?_, ?_, ?_, hb, fun g hg => ?_, fun cx reg prod ha => ?_, fun id ha => ?_⟩
    · simp only [hsame]; rfl
    · simp only [hsame]; rfl
    · simp only [hsame]
      show ((s.core c).mx.ring ring).waiting.tail = rest
      rw [hw]
      rfl
    · simp only [hsame]; rfl
    · simp only [hsame]; rfl
    · simp only [hm, hring]
      exact ring_modRing_other _ hg _
    · simp only [hm]
      exact hacq cx reg prod ha
    · simp only [hm]
      exact hcmd id ha

end

section
/-! Queue requests being performed, and arrivals at sync words (R63 to R69, R207, R208). -/

namespace Sys2Proof.Machine
open Sys2Proof.Claim

/-! ## Bytes -/

theorem length_leBytes (n v : Nat) : (leBytes n v).length = n := by
  induction n generalizing v with
  | zero => rfl
  | succ n ih => rw [leBytes, List.length_cons, ih]

theorem wrBytes_leBytes (m : Memory) (a n v : Nat) : wrBytes m a (leBytes n v) = wrMem m a n v := by
  induction n generalizing m a v with
  | zero => rfl
  | succ n ih => rw [leBytes, wrBytes, wrMem, ih]

/-! ## What a queue has sent (R63, R222) -/

theorem serial_sendPrefix (tr : QEnt → Option Nat) (ok : QEnt → Nat → Bool) (l : List QEnt) :
    (sendPrefix tr ok l).map QEnt.serial = l.map QEnt.serial := by
  induction l with
  | nil => rfl
  | cons e l ih =>
    unfold sendPrefix
    split
    · exact congrArg (e.serial :: ·) ih
    · split
      · exact congrArg (e.serial :: ·) ih
      · split
        · exact congrArg (e.serial :: ·) ih
        · rfl
      · rfl
    · rfl

/-- Sending loads that need no comparison changes nothing (R222). -/
theorem checkLoads_checked {s : State} {h : Home} {l : List (QEnt × Nat)} {c : Ctx} (hc : s.home h = some c) (hl : ∀ e ∈ l, e.1.unchecked c = false) :
    s.checkLoads h l = .ok s := by
  induction l with
  | nil => rfl
  | cons e l ih =>
    have he : s.checkLoad h c e.1 e.2 = .ok s := by rw [State.checkLoad, hl e List.mem_cons_self]; rfl
    rw [State.checkLoads, hc]
    simp only [he]
    exact ih fun o ho => hl o (List.mem_cons_of_mem _ ho)

theorem mem_of_mem_leaving {was now : List QEnt} {e : QEnt × Nat} (h : e ∈ leaving was now) : e.1 ∈ was := by
  obtain ⟨⟨a, b⟩, hab, he⟩ := List.mem_filterMap.mp h
  split at he
  · obtain ⟨pa, -, rfl⟩ := Option.map_eq_some_iff.mp he
    exact (List.of_mem_zip hab).1
  · cases he

section

variable {s : State} {x : CtxId} {q n : Nat} (hq : ∀ o ∈ (s.ctx x).queue q, o.unchecked (s.ctx x) = false)

theorem sameBytes_sent (l : List QEnt) : sameBytes s (s.sent (.live x) q l) := sameBytes_trans (sameBytes_tally ..) (sameBytes_modCtx ..)

theorem dram_sent (l : List QEnt) : (s.sent (.live x) q l).dram = s.dram := proj_ite State.dram rfl

theorem dramGone_sent (l : List QEnt) (pa n : Nat) : (s.sent (.live x) q l).dramGone pa n = s.dramGone pa n :=
  proj_ite (fun t => State.dramGone t pa n) rfl

theorem ctx_sent (l : List QEnt) : (s.sent (.live x) q l).ctx x = (s.ctx x).setQueue q l := by
  show (State.modCtx ..).ctx x = _
  rw [ctx_modCtx, if_pos rfl, ctx_tally]

theorem queue_setQueue (c : Ctx) (q : Nat) (l : List QEnt) : (c.setQueue q l).queue q = l := tget_tset_same ..

include hq in
/-- A queue whose loads are all compared is sent, and its requests keep their serial numbers. -/
theorem sentUpTo_checked : ∃ l : List QEnt, l.map QEnt.serial = ((s.ctx x).queue q).map QEnt.serial
    ∧ s.sentUpTo (.live x) q n = .ok (s.sent (.live x) q l) := by
  refine ⟨_, ?_, checkLoads_checked (c := (s.sent _ q _).ctx x) rfl fun e he => ?_⟩
  · rw [List.map_map]
    show List.map QEnt.serial _ = _
    rw [List.map_append, List.map_take, State.sendQueue, serial_sendPrefix, ← List.map_take, ← List.map_append, List.take_append_drop]
  · rw [ctx_sent]
    exact hq _ (mem_of_mem_leaving he)

/-- One entry of a queue is replaced, or leaves. -/
theorem mem_replaceEnt {l : List QEnt} {serial : Nat} {f : QEnt → Option QEnt} {d : QEnt} :
    d ∈ replaceEnt l serial f ↔ ∃ o ∈ l, (if o.serial = serial then f o else some o) = some d := List.mem_filterMap

end

theorem rdPhys_dram {s : State} {ld pa n : Nat} (h : pa + n ≤ dramTop) : s.rdPhys ld pa n = rdMem s.dram pa n := by
  unfold State.rdPhys
  split
  · rfl
  · obtain rfl : n = 0 := by omega
    rw [rdMem, rdMem]

theorem queue_wake (s : State) (x : CtxId) (q : Nat) : ((s.wake x).ctx x).queue q = (s.ctx x).queue q := by
  rw [ctx_wake, if_pos rfl]
  rfl

/-- A landed datum stands in its entry, where no QPOP has asked for it (R207, R208). -/
theorem queue_landEnt {c : Ctx} {q : Nat} {e o : QEnt} (hpop : e.popped = none) (ho : o ∈ c.queue q) (hs : o.serial = e.serial) (v : Nat) (m : Mark) :
    { o with stage := .landed, data := v, mark := m } ∈ (c.landEnt q e v m).queue q := by
  simp only [Ctx.landEnt, hpop, queue_setQueue]
  exact mem_replaceEnt.mpr ⟨o, ho, if_pos hs⟩

/-- A queue load's datum lands over the memory's bytes; no byte changes (R207, R83). -/
theorem performQ_load {s : State} {x : CtxId} {q pa : Nat} {c : Ctx} {e o : QEnt} (hk : e.kind.isLoad = true) (hpop : e.popped = none)
    (ho : o ∈ (s.ctx x).queue q) (hs : o.serial = e.serial) :
    let read := overlay (e.over c pa) (rdMem s.dram pa e.bytes) e.bytes
    sameBytes s (s.performQ (.live x) c q e pa) ∧ ∃ d ∈ ((s.performQ (.live x) c q e pa).ctx x).queue q, d.serial = e.serial ∧ d.stage = .landed
      ∧ (pa + e.bytes ≤ dramTop → d.data = if e.kind = .ld then extend e.lsz read else read) := by
  simp only [State.performQ, hk, if_true, modHome_live, ctx_modCtx]
  refine ⟨sameBytes_modCtx .., _, queue_landEnt hpop ho hs .., hs, rfl, fun hd => ?_⟩
  simp only [rdPhys_dram hd]

theorem queue_dropped (l : List QEnt) (serial : Nat) : ∀ d ∈ replaceEnt l serial fun _ => none, d.serial ≠ serial := by
  intro d hd
  obtain ⟨o, -, ho⟩ := mem_replaceEnt.mp hd
  split at ho
  · cases ho
  · exact Option.some.inj ho ▸ ‹_›

/-- Writing physical memory leaves every context. -/
theorem ctx_putDram (s : State) (pa : Nat) (bs : List Byte) (y : CtxId) : (s.putDram pa bs).ctx y = s.ctx y := rfl

theorem ctx_wrDram (s : State) (pa : Nat) (bs : List Byte) (y : CtxId) : (s.wrDram pa bs).ctx y = s.ctx y := by
  unfold State.wrDram
  split
  · rfl
  · refine List.foldlRecOn (motive := fun t => State.ctx t y = s.ctx y) _ _ rfl fun t ht b _ => ?_
    dsimp only
    split
    · exact ht
    · exact ht

theorem ctx_wrPhys (s : State) (ld pa : Nat) (bs : List Byte) (y : CtxId) : (s.wrPhys ld pa bs).ctx y = s.ctx y := by
  unfold State.wrPhys
  split
  · exact ctx_wrDram ..
  · unfold State.wrHost
    split <;> rfl

/-- A queue store leaves its queue and writes its bytes where its channel stands (R207). -/
theorem performQ_store {s : State} {x : CtxId} {q pa : Nat} {c : Ctx} {e : QEnt} (hk : e.kind.isLoad = false) :
    let t := s.performQ (.live x) c q e pa
    (∀ d ∈ (t.ctx x).queue q, d.serial ≠ e.serial) ∧ (pa < dramTop → s.dramGone pa e.bytes = false →
      rdMem t.dram pa e.bytes = e.data % 256 ^ e.bytes ∧ ∀ a, (a < pa ∨ pa + e.bytes ≤ a) → rdByte t.dram a = rdByte s.dram a) := by
  obtain ⟨ld, hld⟩ : ∃ ld, (tget ({ } : JobSlot) (s.cl x.cl).jobs c.pr.jslot).part = ld := ⟨_, rfl⟩
  obtain ⟨u, hu⟩ : ∃ u, s.modCtx x (fun c => c.setQueue q (replaceEnt (c.queue q) e.serial fun _ => none)) = u := ⟨_, rfl⟩
  obtain ⟨w, hw⟩ : ∃ w, u.wrPhys ld pa (leBytes e.bytes e.data) = w := ⟨_, rfl⟩
  have ht : s.performQ (.live x) c q e pa =
      if pa < dramTop then (if w.isolated (dieOf pa) then w.deferTrap (.live x) 0x0C 0 none e.ea else w) else w := by
    simp only [State.performQ, hk, Bool.false_eq_true, if_false, homeCl, hld, modHome_live, hu, hw]
  have hqueue : ((s.performQ (.live x) c q e pa).ctx x).queue q = (w.ctx x).queue q := by
    rw [ht]
    refine proj_ite (fun t : State => (t.ctx x).queue q) (proj_ite (fun t : State => (t.ctx x).queue q) ?_)
    rw [State.deferTrap, modHome_live, ctx_modCtx, if_pos rfl]
    rfl
  have hdram : (s.performQ (.live x) c q e pa).dram = w.dram := by
    rw [ht]
    exact proj_ite State.dram (proj_ite State.dram rfl)
  dsimp only
  rw [hqueue, hdram, ← hw, ctx_wrPhys, ← hu, ctx_modCtx, if_pos rfl, queue_setQueue, hu]
  refine ⟨queue_dropped _ _, fun hpa hgone => ?_⟩
  have hput : (u.wrPhys ld pa (leBytes e.bytes e.data)).dram = wrMem s.dram pa e.bytes e.data := by
    have hgone' : u.dramGone pa e.bytes = false := by
      rw [← hu]
      exact hgone
    rw [State.wrPhys, if_pos hpa, State.wrDram, length_leBytes, hgone', ← wrBytes_leBytes, ← hu]
    rfl
  rw [hput]
  exact ⟨rdMem_wrMem_same .., fun a ha => rdByte_wrMem_outside _ _ _ _ _ ha⟩

section

variable {s : State} {x : CtxId} {q i : Nat} {e : QEnt} {pa : Nat} (hcl : s.clusterRuns x.cl = true) (he : ((s.ctx x).queue q)[i]? = some e)
  (hpa : s.entPa (.live x) (s.ctx x) e = some pa) (hready : s.queueReady (.live x) (s.ctx x) ((s.ctx x).queue q) i e pa = true)
  (hq : ∀ o ∈ (s.ctx x).queue q, o.unchecked (s.ctx x) = false)
include hcl he hpa hready hq

/-- A queue request is performed once its queue has sent what stands before it. -/
theorem does_queueDataArrival {p : State → Prop}
    (hacc : let ld := (tget ({ } : JobSlot) (s.cl x.cl).jobs (s.ctx x).pr.jslot).part
      (if e.kind.isLoad then s.physReads ld pa e.bytes else s.physTakes ld pa e.bytes) = true)
    (hp : ∀ l : List QEnt, (∃ o ∈ l, o.serial = e.serial) → p (((s.sent (.live x) q l).performQ (.live x) (s.ctx x) q e pa).wake x)) :
    Does (.queueDataArrival (.live x) q i) s p := by
  obtain ⟨l, hl, hsent⟩ := sentUpTo_checked (n := i + 1) hq
  refine does_event (n := "QUEUE_DATA_ARRIVAL") (t := ((s.sent (.live x) q l).performQ (.live x) (s.ctx x) q e pa).wake x) ?_
    (Bool.and_eq_true_iff.mpr ⟨Bool.and_eq_true_iff.mpr ⟨hcl, hready⟩, hacc⟩) (hp l ?_)
  · show Machine.execQueueDataArrival (.live x) q i s = _
    simp only [execQueueDataArrival, State.home, he, hpa, State.refresh, hsent]
    rfl
  · have hmem : e.serial ∈ l.map QEnt.serial := hl ▸ List.mem_map_of_mem (List.mem_of_getElem? he)
    exact List.mem_map.mp hmem

end

/-! ## Arrivals at sync words (R67 to R69) -/

/-- Telling armed waits of a new generation leaves the memories. -/
theorem core_noteGen (s : State) (o : Option CoreId) (addr : Nat) (c : CoreId) : (s.noteGen o addr).core c =
    { s.core c with ctxs := (s.core c).ctxs.map fun y => (y.1, y.2.noteGen o c addr) } := by
  have hcl : (s.noteGen o addr).cl c.cl = (s.cl c.cl).mapCtxs c.cl fun m y => y.noteGen o m addr :=
    tget_map (g := fun k l => Cluster.mapCtxs k (fun m y => y.noteGen o m addr) l) (fun _ => rfl) ..
  rw [State.core, hcl]
  exact tget_map (g := fun k (l : Core) => { l with ctxs := l.ctxs.map fun y => (y.1, y.2.noteGen o ⟨c.cl, k⟩ addr) }) (fun _ => rfl) ..

theorem lmem_noteGen (s : State) (o : Option CoreId) (addr : Nat) (c : CoreId) : ((s.noteGen o addr).core c).lmem = (s.core c).lmem := by
  rw [core_noteGen]

theorem lmem_syncLmem (s : State) (c : CoreId) (addr w : Nat) (adv : Bool) :
    ((s.syncLmem c addr w adv).core c).lmem = wrMem (s.core c).lmem addr 16 w := by
  refine Eq.trans (b := ((s.wrLmem c addr 16 w).core c).lmem) ?_ ?_
  · unfold State.syncLmem
    dsimp only
    split
    · exact lmem_noteGen ..
    · rfl
  · rw [State.wrLmem, core_modCore, if_pos rfl]

theorem vault_syncVault {s : State} {off : Nat} (h : s.isolated (off / 2 ^ 30) = false) (w : Nat) (adv : Bool) :
    (s.syncVault off w adv).vault = wrMem s.vault off 16 w := by
  refine Eq.trans (b := (s.wrVault off 16 w).vault) ?_ ?_
  · unfold State.syncVault
    dsimp only
    split
    · rfl
    · rfl
  · exact if_neg (by rw [h]; exact Bool.false_ne_true)

theorem arrivals_syncLmem (s : State) (c : CoreId) (addr w : Nat) (adv : Bool) : (s.syncLmem c addr w adv).arrivals = s.arrivals := proj_ite _ rfl
theorem arrivals_syncVault (s : State) (off w : Nat) (adv : Bool) : (s.syncVault off w adv).arrivals = s.arrivals := proj_ite _ rfl
theorem arrivals_served (s : State) (off : Nat) : (s.served off).arrivals = s.arrivals := tallyCl_keep State.arrivals ..

/-- The sync word that an arrival is for. -/
def Arrival.word (a : Arrival) (s : State) : Nat :=
  match a.lmem with
  | some c => s.rdLmem c a.addr 16
  | none => s.rdVault a.addr 16

/-- What an arrival makes of its word. -/
def Arrival.gives (a : Arrival) (w : Nat) : Nat :=
  match a.err with
  | some e => arriveErr w e
  | none => arrive w a.n

theorem gives_arrive {a : Arrival} (h : a.err = none) (w : Nat) : a.gives w = arrive w a.n := by rw [Arrival.gives, h]
theorem gives_arriveErr {a : Arrival} {e : Nat} (h : a.err = some e) (w : Nat) : a.gives w = arriveErr w e := by rw [Arrival.gives, h]

theorem applyArrival_reaches {s : State} {a : Arrival} (h : s.isolated (a.addr / 2 ^ 30) = false) :
    a.word (s.applyArrival a) = a.gives (a.word s) % 256 ^ 16 ∧ (s.applyArrival a).arrivals = s.arrivals := by
  unfold State.applyArrival Arrival.word Arrival.gives
  cases a.lmem with
  | some c =>
    refine ⟨?_, arrivals_syncLmem ..⟩
    dsimp only
    rw [State.rdLmem, lmem_syncLmem, rdMem_wrMem_same] <;> rfl
  | none =>
    have hserved : (s.served a.addr).isolated (a.addr / 2 ^ 30) = false := (tallyCl_keep (fun t => t.isolated (a.addr / 2 ^ 30)) ..).trans h
    refine ⟨?_, (arrivals_syncVault ..).trans (arrivals_served ..)⟩
    dsimp only
    rw [State.rdVault, vault_syncVault hserved, rdMem_wrMem_same] <;> rfl

theorem lmem_wakeCore (s : State) (o c : CoreId) : ((s.wakeCore o).core c).lmem = (s.core c).lmem := by
  unfold State.wakeCore
  rw [State.wake, core_modCtx_keep Core.lmem, State.wake, core_modCtx_keep Core.lmem, State.wake, core_modCtx_keep Core.lmem, State.wake,
    core_modCtx_keep Core.lmem]

theorem core_modMx_keep {β : Type} (p : Core → β) (s : State) (o : CoreId) (f : Mx → Mx) (c : CoreId)
    (hp : ∀ v m, p { v with mx := m } = p v := by exact fun _ _ => rfl) : p ((s.modMx o f).core c) = p (s.core c) := by
  rw [modMx_eq, core_modCore]
  split
  · next h => rw [h, hp]
  · rfl

theorem wakeOwner_keeps (s : State) (a b : Arrival) : b.word (s.wakeOwner a) = b.word s ∧ (s.wakeOwner a).arrivals = s.arrivals := by
  unfold State.wakeOwner
  split
  · refine ⟨?_, rfl⟩
    unfold Arrival.word
    split
    · next c _ => exact congrArg (rdMem · _ _) ((lmem_wakeCore ..).trans (core_modMx_keep Core.lmem ..))
    · rfl
  · exact ⟨rfl, rfl⟩

theorem does_arrival {s : State} {ins : Instr} {name : String} {err : Bool} {i : Nat} {a : Arrival} (hex : exec ins s = syncEvent name err i s)
    (ha : s.arrivals[i]? = some a) (herr : a.err.isSome = err) (h : s.isolated (a.addr / 2 ^ 30) = false) :
    Does ins s fun t => a.word t = a.gives (a.word s) % 2 ^ 128 ∧ t.arrivals = listDrop s.arrivals i := by
  obtain ⟨hword, harr⟩ := applyArrival_reaches (s := { s with arrivals := listDrop s.arrivals i }) (a := a) h
  obtain ⟨hword', harr'⟩ := wakeOwner_keeps (({ s with arrivals := listDrop s.arrivals i } : State).applyArrival a) a a
  have h256 : 256 ^ 16 = 2 ^ 128 := by norm_num
  rw [h256] at hword
  exact does_event (by rw [hex, syncEvent, ha]) (beq_iff_eq.mpr herr) ⟨hword'.trans hword, harr'.trans harr⟩

end Sys2Proof.Machine
end

section
/-! A transfer's requests, and how it ends (R257, R265, R338). -/

namespace Sys2Proof.Machine
open Sys2Proof.Claim

/-! ## Requests that land -/

theorem mx_gArrive (s : State) (c : CoreId) (id : Nat) (vault : Bool) (addr m fuel n : Nat) (o : CoreId) :
    ((s.gArrive c id vault addr m fuel n).core o).mx = (s.core o).mx := by
  induction fuel generalizing s n with
  | zero => rfl
  | succ fuel ih =>
    unfold State.gArrive
    split
    · rfl
    · rw [ih]
      rfl

/-- A transfer of which request `req` has landed whole, with `landed` bytes by then. -/
def Cmd.counted (req count landed : Nat) (k : Cmd) : Cmd :=
  { k with done := k.done ++ [req], next := k.next + count, landed := landed, parts := k.parts.filter fun p => p.req != req }

theorem gCounted_eq (s : State) (g : GEnv) (k : Cmd) (req count : Nat) (words : List Nat) : s.gCounted g k req count words =
    let now := gLanded g.raw (k.next + count)
    let t := ((s.clearPhys g.ld words).modMx g.c fun m => m.modCmd k.id (Cmd.counted req count now)).tally (cmdCtx g.c k) 0x00C (now - k.landed)
    if gSyncen g.raw then t.draw.gArrive g.c k.id (gSyncsp g.raw) g.sync (Config.arrivalChunk s.draws % 4096 + 1) (now - k.landed) (now - k.landed)
    else t := rfl

theorem mx_gCounted (s : State) (g : GEnv) (k : Cmd) (req count : Nat) (words : List Nat) :
    ((s.gCounted g k req count words).core g.c).mx = (s.core g.c).mx.modCmd k.id (Cmd.counted req count (gLanded g.raw (k.next + count))) := by
  have hmx (n : Nat) (f : Mx → Mx) : ((((s.clearPhys g.ld words).modMx g.c f).tally (cmdCtx g.c k) 0x00C n).core g.c).mx = f (s.core g.c).mx := by
    rw [core_tally_keep Core.mx, core_modMx]
    rfl
  rw [gCounted_eq]
  dsimp only
  split
  · exact (mx_gArrive ..).trans (hmx _ _)
  · exact hmx _ _

/-- What holds of a command once changed holds of each that stands under its number. -/
theorem of_mem_modCmd {m : Mx} {id : Nat} {f : Cmd → Cmd} {p : Cmd → Prop} (hf : ∀ k, p (f k)) : ∀ q ∈ (m.modCmd id f).cmds, q.id = id → p q := by
  intro q hq hid
  obtain ⟨k, rfl⟩ := mem_modCmd hq hid
  exact hf k

/-- A request that has landed whole is done, and no part of it is left (R265). -/
theorem cmds_gCounted (s : State) (g : GEnv) (k : Cmd) (req count : Nat) (words : List Nat) :
    ∀ q ∈ ((s.gCounted g k req count words).core g.c).mx.cmds, q.id = k.id → req ∈ q.done ∧ ∀ o ∈ q.parts, o.req ≠ req := by
  rw [mx_gCounted]
  refine of_mem_modCmd fun k' => ⟨List.mem_append_right _ (List.mem_singleton_self req), fun o ho => ?_⟩
  simpa using (List.mem_filter.mp ho).2

/-- A request that lands is done, or its later part waits (R265). -/
theorem cmds_gLand (s : State) (g : GEnv) (k : Cmd) (es : List GEl) (req : Nat) (w : GWork) :
    ∀ q ∈ ((s.gLand g k es req w).core g.c).mx.cmds, q.id = k.id → req ∈ q.done ∨ ∃ p ∈ q.parts, p.req = req ∧ p.late ≠ [] := by
  unfold State.gLand
  dsimp only
  split
  · exact fun q hq hid => Or.inl (cmds_gCounted _ _ _ _ _ _ q hq hid).1
  · next hlate =>
    rw [core_modMx]
    refine of_mem_modCmd fun k' => Or.inr ⟨_, List.mem_append_right _ (List.mem_singleton_self _), rfl, ?_⟩
    simpa using hlate

/-- The next part of a request: the last finishes it, another leaves what is still to land (R265). -/
theorem cmds_gMore (s : State) (g : GEnv) (k : Cmd) (p : PartReq) :
    ((splitParts s.draws p.late).2 = [] → ∀ q ∈ ((s.gMore g k p).core g.c).mx.cmds, q.id = k.id →
        p.req ∈ q.done ∧ ∀ o ∈ q.parts, o.req ≠ p.req)
      ∧ ((splitParts s.draws p.late).2 ≠ [] → ∀ q ∈ ((s.gMore g k p).core g.c).mx.cmds, q.id = k.id → ∀ o ∈ q.parts, o.req = p.req →
        o.late = (splitParts s.draws p.late).2) := by
  refine ⟨fun hall => ?_, fun hlate => ?_⟩
  · have hdone : s.gMore g k p = (s.gWriteAll g (splitParts s.draws p.late).1).gCounted g k p.req p.count p.words :=
      if_pos (List.isEmpty_iff.mpr hall)
    rw [hdone]
    exact cmds_gCounted _ _ _ _ _ _
  · have hmore : ((s.gMore g k p).core g.c).mx = _ :=
      (congrArg (fun t : State => (t.core g.c).mx) (if_neg (mt List.isEmpty_iff.mp hlate))).trans (core_modMx ..)
    rw [hmore]
    refine of_mem_modCmd fun k' o ho hreq => ?_
    obtain ⟨o', -, rfl⟩ := List.mem_map.mp ho
    by_cases hr : o'.req = p.req
    · simp only [if_pos hr]
    · exact absurd (by simpa only [if_neg hr] using hreq) hr

/-- A transfer that meets an error keeps its code, and nothing is written (R265). -/
theorem transfer_errs (s : State) (c : CoreId) (id e : Nat) :
    sameBytes s (s.modMx c fun m => m.modCmd id fun k => { k with err := e })
      ∧ ∀ q ∈ ((s.modMx c fun m => m.modCmd id fun k => { k with err := e }).core c).mx.cmds, q.id = id → q.err = e := by
  refine ⟨sameBytes_modMx .., ?_⟩
  rw [core_modMx]
  exact of_mem_modCmd (p := fun q => q.err = e) fun _ => rfl

section

variable {s : State} {c : CoreId} {ch id : Nat} {k : Cmd} (hcl : s.clusterRuns c.cl = true) (hk : (s.core c).mx.transfer ch id = some k)
include hcl hk

theorem does_gatherSectorLand {req err : Nat} {g : GEnv} {w : GWork} (hg : s.gEnv c k k.kind.cdesc = g) (hw : s.gWork g k (s.gReqs g) req = w)
    (hfail : s.gFail g (cmdCtx c k) ((s.gReqs g).getD req []) w = err) (hready : s.reqReady c k g.raw (s.gReqs g) req = true)
    (hslot : gDsp g.raw = 3 → k.got.isSome = true) :
    (err ≠ 0 → Does (.gatherSectorLand c ch id req) s fun t => sameBytes s t ∧ ∀ q ∈ (t.core c).mx.cmds, q.id = k.id → q.err = err)
      ∧ (err = 0 → s.gWorkGoes g w = true → Does (.gatherSectorLand c ch id req) s fun t => ∀ q ∈ (t.core c).mx.cmds, q.id = k.id →
        req ∈ q.done ∨ ∃ p ∈ q.parts, p.req = req ∧ p.late ≠ []) := by
  have hnew : k.parts.find? (fun p => p.req == req) = none := by
    have hany : k.parts.any (fun p => p.req == req) = false := by
      simp only [State.reqReady, Bool.and_eq_true, Bool.not_eq_true'] at hready
      exact hready.1.1.2
    simpa using hany
  have hring : (gDsp g.raw != 3 || k.got.isSome) = true := by
    by_cases h : gDsp g.raw = 3
    · rw [hslot h, Bool.or_true]
    · rw [bne_iff_ne.mpr h, Bool.true_or]
  have hexec : exec (.gatherSectorLand c ch id req) s = event "GATHER_SECTOR_LAND" (err != 0 || s.gWorkGoes g w)
      (if err ≠ 0 then s.modMx c fun m => m.modCmd k.id fun k => { k with err := err } else s.gLand g k ((s.gReqs g).getD req []) req w) := by
    show execGatherSectorLand c ch id req s = _
    simp only [execGatherSectorLand, hk, hnew, hg, hw, hfail, hcl, hready, hring, Bool.true_and]
  refine ⟨fun herr => ?_, fun herr hgoes => ?_⟩
  · refine does_event hexec (by rw [bne_iff_ne.mpr herr, Bool.true_or]) ?_
    rw [if_pos herr]
    exact transfer_errs ..
  · refine does_event hexec (by rw [hgoes, Bool.or_true]) ?_
    have hc : g.c = c := by rw [← hg]; rfl
    rw [if_neg (not_not.mpr herr), ← hc]
    exact cmds_gLand _ _ _ _ _ _

theorem does_gatherSectorLand_more {req : Nat} {p : PartReq} (hp : k.parts.find? (fun p => p.req == req) = some p) (hok : k.err = 0) :
    let g := s.gEnv c k k.kind.cdesc
    let err := firstErr (p.late.map (s.gPutErr g))
    (err ≠ 0 → Does (.gatherSectorLand c ch id req) s fun t => sameBytes s t ∧ ∀ q ∈ (t.core c).mx.cmds, q.id = k.id → q.err = err)
      ∧ (err = 0 → s.gTakes g (splitParts s.draws p.late).1 = true → Does (.gatherSectorLand c ch id req) s fun t =>
        ((splitParts s.draws p.late).2 = [] → ∀ q ∈ (t.core c).mx.cmds, q.id = k.id → req ∈ q.done ∧ ∀ o ∈ q.parts, o.req ≠ req)
          ∧ ((splitParts s.draws p.late).2 ≠ [] → ∀ q ∈ (t.core c).mx.cmds, q.id = k.id → ∀ o ∈ q.parts, o.req = req →
            o.late = (splitParts s.draws p.late).2)) := by
  intro g err
  obtain rfl : p.req = req := by simpa using List.find?_some hp
  have hexec : exec (.gatherSectorLand c ch id p.req) s = event "GATHER_SECTOR_LAND" (err != 0 || s.gTakes g (splitParts s.draws p.late).1)
      (if err ≠ 0 then s.modMx c fun m => m.modCmd k.id fun k => { k with err := err } else s.gMore g k p) := by
    show execGatherSectorLand c ch id p.req s = _
    simp only [execGatherSectorLand, hk, hp, hcl, hok, Bool.true_and, BEq.rfl]
    rfl
  refine ⟨fun herr => ?_, fun herr htakes => ?_⟩
  · refine does_event hexec (by rw [bne_iff_ne.mpr herr, Bool.true_or]) ?_
    rw [if_pos herr]
    exact transfer_errs ..
  · refine does_event hexec (by rw [htakes, Bool.or_true]) ?_
    rw [if_neg (not_not.mpr herr)]
    exact cmds_gMore ..

end

/-! ## The end of a transfer (R257, R265) -/

/-- Each core's engine stands. -/
structure SameMx (s t : State) : Prop where
  mx : ∀ c, (t.core c).mx = (s.core c).mx

namespace SameMx

variable {s t u : State}

theorem refl (s : State) : SameMx s s := ⟨fun _ => rfl⟩
theorem trans (h : SameMx s t) (h' : SameMx t u) : SameMx s u := ⟨fun c => (h'.mx c).trans (h.mx c)⟩

theorem foldl {α : Type} {f : State → α → State} (hf : ∀ s a, SameMx s (f s a)) (l : List α) (s : State) : SameMx s (l.foldl f s) := by
  induction l generalizing s with
  | nil => exact refl s
  | cons a l ih => exact (hf s a).trans (ih _)

theorem wrLmem (s : State) (c : CoreId) (a n v : Nat) : SameMx s (s.wrLmem c a n v) := by
  refine ⟨fun o => ?_⟩
  rw [State.wrLmem, core_modCore]
  split
  · next h => rw [h]
  · rfl

theorem wrDram (s : State) (pa : Nat) (bs : List Byte) : SameMx s (s.wrDram pa bs) := by
  unfold State.wrDram
  split
  · exact ⟨fun _ => rfl⟩
  · refine foldl (fun t b => ?_) _ s
    dsimp only
    split
    · exact refl t
    · exact ⟨fun _ => rfl⟩

theorem wrPhys (s : State) (ld pa : Nat) (bs : List Byte) : SameMx s (s.wrPhys ld pa bs) := by
  unfold State.wrPhys
  split
  · exact wrDram ..
  · unfold State.wrHost
    split
    · exact ⟨fun _ => rfl⟩
    · exact ⟨fun _ => rfl⟩
    · exact refl s

theorem gWrite (s : State) (g : GEnv) (sp a n v : Nat) : SameMx s (s.gWrite g sp a n v) := by
  unfold State.gWrite
  split
  · exact wrLmem ..
  · exact ⟨fun _ => rfl⟩
  · split
    · exact wrPhys ..
    · exact refl s
  · exact wrLmem ..

theorem gStore (s : State) (g : GEnv) (p : GPut) (n v : Nat) : SameMx s (s.gStore g p n v) := by
  unfold State.gStore
  split
  · exact wrPhys ..
  · exact gWrite ..

theorem gDo (s : State) (g : GEnv) (p : GPut) : SameMx s (s.gDo g p) := by
  unfold State.gDo
  split
  · exact gStore ..
  · exact gStore ..

theorem gZero (s : State) (g : GEnv) (k : Cmd) (reqs : List (List GEl)) : SameMx s (s.gZero g k reqs) := by
  have hzero (t : State) (p : GPut) : SameMx t (if t.inSlot g p.addr (cBytes p.cb) then t.gDo g { p with val := 0 } else t) := by
    split
    · exact gDo ..
    · exact refl t
  have htwo : ∀ ps (es : List GEl), SameMx s _ := fun ps es =>
    (foldl hzero ps s).trans (foldl (fun t e => hzero t ⟨e.dst.1, e.dst.2, gDbits g.raw, 0, none⟩) es _)
  unfold State.gZero
  dsimp only
  split
  · exact (htwo _ _).trans (foldl (fun t b => hzero t ⟨gDscl g.raw + b, 0, 8, 0, none⟩) _ _)
  · exact htwo _ _

theorem engineTrap (s : State) (c : CoreId) (k : Cmd) (code : Nat) : SameMx s (s.engineTrap c k code) := by
  refine ⟨fun o => ?_⟩
  rw [engineTrap_eq, core_modCtx_keep Core.mx]

theorem wakeCore (s : State) (c : CoreId) : SameMx s (s.wakeCore c) := by
  refine ⟨fun o => ?_⟩
  unfold State.wakeCore
  rw [State.wake, core_modCtx_keep Core.mx, State.wake, core_modCtx_keep Core.mx, State.wake, core_modCtx_keep Core.mx, State.wake,
    core_modCtx_keep Core.mx]

end SameMx

theorem donebelow_transferDone {m : Mx} {ch id : Nat} (hd : tget 0 m.donebelow ch = id) (hc : tget [] m.completed ch = []) :
    tget 0 (m.transferDone ch id).donebelow ch = (id + 1) % 2 ^ 32 := by
  show tget 0 (tset 0 _ ch _) ch = _
  rw [tget_tset_same, hd, hc]
  simp [settleDone]

/-- What the end of a transfer makes of its engine: the command leaves, its identifier has completed, its ring's slot is published. -/
def Mx.ended (m : Mx) (k : Cmd) (ch id r : Nat) : Mx :=
  let m := (m.drop k.id).transferDone ch id
  if gDsp r = 3 then
    match k.got with
    | some i => m.modRing (gDring r) fun q => (q.publish i).settle 64
    | none => m.modRing (gDring r) fun q => { q with waiting := q.waiting.filter fun a => a != .cmd k.id }
  else m

theorem ended_keep {β : Type} (p : Mx → β) (m : Mx) (k : Cmd) (ch id r : Nat) (hp : ∀ m rs, p { m with rings := rs } = p m := by exact fun _ _ => rfl) :
    p (m.ended k ch id r) = p ((m.drop k.id).transferDone ch id) := by
  unfold Mx.ended
  dsimp only
  split
  · split
    · exact hp ..
    · exact hp ..
  · rfl

section

variable {s : State} {c : CoreId} {ch id : Nat} {k : Cmd} (hcl : s.clusterRuns c.cl = true) (hk : (s.core c).mx.transfer ch id = some k)
include hcl hk

theorem does_gatherTransferComplete (hend : k.err ≠ 0 ∨ k.done.length = reqCount (s.gEnv c k k.kind.cdesc).raw (s.gReqs (s.gEnv c k k.kind.cdesc)) k)
    (harr : ∀ a ∈ s.arrivals, a.owner ≠ some (c, k.id)) : Does (.gatherTransferComplete c ch id) s fun t => (∀ q ∈ (t.core c).mx.cmds, q.id ≠ k.id)
      ∧ (tget 0 (s.core c).mx.donebelow ch = id → tget [] (s.core c).mx.completed ch = [] →
        tget 0 (t.core c).mx.donebelow ch = (id + 1) % 2 ^ 32) := by
  obtain ⟨u, hu, hexec⟩ : ∃ u, SameMx s u ∧ exec (.gatherTransferComplete c ch id) s = event "GATHER_TRANSFER_COMPLETE"
      (s.clusterRuns c.cl && (k.err != 0 || decide (k.done.length = reqCount (s.gEnv c k k.kind.cdesc).raw (s.gReqs (s.gEnv c k k.kind.cdesc)) k))
        && s.arrivals.all fun a => a.owner != some (c, k.id))
      ((u.modMx c fun m => m.ended k ch id (s.gEnv c k k.kind.cdesc).raw).wakeCore c) := by
    show ∃ u, SameMx s u ∧ execGatherTransferComplete c ch id s = _
    unfold execGatherTransferComplete
    simp only [hk]
    refine ⟨_, ?_, rfl⟩
    split
    · exact .refl s
    · have hz : SameMx s (if gDsp (s.gEnv c k k.kind.cdesc).raw = 3 ∧ k.got.isSome = true then
          s.gZero (s.gEnv c k k.kind.cdesc) k (s.gReqs (s.gEnv c k k.kind.cdesc)) else s) := by
        split
        · exact .gZero ..
        · exact .refl s
      split
      · exact hz.trans ⟨fun _ => rfl⟩
      · exact hz.trans (.engineTrap ..)
  have hmx : (((u.modMx c fun m => m.ended k ch id (s.gEnv c k k.kind.cdesc).raw).wakeCore c).core c).mx =
      (s.core c).mx.ended k ch id (s.gEnv c k k.kind.cdesc).raw := by
    rw [(SameMx.wakeCore ..).mx, core_modMx, hu.mx]
  refine does_event hexec ?_ ?_
  · rw [hcl, Bool.true_and, Bool.and_eq_true_iff, List.all_eq_true, Bool.or_eq_true, bne_iff_ne, decide_eq_true_iff]
    exact ⟨hend, fun a ha => bne_iff_ne.mpr (harr a ha)⟩
  · rw [hmx]
    refine ⟨fun q hq => ?_, fun hd hc => ?_⟩
    · rw [ended_keep Mx.cmds] at hq
      simpa using (List.mem_filter.mp hq).2
    · rw [ended_keep Mx.donebelow]
      exact donebelow_transferDone hd hc

end

end Sys2Proof.Machine
end

section
/-! A Marver's entries: one starts on its turn, lands request by request, and leaves (R267 to R270, R338). -/

namespace Sys2Proof.Machine
open Sys2Proof.Claim

/-- A step that neither changes a Marver of a cluster nor writes a byte. -/
structure SameMarvers (s t : State) (cl : Nat) : Prop where
  marver : ∀ port, t.marver cl port = s.marver cl port
  bytes : sameBytes s t

namespace SameMarvers

variable {s t u : State} {cl : Nat}

theorem refl (s : State) (cl : Nat) : SameMarvers s s cl := ⟨fun _ => rfl, sameBytes_refl s⟩
theorem trans (h : SameMarvers s t cl) (h' : SameMarvers t u cl) : SameMarvers s u cl :=
  ⟨fun port => (h'.marver port).trans (h.marver port), sameBytes_trans h.bytes h'.bytes⟩

theorem modCtx (s : State) (x : CtxId) (f : Ctx → Ctx) (cl : Nat) : SameMarvers s (s.modCtx x f) cl :=
  ⟨fun port => congrArg (tget ({ } : Marver) · port) (cl_modCtx_keep Cluster.marvers ..), sameBytes_modCtx ..⟩

theorem modMx (s : State) (c : CoreId) (f : Mx → Mx) (cl : Nat) : SameMarvers s (s.modMx c f) cl :=
  ⟨fun port => congrArg (tget ({ } : Marver) · port) (cl_modCore_keep Cluster.marvers ..), sameBytes_modMx ..⟩

theorem wakeCore (s : State) (c : CoreId) (cl : Nat) : SameMarvers s (s.wakeCore c) cl :=
  (((modCtx s _ Ctx.wake cl).trans (modCtx _ _ Ctx.wake cl)).trans (modCtx _ _ Ctx.wake cl)).trans (modCtx _ _ Ctx.wake cl)

theorem foldl {α : Type} {f : State → α → State} (hf : ∀ s a, SameMarvers s (f s a) cl) (l : List α) (s : State) : SameMarvers s (l.foldl f s) cl := by
  induction l generalizing s with
  | nil => exact refl s cl
  | cons a l ih => exact (hf s a).trans (ih _)

theorem mPublish (s : State) (k : Nat) (e : MEnt) (cl : Nat) : SameMarvers s (s.mPublish k e) cl :=
  foldl (fun _ _ => (modMx ..).trans (wakeCore ..)) ..

theorem mFail (s : State) (k : Nat) (e : MEnt) (code cl : Nat) : SameMarvers s (s.mFail k e code) cl := by
  refine trans ?_ (mPublish ..)
  split
  · unfold State.mArrive
    split
    · exact ⟨fun _ => rfl, sameBytes_refl s⟩
    · exact refl s cl
  · refine foldl (fun t j => ?_) ..
    split
    · exact refl t cl
    · next cx _ =>
      rw [State.deferTrap, modHome_live]
      exact modCtx ..

end SameMarvers

theorem marver_modMarver (s : State) (cl port : Nat) (f : Marver → Marver) : (s.modMarver cl port f).marver cl port = f (s.marver cl port) := by
  rw [State.modMarver, State.marver, cl_modCl, if_pos rfl]
  exact (tget_tmod ..).trans (if_pos rfl)

theorem sameBytes_modMarver (s : State) (cl port : Nat) (f : Marver → Marver) : sameBytes s (s.modMarver cl port f) := sameBytes_modCl ..

/-- The entry that a Marver starts: a write back has read its tile (R268). -/
def State.mStarts (s : State) (cl ix e : Nat) : MEnt :=
  let k := (eServed e).headD 0
  { ix := ix, raw := e, got := []
    tile := if eBack e then some (rdBytes (s.core ⟨cl, k⟩).lmem (eLoff e) (eBytes e)) else none
    err := if eBack e && (s.core ⟨cl, k⟩).lmemBad (eLoff e) (eBytes e) then 0x01 else 0, faults := [] }

/-- A fetch asks for a slot in each served core (R268). -/
def State.mAsks (s : State) (cl port e : Nat) : State :=
  if eBack e then s
  else (eServed e).foldl (fun s k => s.modMx ⟨cl, k⟩ fun x => x.modRing (eRing e) fun r => { r with waiting := r.waiting ++ [.marver port] }) s

theorem sameMarvers_mAsks (s : State) (cl port e : Nat) : SameMarvers s (s.mAsks cl port e) cl := by
  unfold State.mAsks
  split
  · exact .refl ..
  · exact .foldl (fun _ _ => .modMx ..) ..

theorem does_marverEntryStart {s : State} {cl port e : Nat} {m : Marver} (hm : s.marver cl port = m) (he : s.schedEntry m.list m.pos = e)
    (hcl : s.clusterRuns cl = true) (hpos : m.pos < m.count) (hpaused : m.paused = []) (hleaves : s.itemLeaves cl = false)
    (hbegun : ∀ q ∈ m.live, q.begun = true) (hserves : ∀ k ∈ eServed e, s.coreServes cl port e k = true) :
    Does (.marverEntryStart cl port) s fun t => (t.marver cl port).pos = m.pos + 1 ∧ sameBytes s t
      ∧ ∃ q : MEnt, (t.marver cl port).live = m.live ++ [q] ∧ q.ix = m.pos ∧ q.raw = e := by
  have hexec : exec (.marverEntryStart cl port) s = event "MARVER_ENTRY_START"
      (s.clusterRuns cl && decide (m.pos < m.count) && m.paused.isEmpty && !s.itemLeaves cl && m.live.all MEnt.begun
        && (eServed e).all fun k => s.coreServes cl port e k)
      ((s.modMarver cl port fun v => { v with pos := v.pos + 1, live := v.live ++ [s.mStarts cl m.pos e] }).mAsks cl port e) := by
    subst hm he
    rfl
  have hkeep := sameMarvers_mAsks (s.modMarver cl port fun v => { v with pos := v.pos + 1, live := v.live ++ [s.mStarts cl m.pos e] }) cl port e
  refine does_event hexec ?_ ?_
  · simp only [hcl, hpaused, hleaves, Bool.and_eq_true, List.all_eq_true, decide_eq_true_iff]
    exact ⟨⟨⟨⟨⟨trivial, hpos⟩, rfl⟩, rfl⟩, hbegun⟩, hserves⟩
  · rw [hkeep.marver, marver_modMarver, hm]
    exact ⟨rfl, sameBytes_trans (sameBytes_modMarver ..) hkeep.bytes, _, rfl, rfl, rfl⟩

/-- What lands now is some of an entry's outstanding requests that wait on no fault (R338). -/
theorem mem_mNow {s : State} {cl i : Nat} {e : MEnt} (h : i ∈ s.mNow cl e) : i ∈ s.mLandable cl e := by
  unfold State.mNow at h
  dsimp only at h
  split at h
  · exact h
  · exact (List.mem_filter.mp h).1

theorem mNow_ne_nil {s : State} {cl : Nat} {e : MEnt} (h : s.mLandable cl e ≠ []) : s.mNow cl e ≠ [] := by
  unfold State.mNow
  dsimp only
  split
  · exact h
  · next hn => simpa using hn

theorem mLandable_open {s : State} {cl i : Nat} {e : MEnt} (h : i ∈ s.mLandable cl e) : i ∉ e.done ∧ ∀ f ∈ e.faults, f.1 ≠ i := by
  obtain ⟨hleft, hland⟩ := List.mem_filter.mp h
  simp only [Bool.and_eq_true, Bool.not_eq_true', List.any_eq_false, beq_iff_eq] at hland
  refine ⟨?_, hland.1.2⟩
  simpa using (List.mem_filter.mp hleft).2

section

variable {s : State} {cl port : Nat} {q : MEnt} (hcl : s.clusterRuns cl = true) (hq : s.mReady cl (s.marver cl port) = some q)
include hq

theorem mReady_lands (hcode : s.mCode cl q = 0) (hleft : q.left ≠ []) : s.mNow cl q ≠ [] := by
  have hready := List.find?_some hq
  simp only [hcode, Bool.and_eq_true, Bool.or_eq_true] at hready
  refine mNow_ne_nil ?_
  simpa [hleft] using hready.2

include hcl

/-- An entry that fails leaves, and nothing is written (R269). -/
theorem does_marverEntryLand_fails (hcode : s.mCode cl q ≠ 0) :
    Does (.marverEntryLand cl port) s fun t => sameBytes s t ∧ ∀ o ∈ (t.marver cl port).live, o.ix ≠ q.ix := by
  obtain ⟨u, hu⟩ : ∃ u, s.modMarver cl port (fun m => { m with live := m.live.filter fun o => o.ix != q.ix }) = u := ⟨_, rfl⟩
  have hexec : exec (.marverEntryLand cl port) s = event "MARVER_ENTRY_LAND" (s.clusterRuns cl) (u.mFail cl q (s.mCode cl q)) := by
    show execMarverEntryLand cl port s = _
    simp only [execMarverEntryLand, hq, if_pos hcode, hu]
  have hkeep := SameMarvers.mFail u cl q (s.mCode cl q) cl
  refine does_event hexec hcl ⟨sameBytes_trans (hu ▸ sameBytes_modMarver ..) hkeep.bytes, fun o ho => ?_⟩
  rw [hkeep.marver, ← hu, marver_modMarver] at ho
  simpa using (List.mem_filter.mp ho).2

/-- The requests that land are done; with the last of them the entry leaves (R268). -/
theorem does_marverEntryLand (hcode : s.mCode cl q = 0) (hroom : s.mRoom cl q (s.mNow cl q) = true) {q' : MEnt}
    (hq' : { q with done := q.done ++ s.mNow cl q, landed := q.landed + ((s.mNow cl q).map fun i => (reqAt q.raw i).2).sum } = q') :
    Does (.marverEntryLand cl port) s fun t => (q'.left = [] → ∀ o ∈ (t.marver cl port).live, o.ix ≠ q.ix)
      ∧ (q'.left ≠ [] → ∀ o ∈ (t.marver cl port).live, o.ix = q.ix → o = q') := by
  obtain ⟨t, ht⟩ : ∃ t, s.draw.mLand cl q (s.mNow cl q) = t := ⟨_, rfl⟩
  have hexec : exec (.marverEntryLand cl port) s = event "MARVER_ENTRY_LAND" (s.clusterRuns cl && s.mRoom cl q (s.mNow cl q))
      (if q'.left.isEmpty then (t.modMarver cl port fun m => { m with live := m.live.filter fun o => o.ix != q.ix }).mPublish cl q
       else t.modMarver cl port fun m => { m with live := m.live.map fun o => if o.ix = q.ix then q' else o }) := by
    show execMarverEntryLand cl port s = _
    simp only [execMarverEntryLand, hq, if_neg (not_not.mpr hcode), ht, hq']
  refine does_event hexec (by rw [hcl, hroom]; rfl) ⟨fun hall => ?_, fun hmore => ?_⟩
  · rw [if_pos (List.isEmpty_iff.mpr hall), (SameMarvers.mPublish ..).marver, marver_modMarver]
    intro o ho
    simpa using (List.mem_filter.mp ho).2
  · rw [if_neg (mt List.isEmpty_iff.mp hmore), marver_modMarver]
    intro o ho hix
    obtain ⟨o', -, rfl⟩ := List.mem_map.mp ho
    by_cases h : o'.ix = q.ix
    · exact if_pos h
    · exact absurd (by simpa only [if_neg h] using hix) h

end

end Sys2Proof.Machine
end

section
/-! A datapath's replay, and what it loses where it fails again (R370, R371). -/

namespace Sys2Proof.Machine
open Sys2Proof.Claim

/-- A context's registers, what is on its way to them, and the vector result at hand. -/
def Ctx.results (c : Ctx) : Regs × Flight × Option (RegRef × Nat) := (c.regs, c.fl, c.vres)

/-- A step of retirement: no context's results and no byte changes. -/
structure SameResults (s t : State) : Prop where
  results : ∀ y, (t.ctx y).results = (s.ctx y).results
  bytes : sameBytes s t

namespace SameResults

variable {s t u : State}

theorem refl (s : State) : SameResults s s := ⟨fun _ => rfl, sameBytes_refl s⟩
theorem trans (h : SameResults s t) (h' : SameResults t u) : SameResults s u :=
  ⟨fun y => (h'.results y).trans (h.results y), sameBytes_trans h.bytes h'.bytes⟩

theorem foldl {α : Type} {f : State → α → State} (hf : ∀ s a, SameResults s (f s a)) (l : List α) (s : State) : SameResults s (l.foldl f s) := by
  induction l generalizing s with
  | nil => exact refl s
  | cons a l ih => exact (hf s a).trans (ih _)

theorem modCl (s : State) (k : Nat) (f : Cluster → Cluster) (hcode : ∀ c, (f c).code = c.code := by exact fun _ => rfl)
    (hcores : ∀ c, (f c).cores = c.cores := by exact fun _ => rfl) : SameResults s (s.modCl k f) := by
  refine ⟨fun y => ?_, sameBytes_modCl s k f hcode hcores⟩
  rw [ctx_modCl]
  split
  · next h => rw [Cluster.core, hcores, ← h]; rfl
  · rfl

theorem modCore (s : State) (c : CoreId) (f : Core → Core) (hlmem : ∀ o, (f o).lmem = o.lmem := by exact fun _ => rfl)
    (hctxs : ∀ o, (f o).ctxs = o.ctxs := by exact fun _ => rfl) : SameResults s (s.modCore c f) :=
  ⟨fun y => by rw [ctx_modCore_keep s c f y hctxs], sameBytes_modCore s c f hlmem⟩

theorem modHealth (s : State) (f : Health → Health) : SameResults s (s.modHealth f) := ⟨fun _ => rfl, sameBytes_refl s⟩
theorem report_ (s : State) : SameResults s s.report_ := ⟨fun _ => rfl, sameBytes_refl s⟩
theorem dieMsg (s : State) (cl code arg : Nat) : SameResults s (s.dieMsg cl code arg) := foldl (fun t _ => modCl t ..) ..

theorem worsen (s : State) (n : Nat) : SameResults s (s.worsen n) := by
  unfold State.worsen
  split
  · exact refl s
  · dsimp only
    split
    · exact (modHealth ..).trans (foldl (fun t _ => modCl t ..) ..)
    · exact modHealth ..

theorem askPreempt (s : State) (x : CtxId) (src : PreSrc) : SameResults s (s.askPreempt x src) := by
  unfold State.askPreempt
  split
  · exact refl s
  · refine ⟨fun y => ?_, ?_⟩
    · rw [modPr_eq, ctx_modCtx]
      split
      · next h => rw [h]; rfl
      · rfl
    · rw [modPr_eq]
      exact sameBytes_modCtx ..

theorem retireCluster (s : State) (cl : Nat) : SameResults s (s.retireCluster cl false) := by
  unfold State.retireCluster
  split
  · exact refl s
  · have hretired := (((((modCl s cl fun c => { c with retired := true }).trans (modHealth _ fun h => { h with clusters := h.clusters - 1 })).trans
      (worsen _ 1)).trans (report_ _)).trans (dieMsg _ cl 4 0))
    simp only [Bool.false_eq_true, if_false]
    split
    · exact hretired.trans (worsen ..)
    · exact hretired

theorem retireCore (s : State) (c : CoreId) : SameResults s (s.retireCore c) := by
  unfold State.retireCore
  split
  · exact refl s
  · have hretired := ((((((modCore s c fun o => { o with retired := true }).trans (modHealth _ fun h => { h with cores := h.cores - 1 })).trans
      (worsen _ 1)).trans (report_ _)).trans (dieMsg _ c.cl 3 c.core)).trans
      (foldl (fun t k => askPreempt t ⟨c.cl, c.core, k⟩ .software) (List.range 4) _))
    dsimp only
    split
    · exact hretired.trans (retireCluster ..)
    · exact hretired

theorem datapathError (s : State) (c : CoreId) : SameResults s (s.datapathError c) := by
  have hlogged (errs : List Nat) : SameResults s ((s.modCore c fun o => { o with dpErrs := errs }).arrayLog (c.cl / 12) 0x05 (coreUnit c) 0) :=
    (modCore s c fun o => { o with dpErrs := errs }).trans ⟨fun _ => rfl, sameBytes_refl _⟩
  unfold State.datapathError
  dsimp only
  split
  · exact (hlogged _).trans (retireCore ..)
  · exact hlogged _

end SameResults

/-! ## The record of a replay, and the results it loses (R370) -/

/-- A replay changes its die's log alone, which holds a record of it: a new one, or that of the same millisecond (R370). -/
theorem replayLog_logged (s : State) (c : CoreId) : ∃ l : Tab ErrLog, s.replayLog c = { s with logs := l }
    ∧ ∃ r ∈ (tget ({ } : ErrLog) l (2 * (c.cl / 12))).recs, r.kind = 0x03 ∧ r.unit = coreUnit c := by
  unfold State.replayLog
  dsimp only
  split
  · next hsame =>
    obtain ⟨r, hr, hmatch⟩ := List.any_eq_true.mp hsame
    obtain ⟨⟨hkind, hunit⟩, -⟩ : (r.kind = 0x03 ∧ r.unit = coreUnit c) ∧ _ := by simpa only [Bool.and_eq_true, beq_iff_eq] using hmatch
    refine ⟨_, rfl, _, by rw [tget_tput_same]; exact List.mem_map_of_mem hr, ?_, ?_⟩
    · rw [if_pos hmatch]
      exact hkind
    · rw [if_pos hmatch]
      exact hunit
  · exact ⟨_, rfl, _, List.mem_of_getLast? (logAdd_last s (c.cl / 12) false _), rfl, rfl⟩

/-- Losing a matrix result writes no byte (R370). -/
theorem sameBytes_matrixLost (s : State) (c : CoreId) : sameBytes s (s.matrixLost c) := by
  unfold State.matrixLost
  split
  · exact sameBytes_refl s
  · next k _ =>
    split
    · next hkind => exact (failMma_at hkind 0x07).1.2
    · exact sameBytes_modMx ..

/-- A lost vector result leaves no result at hand; the register, or the fill that brings it, is marked (R370). -/
theorem vectorLost_marks (c : Ctx) (r : RegRef) (prod : Nat) :
    (c.vectorLost r prod).vres = none
      ∧ (prod ≠ 0 → ∀ f ∈ (c.vectorLost r prod).fl.fills, f.reg = r → f.prod = prod → f.mark = ⟨0x0C, 0⟩)
      ∧ (∀ n, r = .v n → (c.regs.vc n).full = true → (c.vectorLost r prod).regs.vc n = { c.regs.vc n with mark := ⟨0x0C, 0⟩ })
      ∧ ∀ n, n ≠ 0 → r = .s n → (c.regs.sc n).full = true → (c.vectorLost r prod).regs.sc n = { c.regs.sc n with mark := ⟨0x0C, 0⟩ } := by
  refine ⟨rfl, fun h0 f hf hreg hprod => ?_, fun n hr hfull => ?_, fun n hn hr hfull => ?_⟩
  · obtain ⟨g, -, rfl⟩ := List.mem_map.mp hf
    by_cases h : g.reg = r ∧ g.prod = prod ∧ prod ≠ 0
    · simp only [if_pos h]
    · simp only [if_neg h] at hreg hprod
      exact absurd ⟨hreg, hprod, h0⟩ h
  · subst hr
    show (Regs.poison ..).vc n = _
    rw [Regs.poison, if_pos hfull, vc_setV, if_pos rfl]
  · subst hr
    show (Regs.poison ..).sc n = _
    rw [Regs.poison, if_pos ⟨hn, hfull⟩, sc_setS, if_pos ⟨hn, rfl⟩]

section

variable {s u : State} {c : CoreId} {cx : Nat} (hu : ((s.replayLog c).tally ⟨c.cl, c.core, cx⟩ 0x007 1) = u)
include hu

/-- A replay that passes leaves the results and the engine, and is logged (R370). -/
theorem replay_passes : sameBytes s u ∧ (∀ y, u.ctx y = s.ctx y) ∧ (∀ o, (u.core o).mx = (s.core o).mx)
    ∧ ∃ r ∈ (tget ({ } : ErrLog) u.logs (2 * (c.cl / 12))).recs, r.kind = 0x03 ∧ r.unit = coreUnit c := by
  obtain ⟨l, hl, hrec⟩ := replayLog_logged s c
  subst hu
  rw [hl]
  refine ⟨sameBytes_tally { s with logs := l } .., fun y => ctx_tally { s with logs := l } .., fun o => core_tally_keep Core.mx { s with logs := l } .., ?_⟩
  have hlogs : (State.tally { s with logs := l } ⟨c.cl, c.core, cx⟩ 0x007 1).logs = l := proj_ite State.logs rfl
  rw [hlogs]
  exact hrec

theorem exec_reheatReplay_matrix (hcx : s.mxCtx c = some cx) (again : Bool) : exec (.reheatReplay c true again) s =
    event "REHEAT_REPLAY" (s.core c).mx.atWork.isSome (if again then (u.matrixLost c).datapathError c else u) := by
  show execReheatReplay c true again s = _
  simp only [execReheatReplay, if_true, hcx, hu]

theorem exec_reheatReplay_vector {r : RegRef} {prod : Nat} (hcx : (s.core c).run = some cx) (hres : (s.ctx ⟨c.cl, c.core, cx⟩).vres = some (r, prod))
    (again : Bool) : exec (.reheatReplay c false again) s =
      .next (if again then (u.vectorLost ⟨c.cl, c.core, cx⟩ r prod).datapathError c else u) := by
  show execReheatReplay c false again s = _
  simp only [execReheatReplay, Bool.false_eq_true, if_false, hcx, hres, hu]

end

section

variable {s : State} {c : CoreId} {cx : Nat}

theorem does_reheatReplay_matrix (hcx : s.mxCtx c = some cx) (hwork : (s.core c).mx.atWork.isSome = true) (again : Bool) :
    Does (.reheatReplay c true again) s fun t => sameBytes s t ∧ (again = false → (∀ y, t.ctx y = s.ctx y) ∧ (t.core c).mx = (s.core c).mx
      ∧ ∃ r ∈ (tget ({ } : ErrLog) t.logs (2 * (c.cl / 12))).recs, r.kind = 0x03 ∧ r.unit = coreUnit c) := by
  obtain ⟨u, hu⟩ : ∃ u, (s.replayLog c).tally ⟨c.cl, c.core, cx⟩ 0x007 1 = u := ⟨_, rfl⟩
  obtain ⟨hb, hctx, hmx, hlog⟩ := replay_passes hu
  refine does_event (exec_reheatReplay_matrix hu hcx again) hwork ?_
  cases again with
  | false => exact ⟨hb, fun _ => ⟨hctx, hmx c, hlog⟩⟩
  | true =>
    exact ⟨sameBytes_trans hb (sameBytes_trans (sameBytes_matrixLost u c) (SameResults.datapathError (u.matrixLost c) c).bytes), nofun⟩

theorem does_reheatReplay_vector {r : RegRef} {prod : Nat} (hcx : (s.core c).run = some cx)
    (hres : (s.ctx ⟨c.cl, c.core, cx⟩).vres = some (r, prod)) (again : Bool) : Does (.reheatReplay c false again) s fun t => sameBytes s t
      ∧ (again = false → (∀ y, t.ctx y = s.ctx y) ∧ (t.core c).mx = (s.core c).mx
        ∧ ∃ r ∈ (tget ({ } : ErrLog) t.logs (2 * (c.cl / 12))).recs, r.kind = 0x03 ∧ r.unit = coreUnit c)
      ∧ (again = true → (t.ctx ⟨c.cl, c.core, cx⟩).results = ((s.ctx ⟨c.cl, c.core, cx⟩).vectorLost r prod).results) := by
  obtain ⟨u, hu⟩ : ∃ u, (s.replayLog c).tally ⟨c.cl, c.core, cx⟩ 0x007 1 = u := ⟨_, rfl⟩
  obtain ⟨hb, hctx, hmx, hlog⟩ := replay_passes hu
  refine ⟨_, exec_reheatReplay_vector hu hcx hres again, ?_⟩
  cases again with
  | false => exact ⟨hb, fun _ => ⟨hctx, hmx c, hlog⟩, nofun⟩
  | true =>
    have hkeep := SameResults.datapathError (u.vectorLost ⟨c.cl, c.core, cx⟩ r prod) c
    refine ⟨sameBytes_trans hb (sameBytes_trans (sameBytes_modCtx ..) hkeep.bytes), nofun, fun _ => (hkeep.results _).trans ?_⟩
    rw [State.vectorLost, ctx_modCtx, if_pos rfl, hctx]

end

end Sys2Proof.Machine
end

section
open Sys2Proof Sys2Proof.Machine Sys2Proof.Claim

/-- Settles O54: a queue's, a transfer's and a Marver's step is one change of its own list, and a replay's retirements keep every result. -/
theorem transferEvents : Obligations.TransferEvents := by
  refine fun s => ⟨fun x q i e pa hcl he hpa hready hq => ⟨fun hload hreads hpop => ?_, fun hstore htakes => ?_⟩,
    fun i a ha hiso => ⟨fun herr => ?_, fun e herr => ?_⟩, fun c ch id k hcl hk => ⟨fun req => does_gatherSectorLand hcl hk rfl rfl rfl,
      fun req p => does_gatherSectorLand_more hcl hk, does_gatherTransferComplete hcl hk⟩,
    fun cl port hcl => ⟨does_marverEntryStart rfl rfl hcl, fun q hq => ⟨does_marverEntryLand_fails hcl hq, fun hcode hroom => ⟨mReady_lands hq hcode,
      fun i hi => mLandable_open (mem_mNow hi), does_marverEntryLand hcl hq hcode hroom rfl⟩⟩⟩,
    fun c matrix again cx hcx hwork hres => ?_⟩
  · refine does_queueDataArrival hcl he hpa hready hq (by rw [hload]; exact hreads) fun l ⟨o, ho, hserial⟩ => ?_
    have hsame := sameBytes_sent (s := s) (x := x) (q := q) l
    obtain ⟨hb, d, hd, hdser, hdst, hdata⟩ := performQ_load (s := s.sent (.live x) q l) (q := q) (pa := pa) (c := s.ctx x) hload hpop
      (by rw [ctx_sent, queue_setQueue]; exact ho) hserial
    rw [dram_sent] at hdata
    refine ⟨sameBytes_trans hsame (sameBytes_trans hb (sameBytes_modCtx ..)), d, ?_, hdser, hdst, hdata⟩
    rw [queue_wake]
    exact hd
  · refine does_queueDataArrival hcl he hpa hready hq (by rw [hstore]; exact htakes) fun l _ => ?_
    obtain ⟨hleft, hbytes⟩ := performQ_store (s := s.sent (.live x) q l) (x := x) (q := q) (pa := pa) (c := s.ctx x) hstore
    rw [dram_sent, dramGone_sent] at hbytes
    refine ⟨?_, hbytes⟩
    rw [queue_wake]
    exact hleft
  · obtain ⟨t, ht, hword, harr⟩ := does_arrival (ins := .syncArrival i) rfl ha (by rw [herr]; rfl) hiso
    rw [gives_arrive herr] at hword
    exact ⟨t, ht, hword, harr⟩
  · obtain ⟨t, ht, hword, harr⟩ := does_arrival (ins := .syncErrorArrival i) rfl ha (by rw [herr]; rfl) hiso
    rw [gives_arriveErr herr] at hword
    exact ⟨t, ht, hword, harr⟩
  · cases matrix with
    | true =>
      obtain ⟨t, ht, hb, hpass⟩ := does_reheatReplay_matrix hcx (hwork rfl) again
      exact ⟨t, ht, hb, fun h => ⟨by rw [(hpass h).1], (hpass h).2⟩, nofun⟩
    | false =>
      obtain ⟨⟨r, prod⟩, hvres⟩ := Option.isSome_iff_exists.mp (hres rfl)
      obtain ⟨t, ht, hb, hpass, hlost⟩ := does_reheatReplay_vector hcx hvres again
      refine ⟨t, ht, hb, fun h => ⟨by rw [(hpass h).1], (hpass h).2⟩, fun h _ => ?_⟩
      obtain ⟨hnone, hfill, hv, hs⟩ := vectorLost_marks (s.ctx ⟨c.cl, c.core, cx⟩) r prod
      have hresults := hlost h
      simp only [Ctx.results, Prod.mk.injEq] at hresults
      obtain ⟨hregs, hfl, hvr⟩ := hresults
      rw [hregs, hfl, hvr, hvres]
      refine ⟨hnone, fun r' prod' h0 heq => ?_, fun n prod' heq => ?_, fun n prod' hn heq => ?_⟩
      · cases heq
        exact hfill h0
      · cases heq
        exact hv n rfl
      · cases heq
        exact hs n hn rfl

end

section
/-! Vector elements, and V-slot instructions of a bundle in flight: what an element of a built value is, what a slot answers where its registers
can be read or its checks fail, and what a transcendental leaves to fill its register. -/

namespace Sys2Proof.Machine

open Sys2Proof.Claim

/-! ## Elements of a built value (R176, R177) -/

theorem vbuild_succ (w n : Nat) (f : Nat → Nat) : vbuild w (n + 1) f = f 0 % 2 ^ w + 2 ^ w * vbuild w n fun i => f (i + 1) := by
  rw [vbuild, List.range_succ_eq_map, List.foldr_cons, List.foldr_map]
  rfl

theorem vbuild_lt (w n : Nat) (f : Nat → Nat) : vbuild w n f < 2 ^ (w * n) := by
  induction n generalizing f with
  | zero => exact Nat.one_pos
  | succ n ih =>
    have hlow : f 0 % 2 ^ w < 2 ^ w := Nat.mod_lt _ (Nat.two_pow_pos w)
    rw [vbuild_succ, Nat.mul_succ, Nat.pow_add, Nat.add_comm]
    exact Nat.mul_add_lt_mul_of_lt_of_lt (ih fun i => f (i + 1)) hlow

theorem vbuild_div_mod {w n i : Nat} (f : Nat → Nat) (hi : i < n) : vbuild w n f / 2 ^ (w * i) % 2 ^ w = f i % 2 ^ w := by
  induction n generalizing f i with
  | zero => cases hi
  | succ n ih =>
    rw [vbuild_succ]
    cases i with
    | zero => rw [Nat.mul_zero, Nat.pow_zero, Nat.div_one, Nat.add_mul_mod_self_left, Nat.mod_mod]
    | succ i =>
      have hlow : f 0 % 2 ^ w / 2 ^ w = 0 := Nat.div_eq_of_lt (Nat.mod_lt _ (Nat.two_pow_pos w))
      rw [Nat.mul_succ, Nat.add_comm (w * i), Nat.pow_add, ← Nat.div_div_eq_div_mul, Nat.add_mul_div_left _ _ (Nat.two_pow_pos w), hlow, Nat.zero_add]
      exact ih (fun i => f (i + 1)) (Nat.lt_of_succ_lt_succ hi)

/-- A value built to the size of a register or less reads back element by element. -/
theorem vget_vbuild {w n i : Nat} (f : Nat → Nat) (hw : w * n ≤ 1024) (hi : i < n) : vget (BitVec.ofNat 1024 (vbuild w n f)) w i = f i % 2 ^ w := by
  have hfits := (vbuild_lt w n f).trans_le (Nat.pow_le_pow_right Nat.two_pos hw)
  rw [vget, BitVec.toNat_ofNat, Nat.mod_eq_of_lt hfits, vbuild_div_mod f hi]

theorem vget_mod (v : BitVec 1024) (w i : Nat) : vget v w i % 2 ^ w = vget v w i := Nat.mod_mod ..

/-- A register's elements are as wide as the register. -/
theorem width_mul_elements (t : VType) : t.width * (32 * t.perLane) = 1024 := by cases t <;> rfl

/-- The masked value of an element-wise instruction (R177). -/
theorem lanewise_vmasked (t : VType) (top : Nat) (o : BitVec 1024) (f : Nat → Nat) : Lanewise t top o (vmasked t top o f) f := by
  intro i hi
  rw [vmasked, vget_vbuild _ (width_mul_elements t).le hi]
  split
  · rfl
  · exact vget_mod ..

/-! ## One V-slot -/

section VSlot

variable {c : Cond} {body : Env → State → Rd State} {s : State} {b : Bun} (h : s.issues b c)
include h

theorem vSlot_ok {t : State} (he : body (b.env c) s = .ok t) : vSlot c body s = .next t := runSlot_ok h he

theorem vSlot_stop {st : Stop} (he : ∀ l, body (b.asks c l) s = .error st) : vSlot c body s = .next (noted s b 2 st) := by
  refine (runSlot_stop h (he false)).trans ?_
  rw [slotStop_stands (he true)]
  rfl

/-- A transcendental leaves its rounded values, lane by lane, to fill its register (R191). -/
theorem vTrans_ok (t : VType) (rm : Rm) {vd va : BitVec 5} (f : FV → FV) {x o : BitVec 1024} (hx : rdV (b.env c) va = .ok x)
    (ho : rdOld (b.env c) vd false = .ok o) :
    vTrans c t rm vd va f s = .next (s.modCtx b.x fun k => k.later (.v vd.toNat)
      (vmasked t b.pre.regs.top o fun i => vputF t rm false (f (vfloat t (vget x t.width i))))) := by
  refine vSlot_ok h ?_
  rw [hx, ok_bind, ho, ok_bind]
  rfl

variable {pk : BitVec 3} {va : BitVec 5}

theorem execVamax_region (hr : b.pre.region.isSome = true) : execVamax c pk va s = .next (noted s b 2 (.roll 0x07 0)) :=
  vSlot_stop h fun l => by
    rw [noRegion, show (b.asks c l).inRegion = true from hr]
    rfl

theorem execVamax_unbound (hr : b.pre.region = none) (hmb : b.pre.pr.mb = false) : execVamax c pk va s = .next (noted s b 2 (.trap 0x01 0)) :=
  vSlot_stop h fun l => by
    rw [noRegion_ok hr, ok_bind, needMb, show (b.asks c l).mb = false from hmb]
    rfl

/-- Each active lane offers its magnitude to the peak register as it stands (R106, R192). -/
theorem execVamax_ok (hr : b.pre.region = none) (hmb : b.pre.pr.mb = true) {x : BitVec 1024} (hx : rdV (b.env c) va = .ok x) :
    execVamax c pk va s = .next (s.modMx b.x.coreId fun m => { m with pk := tset 0 m.pk pk.toNat ((List.range 32).foldl (fun acc i =>
      if active b.pre.regs.top i then pkOffer acc (vfloat .f32 (vget x 32 i)) else acc) (tget 0 m.pk pk.toNat)) }) := by
  refine vSlot_ok h ?_
  rw [noRegion_ok hr, ok_bind, needMb, show (b.env c).mb = true from hmb, need_true, ok_bind, hx]
  rfl

end VSlot

/-! ## A result that lands later -/

theorem vc_mkEmpty (r : Regs) (m n : Nat) : (r.mkEmpty (.v m) n).vc m = { r.vc m with full := false, mark := { }, prod := n } :=
  (vc_setV ..).trans (if_pos rfl)

theorem regs_later_v (k : Ctx) (n v : Nat) : (k.later (.v n) v).regs = k.regs.mkEmpty (.v n) (k.fl.serial + 1) := rfl

theorem fills_later_v (k : Ctx) (n v : Nat) :
    (k.later (.v n) v).fl.fills = k.fl.fills ++ [{ reg := .v n, prod := k.fl.serial + 1, val := v }] := rfl

theorem modMx_congr {s : State} {c : CoreId} {f g : Mx → Mx} (h : f (s.core c).mx = g (s.core c).mx) : s.modMx c f = s.modMx c g := by
  have hcore : { s.core c with mx := f (s.core c).mx } = { s.core c with mx := g (s.core c).mx } := by rw [h]
  exact congrArg (s.setCore c) hcore

end Sys2Proof.Machine

open Sys2Proof Sys2Proof.Machine Sys2Proof.Claim

/-- Settles O25: the three transcendentals are one operation, `vTrans`, of three functions; VAMAX passes its two checks or stops at the first
that fails. -/
theorem transcendentalsAndPeaks : Obligations.TranscendentalsAndPeaks := by
  intro t rm c vd va pk s b x o h hx ho
  refine ⟨fun p hp => ?_, fun hr hmb => ⟨_, ?_, rfl⟩, fun hr hmb => execVamax_unbound h hr hmb, fun hr => execVamax_region h hr⟩
  · have htrans : exec (p.1 c t rm vd va) s = vTrans c t rm vd va p.2 s := by
      rcases List.mem_cons.mp hp with rfl | hp
      · rfl
      · rcases List.mem_pair.mp hp with rfl | rfl <;> rfl
    refine ⟨_, _, htrans.trans (vTrans_ok h t rm p.2 hx ho), fun z hz => ?_, ?_, ?_, ?_, lanewise_vmasked t _ o _⟩
    · rw [ctx_modCtx, if_neg hz]
    all_goals rw [ctx_modCtx, if_pos rfl]
    · rw [regs_later_v, vc_mkEmpty]
    · rw [regs_later_v]
      exact sameRegsBut_mkEmpty ..
    · exact fills_later_v ..
  · exact (execVamax_ok h hr hmb hx).trans (congrArg Host.Outcome.next (modMx_congr rfl))

end


section
/-! Words and what is lent to them: reading a field of a word that fields have made, and reading from a lent byte what an instruction has asked
of it. -/

namespace Sys2Proof

/-! ## Fields of a word -/

/-- A field below bit `k` reads the part of a number below bit `k`. -/
theorem field_below (a r : Nat) {k lo n : Nat} (h : lo + n ≤ k) : (a * 2 ^ k + r) / 2 ^ lo % 2 ^ n = r / 2 ^ lo % 2 ^ n := by
  obtain ⟨m, rfl⟩ := Nat.exists_eq_add_of_le h
  have hsplit : a * 2 ^ (lo + n + m) + r = r + 2 ^ lo * (2 ^ n * (a * 2 ^ m)) := by rw [Nat.pow_add, Nat.pow_add]; ring
  rw [hsplit, Nat.add_mul_div_left _ _ (Nat.two_pow_pos lo), Nat.add_mul_mod_self_left]

/-- The word of an opcode, a predicate and 23 bits of fields (R112). -/
def packed (op : Nat) (p : BitVec 3) (rest : Nat) : BitVec 32 := BitVec.ofNat 32 (op * 2 ^ 26 + p.toNat * 2 ^ 23 + rest)

theorem fld_eq_ofNat (w : BitVec 32) (lo n : Nat) : fld w lo n = BitVec.ofNat n (fldN w lo n) := BitVec.eq_of_toNat_eq (by simp [fld, fldN])

theorem fldN_opcode (w : BitVec 32) : fldN w 26 6 = w.toNat / 2 ^ 26 := by
  rw [fldN]
  omega

section Packed

variable {op rest : Nat} {p : BitVec 3} {w : BitVec 32}

theorem fldN_of {lo n k : Nat} (hw : w = packed op p rest) (h : lo + n ≤ 23 := by omega) (hk : rest / 2 ^ lo % 2 ^ n = k := by omega) :
    fldN w lo n = k := by
  subst hw
  unfold fldN packed
  rw [BitVec.toNat_ofNat, ← field_below (_ / 2 ^ 32) (_ % 2 ^ 32) (show lo + n ≤ 32 by omega), Nat.div_add_mod',
    show op * 2 ^ 26 + p.toNat * 2 ^ 23 = (op * 8 + p.toNat) * 2 ^ 23 by ring, field_below _ _ h, hk]

theorem fld_of {lo n : Nat} {v : BitVec n} (hw : w = packed op p rest) (h : lo + n ≤ 23 := by omega)
    (hv : rest / 2 ^ lo % 2 ^ n = v.toNat := by omega) : fld w lo n = v := by
  rw [fld_eq_ofNat, fldN_of hw h hv, BitVec.ofNat_toNat, BitVec.setWidth_eq]

variable (ho : op < 64) (hr : rest < 2 ^ 23)
include ho hr

theorem toNat_packed : (packed op p rest).toNat = op * 2 ^ 26 + p.toNat * 2 ^ 23 + rest := by
  rw [packed, BitVec.toNat_ofNat, Nat.mod_eq_of_lt]
  omega

theorem opcode_packed : fldN (packed op p rest) 26 6 = op := by
  rw [fldN, toNat_packed ho hr]
  omega

theorem predicate_packed : fld (packed op p rest) 23 3 = p := by
  have hp : (op * 2 ^ 26 + p.toNat * 2 ^ 23 + rest) / 2 ^ 23 % 2 ^ 3 = p.toNat := by omega
  rw [fld_eq_ofNat, fldN, toNat_packed ho hr, hp, BitVec.ofNat_toNat, BitVec.setWidth_eq]

end Packed

/-! ## Codes read back -/

theorem Rm.ofCode_code (r : Rm) : Rm.ofCode r.code = r := by cases r <;> rfl
theorem Rm.code_lt (r : Rm) : r.code < 4 := by cases r <;> decide
theorem Scope.ofCode_code (s : Scope) : Scope.ofCode s.code = s := by cases s <;> rfl
theorem Scope.code_lt (s : Scope) : s.code < 4 := by cases s <;> decide
theorem Ord.ofCode_code (o : Ord) : Ord.ofCode o.code = o := by cases o <;> rfl
theorem Ord.code_lt (o : Ord) : o.code < 4 := by cases o <;> decide
theorem LSz.ofCode_code (z : LSz) : LSz.ofCode z.code = some z := by cases z <;> rfl
theorem LSz.code_lt (z : LSz) : z.code < 8 := by cases z <;> decide
theorem SSz.ofCode_code (z : SSz) : SSz.ofCode z.code = some z := by cases z <;> rfl
theorem SSz.code_lt (z : SSz) : z.code < 8 := by cases z <;> decide
theorem VType.ofCode_code (t : VType) : VType.ofCode t.code = some t := by cases t <;> rfl
theorem VType.code_lt (t : VType) : t.code < 16 := by cases t <;> decide
theorem CvtTy.ofCode_code (t : CvtTy) : CvtTy.ofCode t.code = t := by cases t <;> rfl
theorem CvtTy.code_lt (t : CvtTy) : t.code < 8 := by cases t <;> decide
theorem FFmt.ofCode_code (f : FFmt) : FFmt.ofCode f.code = f := by cases f <;> rfl
theorem FFmt.code_lt (f : FFmt) : f.code < 2 := by cases f <;> decide
theorem CmpCond.ofCode_code (k : CmpCond) : CmpCond.ofCode k.code = some k := by cases k <;> rfl
theorem CmpCond.code_lt (k : CmpCond) : k.code < 8 := by cases k <;> decide
theorem FCond.ofCode_code (k : FCond) : FCond.ofCode k.code = some k := by cases k <;> rfl
theorem FCond.code_lt (k : FCond) : k.code < 8 := by cases k <;> decide
theorem VCond.ofCode_code (k : VCond) : VCond.ofCode k.code = some k := by cases k <;> rfl
theorem VCond.code_lt (k : VCond) : k.code < 8 := by cases k <;> decide
theorem RedOp.ofCode_code (k : RedOp) : RedOp.ofCode k.code = some k := by cases k <;> rfl
theorem RedOp.code_lt (k : RedOp) : k.code < 8 := by cases k <;> decide
theorem XTy.ofCode_code (t : XTy) : XTy.ofCode t.code = some t := by cases t <;> rfl
theorem XTy.code_lt (t : XTy) : t.code < 8 := by cases t <;> decide
theorem MSel.ofCode_code (k : MSel) : MSel.ofCode k.code = some k := by cases k <;> rfl
theorem MSel.code_lt (k : MSel) : k.code < 8 := by cases k <;> decide

theorem b2n_lt_two (t : Bool) : b2n t < 2 := by cases t <;> decide
theorem b2n_beq_one (t : Bool) : (b2n t == 1) = t := by cases t <;> rfl
theorem b2n_ne_zero (t : Bool) : (!(b2n t == 0)) = t := by cases t <;> rfl

/-! ## The bits of a lent byte -/

/-- A lent byte: trap-on-empty, negate and six bits under them (R127). -/
def lentBits (te neg : Bool) (lo : Nat) : BitVec 8 := BitVec.ofNat 8 (b2n te * 128 + b2n neg * 64 + lo)

section LentBits

variable {te neg : Bool} {lo : Nat} (hlo : lo < 64)
include hlo

theorem toNat_lentBits : (lentBits te neg lo).toNat = b2n te * 128 + b2n neg * 64 + lo := by
  have hte := b2n_lt_two te
  have hneg := b2n_lt_two neg
  rw [lentBits, BitVec.toNat_ofNat]
  omega

theorem lbit_lentBits_te : lbit (lentBits te neg lo) 7 = te := by
  have hneg := b2n_lt_two neg
  have hte : (b2n te * 128 + b2n neg * 64 + lo) / 2 ^ 7 % 2 = b2n te := by have := b2n_lt_two te; omega
  rw [lbit, toNat_lentBits hlo, hte, b2n_beq_one]

theorem lbit_lentBits_neg : lbit (lentBits te neg lo) 6 = neg := by
  have hneg : (b2n te * 128 + b2n neg * 64 + lo) / 2 ^ 6 % 2 = b2n neg := by have := b2n_lt_two neg; omega
  rw [lbit, toNat_lentBits hlo, hneg, b2n_beq_one]

/-- Below bit 6 a lent byte reads as the bits under its two flags. -/
theorem field_lentBits {j n : Nat} (h : j + n ≤ 6 := by omega) : (lentBits te neg lo).toNat / 2 ^ j % 2 ^ n = lo / 2 ^ j % 2 ^ n := by
  rw [toNat_lentBits hlo, show b2n te * 128 + b2n neg * 64 = (b2n te * 2 + b2n neg) * 2 ^ 6 by ring, field_below _ _ h]

theorem lbit_lentBits {j : Nat} (h : j + 1 ≤ 6 := by omega) : lbit (lentBits te neg lo) j = (lo / 2 ^ j % 2 == 1) :=
  congrArg (· == 1) (field_lentBits hlo h)

theorem low_lentBits : (lentBits te neg lo).toNat % 64 = lo := by
  rw [toNat_lentBits hlo]
  omega

theorem level_lentBits : BitVec.ofNat 3 ((lentBits te neg lo).toNat / 2) = BitVec.ofNat 3 (lo / 2) :=
  BitVec.eq_of_toNat_eq (by simpa using field_lentBits (te := te) (neg := neg) hlo (j := 1) (n := 3))

end LentBits

/-! ## Immediates and lengths (R123, R129) -/

/-- Under an extend header the byte's six bits stand above the word's own bits. -/
theorem dImm_extend {n : Nat} {b : BitVec 8} (v : BitVec (n + 6)) (hb : b.toNat % 64 = v.toNat / 2 ^ n) : dImm .extend b n (v.toNat % 2 ^ n) = v := by
  simp only [dImm, hb, Nat.div_add_mod', BitVec.ofNat_toNat, BitVec.setWidth_eq]

/-- Under any other header an immediate is the sign extension of the word's own bits. -/
theorem dImm_fits {n : Nat} {h : Hdr} {b : BitVec 8} {v : BitVec (n + 6)} (hh : h ≠ .extend) (hv : fits n v = true) :
    dImm h b n (v.toNat % 2 ^ n) = v := by
  have hfit : BitVec.ofInt (n + 6) (sextN (v.toNat % 2 ^ n) n) = v := by simpa [fits] using hv
  cases h with
  | extend => exact absurd rfl hh
  | none | loop | modifier | kind11 => exact hfit

theorem dLen_extend {b : BitVec 8} (v : BitVec 6) (hb : b.toNat % 64 = v.toNat / 32) : dLen .extend b (v.toNat % 32) = v := by
  have hcat : b.toNat % 2 * 32 + v.toNat % 32 = v.toNat := by omega
  simp only [dLen, hcat, BitVec.ofNat_toNat, BitVec.setWidth_eq]

theorem dLen_short {h : Hdr} {b : BitVec 8} {v : BitVec 6} (hh : h ≠ .extend) (hv : v.toNat < 32) : dLen h b (v.toNat % 32) = v := by
  have hlen : BitVec.ofNat 6 (v.toNat % 32) = v := by rw [Nat.mod_eq_of_lt hv, BitVec.ofNat_toNat, BitVec.setWidth_eq]
  cases h with
  | extend => exact absurd rfl hh
  | none | loop | modifier | kind11 => exact hlen

/-! ## What is lent reads back (R127 to R130) -/

/-- What a slot reads from a byte that lends it what `x` asks under the condition `c`. -/
structure Lent (h : Hdr) (c : Cond) (x : Lend) (b : BitVec 8) : Prop where
  cond : ∀ w, fld w 23 3 = c.p → dCond h b w = c
  rm : dRm h b = x.rm
  sat : dSat h b = x.sat
  chk : dChk h b = x.chk
  scope : x.hasScope = true → dScope h b = x.scope
  imm : ∀ {n k} (v : BitVec (n + 6)), k = v.toNat % 2 ^ n → x.ext = v.toNat / 2 ^ n → x.base = fits n v → dImm h b n k = v
  len : ∀ {k} (v : BitVec 6), k = v.toNat % 32 → x.ext = v.toNat / 32 → x.base = decide (v.toNat < 32) → dLen h b k = v
  only : x.onlyExt = true → h = .extend
  never : x.noExt = true → h ≠ .extend
  high : h = .extend → b.toNat % 64 = x.ext

/-- Nothing is asked for that only a modifier byte carries. -/
def Lend.Unmodified (x : Lend) : Prop := x.rm = .rne ∧ x.sat = false ∧ x.scope = .pk ∧ x.chk = false

section Lent

variable {h : Hdr} {c : Cond} {x : Lend} {b : BitVec 8}

theorem lent_extend (hx : x.ext < 64) (hc : c.loop = .always) (hp : x.Unmodified) (hn : x.noExt = false) :
    Lent .extend c x (lentBits c.te c.neg x.ext) := by
  obtain ⟨hrm, hsat, hsc, hchk⟩ := hp
  have hlow := low_lentBits (te := c.te) (neg := c.neg) hx
  exact {
    cond := fun w hw => by simp [dCond, hw, lbit_lentBits_te hx, lbit_lentBits_neg hx, ← hc]
    rm := hrm.symm
    sat := hsat.symm
    chk := hchk.symm
    scope := fun _ => hsc.symm
    imm := fun v hk hv _ => hk ▸ dImm_extend v (hlow.trans hv)
    len := fun v hk hv _ => hk ▸ dLen_extend v (hlow.trans hv)
    only := fun _ => rfl
    never := fun h => absurd (hn.symm.trans h) Bool.false_ne_true
    high := fun _ => hlow }

/-- Under a header other than the extend header an immediate or a length has to be its own bits. -/
theorem lent_base (hh : h ≠ .extend) (hbase : x.base = true) (hext : x.onlyExt = false)
    (cond : ∀ w, fld w 23 3 = c.p → dCond h b w = c) (rm : dRm h b = x.rm) (sat : dSat h b = x.sat) (chk : dChk h b = x.chk)
    (scope : x.hasScope = true → dScope h b = x.scope) : Lent h c x b where
  cond := cond
  rm := rm
  sat := sat
  chk := chk
  scope := scope
  imm _ hk _ hv := hk ▸ dImm_fits hh (hv.symm.trans hbase)
  len _ hk _ hv := hk ▸ dLen_short hh (of_decide_eq_true (hv.symm.trans hbase))
  only h := absurd (hext.symm.trans h) Bool.false_ne_true
  never _ := hh
  high h := absurd h hh

theorem lent_none (hc : c = ⟨c.p, false, false, .always⟩) (hp : x.Unmodified) (hbase : x.base = true) (hext : x.onlyExt = false) :
    Lent .none c x 0 := by
  obtain ⟨hrm, hsat, hsc, hchk⟩ := hp
  exact lent_base Hdr.noConfusion hbase hext (fun w hw => by rw [hc, ← hw]; rfl) hrm.symm hsat.symm hchk.symm fun _ => hsc.symm

/-- The bits of a loop flag in a lent byte. -/
def flagBits : LoopFlag → Nat
  | .always => 0
  | .first n => 32 + n.toNat * 2
  | .last n => 16 + n.toNat * 2

theorem flagBits_lt (f : LoopFlag) : flagBits f < 64 := by cases f <;> simp only [flagBits] <;> omega

theorem lent_loop (hp : x.Unmodified) (hbase : x.base = true) (hext : x.onlyExt = false) :
    Lent .loop c x (lentBits c.te c.neg (flagBits c.loop)) := by
  obtain ⟨hrm, hsat, hsc, hchk⟩ := hp
  refine lent_base Hdr.noConfusion hbase hext (fun w hw => ?_) hrm.symm hsat.symm hchk.symm fun _ => hsc.symm
  obtain ⟨p, neg, te, flag⟩ := c
  have hlo := flagBits_lt flag
  simp only [dCond, hw, lbit_lentBits_te hlo, lbit_lentBits_neg hlo, lbit_lentBits hlo (j := 5), lbit_lentBits hlo (j := 4),
    level_lentBits hlo, Cond.mk.injEq, true_and]
  cases flag with
  | always => rfl
  | first n =>
    rw [flagBits, show (32 + n.toNat * 2) / 2 ^ 5 % 2 = 1 by omega, show (32 + n.toNat * 2) / 2 = 2 * 2 ^ 3 + n.toNat by omega]
    simp [BitVec.ofNat_add]
  | last n =>
    rw [flagBits, show (16 + n.toNat * 2) / 2 ^ 5 % 2 = 0 by omega, show (16 + n.toNat * 2) / 2 ^ 4 % 2 = 1 by omega,
      show (16 + n.toNat * 2) / 2 = 1 * 2 ^ 3 + n.toNat by omega]
    simp [BitVec.ofNat_add]

/-- The modifier bits of a lent byte. -/
def modBits (x : Lend) : Nat := x.rm.code * 16 + b2n x.sat * 8 + (if x.hasScope then x.scope.code * 2 else 0) + b2n x.chk

/-- The modifier bits one by one. -/
theorem fields_modBits (x : Lend) : modBits x < 64 ∧ modBits x / 2 ^ 4 % 2 ^ 2 = x.rm.code ∧ modBits x / 2 ^ 3 % 2 = b2n x.sat
    ∧ modBits x / 2 ^ 0 % 2 = b2n x.chk ∧ (x.hasScope = true → modBits x / 2 ^ 1 % 2 ^ 2 = x.scope.code) := by
  have hrm := x.rm.code_lt
  have hscope := x.scope.code_lt
  have hsat := b2n_lt_two x.sat
  have hchk := b2n_lt_two x.chk
  unfold modBits
  cases x.hasScope with
  | false => simp only [Bool.false_eq_true, if_false, false_implies, and_true]; omega
  | true => simp only [if_true, forall_const]; omega

theorem lent_modifier (hc : c.loop = .always) (hbase : x.base = true) (hext : x.onlyExt = false) :
    Lent .modifier c x (lentBits c.te c.neg (modBits x)) := by
  obtain ⟨hlo, hrm, hsat, hchk, hscope⟩ := fields_modBits x
  refine lent_base Hdr.noConfusion hbase hext (fun w hw => ?_) ?_ ?_ ?_ fun hhas => ?_
  · simp [dCond, hw, lbit_lentBits_te hlo, lbit_lentBits_neg hlo, ← hc]
  · rw [dRm, show _ / 16 % 4 = _ from field_lentBits hlo (j := 4) (n := 2), hrm, Rm.ofCode_code]
  · rw [dSat, lbit_lentBits hlo, hsat, b2n_beq_one]
  · rw [dChk, lbit_lentBits hlo, hchk, b2n_beq_one]
  · rw [dScope, show _ / 2 % 4 = _ from field_lentBits hlo (j := 1) (n := 2), hscope hhas, Scope.ofCode_code]

/-- A byte that a header kind lends for an instruction reads back as what the instruction asks. -/
theorem lent_of_lentByte {k : Nat} (hx : x.ext < 64) (hk : lentByte h c x = some k) : Lent h c x (BitVec.ofNat 8 k) := by
  cases h with
  | none =>
    simp only [lentByte, Option.ite_none_right_eq_some, Option.some.injEq, Bool.and_eq_true, Bool.not_eq_true', beq_iff_eq] at hk
    obtain ⟨⟨⟨⟨⟨⟨hte, hneg⟩, hloop⟩, ⟨⟨hrm, hsat⟩, hsc⟩, hchk⟩, hbase⟩, hext⟩, rfl⟩ := hk
    have hc : c = ⟨c.p, false, false, .always⟩ := by rw [show c = ⟨c.p, c.neg, c.te, c.loop⟩ from rfl, hte, hneg, hloop]
    exact lent_none hc ⟨hrm, hsat, hsc, hchk⟩ hbase hext
  | extend =>
    simp only [lentByte, Option.ite_none_right_eq_some, Option.some.injEq, Bool.and_eq_true, Bool.not_eq_true', beq_iff_eq] at hk
    obtain ⟨⟨⟨hloop, ⟨⟨hrm, hsat⟩, hsc⟩, hchk⟩, hno⟩, rfl⟩ := hk
    exact lent_extend hx hloop ⟨hrm, hsat, hsc, hchk⟩ hno
  | loop =>
    simp only [lentByte, Option.ite_none_right_eq_some, Bool.and_eq_true, Bool.not_eq_true', beq_iff_eq] at hk
    obtain ⟨⟨⟨⟨⟨⟨hrm, hsat⟩, hsc⟩, hchk⟩, hbase⟩, hext⟩, hk⟩ := hk
    have hflag : k = b2n c.te * 128 + b2n c.neg * 64 + flagBits c.loop := by
      revert hk
      cases c.loop <;> simp only [Option.some.injEq, flagBits] <;> omega
    exact hflag ▸ lent_loop ⟨hrm, hsat, hsc, hchk⟩ hbase hext
  | modifier =>
    simp only [lentByte, Option.ite_none_right_eq_some, Option.some.injEq, Bool.and_eq_true, Bool.not_eq_true', beq_iff_eq] at hk
    obtain ⟨⟨⟨hloop, hbase⟩, hext⟩, rfl⟩ := hk
    have hmod := lent_modifier hloop hbase hext
    rwa [lentBits, modBits, ← Nat.add_assoc, ← Nat.add_assoc, ← Nat.add_assoc] at hmod
  | kind11 => cases hk

end Lent

end Sys2Proof

end

section
/-! The decoder undoes the encoder: what each format's fields read, one lemma for each slot's table, and the round trip of O8. -/

namespace Sys2Proof

/-! ## A slot's table -/

/-- What the table of a slot makes of a word (R141 to R144). -/
def tableOf (slot : Slot) (h : Hdr) (b : BitVec 8) (w : BitVec 32) : Option Instr :=
  match slot with
  | .c => decodeC w
  | .s => decodeS h b w
  | .v => decodeV h b w
  | .m => decodeM h b w

theorem opListed_zero (slot : Slot) : opListed slot 0 = false := by cases slot <;> rfl

theorem decodeSlot_listed {slot : Slot} {w : BitVec 32} (hl : opListed slot (fldN w 26 6) = true) (h : Hdr) (b : BitVec 8) :
    decodeSlot slot h b w = orField slot w (tableOf slot h b w) := by
  have hw : (w == 0) = false := by
    refine beq_false_of_ne fun h0 => ?_
    subst h0
    exact Bool.false_ne_true ((opListed_zero slot).symm.trans hl)
  cases slot <;> simp only [decodeSlot, hw, hl, tableOf, Bool.false_eq_true, if_false, if_true]

/-- Decoding an encoding gives `i` back. -/
def ReadsBack (h : Hdr) (i : Instr) (o : Option Enc) : Prop := ∀ e, o = some e → decodeSlot e.slot h e.byte e.word = i

theorem opListed_lt {slot : Slot} {op : Nat} (hl : opListed slot op = true) : op < 64 := by
  cases slot <;> simp only [opListed, decide_eq_true_eq] at hl <;> omega

theorem decodeSlot_packed {slot : Slot} {op : Nat} {p : BitVec 3} {rest : Nat} {h : Hdr} {b : BitVec 8} {i : Instr} (hl : opListed slot op = true)
    (hr : rest < 2 ^ 23) (hd : fldN (packed op p rest) 26 6 = op → tableOf slot h b (packed op p rest) = some i) :
    decodeSlot slot h b (packed op p rest) = i := by
  have hop : fldN (packed op p rest) 26 6 = op := opcode_packed (opListed_lt hl) hr
  rw [decodeSlot_listed (hop.symm ▸ hl), hd hop, orField]

section ReadsBack

variable {h : Hdr} {slot : Slot} {op rest : Nat} {p : BitVec 3} {c : Cond} {x : Lend} {i : Instr}

/-- An instruction of the S-, V- or M-slot reads back where its slot's table reads it from its fields and from what is lent. -/
theorem readsBack_mk
    (hd : ∀ b w, w = packed op c.p rest → fldN w 26 6 = op → dCond h b w = c → Lent h c x b → tableOf slot h b w = some i)
    (hl : opListed slot op = true := by rfl) (hr : rest < 2 ^ 23 := by omega) (hx : x.ext < 64 := by exact Nat.zero_lt_succ _) :
    ReadsBack h i (mk slot op c.p rest (lentByte h c x)) := by
  intro e he
  obtain ⟨k, hk, rfl⟩ := Option.map_eq_some_iff.mp he
  have hlent := lent_of_lentByte hx hk
  exact decodeSlot_packed hl hr fun hop => hd _ _ rfl hop (hlent.cond _ (predicate_packed (opListed_lt hl) hr)) hlent

/-- A C-slot word is lent nothing (R141, R146). -/
theorem readsBack_encC (hd : ∀ w, w = packed op p rest → fldN w 26 6 = op → fld w 23 3 = p → decodeC w = some i)
    (hl : opListed .c op = true := by rfl) (hr : rest < 2 ^ 23 := by omega) : ReadsBack h i (encC h op p rest) := by
  intro e he
  simp only [encC, mk, Option.map_some, Option.ite_none_right_eq_some, Option.some.injEq] at he
  obtain ⟨-, rfl⟩ := he
  exact decodeSlot_packed hl hr fun hop => hd _ rfl hop (predicate_packed (opListed_lt hl) hr)

end ReadsBack

/-! ## The fields of each format (R112, R141 to R144) -/

section Fields

variable {op rest : Nat} {p : BitVec 3} {w : BitVec 32}

theorem fields_cR {sd sa sb : BitVec 6} {aa : BitVec 4} (hw : w = packed op p (fCR sd sa sb aa)) :
    fld w 17 6 = sd ∧ fld w 11 6 = sa ∧ fld w 5 6 = sb ∧ fld w 1 4 = aa ∧ fldN w 17 6 = sd.toNat ∧ fldN w 11 6 = sa.toNat
      ∧ fldN w 5 6 = sb.toNat ∧ fldN w 1 4 = aa.toNat ∧ fldN w 0 1 = 0 := by
  unfold fCR at hw
  exact ⟨fld_of hw, fld_of hw, fld_of hw, fld_of hw, fldN_of hw, fldN_of hw, fldN_of hw, fldN_of hw, fldN_of hw⟩

theorem fields_sR {sd sa sb : BitVec 6} {func : Nat} (hw : w = packed op p (sd.toNat * 2 ^ 17 + sa.toNat * 2 ^ 11 + sb.toNat * 2 ^ 5 + func))
    (hf : func < 2 ^ 5) : fld w 17 6 = sd ∧ fld w 11 6 = sa ∧ fld w 5 6 = sb ∧ fldN w 0 5 = func :=
  ⟨fld_of hw, fld_of hw, fld_of hw, fldN_of hw⟩

theorem fields_sC {pd : BitVec 3} {sa sb : BitVec 6} {cond : Nat}
    (hw : w = packed op p (pd.toNat * 2 ^ 20 + sa.toNat * 2 ^ 11 + sb.toNat * 2 ^ 5 + cond)) (hf : cond < 2 ^ 5) :
    fld w 20 3 = pd ∧ fldN w 17 3 = 0 ∧ fld w 11 6 = sa ∧ fld w 5 6 = sb ∧ fldN w 0 5 = cond :=
  ⟨fld_of hw, fldN_of hw, fld_of hw, fld_of hw, fldN_of hw⟩

theorem fields_sI {sd sa : BitVec 6} {lo : Nat} (hw : w = packed op p (sd.toNat * 2 ^ 17 + sa.toNat * 2 ^ 11 + lo)) (hlo : lo < 2 ^ 11) :
    fld w 17 6 = sd ∧ fld w 11 6 = sa :=
  ⟨fld_of hw, fld_of hw⟩

theorem fields_vR {vd va vb : BitVec 5} {t func : Nat}
    (hw : w = packed op p (vd.toNat * 2 ^ 18 + va.toNat * 2 ^ 13 + vb.toNat * 2 ^ 8 + t * 2 ^ 4 + func)) (ht : t < 2 ^ 4) (hf : func < 2 ^ 4) :
    fld w 18 5 = vd ∧ fld w 13 5 = va ∧ fld w 8 5 = vb ∧ fldN w 18 5 = vd.toNat ∧ fldN w 13 5 = va.toNat ∧ fldN w 8 5 = vb.toNat
      ∧ fldN w 4 4 = t ∧ fldN w 0 4 = func :=
  ⟨fld_of hw, fld_of hw, fld_of hw, fldN_of hw, fldN_of hw, fldN_of hw, fldN_of hw, fldN_of hw⟩

theorem fields_vX {v : BitVec 5} {s : BitVec 6} {t lane : Nat}
    (hw : w = packed op p (v.toNat * 2 ^ 18 + s.toNat * 2 ^ 12 + t * 2 ^ 8 + lane * 2 ^ 3)) (ht : t < 2 ^ 4) (hl : lane < 2 ^ 5) :
    fld w 18 5 = v ∧ fldN w 18 5 = v.toNat ∧ fld w 12 6 = s ∧ fldN w 8 4 = t ∧ fldN w 3 5 = lane ∧ fldN w 0 3 = 0 :=
  ⟨fld_of hw, fldN_of hw, fld_of hw, fldN_of hw, fldN_of hw, fldN_of hw⟩

theorem fields_vM {data size lo : Nat} {a : BitVec 4} (hw : w = packed op p (data * 2 ^ 17 + a.toNat * 2 ^ 13 + size * 2 ^ 10 + lo))
    (hs : size < 2 ^ 3) (hl : lo < 2 ^ 8) : fld w 13 4 = a ∧ fldN w 10 3 = size ∧ fldN w 8 2 = 0 :=
  ⟨fld_of hw, fldN_of hw, fldN_of hw⟩

theorem fields_mM {data size o lo : Nat} {a : BitVec 4} (hw : w = packed op p (data * 2 ^ 17 + a.toNat * 2 ^ 13 + size * 2 ^ 10 + o * 2 ^ 8 + lo))
    (hs : size < 2 ^ 3) (ho : o < 2 ^ 2) (hl : lo < 2 ^ 8) :
    fld w 13 4 = a ∧ fldN w 10 3 = size ∧ fldN w 8 2 = o :=
  ⟨fld_of hw, fldN_of hw, fldN_of hw⟩

theorem fields_mQ {data size o lo : Nat} {a : BitVec 4} {q : BitVec 3}
    (hw : w = packed op p (data * 2 ^ 17 + a.toNat * 2 ^ 13 + size * 2 ^ 10 + o * 2 ^ 8 + q.toNat * 2 ^ 5 + lo)) (hs : size < 2 ^ 3) (ho : o < 2 ^ 2)
    (hl : lo < 2 ^ 5) : fld w 13 4 = a ∧ fldN w 10 3 = size ∧ fldN w 8 2 = o ∧ fld w 5 3 = q :=
  ⟨fld_of hw, fldN_of hw, fldN_of hw, fld_of hw⟩

theorem fields_mA {size o : Nat} {d sb : BitVec 6} {a : BitVec 4}
    (hw : w = packed op p (d.toNat * 2 ^ 17 + a.toNat * 2 ^ 13 + size * 2 ^ 10 + o * 2 ^ 8 + sb.toNat * 2 ^ 2)) (hs : size < 2 ^ 3) (ho : o < 2 ^ 2) :
    fld w 17 6 = d ∧ fldN w 17 6 = d.toNat ∧ fld w 13 4 = a ∧ fldN w 10 3 = size ∧ fldN w 8 2 = o ∧ fld w 2 6 = sb ∧ fldN w 0 2 = 0 :=
  ⟨fld_of hw, fldN_of hw, fld_of hw, fldN_of hw, fldN_of hw, fld_of hw, fldN_of hw⟩

theorem fields_mE {a : BitVec 4} {cn : BitVec 3} {x y flags : Nat}
    (hw : w = packed op p (a.toNat * 2 ^ 19 + cn.toNat * 2 ^ 16 + x * 2 ^ 13 + y * 2 ^ 10 + flags)) (hx : x < 2 ^ 3) (hy : y < 2 ^ 3)
    (hf : flags < 2 ^ 10) : fld w 19 4 = a ∧ fld w 16 3 = cn :=
  ⟨fld_of hw, fld_of hw⟩

end Fields

theorem w8size_lt (w8 : Bool) : w8size w8 < 2 ^ 3 := by cases w8 <;> decide

/-- The slot in whose table an instruction stands (R141 to R144); none for NOP, which stands in each, and for the machine's own steps. -/
def rowSlot : Instr → Option Slot
  | .br .. | .bri .. | .call .. | .calli .. | .ret .. | .bmz .. | .bsel .. | .loop .. | .lexit .. | .wait .. | .wquiet .. | .yield .. | .spawn ..
  | .done .. | .pont .. | .commit .. | .abort .. | .svc .. | .trap .. | .brk .. | .mfc .. | .mtc .. | .tbar .. | .permit .. => some .c
  | .add .. | .sub .. | .and .. | .or .. | .xor .. | .andn .. | .shl .. | .shr .. | .sar .. | .mul .. | .mulh .. | .mulhu .. | .div .. | .divu ..
  | .rem .. | .remu .. | .min .. | .max .. | .minu .. | .maxu .. | .cmp .. | .sel .. | .addi .. | .andi .. | .ori .. | .xori .. | .shli .. | .shri ..
  | .sari .. | .li .. | .lih .. | .clz .. | .popc .. | .ext .. | .ins .. | .lea .. | .leai .. | .amovSToA .. | .amovAToS .. | .plog .. | .widf ..
  | .widfTeam .. | .widfRank .. | .fadd .. | .fsub .. | .fmul .. | .ffma .. | .fmin .. | .fmax .. | .fcmp .. | .fcvt .. => some .s
  | .vadd .. | .vsub .. | .vmul .. | .vfma .. | .vmin .. | .vmax .. | .vand .. | .vor .. | .vxor .. | .vshl .. | .vshr .. | .vsar .. | .vabs ..
  | .vneg .. | .vcvt .. | .vcmp .. | .vsel .. | .vred .. | .vbcast .. | .vext .. | .vins .. | .vperm .. | .vexp2 .. | .vrcp .. | .vrsq .. | .vamax ..
  | .kpush .. | .kinv .. | .kpop .. | .ktop .. | .vld .. | .vst .. | .vlds .. | .vsts .. | .vgth .. | .vsct .. | .ldl .. | .stl .. | .viota ..
  | .viotaRank .. => some .v
  | .ld .. | .st .. | .ldv .. | .stv .. | .qld .. | .qvld .. | .qpop .. | .qst .. | .qvst .. | .atadd .. | .atand .. | .ator .. | .atxor ..
  | .atmin .. | .atmax .. | .atswp .. | .atcas .. | .atincw .. | .atbadd .. | .atfadd .. | .sinit .. | .sarv .. | .bfacq .. | .bfrel .. | .gcopy ..
  | .mnest .. | .mprec .. | .mwld .. | .mma .. | .mdrn .. | .mpert .. | .mstat .. | .xsend .. | .xst .. | .xld .. | .xred .. => some .m
  | _ => none

theorem readsBack_lih {h : Hdr} {c : Cond} {ext : Bool} {sd : BitVec 6} {imm : BitVec 22} (hf : fieldsOk (.lih c ext sd imm) = true) :
    ReadsBack h (.lih c ext sd imm) (encodeSlot h (.lih c ext sd imm)) := by
  simp only [fieldsOk, Bool.and_eq_true, Bool.or_eq_true, decide_eq_true_eq] at hf
  refine readsBack_mk (hx := by simp only; omega) fun b w hw hop hc hb => ?_
  have hd : fld w 17 6 = sd := fld_of hw
  have hz : fldN w 16 1 = 0 := fldN_of hw
  have hlo : fldN w 0 16 = imm.toNat % 2 ^ 16 := fldN_of hw
  cases ext with
  | true =>
    obtain rfl := hb.only rfl
    have hval : b.toNat % 64 * 2 ^ 16 + fldN w 0 16 = imm.toNat := by rw [hb.high rfl, hlo, Nat.div_add_mod']
    rw [hlo] at hval
    simp only [tableOf, decodeS, hop, hc, hlo, guardF, hd, hz, hval, beq_self_eq_true, if_true, BitVec.ofNat_toNat, BitVec.setWidth_eq]
  | false =>
    have hh : (h == .extend) = false := beq_false_of_ne (hb.never rfl)
    have hval : fldN w 0 16 = imm.toNat := hlo.trans (Nat.mod_eq_of_lt (by simpa using hf.2))
    simp [tableOf, decodeS, hop, hc, guardF, hd, hz, hh, hval]

/-- Every instruction of the C-slot's table reads back. -/
theorem readsBack_c (h : Hdr) {i : Instr} (hi : rowSlot i = some .c) (hf : fieldsOk i = true) : ReadsBack h i (encodeSlot h i) := by
  cases i with
  | br p d | call p d | bmz p d | pont p d =>
    exact readsBack_encC fun w hw hop hp => by
      simp [decodeC, hop, hp, show fld w 0 23 = d from fld_of hw]
  | ret p | lexit p | yield p | done p | commit p | abort p | tbar p =>
    exact readsBack_encC fun w hw hop hp => by
      simp [decodeC, hop, hp, guardF, show fldN w 0 23 = 0 from fldN_of hw]
  | bri p sb aa | calli p sb aa | loop p aR | bsel p sd sa aT | wait p sd aB | spawn p sd sW sP aE =>
    exact readsBack_encC (hr := by unfold fCR; omega) fun w hw hop hp => by simp [decodeC, hop, hp, guardF, fields_cR hw]
  | wquiet p sd sT =>
    exact readsBack_encC (hr := by unfold fCR; omega) fun w hw hop hp => by
      simp [decodeC, hop, hp, guardF, fields_cR hw, show fldN w 0 11 = 0 from fldN_of hw (hk := by simp [fCR]; omega)]
  | svc p n | trap p n | brk p n =>
    exact readsBack_encC fun w hw hop hp => by
      simp [decodeC, hop, hp, guardF, show fldN w 16 7 = 0 from fldN_of hw, show fld w 0 16 = n from fld_of hw]
  | mfc p sd creg =>
    exact readsBack_encC fun w hw hop hp => by
      simp [decodeC, hop, hp, guardF, show fldN w 12 5 = 0 from fldN_of hw,
        show fld w 17 6 = sd from fld_of hw, show fld w 0 12 = creg from fld_of hw]
  | mtc p creg sS =>
    exact readsBack_encC fun w hw hop hp => by
      simp [decodeC, hop, hp, guardF, show fldN w 12 5 = 0 from fldN_of hw,
        show fld w 17 6 = sS from fld_of hw, show fld w 0 12 = creg from fld_of hw]
  | permit p mask =>
    have hne : mask ≠ 0 := by simpa [fieldsOk] using hf
    have hmask : mask.toNat ≠ 0 := fun h0 => hne (BitVec.eq_of_toNat_eq (y := 0) h0)
    exact readsBack_encC fun w hw hop hp => by
      simp [decodeC, hop, hp, guardF, hmask, show fldN w 4 19 = 0 from fldN_of hw,
        show fldN w 0 4 = mask.toNat from fldN_of hw, show fld w 0 4 = mask from fld_of hw]
  | _ => cases hi

/-- Every instruction of the S-slot's table reads back. -/
theorem readsBack_s (h : Hdr) {i : Instr} (hi : rowSlot i = some .s) (hf : fieldsOk i = true) : ReadsBack h i (encodeSlot h i) := by
  cases i with
  | add c sd sa sb | sub c sd sa sb | and c sd sa sb | or c sd sa sb | xor c sd sa sb | andn c sd sa sb | shl c sd sa sb | shr c sd sa sb
  | sar c sd sa sb | mul c sd sa sb | mulh c sd sa sb | mulhu c sd sa sb | div c sd sa sb | divu c sd sa sb | rem c sd sa sb
  | remu c sd sa sb | min c sd sa sb | max c sd sa sb | minu c sd sa sb | maxu c sd sa sb =>
    exact readsBack_mk fun b w hw hop hc hb => by simp [tableOf, decodeS, hop, hc, fields_sR hw (by decide), guardF]
  | addi c sd sa imm | andi c sd sa imm | ori c sd sa imm | xori c sd sa imm =>
    exact readsBack_mk (hx := by simp only [immLend]; omega) fun b w hw hop hc hb => by
      obtain ⟨hd, ha⟩ := fields_sI hw (by omega)
      have himm : dImm h b 11 (fldN w 0 11) = imm := hb.imm imm (fldN_of hw) rfl rfl
      simp [tableOf, decodeS, hop, hc, hd, ha, himm]
  | cmp c k pd sa sb =>
    exact readsBack_mk (hr := by have := k.code_lt; omega) fun b w hw hop hc hb => by
      simp [tableOf, decodeS, hop, hc, fields_sC hw (k.code_lt.trans (by decide)), CmpCond.ofCode_code]
  | sel c sd sa sb pc =>
    exact readsBack_mk fun b w hw hop hc hb => by
      simp [tableOf, decodeS, hop, hc, fields_sR hw (by omega), guardF, show fld w 0 3 = pc from fld_of hw, show fldN w 3 2 = 0 from fldN_of hw]
  | shli c sd sa sh | shri c sd sa sh | sari c sd sa sh =>
    exact readsBack_mk fun b w hw hop hc hb => by
      simp [tableOf, decodeS, hop, hc, fields_sI hw (by omega), guardF, show fld w 0 6 = sh from fld_of hw, show fldN w 6 5 = 0 from fldN_of hw]
  | li c sd imm =>
    exact readsBack_mk (hx := by simp only [immLend]; omega) fun b w hw hop hc hb => by
      have himm : dImm h b 16 (fldN w 0 16) = imm := hb.imm imm (fldN_of hw) rfl rfl
      simp [tableOf, decodeS, hop, hc, himm, guardF, show fld w 17 6 = sd from fld_of hw, show fldN w 16 1 = 0 from fldN_of hw]
  | lih c ext sd imm => exact readsBack_lih hf
  | clz c sd sa | popc c sd sa =>
    exact readsBack_mk (hr := by simp; omega) fun b w hw hop hc hb => by
      simp [tableOf, decodeS, hop, hc, fields_sR hw (by decide), guardF, show fldN w 0 11 = 0 from fldN_of hw (hk := by simp; omega)]
  | ext c sd sa pos len | ins c sd sa pos len =>
    simp only [fieldsOk, Bool.and_eq_true, decide_eq_true_eq] at hf
    exact readsBack_mk (hx := by simp only; omega) fun b w hw hop hc hb => by
      obtain ⟨hd, ha, hpos, -⟩ := fields_sR hw (by omega)
      have hlen : dLen h b (fldN w 0 5) = len := hb.len len (fldN_of hw) rfl rfl
      simp [tableOf, decodeS, hop, hc, hd, ha, hpos, hlen, guardF, hf.2, show fldN w 5 6 = pos.toNat from fldN_of hw]
  | lea c ad aa sb sh =>
    exact readsBack_mk fun b w hw hop hc hb => by
      simp [tableOf, decodeS, hop, hc, guardF, show fldN w 0 6 = 0 from fldN_of hw,
        show fld w 19 4 = ad from fld_of hw, show fld w 15 4 = aa from fld_of hw,
        show fld w 9 6 = sb from fld_of hw, show fld w 6 3 = sh from fld_of hw]
  | leai c ad aa imm =>
    exact readsBack_mk (hx := by simp only [immLend]; omega) fun b w hw hop hc hb => by
      have himm : dImm h b 15 (fldN w 0 15) = imm := hb.imm imm (fldN_of hw) rfl rfl
      simp [tableOf, decodeS, hop, hc, himm, show fld w 19 4 = ad from fld_of hw, show fld w 15 4 = aa from fld_of hw]
  | amovSToA c ad sS =>
    exact readsBack_mk fun b w hw hop hc hb => by
      simp [tableOf, decodeS, hop, hc, show fldN w 0 12 = 0 from fldN_of hw,
        show fldN w 12 1 = 0 from fldN_of hw, show fld w 17 6 = sS from fld_of hw, show fld w 13 4 = ad from fld_of hw]
  | amovAToS c sd aa =>
    exact readsBack_mk fun b w hw hop hc hb => by
      simp [tableOf, decodeS, hop, hc, show fldN w 0 12 = 0 from fldN_of hw,
        show fldN w 12 1 = 1 from fldN_of hw, show fld w 17 6 = sd from fld_of hw, show fld w 13 4 = aa from fld_of hw]
  | plog c pd pa pb tt =>
    exact readsBack_mk fun b w hw hop hc hb => by
      simp [tableOf, decodeS, hop, hc, guardF, show fldN w 4 10 = 0 from fldN_of hw,
        show fld w 20 3 = pd from fld_of hw, show fld w 17 3 = pa from fld_of hw,
        show fld w 14 3 = pb from fld_of hw, show fld w 0 4 = tt from fld_of hw]
  | widf c sd sa n =>
    exact readsBack_mk fun b w hw hop hc hb => by
      simp [tableOf, decodeS, hop, hc, fields_sI hw (by omega), show fldN w 5 6 = 0 from fldN_of hw,
        show fldN w 3 2 = 0 from fldN_of hw, show fld w 0 3 = n from fld_of hw]
  | widfTeam c sd sa =>
    exact readsBack_mk fun b w hw hop hc hb => by
      simp [tableOf, decodeS, hop, hc, fields_sI hw (by decide), guardF, show fldN w 5 6 = 0 from fldN_of hw,
        show fldN w 3 2 = 1 from fldN_of hw, show fldN w 0 3 = 0 from fldN_of hw]
  | widfRank c sd sa =>
    exact readsBack_mk fun b w hw hop hc hb => by
      simp [tableOf, decodeS, hop, hc, fields_sI hw (by decide), guardF, show fldN w 5 6 = 0 from fldN_of hw,
        show fldN w 3 2 = 2 from fldN_of hw, show fldN w 0 3 = 0 from fldN_of hw]
  | fadd c f rm sd sa sb | fsub c f rm sd sa sb | fmul c f rm sd sa sb | ffma c f rm sd sa sb =>
    have hcode := f.code_lt
    exact readsBack_mk fun b w hw hop hc hb => by
      simp [tableOf, decodeS, hop, hc, hb.rm, fields_sR hw (by omega), guardF, show fldN w 1 4 = 0 from fldN_of hw,
        show fldN w 0 1 = f.code from fldN_of hw, FFmt.ofCode_code]
  | fmin c f sd sa sb | fmax c f sd sa sb =>
    have hcode := f.code_lt
    exact readsBack_mk fun b w hw hop hc hb => by
      simp [tableOf, decodeS, hop, hc, fields_sR hw (by omega), guardF, show fldN w 1 4 = 0 from fldN_of hw,
        show fldN w 0 1 = f.code from fldN_of hw, FFmt.ofCode_code]
  | fcmp c k f pd sa sb =>
    have hf := f.code_lt
    have hk := k.code_lt
    exact readsBack_mk fun b w hw hop hc hb => by
      simp [tableOf, decodeS, hop, hc, fields_sC hw (by omega), show fldN w 4 1 = 0 from fldN_of hw,
        show fldN w 0 3 = k.code from fldN_of hw, show fldN w 3 1 = f.code from fldN_of hw,
        FFmt.ofCode_code, FCond.ofCode_code]
  | fcvt c dst src rm sat sd sa =>
    have hdst := dst.code_lt
    have hsrc := src.code_lt
    simp only [fieldsOk, Bool.and_eq_true] at hf
    exact readsBack_mk fun b w hw hop hc hb => by
      simp only [tableOf, decodeS, hop, hc, hb.rm, hb.sat, fields_sI hw (by omega), guardF, show fldN w 0 5 = 0 from fldN_of hw,
        show fldN w 8 3 = dst.code from fldN_of hw, show fldN w 5 3 = src.code from fldN_of hw,
        CvtTy.ofCode_code, hf, beq_self_eq_true, Bool.and_self, if_true]
  | _ => cases hi

/-- Every instruction of the V-slot's table reads back. -/
theorem readsBack_v (h : Hdr) {i : Instr} (hi : rowSlot i = some .v) (hf : fieldsOk i = true) : ReadsBack h i (encodeSlot h i) := by
  cases i with
  | vadd c t rm sat vd va vb | vsub c t rm sat vd va vb | vmul c t rm sat vd va vb | vfma c t rm sat vd va vb =>
    have ht := t.code_lt
    exact readsBack_mk fun b w hw hop hc hb => by
      simp [tableOf, decodeV, hop, hc, hb.rm, hb.sat, fields_vR hw ht (by decide), VType.ofCode_code]
  | vmin c t vd va vb | vmax c t vd va vb | vand c t vd va vb | vor c t vd va vb | vxor c t vd va vb | vsel c t vd va vb =>
    have ht := t.code_lt
    exact readsBack_mk fun b w hw hop hc hb => by
      simp [tableOf, decodeV, hop, hc, fields_vR hw ht (by decide), VType.ofCode_code]
  | vshl c t vd va vb | vshr c t vd va vb | vsar c t vd va vb =>
    have ht := t.code_lt
    simp only [fieldsOk, Bool.and_eq_true] at hf
    exact readsBack_mk fun b w hw hop hc hb => by
      simp [tableOf, decodeV, hop, hc, fields_vR hw ht (by decide), VType.ofCode_code, hf.2]
  | vabs c t sat vd va | vneg c t sat vd va =>
    have ht := t.code_lt
    exact readsBack_mk (hr := by simp; omega) fun b w hw hop hc hb => by
      simp [tableOf, decodeV, hop, hc, hb.sat, fields_vR hw ht (by decide), VType.ofCode_code]
  | vcvt c dst src rm sat vd va hp =>
    have hdst := dst.code_lt
    have hsrc := src.code_lt
    simp only [fieldsOk, Bool.and_eq_true] at hf
    exact readsBack_mk fun b w hw hop hc hb => by
      simp [tableOf, decodeV, hop, hc, hb.rm, hb.sat, fields_vR hw hdst hsrc, VType.ofCode_code, guardF, hf]
  | vcmp c k t vd va vb =>
    have ht := t.code_lt
    have hk := k.code_lt
    simp only [fieldsOk, Bool.and_eq_true] at hf
    exact readsBack_mk fun b w hw hop hc hb => by
      simp only [tableOf, decodeV, hop, hc, fields_vR hw ht (by omega), VType.ofCode_code, VCond.ofCode_code, guardF, hf.2, if_true]
  | vred c k t rm sat vd va =>
    have ht := t.code_lt
    have hk := k.code_lt
    simp only [fieldsOk, Bool.and_eq_true] at hf
    exact readsBack_mk (hr := by simp; omega) fun b w hw hop hc hb => by
      simp only [tableOf, decodeV, hop, hc, hb.rm, hb.sat, fields_vR hw ht (by omega), VType.ofCode_code, RedOp.ofCode_code, guardF, hf]
      rfl
  | vbcast c t vd sS =>
    have ht := t.code_lt
    exact readsBack_mk fun b w hw hop hc hb => by
      simp [tableOf, decodeV, hop, hc, fields_vX hw ht (by decide), VType.ofCode_code, guardF, show fldN w 0 8 = 0 from fldN_of hw]
  | vext c t sd va lane =>
    have ht := t.code_lt
    simp only [fieldsOk, Bool.and_eq_true] at hf
    exact readsBack_mk fun b w hw hop hc hb => by
      simp only [tableOf, decodeV, hop, hc, fields_vX hw ht (by omega), VType.ofCode_code, Option.bind_some, guardF, hf,
        show fld w 3 5 = lane from fld_of hw]
      rfl
  | vins c t vd sS lane =>
    have ht := t.code_lt
    simp only [fieldsOk, Bool.and_eq_true] at hf
    exact readsBack_mk fun b w hw hop hc hb => by
      simp only [tableOf, decodeV, hop, hc, fields_vX hw ht (by omega), VType.ofCode_code, Option.bind_some, guardF, hf,
        show fld w 3 5 = lane from fld_of hw]
      rfl
  | vperm c vd va vb =>
    exact readsBack_mk fun b w hw hop hc hb => by
      simp [tableOf, decodeV, hop, hc, fields_vR hw (by decide) (by decide), VType.ofCode]
  | vexp2 c t rm vd va | vrcp c t rm vd va | vrsq c t rm vd va =>
    have ht := t.code_lt
    simp only [fieldsOk, Bool.and_eq_true] at hf
    exact readsBack_mk (hr := by simp; omega) fun b w hw hop hc hb => by
      simp [tableOf, decodeV, hop, hc, hb.rm, fields_vR hw ht (by decide), VType.ofCode_code, hf.2]
  | vamax c pk va =>
    exact readsBack_mk (hr := by simp; omega) fun b w hw hop hc hb => by
      simp [tableOf, decodeV, hop, hc, fields_vR hw (by decide) (by decide), VType.ofCode,
        show fld w 18 3 = pk from fld_of hw (hv := by simp; omega), show fldN w 21 2 = 0 from fldN_of hw (hk := by simp; omega)]
  | kpush c va =>
    exact readsBack_mk (hr := by simp; omega) fun b w hw hop hc hb => by
      simp [tableOf, decodeV, hop, hc, fields_vR hw (by decide) (by decide), guardF, show fldN w 0 13 = 0 from fldN_of hw (hk := by simp)]
  | kinv c | kpop c =>
    exact readsBack_mk (hr := by decide) fun b w hw hop hc hb => by
      simp [tableOf, decodeV, hop, hc, guardF, show fldN w 0 23 = 0 from fldN_of hw (hk := by decide)]
  | ktop c sd =>
    exact readsBack_mk (hr := by simp; omega) fun b w hw hop hc hb => by
      simp [tableOf, decodeV, hop, hc, fields_vX hw (by decide) (by decide), guardF, show fldN w 0 12 = 0 from fldN_of hw (hk := by simp)]
  | vld c chk vd a imm =>
    exact readsBack_mk (hx := by simp only [immLend]; omega) fun b w hw hop hc hb => by
      obtain ⟨ha, hsz, hz⟩ := fields_vM hw (by decide) (by omega)
      have himm : dImm h b 8 (fldN w 0 8) = imm := hb.imm imm (fldN_of hw) rfl rfl
      simp [tableOf, decodeV, hop, hc, hb.chk, ha, hsz, hz, himm, guardF, show fld w 17 5 = vd from fld_of hw, show fldN w 22 1 = 0 from fldN_of hw]
  | vst c vs a imm =>
    exact readsBack_mk (hx := by simp only [immLend]; omega) fun b w hw hop hc hb => by
      obtain ⟨ha, hsz, hz⟩ := fields_vM hw (by decide) (by omega)
      have himm : dImm h b 8 (fldN w 0 8) = imm := hb.imm imm (fldN_of hw) rfl rfl
      simp [tableOf, decodeV, hop, hc, ha, hsz, hz, himm, guardF, show fld w 17 5 = vs from fld_of hw, show fldN w 22 1 = 0 from fldN_of hw]
  | ldl c sz chk sd a imm =>
    have hs := sz.code_lt
    exact readsBack_mk (hx := by simp only [immLend]; omega) fun b w hw hop hc hb => by
      obtain ⟨ha, hsz, hz⟩ := fields_vM hw hs (by omega)
      have himm : dImm h b 8 (fldN w 0 8) = imm := hb.imm imm (fldN_of hw) rfl rfl
      simp [tableOf, decodeV, hop, hc, hb.chk, ha, hsz, hz, himm, LSz.ofCode_code, show fld w 17 6 = sd from fld_of hw]
  | stl c sz sS a imm =>
    have hs := sz.code_lt
    exact readsBack_mk (hx := by simp only [immLend]; omega) fun b w hw hop hc hb => by
      obtain ⟨ha, hsz, hz⟩ := fields_vM hw hs (by omega)
      have himm : dImm h b 8 (fldN w 0 8) = imm := hb.imm imm (fldN_of hw) rfl rfl
      simp [tableOf, decodeV, hop, hc, ha, hsz, hz, himm, SSz.ofCode_code, show fld w 17 6 = sS from fld_of hw]
  | vlds c v a sS | vsts c v a sS =>
    exact readsBack_mk fun b w hw hop hc hb => by
      simp [tableOf, decodeV, hop, hc, guardF, show fldN w 22 1 = 0 from fldN_of hw,
        show fldN w 0 7 = 0 from fldN_of hw, show fld w 17 5 = v from fld_of hw,
        show fld w 13 4 = a from fld_of hw, show fld w 7 6 = sS from fld_of hw]
  | vgth c v a vb | vsct c v a vb =>
    exact readsBack_mk fun b w hw hop hc hb => by
      simp [tableOf, decodeV, hop, hc, guardF, show fldN w 22 1 = 0 from fldN_of hw,
        show fldN w 0 8 = 0 from fldN_of hw, show fld w 17 5 = v from fld_of hw,
        show fld w 13 4 = a from fld_of hw, show fld w 8 5 = vb from fld_of hw]
  | viota c t vd =>
    have ht := t.code_lt
    simp only [fieldsOk, Bool.and_eq_true] at hf
    exact readsBack_mk (hr := by simp; omega) fun b w hw hop hc hb => by
      simp [tableOf, decodeV, hop, hc, fields_vR hw ht (by decide), VType.ofCode_code, guardF, hf.2,
        show fldN w 8 10 = 0 from fldN_of hw (hk := by simp; omega)]
  | viotaRank c t vd =>
    have ht := t.code_lt
    simp only [fieldsOk, Bool.and_eq_true] at hf
    exact readsBack_mk (hr := by simp; omega) fun b w hw hop hc hb => by
      simp only [tableOf, decodeV, hop, hc, fields_vR hw ht (by decide), VType.ofCode_code, guardF, hf,
        show fldN w 8 10 = 0 from fldN_of hw (hk := by simp; omega)]
      rfl
  | _ => cases hi

/-- Every instruction of the M-slot's table reads back. -/
theorem readsBack_m (h : Hdr) {i : Instr} (hi : rowSlot i = some .m) (hf : fieldsOk i = true) : ReadsBack h i (encodeSlot h i) := by
  cases i with
  | ld c sz o sc chk sd a imm =>
    have hs := sz.code_lt
    have ho := o.code_lt
    exact readsBack_mk (hx := by simp only [immLend]; omega) fun b w hw hop hc hb => by
      obtain ⟨ha, hsz, hord⟩ := fields_mM hw hs ho (by omega)
      have himm : dImm h b 8 (fldN w 0 8) = imm := hb.imm imm (fldN_of hw) rfl rfl
      simp [tableOf, decodeM, hop, hc, hb.chk, hb.scope rfl, ha, hsz, hord, himm, LSz.ofCode_code, Ord.ofCode_code,
        show fld w 17 6 = sd from fld_of hw]
  | st c sz o sc sS a imm =>
    have hs := sz.code_lt
    have ho := o.code_lt
    exact readsBack_mk (hx := by simp only [immLend]; omega) fun b w hw hop hc hb => by
      obtain ⟨ha, hsz, hord⟩ := fields_mM hw hs ho (by omega)
      have himm : dImm h b 8 (fldN w 0 8) = imm := hb.imm imm (fldN_of hw) rfl rfl
      simp [tableOf, decodeM, hop, hc, hb.scope rfl, ha, hsz, hord, himm, SSz.ofCode_code, Ord.ofCode_code, show fld w 17 6 = sS from fld_of hw]
  | ldv c o sc chk vd a imm =>
    have ho := o.code_lt
    exact readsBack_mk (hx := by simp only [immLend]; omega) fun b w hw hop hc hb => by
      obtain ⟨ha, hsz, hord⟩ := fields_mM hw (by decide) ho (by omega)
      have himm : dImm h b 8 (fldN w 0 8) = imm := hb.imm imm (fldN_of hw) rfl rfl
      simp [tableOf, decodeM, hop, hc, hb.chk, hb.scope rfl, ha, hsz, hord, himm, Ord.ofCode_code, guardF,
        show fld w 17 5 = vd from fld_of hw, show fldN w 22 1 = 0 from fldN_of hw]
  | stv c o sc vs a imm =>
    have ho := o.code_lt
    exact readsBack_mk (hx := by simp only [immLend]; omega) fun b w hw hop hc hb => by
      obtain ⟨ha, hsz, hord⟩ := fields_mM hw (by decide) ho (by omega)
      have himm : dImm h b 8 (fldN w 0 8) = imm := hb.imm imm (fldN_of hw) rfl rfl
      simp [tableOf, decodeM, hop, hc, hb.scope rfl, ha, hsz, hord, himm, Ord.ofCode_code, guardF,
        show fld w 17 5 = vs from fld_of hw, show fldN w 22 1 = 0 from fldN_of hw]
  | qld c sz o sc chk q a imm =>
    have hs := sz.code_lt
    have ho := o.code_lt
    exact readsBack_mk (hx := by simp only [immLend]; omega) fun b w hw hop hc hb => by
      obtain ⟨ha, hsz, hord, hq⟩ := fields_mQ hw hs ho (by omega)
      have himm : dImm h b 5 (fldN w 0 5) = imm := hb.imm imm (fldN_of hw) rfl rfl
      simp [tableOf, decodeM, hop, hc, hb.chk, hb.scope rfl, ha, hsz, hord, hq, himm, LSz.ofCode_code, Ord.ofCode_code,
        show fldN w 17 6 = 0 from fldN_of hw]
  | qvld c o sc chk q a imm =>
    have ho := o.code_lt
    exact readsBack_mk (hx := by simp only [immLend]; omega) fun b w hw hop hc hb => by
      obtain ⟨ha, hsz, hord, hq⟩ := fields_mQ hw (by decide) ho (by omega)
      have himm : dImm h b 5 (fldN w 0 5) = imm := hb.imm imm (fldN_of hw) rfl rfl
      simp [tableOf, decodeM, hop, hc, hb.chk, hb.scope rfl, ha, hsz, hord, hq, himm, Ord.ofCode_code, guardF, show fldN w 17 6 = 0 from fldN_of hw]
  | qst c sz o sc q sS a imm =>
    have hs := sz.code_lt
    have ho := o.code_lt
    exact readsBack_mk (hx := by simp only [immLend]; omega) fun b w hw hop hc hb => by
      obtain ⟨ha, hsz, hord, hq⟩ := fields_mQ hw hs ho (by omega)
      have himm : dImm h b 5 (fldN w 0 5) = imm := hb.imm imm (fldN_of hw) rfl rfl
      simp [tableOf, decodeM, hop, hc, hb.scope rfl, ha, hsz, hord, hq, himm, SSz.ofCode_code, Ord.ofCode_code, show fld w 17 6 = sS from fld_of hw]
  | qvst c o sc q vs a imm =>
    have ho := o.code_lt
    exact readsBack_mk (hx := by simp only [immLend]; omega) fun b w hw hop hc hb => by
      obtain ⟨ha, hsz, hord, hq⟩ := fields_mQ hw (by decide) ho (by omega)
      have himm : dImm h b 5 (fldN w 0 5) = imm := hb.imm imm (fldN_of hw) rfl rfl
      simp [tableOf, decodeM, hop, hc, hb.scope rfl, ha, hsz, hord, hq, himm, Ord.ofCode_code, guardF,
        show fld w 17 5 = vs from fld_of hw, show fldN w 22 1 = 0 from fldN_of hw]
  | qpop c cls d q =>
    have hcls := b2n_lt_two cls
    have hd : cls = true → d.toNat < 32 := by rintro rfl; simp_all [fieldsOk]
    exact readsBack_mk fun b w hw hop hc hb => by
      have htop : fldN w 22 1 = d.toNat / 32 := fldN_of hw
      have hbit : fldN w 13 1 = b2n cls := fldN_of hw
      have hz : ¬ b2n cls = 0 → fldN w 22 1 = 0 := by cases cls <;> simp_all [b2n]
      simpa [tableOf, decodeM, hop, hc, guardF, hbit, b2n_ne_zero, show fldN w 0 13 = 0 from fldN_of hw,
        show fld w 17 6 = d from fld_of hw, show fld w 14 3 = q from fld_of hw] using hz
  | atadd c w8 o sc sd a sb | atand c w8 o sc sd a sb | ator c w8 o sc sd a sb | atxor c w8 o sc sd a sb | atmin c w8 o sc sd a sb
  | atmax c w8 o sc sd a sb | atswp c w8 o sc sd a sb | atcas c w8 o sc sd a sb | atincw c w8 o sc sd a sb | atbadd c w8 o sc sd a sb
  | atfadd c w8 rm o sc sd a sb =>
    have ho := o.code_lt
    have hs := w8size_lt w8
    exact readsBack_mk fun b w hw hop hc hb => by
      obtain ⟨hd, -, ha, hsz, hord, hsb, hz⟩ := fields_mA hw hs ho
      cases w8 <;> simp [tableOf, decodeM, hop, hc, hb.rm, hb.scope rfl, hd, ha, hsz, hord, hsb, hz, w8size, Ord.ofCode_code]
  | sinit c o sc a sb =>
    have ho := o.code_lt
    exact readsBack_mk (hr := by simp; omega) fun b w hw hop hc hb => by
      simp [tableOf, decodeM, hop, hc, hb.scope rfl, fields_mA hw (by decide) ho, Ord.ofCode_code, guardF]
  | sarv c o sc sd a sb =>
    have ho := o.code_lt
    exact readsBack_mk (hr := by simp; omega) fun b w hw hop hc hb => by
      simp [tableOf, decodeM, hop, hc, hb.scope rfl, fields_mA hw (by decide) ho, Ord.ofCode_code, guardF]
  | bfacq c a ring | bfrel c a ring =>
    exact readsBack_mk fun b w hw hop hc hb => by
      simp [tableOf, decodeM, hop, hc, guardF, show fldN w 0 16 = 0 from fldN_of hw,
        show fld w 19 4 = a from fld_of hw, show fld w 16 3 = ring from fld_of hw]
  | gcopy c sc ch a sd =>
    exact readsBack_mk (hr := by simp; omega) fun b w hw hop hc hb => by
      simp [tableOf, decodeM, hop, hc, hb.scope rfl, fields_mE hw (by decide) (by decide) (by omega), guardF,
        show fldN w 18 1 = 0 from fldN_of hw (hk := by simp; omega), show fldN w 6 10 = 0 from fldN_of hw (hk := by simp; omega),
        show fld w 16 2 = ch from fld_of hw (hv := by simp; omega), show fld w 0 6 = sd from fld_of hw (hv := by simp; omega)]
  | mnest c a =>
    exact readsBack_mk (hr := by simp; omega) fun b w hw hop hc hb => by
      simp [tableOf, decodeM, hop, hc, fields_mE hw (by decide) (by decide) (by decide), guardF, show fldN w 0 19 = 0 from fldN_of hw (hk := by simp)]
  | mprec c cn sS =>
    exact readsBack_mk fun b w hw hop hc hb => by
      simp [tableOf, decodeM, hop, hc, guardF, show fldN w 0 14 = 0 from fldN_of hw,
        show fld w 17 6 = sS from fld_of hw, show fld w 14 3 = cn from fld_of hw]
  | mwld c t cn a kvm1 =>
    have ht := b2n_lt_two t
    exact readsBack_mk fun b w hw hop hc hb => by
      simp [tableOf, decodeM, hop, hc, fields_mE hw (by omega) (by decide) (by omega), guardF, b2n_ne_zero,
        show fldN w 14 2 = 0 from fldN_of hw, show fldN w 8 5 = 0 from fldN_of hw,
        show fldN w 13 1 = b2n t from fldN_of hw, show fld w 0 8 = kvm1 from fld_of hw]
  | mma c t nest ovw wrel cn a =>
    have ht := b2n_lt_two t
    have hn := b2n_lt_two nest
    have ho := b2n_lt_two ovw
    have hr := b2n_lt_two wrel
    exact readsBack_mk fun b w hw hop hc hb => by
      simp [tableOf, decodeM, hop, hc, fields_mE hw (by omega) (by omega) (by omega), guardF, b2n_ne_zero,
        show fldN w 0 10 = 0 from fldN_of hw, show fldN w 11 2 = 0 from fldN_of hw,
        show fldN w 13 1 = b2n t from fldN_of hw, show fldN w 14 1 = b2n nest from fldN_of hw,
        show fldN w 15 1 = b2n ovw from fldN_of hw, show fldN w 10 1 = b2n wrel from fldN_of hw]
  | mdrn c t clr pkEn pk rm sat sc cn a sS =>
    have ht := b2n_lt_two t
    have hcl := b2n_lt_two clr
    have hp := b2n_lt_two pkEn
    have hpk : pkEn = false → pk.toNat = 0 := by rintro rfl; simp_all [fieldsOk]
    exact readsBack_mk fun b w hw hop hc hb => by
      simpa [tableOf, decodeM, hop, hc, hb.rm, hb.sat, hb.scope rfl, fields_mE hw (by omega) (by omega) (by omega), guardF, b2n_ne_zero,
        show fldN w 6 4 = 0 from fldN_of hw, show fldN w 10 1 = b2n pkEn from fldN_of hw,
        show fldN w 11 1 = b2n clr from fldN_of hw, show fldN w 12 1 = b2n t from fldN_of hw,
        show fldN w 13 3 = pk.toNat from fldN_of hw, show fld w 13 3 = pk from fld_of hw, show fld w 0 6 = sS from fld_of hw] using hpk
  | mpert c log cn a sV =>
    have hl := b2n_lt_two log
    exact readsBack_mk fun b w hw hop hc hb => by
      simp [tableOf, decodeM, hop, hc, fields_mE hw (by omega) (by omega) (by omega), guardF, b2n_ne_zero,
        show fldN w 13 3 = 0 from fldN_of hw, show fldN w 11 2 = 0 from fldN_of hw,
        show fldN w 6 4 = 0 from fldN_of hw, show fldN w 10 1 = b2n log from fldN_of hw, show fld w 0 6 = sV from fld_of hw]
  | mstat c k sd cn =>
    have hk := k.code_lt
    have hcn : k = .nest → cn.toNat = 0 := by rintro rfl; simp_all [fieldsOk]
    exact readsBack_mk fun b w hw hop hc hb => by
      simpa [tableOf, decodeM, hop, hc, guardF, MSel.ofCode_code, show fldN w 0 11 = 0 from fldN_of hw,
        show fldN w 11 3 = k.code from fldN_of hw, show fld w 17 6 = sd from fld_of hw,
        show fld w 14 3 = cn from fld_of hw, show fldN w 14 3 = cn.toNat from fldN_of hw] using hcn
  | xsend c o sc sT a nm1 =>
    have ho := o.code_lt
    exact readsBack_mk fun b w hw hop hc hb => by
      simp [tableOf, decodeM, hop, hc, hb.scope rfl, fields_mM hw (by decide) ho (by omega), Ord.ofCode_code, guardF,
        show fldN w 3 5 = 0 from fldN_of hw, show fld w 17 6 = sT from fld_of hw, show fld w 0 3 = nm1 from fld_of hw]
  | xst c sz o sc s a imm =>
    have hs := sz.code_lt
    have ho := o.code_lt
    exact readsBack_mk fun b w hw hop hc hb => by
      simp [tableOf, decodeM, hop, hc, hb.scope rfl, fields_mM hw hs ho (by omega), SSz.ofCode_code, Ord.ofCode_code,
        show fld w 17 6 = s from fld_of hw, show fld w 0 8 = imm from fld_of hw]
  | xld c sz o sc s a imm =>
    have hs := sz.code_lt
    have ho := o.code_lt
    exact readsBack_mk fun b w hw hop hc hb => by
      simp [tableOf, decodeM, hop, hc, hb.scope rfl, fields_mM hw hs ho (by omega), LSz.ofCode_code, Ord.ofCode_code,
        show fld w 17 6 = s from fld_of hw, show fld w 0 8 = imm from fld_of hw]
  | xred c k t o sc a sb =>
    have hk := k.code_lt
    have ht := t.code_lt
    have ho := o.code_lt
    simp only [fieldsOk, Bool.and_eq_true] at hf
    exact readsBack_mk fun b w hw hop hc hb => by
      simp only [tableOf, decodeM, hop, hc, hb.scope rfl, fields_mM hw hk ho (by omega), RedOp.ofCode_code, XTy.ofCode_code, Ord.ofCode_code, guardF, hf,
        show fldN w 3 5 = 0 from fldN_of hw, show fldN w 0 3 = t.code from fldN_of hw, show fld w 17 6 = sb from fld_of hw]
      rfl
  | _ => cases hi


/-- Of what stands in no slot's table only NOP has an encoding. -/
theorem encodeSlot_of_rowSlot_none {i : Instr} (h : Hdr) (hi : rowSlot i = none) : i = .nop ∨ encodeSlot h i = none := by
  revert hi
  cases i <;> simp [rowSlot, encodeSlot]

theorem readsBack_nop (h : Hdr) : ReadsBack h .nop (encodeSlot h .nop) := by
  intro e he
  simp only [encodeSlot, Option.ite_none_right_eq_some, Option.some.injEq] at he
  obtain ⟨-, rfl⟩ := he
  rfl

/-- Decoding undoes encoding (R111, R112, R119, R121, R126 to R130). -/
theorem readsBack (h : Hdr) {i : Instr} (hf : fieldsOk i = true) : ReadsBack h i (encodeSlot h i) := by
  match hi : rowSlot i with
  | some .c => exact readsBack_c h hi hf
  | some .s => exact readsBack_s h hi hf
  | some .v => exact readsBack_v h hi hf
  | some .m => exact readsBack_m h hi hf
  | none =>
    rcases encodeSlot_of_rowSlot_none h hi with rfl | hnone
    · exact readsBack_nop h
    · exact fun e he => nomatch hnone.symm.trans he

/-- With no header a word that stands for something other than NOP is lent nothing that could be an orphan (R128). -/
theorem orphan_none {slot : Slot} {b : BitVec 8} {w : BitVec 32} (h : w ≠ 0) : orphan slot .none b w = false := by
  simp only [orphan, beq_false_of_ne h, Bool.false_eq_true, if_false, ite_self]

/-- Without a header an encoding is lent nothing. -/
theorem orphan_encodeSlot_none {i : Instr} {e : Enc} (hf : fieldsOk i = true) (he : encodeSlot .none i = some e) :
    orphan e.slot .none e.byte e.word = false := by
  by_cases hw : e.word = 0
  · have hnop : i = .nop := by rw [← readsBack .none hf e he, hw]; rfl
    subst hnop
    obtain rfl : _ = e := Option.some.inj he
    rfl
  · exact orphan_none hw

/-- What some header kind carries has an encoding that is no orphan. -/
theorem exists_encodeSlot_of_carried {i : Instr} {c : Cond} (hc : condOf i = some c) (h : carried i = true) :
    ∃ h e, encodeSlot h i = some e ∧ orphan e.slot h e.byte e.word = false := by
  simp only [carried, hc, Bool.and_eq_true, List.any_eq_true] at h
  obtain ⟨-, k, -, hk⟩ := h
  split at hk
  · next e he => exact ⟨k, e, he, by simpa using hk⟩
  · cases hk

/-- A slot instruction without a condition is encoded with no header. -/
theorem exists_encodeSlot_none {i : Instr} (hi : i.inSlot = true) (hc : condOf i = none) (hr : ∀ slot w field, i ≠ .reservedOpcode slot w field) :
    ∃ e, encodeSlot .none i = some e := by
  simp only [Instr.inSlot, hc, Option.isSome_none, Bool.false_or, Bool.or_eq_true, Option.isSome_iff_exists] at hi
  rcases hi with hi | hi
  · exact hi
  · exact absurd hi Bool.false_ne_true

end Sys2Proof

open Sys2Proof Sys2Proof.Machine Sys2Proof.Claim

/-- Settles O8: each slot's table reads the fields back where its encoder has put them, and what a header lends reads back as what was asked. -/
theorem instructionsRoundTrip : Obligations.InstructionsRoundTrip := by
  have hfields {i : Instr} (hwf : i.wf = true) : fieldsOk i = true ∧ carried i = true := by simpa [Instr.wf] using hwf
  refine ⟨fun i h e hwf he _ => readsBack h (hfields hwf).1 e he, fun i hwf hi hr => ?_⟩
  obtain ⟨hf, hcar⟩ := hfields hwf
  obtain ⟨h, e, he, ho⟩ : ∃ h e, encodeSlot h i = some e ∧ orphan e.slot h e.byte e.word = false := by
    match hc : condOf i with
    | some c => exact exists_encodeSlot_of_carried hc hcar
    | none =>
      obtain ⟨e, he⟩ := exists_encodeSlot_none hi hc hr
      exact ⟨.none, e, he, orphan_encodeSlot_none hf he⟩
  exact ⟨h, e, he, ho, readsBack h hf e he⟩

end

section
/-! Words that stand for no instruction, and O14. -/

namespace Sys2Proof

/-! ## Words with no meaning (R112, R118, R119, R145) -/

/-- Whether an instruction is one that the tables name. -/
def isNamed : Instr → Bool
  | .reservedOpcode _ _ _ => false
  | _ => true

/-- What a table makes of a word, where it makes something of it, is an instruction that it names. -/
def Named (o : Option Instr) : Prop := ∀ i, o = some i → isNamed i = true

section Named

variable {α : Type} {i : Instr}

@[simp] theorem named_none : Named none := fun _ h => nomatch h
@[simp] theorem named_some_iff : Named (some i) ↔ isNamed i = true := by simp [Named]
@[simp] theorem named_guardF_iff {ok : Bool} : Named (guardF ok i) ↔ (ok = true → isNamed i = true) := by cases ok <;> simp [guardF]
@[simp] theorem named_map_iff {o : Option α} {f : α → Instr} : Named (o.map f) ↔ ∀ a, o = some a → isNamed (f a) = true := by simp [Named]
@[simp] theorem named_bind_iff {o : Option α} {f : α → Option Instr} : Named (o.bind f) ↔ ∀ a, o = some a → Named (f a) := by cases o <;> simp
@[simp] theorem named_ite_iff {p : Prop} [Decidable p] {a b : Option Instr} : Named (if p then a else b) ↔ (p → Named a) ∧ (¬ p → Named b) := by
  split <;> simp [*]

end Named

theorem named_decodeC (w : BitVec 32) : Named (decodeC w) := by
  unfold decodeC
  split <;> simp [isNamed]

theorem named_decodeS (h : Hdr) (b : BitVec 8) (w : BitVec 32) : Named (decodeS h b w) := by
  unfold decodeS
  split <;> simp [isNamed]
  split <;> simp [isNamed]

theorem named_decodeV (h : Hdr) (b : BitVec 8) (w : BitVec 32) : Named (decodeV h b w) := by
  unfold decodeV
  split <;> simp [isNamed] <;> split <;> simp [isNamed]

theorem named_decodeM (h : Hdr) (b : BitVec 8) (w : BitVec 32) : Named (decodeM h b w) := by
  unfold decodeM
  extract_lets c d6 d5 a sc chk o z lsz ssz vec imm qimm q sb at1 ma mc
  have atomic (k : Bool → Instr) (hk : ∀ w8, isNamed (k w8) = true) : Named (at1 k) := by
    simp only [at1, named_ite_iff, named_none, implies_true, and_true]
    intro _
    split <;> simp [hk]
  clear_value at1
  split
  case h_10 | h_11 | h_12 | h_13 | h_14 | h_15 | h_16 | h_17 | h_18 | h_19 | h_20 =>
    refine atomic _ ?_
    exact fun _ => rfl
  case h_32 => simp only [named_ite_iff]; split <;> simp [isNamed]
  case h_36 => simp only [named_ite_iff]; split <;> simp [isNamed]
  all_goals simp [isNamed]

theorem named_tableOf (slot : Slot) (h : Hdr) (b : BitVec 8) (w : BitVec 32) : Named (tableOf slot h b w) := by
  cases slot with
  | c => exact named_decodeC w
  | s => exact named_decodeS h b w
  | v => exact named_decodeV h b w
  | m => exact named_decodeM h b w

/-- The last opcode that a slot's table lists (R141 to R144). -/
def lastOp : Slot → Nat
  | .c => 0x18
  | .s => 0x30
  | .v => 0x27
  | .m => 0x24

theorem opListed_iff (slot : Slot) (op : Nat) : opListed slot op = true ↔ 1 ≤ op ∧ op ≤ lastOp slot := by
  cases slot <;> simp [opListed, lastOp]

section Words

variable {slot : Slot} {h : Hdr} {b : BitVec 8} {w : BitVec 32}

/-- A word of an unlisted opcode, or of opcode 0 with another bit set, is a reserved opcode, and its lent byte no orphan (R112, R128, R145). -/
theorem decodeSlot_unlisted (hw : w ≠ 0) (hl : opListed slot (fldN w 26 6) = false) :
    decodeSlot slot h b w = .reservedOpcode slot w false ∧ orphan slot h b w = false := by
  simp only [decodeSlot, orphan, beq_false_of_ne hw, hl, Bool.false_eq_true, if_false, Bool.not_false, if_true, and_self]

/-- A word of a listed opcode that names no instruction is a field fault of that word (R119). -/
theorem decodeSlot_reserved (hl : opListed slot (fldN w 26 6) = true) {k : Slot} {v : BitVec 32} {f : Bool}
    (hd : decodeSlot slot h b w = .reservedOpcode k v f) : k = slot ∧ v = w ∧ f = true := by
  rw [decodeSlot_listed hl] at hd
  match ht : tableOf slot h b w with
  | none =>
    rw [ht] at hd
    injection hd with hk hv hf
    exact ⟨hk.symm, hv.symm, hf.symm⟩
  | some i =>
    rw [ht] at hd
    have hi := named_tableOf slot h b w i ht
    rw [show i = .reservedOpcode k v f from hd] at hi
    cases hi

theorem decodeSlot_field_fault (hl : opListed slot (fldN w 26 6) = true) (ht : tableOf slot h b w = none) :
    decodeSlot slot h b w = .reservedOpcode slot w true := by rw [decodeSlot_listed hl, ht, orField]

/-- The C-slot's format CN asks for zeroes below its predicate (R141). -/
theorem decodeC_cN (hop : fldN w 26 6 ∈ [0x05, 0x09, 0x0C, 0x0E, 0x10, 0x11, 0x17]) (hw : fldN w 0 23 ≠ 0) : decodeC w = none := by
  simp only [List.mem_cons, List.not_mem_nil, or_false] at hop
  rcases hop with hop | hop | hop | hop | hop | hop | hop <;> simp [decodeC, hop, hw, guardF]

/-- The S-slot's instructions of two registers ask for zeroes in the function field (R142). -/
theorem decodeS_sR (hlo : 1 ≤ fldN w 26 6) (hhi : fldN w 26 6 ≤ 0x14) (hw : fldN w 0 5 ≠ 0) : decodeS h b w = none := by
  generalize hop : fldN w 26 6 = op at hlo hhi
  interval_cases op <;> simp [decodeS, hop, hw, guardF]

end Words

end Sys2Proof

namespace Sys2Proof.Machine

open Sys2Proof.Claim

/-- A word with no meaning stops its slot whatever its predicate: cause 0x01 for a field, 0x02 otherwise (R118, R119, R145). -/
theorem exec_reservedOpcode {s : State} {b : Bun} (hb : s.bun = some b) (slot : Slot) (w : BitVec 32) (field : Bool) :
    exec (.reservedOpcode slot w field) s = .next (noted s b slot.num (.trap (if field then 0x01 else 0x02) 0)) := by
  have hrun : s.issues b (cCond 0) := ⟨hb, condRuns_cCond 0 b.pre⟩
  have hstop : slotStop (fun _ _ => trap (if field then 0x01 else 0x02) 0) (b.env (cCond 0)) s (.trap (if field then 0x01 else 0x02) 0)
      = .trap (if field then 0x01 else 0x02) 0 := slotStop_stands rfl
  exact (runSlot_stop hrun rfl).trans (by rw [hstop, noted])

theorem exec_nop {s : State} {b : Bun} (hb : s.bun = some b) : exec .nop s = .next s := runSlot_ok (b := b) ⟨hb, condRuns_cCond 0 b.pre⟩ rfl

end Sys2Proof.Machine

open Sys2Proof Sys2Proof.Machine Sys2Proof.Claim

/-- Settles O14: the listed opcodes are `1` to `lastOp`; outside them the decoder answers a reserved opcode, and inside them only where the
table names nothing. -/
theorem reservedWordTraps : Obligations.ReservedWordTraps := by
  refine ⟨fun slot h byte w => ?_, fun slot w field s b hb => ⟨exec_reservedOpcode hb slot w field, exec_nop hb⟩⟩
  · intro op last end_
    have hop : fldN w 26 6 = op := fldN_opcode w
    have hlast : last = lastOp slot := by cases slot <;> rfl
    have hw : op ≠ 0 → w ≠ 0 := by rintro h rfl; exact h rfl
    have listed : 1 ≤ op → op ≤ last → opListed slot (fldN w 26 6) = true := fun h1 h2 => (opListed_iff ..).2 ⟨hop ▸ h1, hop ▸ hlast ▸ h2⟩
    have unlisted (h : op = 0 ∨ last < op) : opListed slot (fldN w 26 6) = false := by
      rw [← Bool.not_eq_true, opListed_iff, hop, ← hlast]
      omega
    refine ⟨fun h1 _ => decodeSlot_unlisted (hw (by omega)) (unlisted (.inr h1)), fun h0 hne => decodeSlot_unlisted hne (unlisted (.inl h0)),
      fun h1 h2 k v f hd => decodeSlot_reserved (listed h1 h2) hd, ?_, ?_, ?_⟩
    · rintro rfl hmem hz
      have hrange : 1 ≤ op ∧ op ≤ 0x18 := by
        simp only [List.mem_cons, List.not_mem_nil, or_false] at hmem
        omega
      exact decodeSlot_field_fault (listed hrange.1 hrange.2) (decodeC_cN (hop.symm ▸ hmem) (by simpa [fldN] using hz))
    · rintro rfl h1 h2 hz
      exact decodeSlot_field_fault (listed h1 (h2.trans (by decide))) (decodeS_sR (hop.symm ▸ h1) (hop.symm ▸ h2) (by simpa [fldN] using hz))
    · rfl

end

section
/-! The frame of the instructions that write only registers, and O20. -/

namespace Sys2Proof.Machine

open Sys2Proof.Claim

/-! ## What a write of one register leaves alone -/

variable {s : State} {x : CtxId} {ks : List RegRef}

theorem sameRegsBut_refl (ks : List RegRef) (r : Regs) : sameRegsBut ks r r :=
  ⟨fun _ _ => rfl, fun _ _ => rfl, fun _ _ => rfl, fun _ _ => rfl, rfl, rfl⟩

/-- A change of a context's registers stays within that context. -/
theorem sameOutside_modCtx (s : State) (x : CtxId) (f : Ctx → Ctx) : sameOutside s (s.modCtx x f) x := by
  refine ⟨fun y hy => (ctx_modCtx ..).trans (if_neg hy), fun c => ?_, fun k => ?_, rfl⟩
  · exact core_modCtx_keep (fun o : Core => { o with ctxs := [] }) s x f c
  · exact cl_modCtx_keep (fun c : Cluster => { c with cores := [] }) s x f k

theorem onlyRegs_wrReg (s : State) (x : CtxId) (k : RegRef) (v : Nat) : onlyRegs s (s.wrReg x k v) x [k] := by
  refine ⟨sameBytes_wrReg .., sameOutside_modCtx .., ?_, ?_⟩ <;> rw [ctx_wrReg, if_pos rfl]
  · exact sameRegsBut_wr ..
  · rfl

/-- Nothing of a frame speaks of the bundle in flight. -/
theorem onlyRegs_bun (s : State) (x : CtxId) (ks : List RegRef) (o : Option Bun) : onlyRegs s { s with bun := o } x ks :=
  ⟨sameBytes_refl s, ⟨fun _ _ => rfl, fun _ => rfl, fun _ => rfl, rfl⟩, sameRegsBut_refl .., rfl⟩

/-- A slot's result, where it has one, differs in the listed registers only. -/
def RdWrites (s : State) (x : CtxId) (ks : List RegRef) (r : Rd State) : Prop := ∀ t, r = .ok t → onlyRegs s t x ks

namespace RdWrites

theorem wrReg {k : RegRef} {v : Nat} : RdWrites s x [k] (.ok (s.wrReg x k v)) := by
  rintro t ⟨⟩
  exact onlyRegs_wrReg ..

theorem same : RdWrites s x ks (.ok s) := by
  rintro t ⟨⟩
  exact onlyRegs_bun s x ks s.bun

/-- Whatever a slot reads or checks first, it changes nothing by that. -/
theorem bind {α : Type} {r : Rd α} {f : α → Rd State} (h : ∀ a, RdWrites s x ks (f a)) : RdWrites s x ks (r >>= f) := by
  cases r with
  | ok a => exact h a
  | error st => exact fun t ht => nomatch ht

theorem ite {p : Prop} [Decidable p] {a b : Rd State} (ha : RdWrites s x ks a) (hb : RdWrites s x ks b) : RdWrites s x ks (if p then a else b) := by
  split
  · exact ha
  · exact hb

end RdWrites

/-- An instruction's next state, where it has one, differs in the listed registers only. -/
def OutWrites (s : State) (x : CtxId) (ks : List RegRef) (r : Out) : Prop := ∀ t, r = .next t → onlyRegs s t x ks

/-- A slot that is held back or stops writes nothing; any other writes what its meaning does. -/
theorem runSlot_writes {k : Slot} {c : Cond} {br : Bool} {body : Env → State → Rd State} {b : Bun} (hb : s.bun = some b)
    (h : RdWrites s b.x ks (body (b.env c) s)) : OutWrites s b.x ks (runSlot k c br body s) := by
  intro t ht
  cases hc : condRuns c b.pre with
  | false =>
    obtain rfl := Host.Outcome.next.inj ((runSlot_held hb hc).symm.trans ht)
    exact onlyRegs_bun s b.x ks s.bun
  | true =>
    cases hbody : body (b.env c) s with
    | ok u =>
      obtain rfl := Host.Outcome.next.inj ((runSlot_ok ⟨hb, hc⟩ hbody).symm.trans ht)
      exact h u hbody
    | error st =>
      obtain rfl := Host.Outcome.next.inj ((runSlot_stop ⟨hb, hc⟩ hbody).symm.trans ht)
      exact onlyRegs_bun ..

theorem dSlot_writes {p : BitVec 3} {br : Bool} {chk : Env → Bool} {body : Env → State → Rd State} {b : Bun} (hb : s.bun = some b)
    (h : RdWrites s b.x ks (body (b.env (cCond 0)) s)) : OutWrites s b.x ks (dSlot p br chk body s) :=
  runSlot_writes hb (.bind fun _ => .ite h .same)

/-- Every instruction that `writesOnly` lists writes its destination after what it reads, or nothing. -/
theorem exec_writes {i : Instr} {b : Bun} (hi : writesOnly i = some ks) (hb : s.bun = some b) : OutWrites s b.x ks (exec i s) := by
  cases i with
  | nop =>
    obtain rfl := Option.some.inj hi
    exact runSlot_writes hb .same
  | mfc p sd k =>
    obtain rfl := Option.some.inj hi
    exact dSlot_writes hb (.bind fun _ => .bind fun _ => .ite (.bind fun _ => .bind fun _ => .wrReg) .wrReg)
  | li | plog | ktop =>
    obtain rfl := Option.some.inj hi
    exact runSlot_writes hb .wrReg
  | addi | andi | ori | xori | shli | shri | sari | lih | clz | popc | ext | leai | amovSToA | amovAToS | fcvt | vred | vext | viota | viotaRank =>
    obtain rfl := Option.some.inj hi
    exact runSlot_writes hb (.bind fun _ => .wrReg)
  | add | sub | and | or | xor | andn | shl | shr | sar | mul | mulh | mulhu | min | max | minu | maxu | cmp | sel | ins | lea | widf | widfTeam | widfRank
  | fadd | fsub | fmul | fmin | fmax | fcmp | vabs | vneg | vcvt | vbcast | vins =>
    obtain rfl := Option.some.inj hi
    exact runSlot_writes hb (.bind fun _ => .bind fun _ => .wrReg)
  | ffma | vadd | vsub | vmul | vfma | vmin | vmax | vand | vor | vxor | vshl | vshr | vsar | vcmp | vsel | vperm =>
    obtain rfl := Option.some.inj hi
    exact runSlot_writes hb (.bind fun _ => .bind fun _ => .bind fun _ => .wrReg)
  | _ => cases hi

end Sys2Proof.Machine

open Sys2Proof Sys2Proof.Machine Sys2Proof.Claim

/-- Settles O20: each of these instructions is one slot, which reads and checks and then writes its destination, or writes nothing. -/
theorem onlyTheDestinationChanges : Obligations.OnlyTheDestinationChanges :=
  fun _ _ _ t _ hi hb ht => exec_writes hi hb t ht

end

section
/-! What a delay slot or a region does not allow, and O41. -/

namespace Sys2Proof.Machine

open Sys2Proof.Claim

/-! ## C-slot forms that stop -/

section CSlot

variable {p : BitVec 3} {body rest : Env → State → Rd State} {s : State} {b : Bun} (hb : s.bun = some b)
include hb

/-- A form whose own check fails raises cause 0x01 whatever its predicate (R118, R131). -/
theorem dSlot_refused {br : Bool} {chk : Env → Bool} (hc : ∀ l, chk (b.asks (cCond 0) l) = false) :
    dSlot p br chk body s = .next (noted s b 0 (.trap 0x01 0)) := by
  have hbody (l : Bool) : (do need (chk (b.asks (cCond 0) l)) (.trap 0x01 0); if b.pre.regs.pv p.toNat then body (b.asks (cCond 0) l) s else .ok s)
      = .error (.trap 0x01 0) := by rw [hc, need_false, error_bind]
  refine (runSlot_stop ⟨hb, condRuns_cCond 0 b.pre⟩ (hbody false)).trans ?_
  rw [slotStop_stands (hbody true)]
  rfl

variable (hp : b.pre.regs.pv p.toNat = true)
include hp

theorem cSlot_stop {st : Stop} (he : ∀ l, body (b.asks (cCond p) l) s = .error st) : cSlot p body s = .next (noted s b 0 st) := by
  refine (runSlot_stop ⟨hb, (condRuns_cCond p b.pre).trans hp⟩ (he false)).trans ?_
  rw [slotStop_stands (he true)]
  rfl

theorem dSlot_stop {br : Bool} {chk : Env → Bool} {st : Stop} (hc : ∀ l, chk (b.asks (cCond 0) l) = true)
    (he : ∀ l, body (b.asks (cCond 0) l) s = .error st) : dSlot p br chk body s = .next (noted s b 0 st) := by
  have hbody (l : Bool) : (do need (chk (b.asks (cCond 0) l)) (.trap 0x01 0); if b.pre.regs.pv p.toNat then body (b.asks (cCond 0) l) s else .ok s)
      = .error st := by rw [hc, need_true, ok_bind, if_pos hp, he]
  refine (runSlot_stop ⟨hb, condRuns_cCond 0 b.pre⟩ (hbody false)).trans ?_
  rw [slotStop_stands (hbody true)]
  rfl

variable (hr : b.pre.region.isSome = true)
include hr

/-- What a region does not allow rolls it back before the rest of its meaning is looked at (R148, R223). -/
theorem cSlot_illegal : cSlot p (fun e s => do noRegion e; rest e s) s = .next (noted s b 0 (.roll 0x07 0)) :=
  cSlot_stop hb hp fun l => by rw [noRegion_rolls (e := b.asks (cCond p) l) hr, error_bind]

theorem dSlot_illegal {br : Bool} {chk : Env → Bool} (hc : ∀ l, chk (b.asks (cCond 0) l) = true) :
    dSlot p br chk (fun e s => do noRegion e; rest e s) s = .next (noted s b 0 (.roll 0x07 0)) :=
  dSlot_stop hb hp hc fun l => by rw [noRegion_rolls (e := b.asks (cCond 0) l) hr, error_bind]

end CSlot

end Sys2Proof.Machine

open Sys2Proof Sys2Proof.Machine Sys2Proof.Claim

/-- Settles O41: in a delay slot the check that these forms share fails, whatever their predicate; in a region each of them asks `noRegion` first. -/
theorem illegalPlaces : Obligations.IllegalPlaces := by
  refine ⟨fun p disp sd sa sb aa s b hb hd i hi => ?_, fun p sd sa sb aa mask n disp s b hb hp hd hr => ⟨fun i hi => ?_, cSlot_illegal hb hp hr⟩⟩
  · have hchk (_ : Bool) : (b.pre.dslot == 0) = false := beq_false_of_ne hd
    simp only [List.mem_cons, List.not_mem_nil, or_false] at hi
    rcases hi with rfl | rfl | rfl | rfl | rfl | rfl | rfl | rfl <;> exact dSlot_refused hb hchk
  · have hchk (_ : Bool) : (b.pre.dslot == 0) = true := beq_iff_eq.mpr hd
    simp only [illegalInRegion, List.mem_cons, List.not_mem_nil, or_false] at hi
    rcases hi with rfl | rfl | rfl | rfl | rfl | rfl | rfl | rfl | rfl | rfl | rfl
    · exact dSlot_illegal hb hp hr hchk
    · exact dSlot_illegal hb hp hr hchk
    iterate 8 exact cSlot_illegal hb hp hr
    · exact dSlot_illegal hb hp hr fun _ => rfl

end

section
/-! How a turn fetches, decodes and runs a bundle, and O5; and the words of O7. -/

namespace Sys2Proof.Machine

/-- A core that is about to issue takes its turn by issuing its running context's next bundle. -/
theorem execIssue_toIssue {s : State} {c : CoreId} {k : Nat} (h : s.toIssue c k) :
    execIssue c s = .next (({ s with cur := ⟨c.cl, c.core, k⟩ } : State).issueNext ⟨c.cl, c.core, k⟩) := by
  obtain ⟨hrun, hin, hact, hst, hfirst, hdone, hstride, hgoes, -⟩ := h
  simp [execIssue, hrun, hin, hact, hst, hfirst, hdone, hstride, hgoes]

variable {s : State} {c : CoreId} {rest : List Turn} {k : Nat}

theorem step_issue (ha : s.agenda = .issue c :: rest) (h : ({ s with agenda := rest } : State).toIssue c k) :
    step s = .next (({ s with agenda := rest, cur := ⟨c.cl, c.core, k⟩ } : State).issueNext ⟨c.cl, c.core, k⟩) := by
  rw [step, ha]
  exact execIssue_toIssue h

section IssueNext

variable {x : CtxId} (hh : (s.ctx x).fl.holdsAll = false)
include hh

/-- A PC outside resident code (R140 step 1, R298). -/
theorem issueNext_absent (hb : s.bundleAt x = none) :
    s.issueNext x = s.takeTrap x 0x07 0 (s.ctx x).pc (s.ctx x).pc false false (s.ctx x).delayed := by
  simp [State.issueNext, hh, hb]

/-- A fetched bundle that meets no error of the code store. -/
theorem issueNext_fetched {words : Nat} (hb : s.bundleAt x = some words)
    (hg : (s.ctx x).fromBuffer = true ∨ s.fetchBad x.cl (s.ctx x).pr.jslot (s.ctx x).pc = false) :
    s.issueNext x = (s.modCtx x fun y => y.buffered words).issueWords x words := by
  have hgood : (!(s.ctx x).fromBuffer && s.fetchBad x.cl (s.ctx x).pr.jslot (s.ctx x).pc) = false := by
    rcases hg with hg | hg <;> simp [hg]
  simp [State.issueNext, hh, hb, hgood]

end IssueNext

theorem runIn_of_next {s t : State} {i : Instr} (h : exec i s = .next t) : s.runIn i = t := by rw [State.runIn, h]

/-- The four slots of a bundle run in order (R8, R139). -/
theorem runBundle_of_next {u t1 t2 t3 t4 : State} {x : CtxId} {words : Nat} {b : Bundle} (h1 : exec b.c (u.openBundle x words (isBranch b.c)) = .next t1)
    (h2 : exec (held (u.ctx x) (slotFlag b 1 b.s) b.s) t1 = .next t2) (h3 : exec (held (u.ctx x) (slotFlag b 2 b.v) b.v) t2 = .next t3)
    (h4 : exec (held (u.ctx x) (slotFlag b 3 b.m) b.m) t3 = .next t4) : u.runBundle x words b = t4 := by
  simp only [State.runBundle, runIn_of_next h1, runIn_of_next h2, runIn_of_next h3, runIn_of_next h4]

theorem issueWords_of_sound {u : State} {x : CtxId} {words : Nat} (h : bundleFault (u.ctx x) (decodeWords words) = none) :
    u.issueWords x words = closeBundle u (u.runBundle x words (decodeWords words)) := by simp only [State.issueWords, h]

/-- A bundle-level fault stops the bundle before any slot of it (R140 step 2). -/
theorem issueWords_of_fault {u : State} {x : CtxId} {words n : Nat} (h : bundleFault (u.ctx x) (decodeWords words) = some n) :
    u.issueWords x words = u.stopBundle (openedBun x (u.ctx x) words (isBranch (decodeWords words).c)) n (.trap 0x01 0) := by
  simp only [State.issueWords, h]

end Sys2Proof.Machine

open Sys2Proof Sys2Proof.Machine Sys2Proof.Claim

/-- Settles O5: the turn issues the running context's next bundle, which is absent, faulty as a whole, or run slot by slot. -/
theorem stepRunsTheDecodedBundle : Obligations.StepRunsTheDecodedBundle := by
  constructor
  · intro s c rest k words t1 t2 t3 t4 s' x u b ha hi hg hb hf h1 h2 h3 h4
    obtain ⟨-, -, -, -, -, -, -, -, hh⟩ := id hi
    have hissue : ({ s' with cur := x } : State).issueNext x = u.issueWords x words :=
      issueNext_fetched (s := { s' with cur := x }) hh hb hg
    have hclose : u.issueWords x words = closeBundle u t4 := by rw [issueWords_of_sound hf, runBundle_of_next h1 h2 h3 h4]
    exact (step_issue ha hi).trans (congrArg Host.Outcome.next (hissue.trans hclose))
  · intro s c rest k s' x v ha hi hg
    obtain ⟨-, -, -, -, -, -, -, -, hh⟩ := id hi
    have habsent (hb : s'.bundleAt x = none) : v.issueNext x = v.takeTrap x 0x07 0 (s.ctx x).pc (s.ctx x).pc false false (s.ctx x).delayed :=
      issueNext_absent hh hb
    refine ⟨fun hb => (step_issue ha hi).trans (congrArg Host.Outcome.next (habsent hb)), fun words n hb hf => ?_⟩
    have hissue : v.issueNext x = (v.modCtx x fun y => y.buffered words).issueWords x words :=
      issueNext_fetched (s := v) hh hb hg
    exact (step_issue ha hi).trans (congrArg Host.Outcome.next (hissue.trans (issueWords_of_fault hf)))

/-- Settles O7: the decoder runs on each word. -/
theorem sampleWordsDecode : Obligations.SampleWordsDecode :=
  ⟨rfl, rfl, rfl, rfl, rfl, rfl, rfl, rfl, rfl, rfl, rfl⟩

end

section
/-! One S-slot: what its instruction writes once its sources read; and the integer instructions, O15. -/

set_option Elab.async false

namespace Sys2Proof.Machine

open Sys2Proof.Claim

/-! ## Running an S-slot -/

/-- A register keeps the low 64 bits of what is written (R113). -/
theorem putS_ofNat (s : State) (b : Bun) (sd : BitVec 6) (v : Nat) : putS s b sd (BitVec.ofNat 64 v).toNat = putS s b sd v := by
  simp only [putS, wrReg_eq, Regs.wr, BitVec.ofNat_toNat, BitVec.setWidth_eq]

section SSlot

variable {c : Cond} {s : State} {b : Bun} (h : s.issues b c)
include h

theorem sSlot_ok {body : Env → State → Rd State} {t : State} (he : body (b.env c) s = .ok t) : sSlot c body s = .next t := runSlot_ok h he

theorem sSlot_stop {body : Env → State → Rd State} {st : Stop} (he : ∀ l, body (b.asks c l) s = .error st) :
    sSlot c body s = .next (noted s b 1 st) := by
  refine (runSlot_stop h (he false)).trans ?_
  rw [slotStop_stands (he true)]
  rfl

theorem sUn_ok {sd sa : BitVec 6} {x v : Word} {f : Word → Word} (hx : rdS (b.env c) sa = .ok x) (hv : f x = v) :
    sUn c sd sa f s = .next (putS s b sd v.toNat) :=
  sSlot_ok h (by rw [hx, ok_bind, hv]; rfl)

theorem sBin_ok {sd sa sb : BitVec 6} {x y v : Word} {f : Word → Word → Word} (hx : rdS (b.env c) sa = .ok x) (hy : rdS (b.env c) sb = .ok y)
    (hv : f x y = v) : sBin c sd sa sb f s = .next (putS s b sd v.toNat) :=
  sSlot_ok h (by rw [hx, ok_bind, hy, ok_bind, hv]; rfl)

/-- A result given as a number. -/
theorem sUn_number {sd sa : BitVec 6} {x : Word} {f : Word → Word} {n : Nat} (hx : rdS (b.env c) sa = .ok x) (hv : f x = BitVec.ofNat 64 n) :
    sUn c sd sa f s = .next (putS s b sd n) := (sUn_ok h hx hv).trans (congrArg Host.Outcome.next (putS_ofNat ..))

end SSlot

/-! ## Values of the integer instructions (R164, R166, R168) -/

theorem toNat_and_63 (y : Word) : (y &&& 63).toNat = y.toNat % 64 := (BitVec.toNat_and ..).trans (Nat.and_two_pow_sub_one_eq_mod _ 6)

theorem sshiftRight_eq_ofInt (x : Word) (n : Nat) : x.sshiftRight n = BitVec.ofInt 64 (x.toInt / 2 ^ n) := by
  rw [BitVec.sshiftRight, Int.shiftRight_eq_div_pow]
  rfl

theorem add_signExtend {k : Nat} (x : Word) (imm : BitVec k) : x + imm.signExtend 64 = BitVec.ofInt 64 (x.toInt + imm.toInt) := by
  rw [BitVec.ofInt_add, BitVec.ofInt_toInt]
  rfl

theorem shiftLeft_eq_ofNat (x : Word) (n : Nat) : x <<< n = BitVec.ofNat 64 (x.toNat * 2 ^ n) := by
  rw [← Nat.shiftLeft_eq]
  rfl

theorem ushiftRight_eq_ofNat (x : Word) (n : Nat) : x >>> n = BitVec.ofNat 64 (x.toNat / 2 ^ n) := by
  rw [← Nat.shiftRight_eq_div_pow, ← BitVec.toNat_ushiftRight, BitVec.ofNat_toNat, BitVec.setWidth_eq]

/-- LIH without an extend header takes the low 16 bits of its field, which holds no more. -/
theorem lihVal_short {imm : BitVec 22} (hi : imm.toNat < 2 ^ 16) (d : Word) : lihVal false imm d = (d <<< 16) ||| imm.zeroExtend 64 := by
  have hlow : imm.zeroExtend 64 &&& 0xFFFF = imm.zeroExtend 64 := by
    apply BitVec.eq_of_toNat_eq
    rw [BitVec.toNat_and, show (0xFFFF : Word).toNat = 2 ^ 16 - 1 from rfl, Nat.and_two_pow_sub_one_eq_mod, BitVec.toNat_setWidth]
    omega
  rw [← hlow]
  rfl

/-- The bits that INS replaces (R168). -/
theorem getLsbD_insMask (pos len : Nat) {i : Nat} (hi : i < 64) :
    (BitVec.ofNat 64 ((2 ^ len - 1) * 2 ^ pos)).getLsbD i = decide (pos ≤ i ∧ i < pos + len) := by
  rw [BitVec.getLsbD_ofNat, ← Nat.shiftLeft_eq, Nat.testBit_shiftLeft, Nat.testBit_two_pow_sub_one]
  by_cases hp : pos ≤ i
  · simp [hi, hp, Nat.sub_lt_iff_lt_add hp, Nat.add_comm]
  · simp [hp]

theorem getLsbD_insVal (pos len : Nat) (d x : Word) {i : Nat} (hi : i < 64) :
    (insVal pos len d x).getLsbD i = if pos ≤ i ∧ i < pos + len then x.getLsbD (i - pos) else d.getLsbD i := by
  rw [insVal, BitVec.getLsbD_or, BitVec.getLsbD_and, BitVec.getLsbD_and, BitVec.getLsbD_not, getLsbD_insMask pos len hi, BitVec.getLsbD_shiftLeft]
  by_cases hm : pos ≤ i ∧ i < pos + len
  · simp [hm, hi]
  · simp [hm, hi]

/-- The leading zeros of a word (R168): those bits are clear, and the next one is set. -/
theorem clz_counts (x : Word) : let n := if x = 0 then 64 else 63 - x.toNat.log2
    n ≤ 64 ∧ (∀ i, i < n → x.getLsbD (63 - i) = false) ∧ (n < 64 → x.getLsbD (63 - n) = true) := by
  intro n
  by_cases hx : x = 0
  · subst hx
    simp [n]
  · have hx0 : x.toNat ≠ 0 := fun h => hx (BitVec.eq_of_toNat_eq h)
    have hlog : x.toNat.log2 < 64 := (Nat.log2_lt hx0).mpr x.isLt
    have hn : n = 63 - x.toNat.log2 := if_neg hx
    refine ⟨by omega, fun i hi => ?_, fun _ => ?_⟩
    · exact Nat.testBit_lt_two_pow (Nat.lt_log2_self.trans_le (Nat.pow_le_pow_right (by decide) (by omega)))
    · rw [hn, show 63 - (63 - x.toNat.log2) = x.toNat.log2 by omega]
      exact Nat.testBit_log2 hx0

theorem sum_bits (x : Nat) (l : List Nat) : (l.map fun i => x / 2 ^ i % 2).sum = l.countP fun i => x.testBit i := by
  induction l with
  | nil => rfl
  | cons i l ih =>
    rw [List.map_cons, List.sum_cons, ih, List.countP_cons, Nat.testBit_eq_decide_div_mod_eq]
    rcases Nat.mod_two_eq_zero_or_one (x / 2 ^ i) with h | h <;> simp [h, Nat.add_comm]

end Sys2Proof.Machine

open Sys2Proof Sys2Proof.Machine Sys2Proof.Claim

/-- Settles O15: each is one S-slot of `sBin`, `sUn` or none, whose value is the one that the rules give. -/
theorem integerOperations : Obligations.IntegerOperations := by
  refine ⟨fun p hp c sd sa sb s b x y hi hx hy => ?_, fun c sd sa sh imm p hp s b x hi hx => ?_, fun c sd sa s b x d hi hx hd => ?_⟩
  · simp only [integerOps, List.mem_cons, List.not_mem_nil, or_false] at hp
    rcases hp with rfl | rfl | rfl | rfl | rfl | rfl | rfl | rfl | rfl | rfl | rfl | rfl | rfl | rfl | rfl | rfl
    iterate 6 exact sBin_ok hi hx hy rfl
    · exact sBin_ok hi hx hy (congrArg (x <<< ·) (toNat_and_63 y).symm)
    · exact sBin_ok hi hx hy (congrArg (x >>> ·) (toNat_and_63 y).symm)
    · exact sBin_ok hi hx hy ((sshiftRight_eq_ofInt ..).trans (congrArg (fun n => BitVec.ofInt 64 (x.toInt / 2 ^ n)) (toNat_and_63 y).symm))
    iterate 7 exact sBin_ok hi hx hy rfl
  · simp only [immediateOps, List.mem_cons, List.not_mem_nil, or_false] at hp
    rcases hp with rfl | rfl | rfl | rfl | rfl | rfl | rfl
    · exact sUn_ok hi hx (add_signExtend x imm)
    · exact sUn_ok hi hx rfl
    · exact sUn_ok hi hx rfl
    · exact sUn_ok hi hx rfl
    · exact sUn_ok hi hx (shiftLeft_eq_ofNat x sh.toNat)
    · exact sUn_ok hi hx (ushiftRight_eq_ofNat x sh.toNat)
    · exact sUn_ok hi hx (sshiftRight_eq_ofInt x sh.toNat)
  · refine ⟨fun imm => sSlot_ok hi rfl, fun imm => sUn_ok hi hd rfl, fun imm himm => sUn_ok hi hd (lihVal_short himm d), fun pos len => sUn_number hi hx rfl,
      fun pos len hlen => ⟨_, sBin_ok hi hd hx rfl, fun i h64 => ?_⟩, ⟨_, sUn_number hi hx rfl, clz_counts x⟩, sUn_number hi hx ?_⟩
    · rw [getLsbD_insVal _ _ _ _ h64]
      simp only [Nat.lt_succ_iff, ← Nat.add_assoc]
    · exact congrArg (BitVec.ofNat 64) (sum_bits x.toNat _)

end

section
/-! The divisions, which fill their destination later; comparing and selecting; addresses and work identifiers; scalar floating point: O16 to
O19. -/

set_option Elab.async false

namespace Sys2Proof.Machine

open Sys2Proof.Claim

/-! ## A result that lands later (R115, R135) -/

@[simp] theorem later_s_zero (k : Ctx) (v : Nat) : k.later (.s 0) v = k := rfl

theorem later_s (k : Ctx) {n : Nat} (hn : n ≠ 0) (v : Nat) : k.later (.s n) v = { k with
    regs := k.regs.mkEmpty (.s n) (k.fl.serial + 1)
    fl := { k.fl with serial := k.fl.serial + 1, fills := k.fl.fills ++ [{ reg := .s n, prod := k.fl.serial + 1, val := v }] } } := by
  rw [Ctx.later, show regZero (.s n) = false from beq_false_of_ne hn]
  rfl

theorem sc_mkEmpty (r : Regs) {m : Nat} (hm : m ≠ 0) (n : Nat) : (r.mkEmpty (.s m) n).sc m = { r.sc m with full := false, mark := { }, prod := n } :=
  (sc_setS ..).trans (if_pos ⟨hm, rfl⟩)

/-- What a change of one context leaves, where it keeps that context's own state and its registers but those listed. -/
theorem onlyFlight_modCtx {s : State} {x : CtxId} {ks : List RegRef} {f : Ctx → Ctx} (hr : sameRegsBut ks (s.ctx x).regs (f (s.ctx x)).regs)
    (hpc : (f (s.ctx x)).pc = (s.ctx x).pc) (hct : (f (s.ctx x)).ct = (s.ctx x).ct) (hpr : (f (s.ctx x)).pr = (s.ctx x).pr)
    (hl : (f (s.ctx x)).loop = (s.ctx x).loop) : onlyFlight s (s.modCtx x f) x ks := by
  refine ⟨sameBytes_modCtx .., sameOutside_modCtx .., ?_⟩
  rw [ctx_modCtx, if_pos rfl]
  exact ⟨hr, hpc, hct, hpr, hl⟩

/-! ## Division (R165) -/

theorem toInt_eq_zero_iff (y : Word) : y.toInt = 0 ↔ y = 0 := by rw [← BitVec.toInt_inj]; rfl
theorem toNat_eq_zero_iff (y : Word) : y.toNat = 0 ↔ y = 0 := by rw [← BitVec.toNat_inj]; rfl

theorem divVal_eq (x y : Word) : divVal x y = quotientS x y := by simp only [divVal, quotientS, toInt_eq_zero_iff]
theorem remVal_eq (x y : Word) : remVal x y = remainderS x y := by simp only [remVal, remainderS, toInt_eq_zero_iff]
theorem divuVal_eq (x y : Word) : divuVal x y = quotientU x y := by simp only [divuVal, quotientU, toNat_eq_zero_iff]
theorem remuVal_eq (x y : Word) : remuVal x y = remainderU x y := by simp only [remuVal, remainderU, toNat_eq_zero_iff]

section Results

variable {c : Cond} {s : State} {b : Bun} (h : s.issues b c) {x y z : Word}
include h

theorem sDiv_ok {sd sa sb : BitVec 6} {v : Word} {f : Word → Word → Word} (hx : rdS (b.env c) sa = .ok x) (hy : rdS (b.env c) sb = .ok y)
    (hv : f x y = v) : sDiv c sd sa sb f s = .next (s.modCtx b.x fun k => k.later (.s sd.toNat) v.toNat) :=
  sSlot_ok h (by rw [hx, ok_bind, hy, ok_bind, hv]; rfl)

theorem exec_divisionOps {p : (Cond → BitVec 6 → BitVec 6 → BitVec 6 → Instr) × (Word → Word → Word)} (hp : p ∈ divisionOps) {sd sa sb : BitVec 6}
    (hx : rdS (b.env c) sa = .ok x) (hy : rdS (b.env c) sb = .ok y) :
    exec (p.1 c sd sa sb) s = .next (s.modCtx b.x fun k => k.later (.s sd.toNat) (p.2 x y).toNat) := by
  simp only [divisionOps, List.mem_cons, List.not_mem_nil, or_false] at hp
  rcases hp with rfl | rfl | rfl | rfl
  · exact sDiv_ok h hx hy (divVal_eq x y)
  · exact sDiv_ok h hx hy (remVal_eq x y)
  · exact sDiv_ok h hx hy (divuVal_eq x y)
  · exact sDiv_ok h hx hy (remuVal_eq x y)

/-! ## Comparing (R167, R174) -/

theorem execCmp_ok {k : CmpCond} {pd : BitVec 3} {sa sb : BitVec 6} {v : Bool} (hx : rdS (b.env c) sa = .ok x) (hy : rdS (b.env c) sb = .ok y)
    (hv : cmpEval k x y = v) : exec (.cmp c k pd sa sb) s = .next (putP s b pd v) :=
  sSlot_ok h (by rw [hx, ok_bind, hy, ok_bind, hv]; rfl)

theorem execFcmp_ok (k : FCond) {f : FFmt} {pd : BitVec 3} {sa sb : BitVec 6} (hx : rdS (b.env c) sa = .ok x) (hy : rdS (b.env c) sb = .ok y) :
    exec (.fcmp c k f pd sa sb) s = .next (putP s b pd (fcmpEval k (fval f x) (fval f y))) :=
  sSlot_ok h (by rw [hx, ok_bind, hy, ok_bind]; rfl)

/-! ## Work identifiers (R171) -/

theorem widf_ok {sd sa : BitVec 6} {ok : Nat → Bool} {f : Nat → Nat → Nat} {w : Nat} (hok : ok (s.lraw b.pre.ct.launch) = true)
    (hw : widSource (b.env c) sa = .ok w) : widf c sd sa ok f s = .next (putS s b sd (f (s.lraw b.pre.ct.launch) w)) := by
  refine sSlot_ok h ?_
  rw [show (b.env c).pre.ct.launch = b.pre.ct.launch from rfl]
  dsimp only
  rw [hok, need_true, ok_bind, hw]
  rfl

theorem widf_refused {sd sa : BitVec 6} {ok : Nat → Bool} {f : Nat → Nat → Nat} (hok : ok (s.lraw b.pre.ct.launch) = false) :
    widf c sd sa ok f s = .next (noted s b 1 (.trap 0x01 0)) := by
  refine sSlot_stop h fun l => ?_
  dsimp only [asks_pre]
  rw [hok, need_false, error_bind]

/-! ## Scalar floats (R172, R173) -/

theorem sFlt_ok {f : FFmt} {rm : Rm} {sd sa sb : BitVec 6} (g : FV → FV → FV) (hx : rdS (b.env c) sa = .ok x) (hy : rdS (b.env c) sb = .ok y) :
    sFlt c f rm sd sa sb g s = .next (putS s b sd ((fmtOf f).conv rm false (g (fval f x) (fval f y))).bits) :=
  (sBin_ok h hx hy rfl).trans (congrArg Host.Outcome.next (putS_ofNat ..))

end Results

theorem plogEval_eq (tt : BitVec 4) (a b : Bool) : plogEval tt a b = tt.getLsbD (2 * b2n a + b2n b) := by
  rw [plogEval, BitVec.getLsbD, Nat.testBit_eq_decide_div_mod_eq]
  rfl

theorem widSource_eq {e : Env} {sa : BitVec 6} {w : Nat} (h : sa = 0 ∧ w = e.pre.ct.wid ∨ sa ≠ 0 ∧ ∃ x, rdS e sa = .ok x ∧ w = x.toNat) :
    widSource e sa = .ok w := by
  rcases h with ⟨h0, rfl⟩ | ⟨h0, x, hx, rfl⟩
  · exact if_pos h0
  · rw [widSource, if_neg h0, hx]
    rfl

theorem lea_value (a y : Word) (k : Nat) : (a + (y <<< k)).toNat = (a.toNat + y.toNat * 2 ^ k) % 2 ^ 64 := by
  rw [BitVec.toNat_add, BitVec.toNat_shiftLeft, Nat.shiftLeft_eq, Nat.add_mod_mod]

theorem leai_value {k : Nat} (a : Word) (imm : BitVec k) : (a + imm.signExtend 64).toNat = zextI (a.toNat + imm.toInt) 64 := by
  have hsum : a + imm.signExtend 64 = BitVec.ofInt 64 (a.toNat + imm.toInt) := by
    rw [BitVec.ofInt_add, BitVec.ofInt_natCast, BitVec.ofNat_toNat, BitVec.setWidth_eq]
    rfl
  rw [hsum, BitVec.toNat_ofInt, zextI]
  
end Sys2Proof.Machine

open Sys2Proof Sys2Proof.Machine Sys2Proof.Claim

/-- Settles O16: each division is `Ctx.later` of its context with the quotient or remainder of R165. -/
theorem division : Obligations.Division := by
  refine ⟨fun c sd sa sb s b x y hi hx hy => ⟨?_, ?_, ?_, ?_⟩, fun p hp c sd sa sb s b x y hi hx hy => ⟨fun h0 => ?_, fun h0 => ?_⟩⟩
  · exact sDiv_ok hi hx hy (divVal_eq x y)
  · exact sDiv_ok hi hx hy (remVal_eq x y)
  · exact sDiv_ok hi hx hy (divuVal_eq x y)
  · exact sDiv_ok hi hx hy (remuVal_eq x y)
  · subst h0
    refine ⟨_, exec_divisionOps hi hp hx hy, onlyFlight_modCtx (sameRegsBut_refl ..) rfl rfl rfl rfl, fun z => ?_⟩
    rw [ctx_modCtx]
    split
    · next hz => rw [hz]; rfl
    · rfl
  · have hn : sd.toNat ≠ 0 := fun h => h0 (BitVec.eq_of_toNat_eq h)
    refine ⟨_, exec_divisionOps hi hp hx hy, ?_, fun z hz => (ctx_modCtx ..).trans (if_neg hz), ?_⟩
    · apply onlyFlight_modCtx <;> rw [later_s _ hn]
      exact sameRegsBut_mkEmpty ..
    · rw [ctx_modCtx, if_pos rfl, later_s _ hn]
      refine ⟨?_, ?_, rfl, rfl⟩ <;> dsimp only <;> rw [sc_mkEmpty _ hn]

/-- Settles O17: each is one S-slot that writes what its condition, its choice or its table says of the values read. -/
theorem comparingAndSelecting : Obligations.ComparingAndSelecting := by
  intro c s b sd sa sb pd pa pb tt x y hi hx hy
  refine ⟨?_, ?_, ?_, ?_, ?_, ?_, ?_, ?_, ?_, ?_, fun f => ⟨?_, ?_, ?_, ?_, ?_⟩⟩
  · exact execCmp_ok hi hx hy rfl
  · exact execCmp_ok hi hx hy decide_not.symm
  · exact execCmp_ok hi hx hy rfl
  · exact execCmp_ok hi hx hy rfl
  · exact execCmp_ok hi hx hy rfl
  · exact execCmp_ok hi hx hy rfl
  · exact execCmp_ok hi hx hy decide_not.symm
  · exact execCmp_ok hi hx hy rfl
  · exact sSlot_ok hi (by rw [hx, ok_bind, hy]; rfl)
  · exact sSlot_ok hi (by rw [plogEval_eq]; rfl)
  · exact execFcmp_ok hi .eq hx hy
  · exact execFcmp_ok hi .lt hx hy
  · exact execFcmp_ok hi .le hx hy
  · exact execFcmp_ok hi .un hx hy
  · exact execFcmp_ok hi .ne hx hy

/-- Settles O18: the address is the sum modulo 2^64; WIDF asks for its field first, and then reads the identifier. -/
theorem addressesAndWorkIdentifiers : Obligations.AddressesAndWorkIdentifiers := by
  refine ⟨fun c s b ad aa sb sd sh imm a y hi ha hy => ⟨?_, ?_, ?_, ?_⟩, fun c s b sd sa n w hi => ?_⟩
  · exact sSlot_ok hi (by rw [ha, ok_bind, hy, ok_bind, lea_value]; rfl)
  · exact sSlot_ok hi (by rw [ha, ok_bind, leai_value]; rfl)
  · exact sSlot_ok hi (by rw [hy]; rfl)
  · exact sSlot_ok hi (by rw [ha]; rfl)
  intro raw hw
  refine ⟨fun hn => ?_, fun hn => ?_, ?_, ?_⟩
  · exact widf_ok (ok := fun raw => decide (n.toNat < lNF raw)) (f := fun raw w => widField raw w n.toNat) hi (decide_eq_true hn) (widSource_eq hw)
  · exact widf_refused (ok := fun raw => decide (n.toNat < lNF raw)) (f := fun raw w => widField raw w n.toNat) hi
      (decide_eq_false (Nat.not_lt.mpr hn))
  · exact widf_ok (ok := fun _ => true) (f := teamOrdinal) hi rfl (widSource_eq hw)
  · exact widf_ok (ok := fun _ => true) (f := teamRank) hi rfl (widSource_eq hw)

/-- Settles O19: each is one S-slot that rounds the exact result of its sources once. -/
theorem scalarFloatingPoint : Obligations.ScalarFloatingPoint := by
  intro c s b f rm sd sa sb x y z hi hx hy hz
  refine ⟨fun p hp => ?_, ?_, ?_, ?_, fun dst src sat => ?_⟩
  · simp only [floatOps, List.mem_cons, List.not_mem_nil, or_false] at hp
    rcases hp with rfl | rfl | rfl
    · exact sFlt_ok hi (FV.add rm) hx hy
    · exact sFlt_ok hi (fsub rm) hx hy
    · exact sFlt_ok hi FV.mul hx hy
  · exact sSlot_ok hi (by rw [hx, ok_bind, hy, ok_bind, hz]; rfl)
  · exact sFlt_ok hi fminV hx hy
  · exact sFlt_ok hi fmaxV hx hy
  · exact sUn_number hi hx rfl

end

section
/-! Passing to the next bundle, and the branch class: O10 and O40. -/

set_option Elab.async false

namespace Sys2Proof.Machine

open Sys2Proof.Claim

/-! ## Passing to the next bundle (R149) -/

/-- A bundle that meets no stop and leaves nothing for its end passes as its slots have left the state. -/
theorem closeBundle_bare {s0 s1 : State} {b : Bun} (hb : s1.bun = some b) (hh : b.pre.fl.holdsAll = false) (ho : b.outs = [])
    (hl : b.late = none) (hp : b.posts = []) : closeBundle s0 s1 = ({ s1 with bun := none } : State).issued b := by
  simp [closeBundle, hb, hh, ho, pickStop, hl, Bun.waitsToCommit, Bun.quietWait, hp]

theorem passBundle_running {c : Ctx} (h : c.delay = 0) : c.passBundle = { c with dslot := c.dslot - 1, pc := (c.pc + 16) % 2 ^ 64 } := by
  simp [Ctx.passBundle, h]

theorem passBundle_last {c : Ctx} (h : c.delay = 1) :
    c.passBundle = { c with dslot := c.dslot - 1, pc := c.target.getD ((c.pc + 16) % 2 ^ 64), target := none, delay := 0 } := by
  simp [Ctx.passBundle, h]

theorem passBundle_counting {c : Ctx} {n : Nat} (h : c.delay = n + 2) :
    c.passBundle = { c with dslot := c.dslot - 1, pc := (c.pc + 16) % 2 ^ 64, delay := n + 1 } := by
  simp [Ctx.passBundle, h]

theorem passBundle_keeps (c : Ctx) : c.passBundle.regs = c.regs ∧ c.passBundle.ct = c.ct := by
  unfold Ctx.passBundle
  dsimp only
  split <;> exact ⟨rfl, rfl⟩

/-- A context with the counts of a bundle that has issued, before the next one is named (R35, R163, R224). -/
def Ctx.countedOn (c : Ctx) (b : Bun) : Ctx :=
  { c with
    ct := { c.ct with issued := (c.ct.issued + 1) % 2 ^ 64 }
    pr := { c.pr with qcount := c.pr.qcount + 1, nb := false }
    vres := c.vresAfter b
    qres := none
    region := c.region.map fun g => ({ g with rlen := g.rlen + b2n b.pre.region.isSome } : Region) }

section Advance

variable {c : Ctx} {b : Bun} (hl : b.pre.loop = none)
include hl

/-- The bundle of a taken branch: the next one is its first delay slot. -/
theorem advance_taken (ht : b.taken = true) : c.advance b = { c.countedOn b with pc := (c.pc + 16) % 2 ^ 64, dslot := 2 } := by
  simp [Ctx.advance, Ctx.countedOn, hl, ht]

/-- Any other: the delay count names the next one. -/
theorem advance_passes (ht : b.taken = false) : ∃ n, c.advance b = { (c.countedOn b).passBundle with dslot := n } := by
  have hpass : c.advance b = if b.br then { (c.countedOn b).passBundle with dslot := 2 } else (c.countedOn b).passBundle := by
    simp [Ctx.advance, Ctx.countedOn, hl, ht]
  rw [hpass]
  split
  · exact ⟨2, rfl⟩
  · exact ⟨_, rfl⟩

/-- Either way it counts in ISSUED, and the registers stand (R163). -/
theorem advance_counts : (c.advance b).regs = c.regs ∧ (c.advance b).ct.issued = (c.ct.issued + 1) % 2 ^ 64 := by
  cases ht : b.taken with
  | true =>
    rw [advance_taken hl ht]
    exact ⟨rfl, rfl⟩
  | false =>
    obtain ⟨n, hn⟩ := advance_passes (c := c) hl ht
    obtain ⟨hregs, hct⟩ := passBundle_keeps (c.countedOn b)
    rw [hn]
    exact ⟨hregs, congrArg Cont.issued hct⟩

end Advance

/-! ## The branch class (R131, R149 to R151) -/

theorem bun_branch {u : State} {b : Bun} (hb : u.bun = some b) (x : CtxId) (t : Nat) : (u.branch x t).bun = some { b with taken := true } := by
  rw [State.branch, hb]
  rfl

/-- A branch from a state whose context differs in its registers alone. -/
theorem taken_branch {s u : State} {b : Bun} {r : Regs} (hb : u.bun = some b) (hbytes : sameBytes s u)
    (hx : u.ctx b.x = { s.ctx b.x with regs := r }) (hy : ∀ y, y ≠ b.x → u.ctx y = s.ctx y) (t : Nat) : Taken s (u.branch b.x t) b t r := by
  refine ⟨?_, bun_branch hb .., sameBytes_trans hbytes (sameBytes_branch ..), fun y hne => ?_⟩
  · rw [ctx_branch, if_pos rfl, hx]
  · rw [ctx_branch, if_neg hne, hy y hne]

section Branch

variable {p : BitVec 3} {s u : State} {b : Bun} (hb : s.bun = some b)
include hb

theorem taken_here (t : Nat) : Taken s (s.branch b.x t) b t (s.ctx b.x).regs := taken_branch hb (sameBytes_refl s) rfl (fun _ _ => rfl) t

/-- One that writes its link register first. -/
theorem taken_linked (k : RegRef) (v t : Nat) : Taken s ((s.wrReg b.x k v).branch b.x t) b t ((s.ctx b.x).regs.wr k v) :=
  taken_branch (u := s.wrReg b.x k v) hb (sameBytes_wrReg ..) ((ctx_wrReg s b.x b.x k v).trans (if_pos rfl))
    (fun y hy => (ctx_wrReg s b.x y k v).trans (if_neg hy)) t

variable {body : Env → State → Rd State} (hd : b.pre.dslot = 0)
include hd

theorem bSlot_held (hp : b.pre.regs.pv p.toNat = false) : bSlot p body s = .next s := dSlot_held hb hp (beq_iff_eq.mpr hd)

variable (hp : b.pre.regs.pv p.toNat = true)
include hp

theorem bSlot_ok (he : body (b.cenv p) s = .ok u) : bSlot p body s = .next u := dSlot_ok hb hp (beq_iff_eq.mpr hd) he

theorem bSlot_stop {st : Stop} (he : ∀ l, body (b.asks (cCond p) l) s = .error st) : bSlot p body s = .next (noted s b 0 st) :=
  dSlot_stop hb hp (fun _ => beq_iff_eq.mpr hd) he

end Branch

theorem bundleAddr_bad {t : Nat} (h : t % 16 ≠ 0) : bundleAddr t = .error (.trap 0x04 t) := if_neg h

theorem regTarget_sum {e : Env} {sb : BitVec 6} {aa : BitVec 4} {x y : Word} (hx : rdA e aa = .ok x) (hy : rdS e sb = .ok y) :
    regTarget e sb aa = bundleAddr ((x.toNat + y.toNat) % 2 ^ 64) := by
  rw [regTarget, hx, ok_bind, hy]
  rfl

end Sys2Proof.Machine

open Sys2Proof Sys2Proof.Machine Sys2Proof.Claim

/-- Settles O10: such a bundle's end is `Ctx.advance` of its context, whose next bundle the delay count names. -/
theorem bundlePassesOn : Obligations.BundlePassesOn := by
  intro s0 s1 b t c d hb hh ho hl hp hloop
  have ht : t = ({ s1 with bun := none } : State).issued b := closeBundle_bare hb hh ho hl hp
  have hd : d = c.advance b := (congrArg (State.ctx · b.x) ht).trans ((ctx_issued ..).trans (if_pos rfl))
  obtain ⟨hregs, hissued⟩ := advance_counts (c := c) hloop
  rw [hd, ht]
  refine ⟨bun_issued .., hregs, hissued, sameBytes_issued ({ s1 with bun := none } : State) b, fun hn => ?_, fun hn h0 => ?_, fun hn h1 a ha => ?_, fun n hn h2 => ?_⟩
  · rw [advance_taken hloop hn]
    exact ⟨rfl, rfl, rfl, rfl⟩
  · obtain ⟨k, hk⟩ := advance_passes (c := c) hloop hn
    rw [hk, passBundle_running (c := c.countedOn b) h0]
    exact ⟨rfl, rfl, h0⟩
  · obtain ⟨k, hk⟩ := advance_passes (c := c) hloop hn
    rw [hk, passBundle_last (c := c.countedOn b) h1, show (c.countedOn b).target = some a from ha]
    exact ⟨rfl, rfl, rfl⟩
  · obtain ⟨k, hk⟩ := advance_passes (c := c) hloop hn
    rw [hk, passBundle_counting (c := c.countedOn b) h2]
    exact ⟨rfl, rfl, rfl⟩

/-- Settles O40: outside a delay slot each of them branches to its target, once that is a bundle address, or its predicate holds it back. -/
theorem branches : Obligations.Branches := by
  constructor
  · intro p disp s b hb hd t regs
    refine ⟨fun hp => ⟨⟨_, bSlot_ok hb hd hp rfl, taken_here hb t⟩, ⟨_, bSlot_ok hb hd hp rfl, taken_linked hb ..⟩,
      fun h0 => ⟨_, bSlot_ok hb hd hp (congrArg Except.ok (if_pos h0)), taken_here hb t⟩, fun h0 => bSlot_ok hb hd hp (congrArg Except.ok (if_neg h0))⟩,
      fun hp => ⟨bSlot_held hb hd hp, bSlot_held hb hd hp, bSlot_held hb hd hp⟩⟩
  · intro p sb aa s b x y z hb hd hp hx hy hz t regs
    have hgo : regTarget (b.cenv p) sb aa = bundleAddr t := regTarget_sum hx hy
    have hask (l : Bool) : regTarget (b.asks (cCond p) l) sb aa = bundleAddr t := regTarget_sum (rdA_relax l hx) (rdS_relax l hy)
    refine ⟨fun ht => ⟨⟨_, bSlot_ok hb hd hp ?_, taken_here hb t⟩, ⟨_, bSlot_ok hb hd hp ?_, taken_linked hb ..⟩⟩,
      fun ht => ⟨bSlot_stop hb hd hp fun l => ?_, bSlot_stop hb hd hp fun l => ?_⟩,
      fun ht => ⟨_, bSlot_ok hb hd hp ?_, taken_here hb z.toNat⟩, fun ht => bSlot_stop hb hd hp fun l => ?_⟩
    · rw [hgo, bundleAddr_ok ht]; rfl
    · rw [hgo, bundleAddr_ok ht]; rfl
    · rw [hask l, bundleAddr_bad ht, error_bind]
    · rw [hask l, bundleAddr_bad ht, error_bind]
    · rw [hz, ok_bind, bundleAddr_ok ht]; rfl
    · rw [rdS_relax l hz, ok_bind, bundleAddr_bad ht, error_bind]

end

section
/-! Arrivals, permits, service calls, traps and breakpoints: O47. -/

set_option Elab.async false

namespace Sys2Proof.Machine

open Sys2Proof.Claim

/-! ## Checks that pass, and reads that also pass where only empty registers are asked for -/

theorem holdAcq_ok {e : Env} (h : e.pre.fl.acq = []) : holdAcq e = .ok () := by rw [holdAcq, h]; rfl
theorem needMb_ok {e : Env} (h : e.pre.pr.mb = true) : needMb e = .ok () := by rw [needMb, Env.mb, h]; rfl
theorem needMb_unbound {e : Env} (h : e.pre.pr.mb = false) : needMb e = .error (.trap 0x01 0) := by rw [needMb, Env.mb, h]; rfl

theorem mapM_ok_mono {α β : Type} {f g : α → Rd β} (h : ∀ i v, f i = .ok v → g i = .ok v) {l : List α} {a : List β} (hf : l.mapM f = .ok a) :
    l.mapM g = .ok a := by
  induction l generalizing a with
  | nil => exact hf
  | cons i l ih =>
    rw [List.mapM_cons] at hf ⊢
    cases hi : f i with
    | error st => rw [hi] at hf; exact nomatch hf
    | ok v =>
      cases hl : l.mapM f with
      | error st => rw [hi, hl] at hf; exact nomatch hf
      | ok vs =>
        rw [hi, hl] at hf
        rw [h i v hi, ih hl]
        exact hf

/-- A table whose entries below `n` that `p` names have each been changed once. -/
theorem tget_foldl_range {α : Type} [DecidableEq α] (d : α) (t : Tab α) (p : Nat → Prop) [DecidablePred p] (g : Nat → α → α) (n k : Nat) :
    tget d ((List.range n).foldl (fun t i => if p i then tset d t i (g i (tget d t i)) else t) t) k =
      if k < n ∧ p k then g k (tget d t k) else tget d t k := by
  induction n with
  | zero => rfl
  | succ n ih =>
    rw [List.range_succ, List.foldl_append, List.foldl_cons, List.foldl_nil]
    by_cases hk : k = n
    · subst hk
      by_cases hp : p k
      · rw [if_pos hp, tget_tset_same, ih]
        simp [hp]
      · rw [if_neg hp, ih]
        simp [hp]
    · have hlt : k < n + 1 ↔ k < n := by omega
      simp only [hlt, ← ih]
      split
      · exact tget_tset_other d _ _ hk
      · rfl

/-! ## In a bundle in flight -/

section InFlight

variable {p : BitVec 3} {s u : State} {b : Bun} (h : s.issues b (cCond p)) {body : Env → State → Rd State}

include h in
theorem cSlot_ok (he : body (b.cenv p) s = .ok u) : cSlot p body s = .next u := runSlot_ok h he

include h in
theorem cSlot_stops {st : Stop} (he : ∀ l, body (b.asks (cCond p) l) s = .error st) : cSlot p body s = .next (noted s b 0 st) :=
  cSlot_stop h.1 ((condRuns_cCond p b.pre).symm.trans h.2) he

/-- A direct access joins its context's pending ones, and nothing else changes. -/
theorem ctx_addPend (s : State) (x y : CtxId) (k : PKind) (addr : Nat) (o : Ord) (sc : Scope) (dst : Option (RegRef × Nat)) (baddr : Nat)
    (ovr : Tab Nat) (ea : Nat) : (s.addPend x k addr o sc dst baddr ovr ea).ctx y = if y = x then
      { s.ctx x with fl := { (s.ctx x).fl with serial := (s.ctx x).fl.serial + 1, pend := (s.ctx x).fl.pend ++
        [{ serial := (s.ctx x).fl.serial + 1, kind := k, addr := addr, ord := o, sc := sc, dst := dst, baddr := baddr, ovr := ovr, ea := ea
           at_ := s.tick, delay := (s.ctx x).delayed }] } } else s.ctx y :=
  ctx_modCtx ..

theorem issued_addPend (s : State) (x : CtxId) (k : PKind) (addr : Nat) (o : Ord) (sc : Scope) (dst : Option (RegRef × Nat)) (baddr : Nat)
    (ovr : Tab Nat) (ea : Nat) : Issued s (s.addPend x k addr o sc dst baddr ovr ea) x
      { serial := (s.ctx x).fl.serial + 1, kind := k, addr := addr, ord := o, sc := sc, dst := dst, baddr := baddr, ovr := ovr, ea := ea
        at_ := s.tick, delay := (s.ctx x).delayed } := by
  have hx := ctx_addPend s x x k addr o sc dst baddr ovr ea
  rw [if_pos rfl] at hx
  exact ⟨sameBytes_modCtx .., congrArg (fun c : Ctx => c.fl.pend) hx, congrArg (fun c : Ctx => c.fl.serial) hx, fun y hy => (ctx_addPend ..).trans (if_neg hy)⟩

theorem regs_addPend (s : State) (x : CtxId) (k : PKind) (addr : Nat) (o : Ord) (sc : Scope) (dst : Option (RegRef × Nat)) (baddr : Nat)
    (ovr : Tab Nat) (ea : Nat) : ((s.addPend x k addr o sc dst baddr ovr ea).ctx x).regs = (s.ctx x).regs := by
  rw [ctx_addPend, if_pos rfl]

variable (hr : b.pre.region = none) (ha : b.pre.fl.acq = [])
include h hr ha

theorem execTbar_ok : execTbar p s = .next (s.addPend b.x .tbar 0 .rel .cl none b.baddr [] 0) :=
  cSlot_ok h (by rw [noRegion_ok (e := b.cenv p) hr, ok_bind, holdAcq_ok (e := b.cenv p) ha]; rfl)

/-- The stage counters that PERMIT's mask names, advanced (R159). -/
theorem execPermit_ok {mask : BitVec 4} (hmb : b.pre.pr.mb = true) : execPermit p mask s = .next (s.modMx b.x.coreId fun m => { m with
    stage := (List.range 4).foldl (fun t i =>
      if mask.toNat / 2 ^ i % 2 = 1 then tset 0 t i ((tget 0 t i + 1) % 2 ^ 32) else t) m.stage }) :=
  cSlot_ok h (by rw [noRegion_ok (e := b.cenv p) hr, ok_bind, needMb_ok (e := b.cenv p) hmb, ok_bind, holdAcq_ok (e := b.cenv p) ha]; rfl)

omit ha in
theorem execPermit_unbound {mask : BitVec 4} (hmb : b.pre.pr.mb = false) : execPermit p mask s = .next (noted s b 0 (.trap 0x01 0)) :=
  cSlot_stops h fun l => by rw [noRegion_ok (e := b.asks (cCond p) l) hr, ok_bind, needMb_unbound (e := b.asks (cCond p) l) hmb, error_bind]

variable {n : BitVec 16} {a : List Word} (hargs : [1, 2, 3, 4, 5, 6, 7, 8].mapM (fun k => rdS (b.cenv p) (BitVec.ofNat 6 k)) = .ok a)
include hargs

theorem execSvc_ok (ho : b.pre.ct.svcOpen = false) (hroom : (s.cl b.x.cl).svcRoom = true) : execSvc p n s = .next (s.post (.svc n.toNat a)) :=
  cSlot_ok h (by
    rw [noRegion_ok (e := b.cenv p) hr, ok_bind, hargs, ok_bind, holdAcq_ok (e := b.cenv p) ha, ok_bind,
      show (!(b.cenv p).pre.ct.svcOpen && (s.cl (b.cenv p).x.cl).svcRoom) = true from (congrArg₂ (!· && ·) ho hroom)]
    rfl)

theorem execSvc_blocks (hc : b.pre.ct.svcOpen = true ∨ (s.cl b.x.cl).svcRoom = false) : execSvc p n s = .next (noted s b 0 (.block .svc)) := by
  have hno : (!b.pre.ct.svcOpen && (s.cl b.x.cl).svcRoom) = false := by rcases hc with hc | hc <;> simp [hc]
  refine cSlot_stops h fun l => ?_
  rw [noRegion_ok (e := b.asks (cCond p) l) hr, ok_bind, mapM_ok_mono (fun _ _ hk => rdS_relax l hk) hargs, ok_bind,
    holdAcq_ok (e := b.asks (cCond p) l) ha, ok_bind, asks_pre, asks_x, hno, need_false, error_bind]

end InFlight

/-! ## Alone in a bundle -/

theorem cl_issued_keep {β : Type} (f : Cluster → β) (s : State) (b : Bun) (k : Nat)
    (hf : ∀ c j o, f (Cluster.setCore c j o) = f c := by exact fun _ _ _ => rfl) : f ((s.issued b).cl k) = f (s.cl k) := by
  have htally (t : State) (x : CtxId) (code n : Nat) : f ((t.tally x code n).cl k) = f (t.cl k) := by
    unfold State.tally
    split
    · rfl
    · exact cl_modCore_keep f t _ _ k hf
  rw [State.issued, htally, htally, cl_modCore_keep f _ _ _ k hf, cl_modCtx_keep f _ _ _ k hf]

/-- TRAP and BRK count once the bundle has met no stop (R140, R161). -/
theorem closeBundle_late {s0 s1 : State} {b : Bun} {cause n : Nat} (hb : s1.bun = some b) (hh : b.pre.fl.holdsAll = false) (ho : b.outs = [])
    (hl : b.late = some (cause, n)) (hr : b.pre.region = none) :
    closeBundle s0 s1 = s0.takeTrap b.x cause 0 b.baddr n (cause == 0x0A) false b.pre.delayed := by
  simp [closeBundle, hb, hh, ho, pickStop, hl, State.lateStop, hr]

/-- A context after its SVC: s1 and s2 empty for the answer, the eight arguments kept (R160). -/
def Ctx.afterSvc (c : Ctx) (a : List Word) : Ctx :=
  { c with
    regs := (c.regs.mkEmpty (.s 1) (c.fl.serial + 1)).mkEmpty (.s 2) (c.fl.serial + 2)
    fl := { c.fl with serial := c.fl.serial + 2 }
    ct := { c.ct with
      svcOpen := true, svcProd1 := c.fl.serial + 1, svcProd2 := c.fl.serial + 2
      svcArgs := (List.range 8).foldl (fun t i => tset 0 t i ((a.getD i 0).toNat)) c.ct.svcArgs } }

section Alone

variable {s : State} (hs : s.plain) {p : BitVec 3} (hp : (s.ctx s.cur).regs.pv p.toNat = true)
include hs

/-- A bundle that does nothing passes to the next one. -/
theorem passes_idle : WentOn s (closeBundle s (s.openAlone false)) ∧ ((closeBundle s (s.openAlone false)).ctx s.cur).regs = (s.ctx s.cur).regs
    ∧ sameBytes s (closeBundle s (s.openAlone false)) := by
  obtain ⟨hb, hloop, -, hhold, -, -, -⟩ := id hs
  have hclose : closeBundle s (s.openAlone false) = s.issued (aloneBun s false []) := by
    rw [closeBundle_wrote (br := false) rfl hhold, show ({ s.openAlone false with bun := none } : State) = s from withBun_none hb]
  rw [hclose]
  exact ⟨wentOn_issued hs rfl hb rfl rfl rfl, (congrArg Ctx.regs (ctx_issued_alone s s false [])).trans (advance_counts hloop).1, sameBytes_issued ..⟩

include hp

theorem lateTrap_alone {body : Env → State → Rd State} {cause n : Nat} (he : body s.env (s.openAlone false) = .ok ((s.openAlone false).lateTrap cause n)) :
    cSlot p body s = .next (s.takeTrap s.cur cause 0 (s.ctx s.cur).pc n (cause == 0x0A) false (s.ctx s.cur).delayed) := by
  obtain ⟨hb, -, hr, hhold, -, -, -⟩ := hs
  exact (cSlot_alone hb hp he).trans (congrArg Host.Outcome.next (closeBundle_late
    (b := { openedBun s.cur (s.ctx s.cur) ((s.bundleAt s.cur).getD 0) false with late := some (cause, n) }) rfl hhold rfl rfl hr))

omit hs hp in
/-- SVC's part of the end of its bundle (R160). -/
theorem ctx_early_svc (s : State) (b : Bun) (n : Nat) (a : List Word) : (s.early b (.svc n a)).ctx b.x = (s.ctx b.x).afterSvc a :=
  (ctx_addRecord ..).trans ((ctx_modCtx ..).trans (if_pos rfl))

theorem execSvc_alone {n : BitVec 16} {a : List Word} (hargs : [1, 2, 3, 4, 5, 6, 7, 8].mapM (fun k => rdS s.env (BitVec.ofNat 6 k)) = .ok a)
    (ha : (s.ctx s.cur).fl.acq = []) (ho : (s.ctx s.cur).ct.svcOpen = false) (hroom : (s.cl s.cur.cl).svcRoom = true) :
    execSvc p n s = .next ((s.early (aloneBun s false [.svc n.toNat a]) (.svc n.toNat a)).issued (aloneBun s false [.svc n.toNat a])) := by
  obtain ⟨hb, -, hr, hhold, -, -, -⟩ := hs
  refine (cSlot_alone (u := (s.openAlone false).post (.svc n.toNat a)) hb hp ?_).trans
    (congrArg Host.Outcome.next (closeBundle_post hb hhold (by simp) rfl))
  rw [noRegion_ok (e := s.env) hr, ok_bind, hargs, ok_bind, holdAcq_ok (e := s.env) ha, ok_bind,
    show (!s.env.pre.ct.svcOpen && ((s.openAlone false).cl s.env.x.cl).svcRoom) = true from (congrArg₂ (!· && ·) ho hroom)]
  rfl

end Alone

/-- Two registers marked empty, and every other as it was. -/
theorem mkEmpty_twice (r : Regs) (m n : Nat) : let q := (r.mkEmpty (.s 1) m).mkEmpty (.s 2) n
    (q.sc 1).full = false ∧ (q.sc 2).full = false ∧ sameRegsBut [.s 1, .s 2] r q := by
  intro q
  have h1 : q.sc 1 = (r.mkEmpty (.s 1) m).sc 1 := (sc_setS ..).trans (if_neg (by decide))
  refine ⟨?_, ?_, ?_, fun _ _ => rfl, fun _ _ => rfl, fun _ _ => rfl, rfl, rfl⟩
  · rw [h1, sc_mkEmpty _ (by decide)]
  · rw [sc_mkEmpty _ (by decide)]
  · intro k hk
    simp only [List.mem_cons, RegRef.s.injEq, List.not_mem_nil, or_false, not_or] at hk
    exact (sc_setS ..).trans ((if_neg fun h => hk.2 h.2).trans ((sc_setS ..).trans (if_neg fun h => hk.1 h.2)))

end Sys2Proof.Machine

open Sys2Proof Sys2Proof.Machine Sys2Proof.Claim

/-- Settles O47: each passes its checks, or the first that fails is its stop; alone, TRAP and BRK are `takeTrap` on the state before the bundle. -/
theorem arrivalsCallsAndTraps : Obligations.ArrivalsCallsAndTraps := by
  constructor
  · intro p mask n s b hi hr ha
    refine ⟨⟨_, execTbar_ok hi hr ha, regs_addPend .., issued_addPend ..⟩, fun hmb => ⟨_, execPermit_ok hi hr ha hmb, sameBytes_modMx .., fun _ => ctx_modMx .., ?_⟩,
      fun hmb => execPermit_unbound hi hr hmb, fun a hargs => ⟨fun ho hroom => execSvc_ok hi hr ha hargs ho hroom, fun hc => execSvc_blocks hi hr ha hargs hc⟩⟩
    intro i h4
    rw [core_modMx, tget_foldl_range 0 _ (fun i => mask.toNat / 2 ^ i % 2 = 1) (fun _ v => (v + 1) % 2 ^ 32)]
    simp only [h4, true_and, BitVec.getLsbD, Nat.testBit_eq_decide_div_mod_eq, decide_eq_true_eq]
  · intro p n s hs hp x c stop
    obtain ⟨hb, hloop, -, -, hdelay, -, -⟩ := id hs
    have hstop (cause : Nat) : stop (s.takeTrap x cause 0 c.pc n.toNat (cause == 0x0A) false c.delayed) cause :=
      ⟨(bun_takeTrap ..).trans hb, sameBytes_takeTrap .., (ctx_takeTrap ..).trans (if_pos rfl), _, trapWait_takeTrap .., rfl, rfl, rfl, rfl, rfl, rfl, rfl, rfl⟩
    refine ⟨⟨_, lateTrap_alone hs hp rfl, hstop 0x0A⟩, fun hnb => ⟨_, lateTrap_alone hs hp ?_, hstop 0x09⟩, fun hnb => ?_, fun a hargs ha ho hroom => ?_⟩
    · exact congrArg Except.ok (if_neg (by rw [show s.env.pre.pr.nb = false from hnb]; decide))
    · exact ⟨_, cSlot_alone hb hp (congrArg Except.ok (if_pos hnb)), passes_idle hs⟩
    · have hearly : (s.early (aloneBun s false [.svc n.toNat a]) (.svc n.toNat a)).ctx s.cur = c.afterSvc a := ctx_early_svc ..
      have hctx := (ctx_issued_alone s (s.early (aloneBun s false [.svc n.toNat a]) (.svc n.toNat a)) false [.svc n.toNat a]).trans
        ((congrArg (Ctx.advance · _) hearly).trans (advance_inOrder hloop rfl rfl hdelay))
      refine ⟨_, execSvc_alone hs hp hargs ha ho hroom, wentOn_issued hs rfl hb ?_ ?_ ?_,
        sameBytes_trans (sameBytes_trans (sameBytes_modCtx ..) (sameBytes_addRecord ..)) (sameBytes_issued ..), ?_⟩
      · rw [hearly]; rfl
      · rw [hearly]; rfl
      · rw [hearly]; rfl
      · rw [hctx, cl_issued_keep Cluster.trapWait]
        obtain ⟨h1, h2, hrest⟩ := mkEmpty_twice c.regs (c.fl.serial + 1) (c.fl.serial + 2)
        refine ⟨rfl, h1, h2, hrest, fun i h8 => ?_, rfl, _, (trapWait_addRecord ..).trans (congrArg (· ++ _) (cl_modCtx_keep Cluster.trapWait ..)),
          rfl, rfl, rfl, rfl, rfl, rfl, rfl⟩
        have hfold := tget_foldl_range 0 c.ct.svcArgs (fun _ => True) (fun i _ => (a.getD i 0).toNat) 8 i
        simp only [if_true] at hfold
        exact hfold.trans (if_pos ⟨h8, trivial⟩)

end

section
/-! Control registers: O48. -/

set_option Elab.async false

namespace Sys2Proof.Machine

open Sys2Proof.Claim

/-! ## Register numbers (R162, R163) -/

theorem toNat_creg {n : Nat} (h : n < 2 ^ 12) : (BitVec.ofNat 12 n).toNat = n := by rw [BitVec.toNat_ofNat, Nat.mod_eq_of_lt h]

theorem lt_of_cregListed {k : Nat} (h : cregListed k = true) : k < 0x800 := by
  simp only [cregListed, Bool.or_eq_true, decide_eq_true_eq] at h
  omega

theorem cregCore_iff (k : Nat) : cregCore k = true ↔ 0x010 ≤ k ∧ k ≤ 0x02F := by simp [cregCore]

section Numbers

variable {n : Nat}

theorem cregListed_peak (h : n < 8) : cregListed (0x010 + n) = true := by simp [cregListed]; omega
theorem cregListed_donebelow (h : n < 4) : cregListed (0x018 + n) = true := by simp [cregListed]; omega
theorem cregListed_ring (h : n < 0x010) : cregListed (0x020 + n) = true := by simp [cregListed]; omega

variable (s : State) (x : CtxId) (c : Ctx)

theorem readCreg_core {k : Nat} (h : 0x010 ≤ k) : readCreg s x c k = let m := (s.core x.coreId).mx
    if k < 0x018 then tget 0 m.pk (k - 0x010) else if k < 0x020 then tget 0 m.donebelow (k - 0x018)
    else if k % 2 = 0 then (tget ({ } : Ring) m.rings ((k - 0x020) / 2)).lo else (tget ({ } : Ring) m.rings ((k - 0x020) / 2)).pmap := by
  have hne (j : Nat) (hj : j < 0x010) : k ≠ j := by omega
  simp [readCreg, hne]

theorem readCreg_peak (h : n < 8) : readCreg s x c (0x010 + n) = tget 0 (s.core x.coreId).mx.pk n := by
  rw [readCreg_core s x c (by omega), if_pos (by omega), Nat.add_sub_cancel_left]

theorem readCreg_donebelow (h : n < 4) : readCreg s x c (0x018 + n) = tget 0 (s.core x.coreId).mx.donebelow n := by
  rw [readCreg_core s x c (by omega), if_neg (by omega), if_pos (by omega), Nat.add_sub_cancel_left]

theorem readCreg_ringLo : readCreg s x c (0x020 + 2 * n) = (tget ({ } : Ring) (s.core x.coreId).mx.rings n).lo := by
  rw [readCreg_core s x c (by omega), if_neg (by omega), if_neg (by omega), if_pos (by omega), show (0x020 + 2 * n - 0x020) / 2 = n by omega]

theorem readCreg_ringMap : readCreg s x c (0x021 + 2 * n) = (tget ({ } : Ring) (s.core x.coreId).mx.rings n).pmap := by
  rw [readCreg_core s x c (by omega), if_neg (by omega), if_neg (by omega), if_neg (by omega), show (0x021 + 2 * n - 0x020) / 2 = n by omega]

end Numbers

/-! ## The checks of MFC and MTC -/

theorem cregOwned_ok {e : Env} {k : Nat} (h : cregCore k = true → e.pre.pr.mb = true) : cregOwned e k = .ok () := by
  unfold cregOwned
  cases hk : cregCore k with
  | false => simp
  | true => simp [Env.mb, h hk]

theorem cregOwned_high {e : Env} {k : Nat} (h : 0x800 ≤ k) : cregOwned e k = .ok () := by simp [cregOwned, h]

theorem cregOwned_unbound {e : Env} {k : Nat} (hk : cregCore k = true) (hmb : e.pre.pr.mb = false) : cregOwned e k = .error (.trap 0x01 0) := by
  have hlow : ¬0x800 ≤ k := by have := (cregCore_iff k).mp hk; omega
  simp [cregOwned, hlow, hk, Env.mb, hmb]

/-- A peak register is settled where none of the updates before it is outstanding (R106, R230). -/
def PeakReady (s : State) (e : Env) (k : Nat) : Prop :=
  0x010 ≤ k ∧ k ≤ 0x017 → heldIssued s e = true ∧ peakSettled (s.core e.x.coreId).mx (k - 0x010) e.pre.ct.issued = true

theorem peakReady_other {s : State} {e : Env} {k : Nat} (h : k < 0x010 ∨ 0x017 < k) : PeakReady s e k := fun _ => by omega

/-- The meaning of MFC, and of MTC, once the number is one that the words allow. -/
def mfcBody (sd : BitVec 6) (k : Nat) (e : Env) (s : State) : Rd State := do
  cregOwned e k
  need (decide (k < 0x800)) (.trap 0x08 k)
  if 0x010 ≤ k ∧ k ≤ 0x017 then
    need (heldIssued s e) (.block .held)
    need (peakSettled (s.core e.x.coreId).mx (k - 0x010) e.pre.ct.issued) (.block .mstat)
  .ok (s.wrReg e.x (.s sd.toNat) (readCreg s e.x e.pre k))

def mtcBody (sS : BitVec 6) (k : Nat) (e : Env) (s : State) : Rd State := do
  cregOwned e k
  let v ← rdS e sS
  need (decide (k < 0x800)) (.trap 0x08 k)
  need (mtcValue k v.toNat) (.trap 0x01 0)
  need (!cregCore k || heldIssued s e) (.block .held)
  if 0x010 ≤ k ∧ k ≤ 0x017 then
    need (peakSettled (s.core e.x.coreId).mx (k - 0x010) e.pre.ct.issued) (.block .mstat)
  need (decide (k < 0x020) || ringFree (s.core e.x.coreId).mx ((k - 0x020) / 2)) (.block .ring)
  .ok (s.post (.creg k v))

theorem execMfc_eq (p : BitVec 3) (sd : BitVec 6) (k : BitVec 12) :
    execMfc p sd k = dSlot p false (fun _ => cregKnown k.toNat false) (mfcBody sd k.toNat) := rfl

theorem execMtc_eq (p : BitVec 3) (k : BitVec 12) (sS : BitVec 6) : execMtc p k sS =
    dSlot p false (fun _ => cregKnown k.toNat true) (fun e s => do noRegion e; mtcBody sS k.toNat e s) := rfl

theorem mfcBody_ok {sd : BitVec 6} {k : Nat} {e : Env} {s : State} (hk : k < 0x800) (hown : cregCore k = true → e.pre.pr.mb = true)
    (hpk : PeakReady s e k) : mfcBody sd k e s = .ok (s.wrReg e.x (.s sd.toNat) (readCreg s e.x e.pre k)) := by
  rw [mfcBody, cregOwned_ok hown, ok_bind, decide_eq_true hk, need_true, ok_bind]
  split
  · next hp =>
    obtain ⟨hheld, hset⟩ := hpk hp
    rw [hheld, hset]
    rfl
  · rfl

theorem mtcBody_ok {sS : BitVec 6} {k : Nat} {e : Env} {s : State} {v : Word} (hk : k < 0x800) (hv : rdS e sS = .ok v)
    (hval : mtcValue k v.toNat = true) (hown : cregCore k = true → e.pre.pr.mb = true ∧ heldIssued s e = true) (hpk : PeakReady s e k)
    (hring : k < 0x020 ∨ ringFree (s.core e.x.coreId).mx ((k - 0x020) / 2) = true) : mtcBody sS k e s = .ok (s.post (.creg k v)) := by
  have hheld : (!cregCore k || heldIssued s e) = true := by
    cases hc : cregCore k with
    | false => rfl
    | true => exact (hown hc).2
  have hfree : (decide (k < 0x020) || ringFree (s.core e.x.coreId).mx ((k - 0x020) / 2)) = true := by simpa using hring
  rw [mtcBody, cregOwned_ok fun hc => (hown hc).1, ok_bind, hv, ok_bind, decide_eq_true hk, need_true, ok_bind, hval, need_true, ok_bind, hheld,
    need_true, ok_bind, hfree]
  split
  · next hp =>
    rw [(hpk hp).2]
    rfl
  · rfl

/-! ## In a bundle in flight -/

section InFlight

variable {p : BitVec 3} {s : State} {b : Bun} (h : s.issues b (cCond p)) {k : BitVec 12}
include h

theorem pv_of_issues : b.pre.regs.pv p.toNat = true := (condRuns_cCond p b.pre).symm.trans h.2

/-- A form whose words alone allow it or not: cause 0x01 both where they do not and where its meaning raises it. -/
theorem dSlot_raises {br chk : Bool} {body : Env → State → Rd State} (he : ∀ l, body (b.asks (cCond 0) l) s = .error (.trap 0x01 0)) :
    dSlot p br (fun _ => chk) body s = .next (noted s b 0 (.trap 0x01 0)) := by
  cases chk with
  | false => exact dSlot_refused h.1 fun _ => rfl
  | true => exact dSlot_stop h.1 (pv_of_issues h) (fun _ => rfl) he

section Mfc

variable {sd : BitVec 6}

theorem execMfc_ok {n : Nat} (hn : k.toNat = n) (hk : cregListed n = true) (hown : cregCore n = true → b.pre.pr.mb = true)
    (hpk : PeakReady s (b.cenv p) n) : execMfc p sd k s = .next (putS s b sd (readCreg s b.x b.pre n)) := by
  subst hn
  exact (congrFun (execMfc_eq p sd k) s).trans
    (dSlot_ok h.1 (pv_of_issues h) (by simp [cregKnown, hk]) (mfcBody_ok (lt_of_cregListed hk) hown hpk))

/-- A register of the context's own (R163). -/
theorem execMfc_own {n : Nat} (hn : k.toNat = n) (hk : n < 0x00A) : execMfc p sd k s = .next (putS s b sd (readCreg s b.x b.pre n)) :=
  execMfc_ok h hn (by simp [cregListed]; omega) (fun hc => by have := (cregCore_iff n).mp hc; omega) (peakReady_other (by omega))

theorem execMfc_unbound (hmb : b.pre.pr.mb = false) (hk : cregCore k.toNat = true) : execMfc p sd k s = .next (noted s b 0 (.trap 0x01 0)) :=
  dSlot_raises h fun l => by rw [cregOwned_unbound (e := b.asks (cCond 0) l) hk hmb, error_bind]

theorem execMfc_high (hk : 0x800 ≤ k.toNat) : execMfc p sd k s = .next (noted s b 0 (.trap 0x08 k.toNat)) :=
  dSlot_stop h.1 (pv_of_issues h) (fun _ => by simp [cregKnown, hk]) fun l => by
    rw [cregOwned_high hk, ok_bind, decide_eq_false (by omega), need_false, error_bind]

theorem execMfc_unlisted (hk : cregListed k.toNat = false) (hlow : k.toNat < 0x800) :
    execMfc p sd k s = .next (noted s b 0 (.trap 0x01 0)) :=
  dSlot_refused h.1 fun _ => by simp [cregKnown, hk, hlow]

end Mfc

variable {sS : BitVec 6}

theorem execMtc_unwritable (hk : cregWritable k.toNat = false) (hlow : k.toNat < 0x800) :
    execMtc p k sS s = .next (noted s b 0 (.trap 0x01 0)) :=
  dSlot_refused h.1 fun _ => by simp [cregKnown, hk, hlow]

theorem execMtc_illegal (hr : b.pre.region.isSome = true) (hk : cregKnown k.toNat true = true) :
    execMtc p k sS s = .next (noted s b 0 (.roll 0x07 0)) := by
  rw [execMtc_eq]
  exact dSlot_illegal h.1 (pv_of_issues h) hr fun _ => hk

variable (hr : b.pre.region = none)
include hr

theorem execMtc_unbound (hmb : b.pre.pr.mb = false) (hk : cregCore k.toNat = true) : execMtc p k sS s = .next (noted s b 0 (.trap 0x01 0)) :=
  dSlot_raises h fun l => by
    rw [noRegion_ok (e := b.asks (cCond 0) l) hr, ok_bind, cregOwned_unbound (e := b.asks (cCond 0) l) hk hmb, error_bind]

variable {v : Word} (hv : rdS (b.cenv p) sS = .ok v)
include hv

theorem execMtc_high (hk : 0x800 ≤ k.toNat) : execMtc p k sS s = .next (noted s b 0 (.trap 0x08 k.toNat)) :=
  dSlot_stop h.1 (pv_of_issues h) (fun _ => by simp [cregKnown, hk]) fun l => by
    rw [noRegion_ok (e := b.asks (cCond 0) l) hr, ok_bind, cregOwned_high hk, ok_bind, rdS_relax (c := cCond 0) l hv, ok_bind,
      decide_eq_false (by omega), need_false, error_bind]

theorem execMtc_ok (hk : cregListed k.toNat = true) (hw : cregWritable k.toNat = true) (hval : mtcValue k.toNat v.toNat = true)
    (hown : cregCore k.toNat = true → b.pre.pr.mb = true ∧ heldIssued s (b.cenv p) = true) (hpk : PeakReady s (b.cenv p) k.toNat)
    (hring : k.toNat < 0x020 ∨ ringFree (s.core b.x.coreId).mx ((k.toNat - 0x020) / 2) = true) :
    execMtc p k sS s = .next (s.post (.creg k.toNat v)) := by
  rw [execMtc_eq]
  refine dSlot_ok h.1 (pv_of_issues h) (by simp [cregKnown, hk, hw]) ?_
  rw [noRegion_ok (e := b.cenv p) hr, ok_bind]
  exact mtcBody_ok (lt_of_cregListed hk) hv hval hown hpk hring

end InFlight

/-! ## Alone in a bundle -/

section Alone

/-- The end of a bundle changes of its core's matrix state nothing. -/
theorem mx_issued (s : State) (b : Bun) (c : CoreId) : ((s.issued b).core c).mx = (s.core c).mx := by
  rw [State.issued, core_tally_keep Core.mx, core_tally_keep Core.mx, core_modCore]
  split
  · next hc => rw [← core_modCtx_keep Core.mx s b.x, hc]
  · exact core_modCtx_keep Core.mx ..

theorem writeCreg_ctx (s : State) (x : CtxId) (k : Nat) (v : Word) :
    ∃ a d, (s.writeCreg x k v).ctx x = { s.ctx x with ct := { (s.ctx x).ct with padv := a, padb := d } } := by
  unfold State.writeCreg
  split
  · exact ⟨_, _, (ctx_modCtx ..).trans (if_pos rfl)⟩
  split
  · exact ⟨_, _, (ctx_modCtx ..).trans (if_pos rfl)⟩
  split
  · exact ⟨_, _, ctx_modMx ..⟩
  split
  · exact ⟨_, _, ctx_modMx ..⟩
  · exact ⟨_, _, rfl⟩

theorem bun_writeCreg (s : State) (x : CtxId) (k : Nat) (v : Word) : (s.writeCreg x k v).bun = s.bun := by
  unfold State.writeCreg
  split
  · rfl
  split
  · rfl
  split
  · rfl
  split <;> rfl

variable {s : State} (hs : s.plain) {p : BitVec 3} (hp : (s.ctx s.cur).regs.pv p.toNat = true) {sS : BitVec 6} {v : Word}
  (hv : rdS s.env sS = .ok v)
include hs hp hv

/-- MTC writes its register at the end of its bundle, and the context goes on (R149, R163). -/
theorem execMtc_alone {k : BitVec 12} {n : Nat} (hn : k.toNat = n) (hk : cregListed n = true) (hw : cregWritable n = true)
    (hval : mtcValue n v.toNat = true)
    (hown : cregCore n = true → (s.ctx s.cur).pr.mb = true ∧ (s.ctx s.cur).heldCmd = [])
    (hpk : 0x010 ≤ n ∧ n ≤ 0x017 → peakSettled (s.core s.cur.coreId).mx (n - 0x010) (s.ctx s.cur).ct.issued = true)
    (hring : n < 0x020 ∨ ringFree (s.core s.cur.coreId).mx ((n - 0x020) / 2) = true) :
    ∃ t, execMtc p k sS s = .next t ∧ WentOn s t ∧ (t.ctx s.cur).regs = (s.ctx s.cur).regs
      ∧ (t.ctx s.cur).ct.padv = ((s.writeCreg s.cur n v).ctx s.cur).ct.padv
      ∧ (t.ctx s.cur).ct.padb = ((s.writeCreg s.cur n v).ctx s.cur).ct.padb
      ∧ (t.core s.cur.coreId).mx = ((s.writeCreg s.cur n v).core s.cur.coreId).mx := by
  subst hn
  obtain ⟨hb, hloop, hr, hhold, hdelay, -, -⟩ := id hs
  have hheld (hc : cregCore k.toNat = true) : heldIssued (s.openAlone false) s.env = true := by
    simp [heldIssued, show ((s.openAlone false).ctx s.env.x).heldCmd = [] from (hown hc).2]
  have hbody : mtcBody sS k.toNat s.env (s.openAlone false) = .ok ((s.openAlone false).post (.creg k.toNat v)) :=
    mtcBody_ok (lt_of_cregListed hk) hv hval (fun hc => ⟨(hown hc).1, hheld hc⟩)
      (fun hpeak => ⟨hheld ((cregCore_iff _).mpr (by omega)), hpk hpeak⟩) hring
  have hexec : execMtc p k sS s = .next ((s.writeCreg s.cur k.toNat v).issued (aloneBun s false [.creg k.toNat v])) := by
    rw [execMtc_eq]
    refine (dSlot_alone hb hp (by simp [cregKnown, hk, hw]) ?_).trans (congrArg Host.Outcome.next (closeBundle_post (q := .creg k.toNat v) hb hhold (by simp) rfl))
    rw [noRegion_ok (e := s.env) hr, ok_bind, hbody]
  obtain ⟨a, d, hc⟩ := writeCreg_ctx s s.cur k.toNat v
  have hctx := ctx_issued_alone s (s.writeCreg s.cur k.toNat v) false [.creg k.toNat v]
  rw [advance_inOrder hloop rfl rfl (by rw [hc]; exact hdelay)] at hctx
  refine ⟨_, hexec, wentOn_issued hs rfl ((bun_writeCreg ..).trans hb) (by rw [hc]) (by rw [hc]) (by rw [hc]), ?_, ?_, ?_, mx_issued ..⟩
  · rw [hctx, hc]
  · rw [hctx]
  · rw [hctx]

end Alone

/-! ## What MTC writes -/

theorem writeCreg_padv (s : State) (x : CtxId) (v : Word) : s.writeCreg x 0x006 v = s.modCt x fun c => { c with padv := v.toNat % 2 ^ 32 } := rfl

theorem writeCreg_padb (s : State) (x : CtxId) (v : Word) : s.writeCreg x 0x007 v = s.modCt x fun c => { c with padb := v.toNat % 2 ^ 32 } := rfl

theorem pk_writeCreg (s : State) (x : CtxId) {n : Nat} (h : n < 8) (v : Word) :
    tget 0 ((s.writeCreg x (0x010 + n) v).core x.coreId).mx.pk n = v.toNat % 2 ^ 31 := by
  rw [State.writeCreg, if_neg (by omega), if_neg (by omega), if_pos (by omega), core_modMx, Nat.add_sub_cancel_left, tget_tset_same]

/-- A ring that nothing names is written without a reservation, and no one waits for it. -/
theorem ring_writeCreg (s : State) (x : CtxId) {n : Nat} (h : n < 8) (v : Word) (hfree : ringFree (s.core x.coreId).mx n = true) :
    ((s.writeCreg x (0x020 + 2 * n) v).core x.coreId).mx.ring n =
      { base := v.toNat % 2 ^ 20, ssize := v.toNat / 2 ^ 20 % 2 ^ 12, scount := v.toNat / 2 ^ 38 % 2 ^ 7 } := by
  simp only [ringFree, Bool.and_eq_true, List.isEmpty_iff] at hfree
  obtain ⟨⟨hwait, hresv⟩, -⟩ := hfree
  rw [State.writeCreg, if_neg (by omega), if_neg (by omega), if_neg (by omega), if_pos (by omega), core_modMx, Mx.ring,
    show (0x020 + 2 * n - 0x020) / 2 = n by omega]
  dsimp only
  rw [tget_tset_same, hwait, hresv]

/-- The values that a peak register and a ring take (R70, R163). -/
theorem mtcValue_peak {k v : Nat} (h1 : 0x010 ≤ k) (h2 : k ≤ 0x017) (hv : v ≤ 0x7F800000 ∨ v = 0x80000000) : mtcValue k v = true := by
  have hshort : v / 2 ^ 32 = 0 := by omega
  rw [mtcValue, if_pos ⟨h1, h2⟩, hshort]
  simpa [or_comm] using hv

theorem mtcValue_ring {k v : Nat} (h : 0x020 ≤ k) (halign : v % 2 ^ 6 = 0) (hss : v / 2 ^ 20 % 2 ^ 12 ≠ 0) (hsc : v / 2 ^ 38 % 2 ^ 7 ≤ 64)
    (hend : v % 2 ^ 20 + v / 2 ^ 38 % 2 ^ 7 * (v / 2 ^ 20 % 2 ^ 12) * 64 ≤ 2 ^ 20) (hrest : v / 2 ^ 32 % 2 ^ 6 = 0) : mtcValue k v = true := by
  rw [mtcValue, if_neg (by omega), if_pos h, halign, hrest]
  simp only [decide_eq_true hsc, decide_eq_true hend, bne_iff_ne.mpr hss, beq_self_eq_true, Bool.and_self]

section Alone

variable {s : State} (hs : s.plain) {p : BitVec 3} (hp : (s.ctx s.cur).regs.pv p.toNat = true) {sS : BitVec 6} {v : Word}
  (hv : rdS s.env sS = .ok v)
include hs hp hv

theorem execMtc_padv_alone : ∃ t, execMtc p 0x006 sS s = .next t ∧ WentOn s t ∧ (t.ctx s.cur).ct.padv = v.toNat % 2 ^ 32
    ∧ (t.ctx s.cur).regs = (s.ctx s.cur).regs := by
  obtain ⟨t, ht, hwent, hregs, hpadv, -, -⟩ := execMtc_alone hs hp hv (k := 0x006) (n := 0x006) rfl rfl rfl rfl (fun hc => nomatch hc)
    (fun h => by omega) (Or.inl (by omega))
  refine ⟨t, ht, hwent, hpadv.trans ?_, hregs⟩
  rw [writeCreg_padv, State.modCt, ctx_modCtx, if_pos rfl]

theorem execMtc_padb_alone : ∃ t, execMtc p 0x007 sS s = .next t ∧ WentOn s t ∧ (t.ctx s.cur).ct.padb = v.toNat % 2 ^ 32
    ∧ (t.ctx s.cur).regs = (s.ctx s.cur).regs := by
  obtain ⟨t, ht, hwent, hregs, -, hpadb, -⟩ := execMtc_alone hs hp hv (k := 0x007) (n := 0x007) rfl rfl rfl rfl (fun hc => nomatch hc)
    (fun h => by omega) (Or.inl (by omega))
  refine ⟨t, ht, hwent, hpadb.trans ?_, hregs⟩
  rw [writeCreg_padb, State.modCt, ctx_modCtx, if_pos rfl]

variable (hmb : (s.ctx s.cur).pr.mb = true) (hheld : (s.ctx s.cur).heldCmd = []) {n : Nat} (h8 : n < 8)
include hmb hheld h8

theorem execMtc_peak_alone (hval : v.toNat ≤ 0x7F800000 ∨ v.toNat = 0x80000000)
    (hset : peakSettled (s.core s.cur.coreId).mx n (s.ctx s.cur).ct.issued = true) :
    ∃ t, execMtc p (BitVec.ofNat 12 (0x010 + n)) sS s = .next t ∧ WentOn s t ∧ tget 0 (t.core s.cur.coreId).mx.pk n = v.toNat % 2 ^ 31 := by
  obtain ⟨t, ht, hwent, -, -, -, hmx⟩ := execMtc_alone hs hp hv (toNat_creg (n := 0x010 + n) (by omega)) (cregListed_peak h8)
    (by simp [cregWritable]; omega) (mtcValue_peak (by omega) (by omega) hval) (fun _ => ⟨hmb, hheld⟩)
    (fun _ => by rwa [Nat.add_sub_cancel_left]) (Or.inl (by omega))
  exact ⟨t, ht, hwent, by rw [hmx, pk_writeCreg s s.cur h8]⟩

theorem execMtc_ring_alone (hval : mtcValue (0x020 + 2 * n) v.toNat = true) (hfree : ringFree (s.core s.cur.coreId).mx n = true) :
    ∃ t, execMtc p (BitVec.ofNat 12 (0x020 + 2 * n)) sS s = .next t ∧ WentOn s t ∧ (t.core s.cur.coreId).mx.ring n =
      { base := v.toNat % 2 ^ 20, ssize := v.toNat / 2 ^ 20 % 2 ^ 12, scount := v.toNat / 2 ^ 38 % 2 ^ 7 } := by
  have hnum : (0x020 + 2 * n - 0x020) / 2 = n := by omega
  obtain ⟨t, ht, hwent, -, -, -, hmx⟩ := execMtc_alone hs hp hv (toNat_creg (n := 0x020 + 2 * n) (by omega)) (cregListed_ring (by omega))
    (by simp [cregWritable]; omega) hval (fun _ => ⟨hmb, hheld⟩) (fun hpeak => by omega) (Or.inr (by rwa [hnum]))
  exact ⟨t, ht, hwent, by rw [hmx, ring_writeCreg s s.cur h8 v hfree]⟩

end Alone

end Sys2Proof.Machine

open Sys2Proof Sys2Proof.Machine Sys2Proof.Claim

/-- Settles O48: MFC's checks and then `readCreg`, MTC's checks and then what it leaves for the end of its bundle. -/
theorem controlRegisters : Obligations.ControlRegisters := by
  constructor
  · intro p sd sS k s b v hi hv c m reads
    have hown {n : BitVec 12} {val : Nat} (hn : n.toNat < 0x00A) (hval : readCreg s b.x b.pre n.toNat = val) : reads n val := by
      subst hval
      exact execMfc_own hi rfl hn
    have hcore (h1 : 0x010 ≤ k.toNat) (h2 : k.toNat ≤ 0x02F) : cregCore k.toNat = true := (cregCore_iff _).mpr ⟨h1, h2⟩
    refine ⟨hown (by decide) rfl, hown (by decide) rfl, hown (by decide) rfl, hown (by decide) rfl, hown (by decide) rfl, hown (by decide) rfl,
      hown (by decide) rfl, hown (by decide) rfl, hown (by decide) rfl, fun tm ht => ?_, fun hmb hheld n h8 hset => ?_, fun hmb n h8 => ⟨?_, ?_⟩, fun hmb n h4 => ?_,
      fun hmb h1 h2 => ⟨execMfc_unbound hi hmb (hcore h1 h2), fun hr => execMtc_unbound hi hr hmb (hcore h1 h2)⟩,
      fun hk => ⟨execMfc_high hi hk, fun hr => execMtc_high hi hr hv hk⟩, fun hr hk => execMtc_illegal hi hr (by simpa [cregKnown] using hk),
      execMfc_unlisted hi, execMtc_unwritable hi, fun hr hk => ?_, fun hr hmb hheld h1 h2 hmax hset => ?_⟩
    · have hphase : readCreg s b.x b.pre 0x005 = tm.phase := by
        show (match s.team b.x.cl b.pre.ct.team with | none => 0 | some t => t.phase) = _
        rw [ht]
      exact hown (by decide) hphase
    · have hready : PeakReady s (b.cenv p) (0x010 + n) := fun _ =>
        ⟨(Bool.or_eq_true ..).mpr (hheld.imp id List.isEmpty_iff.mpr), by rwa [Nat.add_sub_cancel_left]⟩
      rw [← readCreg_peak s b.x b.pre h8]
      exact execMfc_ok hi (toNat_creg (by omega)) (cregListed_peak h8) (fun _ => hmb) hready
    · rw [← readCreg_ringLo s b.x b.pre]
      exact execMfc_ok hi (toNat_creg (by omega)) (cregListed_ring (by omega)) (fun _ => hmb) (peakReady_other (by omega))
    · rw [← readCreg_ringMap s b.x b.pre]
      exact execMfc_ok hi (toNat_creg (by omega)) (by rw [show 0x021 + 2 * n = 0x020 + (2 * n + 1) by omega, cregListed_ring (by omega)])
        (fun _ => hmb) (peakReady_other (by omega))
    · rw [← readCreg_donebelow s b.x b.pre h4]
      exact execMfc_ok hi (toNat_creg (by omega)) (cregListed_donebelow h4) (fun _ => hmb) (peakReady_other (by omega))
    · have hpad : k.toNat = 0x006 ∨ k.toNat = 0x007 := hk.imp (congrArg BitVec.toNat) (congrArg BitVec.toNat)
      refine execMtc_ok hi hr hv ?_ ?_ ?_ (fun hc => ?_) (peakReady_other (by omega)) (Or.inl (by omega))
      · rcases hpad with h | h <;> rw [h] <;> rfl
      · rcases hpad with h | h <;> rw [h] <;> rfl
      · rcases hpad with h | h <;> rw [h] <;> rfl
      · have := (cregCore_iff _).mp hc
        omega
    · have hh : heldIssued s (b.cenv p) = true := by simp [heldIssued, show (s.ctx (b.cenv p).x).heldCmd = [] from hheld]
      have hw : cregWritable k.toNat = true := by simp [cregWritable, h1, h2]
      exact execMtc_ok hi hr hv (by simp [cregListed, h1]; omega) hw (mtcValue_peak h1 h2 (Or.inl hmax)) (fun _ => ⟨hmb, hh⟩) (fun _ => ⟨hh, hset⟩) (Or.inl (by omega))
  · intro p sS s v hs hp hv x c
    refine ⟨execMtc_padv_alone hs hp hv, execMtc_padb_alone hs hp hv,
      fun hmb hheld n h8 hval hset => execMtc_peak_alone hs hp hv hmb hheld h8 hval hset, fun hmb hheld n h8 hfree => ?_⟩
    intro ss sc halign hss hsc hend hrest
    exact execMtc_ring_alone hs hp hv hmb hheld h8 (mtcValue_ring (by omega) halign hss hsc hend hrest) hfree

end

section
/-! The reference tick, and the steps of the bring-up: O6. -/

set_option Elab.async false

namespace Sys2Proof.Machine

open Sys2Proof.Claim

/-! ## Testing the waits at the end of a tick -/

/-- Nothing that a tick counts by has changed: every context is as it was but for its wait. -/
structure OnlyWaits (s t : State) : Prop where
  tick : t.tick = s.tick
  runs : ∀ k, t.clusterRuns k = s.clusterRuns k
  ctx : ∀ x, ∃ w, t.ctx x = { s.ctx x with wait := w }

namespace OnlyWaits

variable {s t u : State}

theorem refl (s : State) : OnlyWaits s s := ⟨rfl, fun _ => rfl, fun _ => ⟨_, rfl⟩⟩

theorem trans (h : OnlyWaits s t) (h' : OnlyWaits t u) : OnlyWaits s u := by
  refine ⟨h'.tick.trans h.tick, fun k => (h'.runs k).trans (h.runs k), fun x => ?_⟩
  obtain ⟨w, hw⟩ := h.ctx x
  obtain ⟨w', hw'⟩ := h'.ctx x
  exact ⟨w', by rw [hw', hw]⟩

theorem setCtx (s : State) (x : CtxId) (w : Option WaitSt) : OnlyWaits s (s.setCtx x { s.ctx x with wait := w }) := by
  refine ⟨rfl, fun k => congrArg (fun b => !b && !s.isolated (k / 12)) (cl_modCtx_keep Cluster.failed s x (fun c => { c with wait := w }) k), fun y => ?_⟩
  rw [show s.setCtx x { s.ctx x with wait := w } = s.modCtx x fun c => { c with wait := w } from rfl, ctx_modCtx]
  split
  · next h => exact ⟨w, by rw [h]⟩
  · exact ⟨_, rfl⟩

theorem setSaved (s : State) (cl crec : Nat) (v : Option Saved) : OnlyWaits s (s.setSaved cl crec v) :=
  ⟨rfl, fun k => congrArg (fun b => !b && !s.isolated (k / 12)) (cl_modCl_keep Cluster.failed s cl _ k),
   fun x => ⟨_, congrArg (fun cores => (tget ({ } : Core) cores x.core).ctx x.cx) (cl_modCl_keep Cluster.cores s cl _ x.cl)⟩⟩

theorem recWait (s : State) (crec : Nat) (w : WaitSt) (wto : Bool) : OnlyWaits s (s.recWait crec w wto) := ⟨rfl, fun _ => rfl, fun _ => ⟨_, rfl⟩⟩

theorem modHome (s : State) (h : Home) (w : WaitSt) : OnlyWaits s (s.modHome h fun c => { c with wait := some w }) := by
  cases h with
  | live x => exact setCtx s x (some w)
  | saved cl crec =>
    unfold State.modHome
    split
    · exact refl s
    · unfold State.setHome
      dsimp only
      split
      · exact refl s
      · exact setSaved ..

theorem latch (s : State) (h : Home) (w : WaitSt) : OnlyWaits s (s.latch h w) := by
  cases h with
  | live x => exact modHome s (.live x) w
  | saved cl crec => exact (modHome s (.saved cl crec) w).trans (recWait ..)

theorem latchIf (s : State) (h : Home) (w : WaitSt) (b : Bool) : OnlyWaits s (if b then s.latch h w else s) := by
  cases b with
  | false => exact refl s
  | true => exact latch s h w

theorem noteWait (s : State) (h : Home) : OnlyWaits s (s.noteWait h) := by
  unfold State.noteWait
  split
  · exact refl s
  · split
    · exact refl s
    · exact latchIf ..

theorem foldl_noteWait (l : List Home) (s : State) : OnlyWaits s (l.foldl State.noteWait s) := by
  induction l generalizing s with
  | nil => exact refl s
  | cons h l ih => exact (noteWait s h).trans (ih _)

end OnlyWaits

/-! ## Counting a tick (R163, R294) -/

theorem ctx_coreTicked (o : Core) (j : Nat) : o.ticked.ctx j = { o.ctx j with pr := (o.ctx j).pr.ticked } :=
  tget_map (d := ({ } : Ctx)) (g := fun _ c => { c with pr := c.pr.ticked }) (fun _ => rfl) o.ctxs j

theorem core_clusterTicked (c : Cluster) (j : Nat) : c.ticked.core j = (c.core j).ticked :=
  tget_map (d := ({ } : Core)) (g := fun _ o => o.ticked) (fun _ => rfl) c.cores j

/-- A tick counts in the contexts of the clusters that run. -/
theorem ctx_counted (s : State) (x : CtxId) :
    s.counted.ctx x = if s.clusterRuns x.cl then { s.ctx x with pr := (s.ctx x).pr.ticked } else s.ctx x := by
  have hcl : s.counted.cl x.cl = (if s.clusterRuns x.cl then (s.cl x.cl).ticked else s.cl x.cl).pass s.draws x.cl s.power.fast :=
    tget_map (d := ({ } : Cluster)) (g := fun k c => (if s.clusterRuns k then c.ticked else c).pass s.draws k s.power.fast)
      (fun k => by split <;> rfl) s.clusters x.cl
  rw [State.ctx, State.core, show x.coreId.cl = x.cl from rfl, hcl, core_clusterPass (fun o => o.ctx x.cx) fun _ _ _ => rfl]
  split
  · exact (congrArg (Core.ctx · x.cx) (core_clusterTicked ..)).trans (ctx_coreTicked ..)
  · rfl

theorem ticked_running {p : Priv} (h : p.st ≠ .idle) (hs : p.stopped = false) :
    p.ticked = { p with used := p.used + 1, budget := p.budget - 1, overrun := p.overrun || decide (p.budget = 1) } := by
  rw [Priv.ticked, if_neg (by simp [h, hs])]
  rfl

/-- The tests of waits at the end of a tick, and its count: of a context, its wait and the counts of its privileged block may change. -/
theorem ctx_noted_counted (s : State) (x : CtxId) : ∃ w, (s.homes.foldl State.noteWait s).counted.ctx x =
    { s.ctx x with wait := w, pr := if s.clusterRuns x.cl then (s.ctx x).pr.ticked else (s.ctx x).pr } := by
  obtain ⟨-, hruns, hctx⟩ := OnlyWaits.foldl_noteWait s.homes s
  obtain ⟨w, hw⟩ := hctx x
  refine ⟨w, ?_⟩
  rw [ctx_counted, hruns, hw]
  split <;> rfl

/-! ## What the bring-up's parts leave of the clock and of the bring-up itself -/

/-- The clock, the bring-up's own state and its measurements stand. -/
structure SameBoot (s t : State) : Prop where
  tick : t.tick = s.tick
  boot : t.boot = s.boot
  meas : t.meas = s.meas

namespace SameBoot

variable {s t u : State}

theorem refl (s : State) : SameBoot s s := ⟨rfl, rfl, rfl⟩

theorem frame (h : SameBoot s t) (ht : u.tick = t.tick := by rfl) (hb : u.boot = t.boot := by rfl) (hm : u.meas = t.meas := by rfl) :
    SameBoot s u := ⟨ht.trans h.tick, hb.trans h.boot, hm.trans h.meas⟩

theorem foldl {α : Type} {f : State → α → State} (h : SameBoot s t) (hf : ∀ {t : State} (a : α), SameBoot s t → SameBoot s (f t a)) (l : List α) :
    SameBoot s (l.foldl f t) := by
  induction l generalizing t with
  | nil => exact h
  | cons a l ih => exact ih (hf a h)

theorem modCl (h : SameBoot s t) (k : Nat) (f : Cluster → Cluster) : SameBoot s (t.modCl k f) := h.frame
theorem modCore (h : SameBoot s t) (c : CoreId) (f : Core → Core) : SameBoot s (t.modCore c f) := h.frame
theorem modHealth (h : SameBoot s t) (f : Health → Health) : SameBoot s (t.modHealth f) := h.frame
theorem modChan (h : SameBoot s t) (k : Nat) (f : Chan → Chan) : SameBoot s (t.modChan k f) := h.frame
theorem modLd (h : SameBoot s t) (l : Nat) (f : Ld → Ld) : SameBoot s (t.modLd l f) := h.frame
theorem report_ (h : SameBoot s t) : SameBoot s t.report_ := h.frame
theorem draw (h : SameBoot s t) : SameBoot s t.draw := h.frame
theorem wrVault (h : SameBoot s t) (off n v : Nat) : SameBoot s (t.wrVault off n v) := h.frame

/-! ### Retiring and isolating (R371, R374) -/

theorem lehrMsg (h : SameBoot s t) (cl code arg : Nat) : SameBoot s (t.lehrMsg cl code arg) := h.modCl ..

theorem worsen (h : SameBoot s t) (n : Nat) : SameBoot s (t.worsen n) := by
  unfold State.worsen
  split
  · exact h
  · dsimp only
    split
    · exact (h.modHealth _).foldl (fun _ h => h.lehrMsg ..) _
    · exact h.modHealth _

theorem worsenIf (h : SameBoot s t) (b : Prop) [Decidable b] (n : Nat) : SameBoot s (if b then t.worsen n else t) := by
  split
  · exact h.worsen n
  · exact h

theorem dieMsg (h : SameBoot s t) (cl code arg : Nat) : SameBoot s (t.dieMsg cl code arg) := h.foldl (fun _ h => h.lehrMsg ..) _

theorem retireMsg (h : SameBoot s t) (cl : Nat) : SameBoot s (t.retireMsg cl) := (h.report_.dieMsg ..).draw

theorem retireCluster (h : SameBoot s t) (cl : Nat) (dead : Bool) : SameBoot s (t.retireCluster cl dead) := by
  unfold State.retireCluster
  split
  · exact h
  · exact ((((h.modCl ..).modHealth _).worsen 1).report_.dieMsg ..).worsenIf ..

theorem retireChannel (h : SameBoot s t) (key : Nat) : SameBoot s (t.retireChannel key) := by
  unfold State.retireChannel
  split
  · exact h
  · exact ((((h.modChan key fun c => { c with retired := true }).modHealth _).worsen 1).retireMsg _).worsenIf ..

theorem loseMsg (h : SameBoot s t) (tag : Option Nat) : SameBoot s (t.loseMsg tag) := by
  unfold State.loseMsg
  split
  · exact h
  · split
    · exact h
    · exact h.frame

theorem modLaunch (h : SameBoot s t) (l : Nat) (f : Launch → Launch) : SameBoot s (t.modLaunch l f) := by
  unfold State.modLaunch
  split
  · exact h
  · exact h.frame

theorem askPreempt (h : SameBoot s t) (x : CtxId) (src : PreSrc) : SameBoot s (t.askPreempt x src) := by
  unfold State.askPreempt
  split
  · exact h
  · exact h.frame

theorem loseCluster (h : SameBoot s t) (cl : Nat) : SameBoot s (t.loseCluster cl) := by
  unfold State.loseCluster
  refine ((SameBoot.modCl (h.foldl ?_ _) ..).foldl ?_ _).foldl ?_ _
  · exact fun tag h => h.loseMsg tag
  · exact fun l h => h.modLaunch ..
  · exact fun x h => h.askPreempt ..

theorem isolateDie (h : SameBoot s t) (d : Nat) : SameBoot s (t.isolateDie d) := by
  unfold State.isolateDie
  split
  · exact h
  · exact (((h.modHealth _).foldl (fun _ h => (h.loseCluster _).retireCluster ..) _).worsen 2).report_

/-! ### The parts of the steps (R384 to R387) -/

theorem fuses (h : SameBoot s t) : SameBoot s t.fuses := by
  unfold State.fuses
  refine SameBoot.modHealth (((h.foldl ?_ _).foldl ?_ _).foldl ?_ _) _
  · exact fun k h => h.modCore ..
  · exact fun c h => h.modCl ..
  · exact fun k h => h.modChan ..

theorem allLforce (h : SameBoot s t) (b : Bool) : SameBoot s (t.allLforce b) := h.foldl (fun _ h => h.modCl ..) _

theorem train (h : SameBoot s t) (fails : List (Nat × Nat)) : SameBoot s (t.train fails) := by
  refine (h.foldl (fun f h => ?_) _).foldl (fun d h => ?_) _
  · split
    · exact h.retireChannel _
    · exact h.modChan ..
  · split
    · exact h.isolateDie d
    · exact h

theorem withVault (h : SameBoot s t) (m : Memory) : SameBoot s { t with vault := m } := h.frame

theorem loadGaffers (h : SameBoot s t) : SameBoot s t.loadGaffers := h.foldl (fun _ h => h.withVault _) _

theorem handoffs (h : SameBoot s t) : SameBoot s ((List.range 192).foldl State.handoff t) := h.foldl (fun _ h => h.wrVault ..) _

theorem release (h : SameBoot s t) : SameBoot s t.release := h.foldl (fun _ h => h.modCl ..) _

theorem binds (h : SameBoot s t) (l : List (Nat × Nat × Nat)) : SameBoot s (l.foldl (fun s b => s.bind b.1 b.2.1 b.2.2 none) t) :=
  h.foldl (fun _ h => h.modLd ..) _

end SameBoot

/-! ## What each step leaves (R384 to R387) -/

section Boot

theorem thas_tput {α : Type} (t : Tab α) (k : Nat) (v : α) (j : Nat) : thas (tput t k v) j = (k == j || thas t j) := by
  induction t with
  | nil => simp [tput, thas]
  | cons e t ih =>
    obtain ⟨i, w⟩ := e
    have hcons (i : Nat) (w : α) (t : Tab α) : thas ((i, w) :: t) j = (i == j || thas t j) := rfl
    unfold tput
    split
    · rw [hcons]
    · split
      · next h => rw [hcons, hcons, h, ← Bool.or_assoc, Bool.or_self]
      · rw [hcons, hcons, ih, Bool.or_left_comm]

theorem cl_foldl_modCl (g : Nat → Cluster → Cluster) (s : State) (n k : Nat) :
    ((List.range n).foldl (fun s c => s.modCl c (g c)) s).cl k = if k < n then g k (s.cl k) else s.cl k := by
  induction n with
  | zero => rfl
  | succ n ih =>
    rw [List.range_succ, List.foldl_append, List.foldl_cons, List.foldl_nil, cl_modCl]
    by_cases hk : k = n
    · subst hk
      rw [if_pos rfl, ih, if_neg (by omega), if_pos (by omega)]
    · rw [if_neg hk, ih]
      exact if_congr (by omega) rfl rfl

variable (s : State)

theorem meas_measure (ix j : Nat) : thas (s.measure ix).meas j = (ix == j || thas s.meas j) := thas_tput ..

/-- The clock and the bring-up's own state are no part of a measurement. -/
theorem measure_keeps (ix : Nat) : (s.measure ix).tick = s.tick ∧ (s.measure ix).boot = s.boot := ⟨rfl, rfl⟩

theorem measureRom_keeps : s.measureRom.tick = s.tick ∧ s.measureRom.boot = s.boot := by
  unfold State.measureRom
  split <;> exact ⟨rfl, rfl⟩

theorem meas_measureRom : thas s.measureRom.meas 1 = true := by
  unfold State.measureRom
  split
  · assumption
  · rw [meas_measure]; rfl

@[simp] theorem tick_modBoot (f : Boot → Boot) : (s.modBoot f).tick = s.tick := rfl
@[simp] theorem boot_modBoot (f : Boot → Boot) : (s.modBoot f).boot = f s.boot := rfl
@[simp] theorem meas_modBoot (f : Boot → Boot) : (s.modBoot f).meas = s.meas := rfl
@[simp] theorem cl_modBoot (f : Boot → Boot) (k : Nat) : (s.modBoot f).cl k = s.cl k := rfl

variable (fails : List (Nat × Nat))

/-- The rows of R384. -/
theorem bootStep_one : s.bootStep 1 fails = (s.measureRom.measure 2).modBoot fun b => { b with step := 1 } := rfl
theorem bootStep_two : s.bootStep 2 fails = (s.measure 5).fuses.modBoot fun b => { b with step := 2 } := rfl
theorem bootStep_three : s.bootStep 3 fails = ((s.measure 3).allLforce true).modBoot fun b => { b with step := 3 } := rfl
theorem bootStep_four : s.bootStep 4 fails = (s.train fails).clear.modBoot fun b => { b with step := 4 } := rfl
theorem bootStep_five :
    s.bootStep 5 fails = ({ (s.measure 4).loadGaffers with aliasKey := true } : State).modBoot fun b => { b with step := 5 } := rfl
theorem bootStep_six : s.bootStep 6 fails = s.modBoot fun b => { b with step := 6 } := rfl
theorem bootStep_seven : s.bootStep 7 fails = s.handOver.modBoot fun b => { b with step := 7 } := rfl

/-- The state as every Gaffer is released, before the binds that waited. -/
def State.gaffersReleased (s : State) : State := ((List.range 192).foldl State.handoff s).release

theorem handOver_eq : s.handOver = (s.gaffersReleased.boot.binds.foldl (fun s b => s.bind b.1 b.2.1 b.2.2 none) s.gaffersReleased).modBoot
    fun b => { b with binds := [], done := true } := rfl

theorem handOver_keeps : s.handOver.tick = s.tick ∧ s.handOver.boot = { s.boot with binds := [], done := true } := by
  have h : SameBoot s s.gaffersReleased := (SameBoot.refl s).handoffs.release
  obtain ⟨htick, hboot, -⟩ := h.binds s.gaffersReleased.boot.binds
  rw [handOver_eq, tick_modBoot, boot_modBoot, htick, hboot]
  exact ⟨rfl, rfl⟩

/-- TICK stands through a step, and of the bring-up's state only what the step's row says changes. -/
theorem bootStep_keeps {n : Nat} (h1 : 1 ≤ n) (h7 : n ≤ 7) : (s.bootStep n fails).tick = s.tick
    ∧ (s.bootStep n fails).boot = if n = 7 then { s.boot with binds := [], done := true, step := 7 } else { s.boot with step := n } := by
  have hcase : n = 1 ∨ n = 2 ∨ n = 3 ∨ n = 4 ∨ n = 5 ∨ n = 6 ∨ n = 7 := by omega
  rcases hcase with rfl | rfl | rfl | rfl | rfl | rfl | rfl
  · obtain ⟨htick, hboot⟩ := measureRom_keeps s
    rw [bootStep_one, tick_modBoot, boot_modBoot, (measure_keeps ..).1, (measure_keeps ..).2, htick, hboot]
    exact ⟨rfl, rfl⟩
  · obtain ⟨htick, hboot, -⟩ := (SameBoot.refl (s.measure 5)).fuses
    rw [bootStep_two, tick_modBoot, boot_modBoot, htick, hboot]
    exact ⟨rfl, rfl⟩
  · obtain ⟨htick, hboot, -⟩ := (SameBoot.refl (s.measure 3)).allLforce true
    rw [bootStep_three, tick_modBoot, boot_modBoot, htick, hboot]
    exact ⟨rfl, rfl⟩
  · obtain ⟨htick, hboot, -⟩ := (SameBoot.refl s).train fails
    rw [bootStep_four, tick_modBoot, boot_modBoot, State.clear, htick, hboot]
    exact ⟨rfl, rfl⟩
  · obtain ⟨htick, hboot, -⟩ := (SameBoot.refl (s.measure 4)).loadGaffers
    rw [bootStep_five, tick_modBoot, boot_modBoot, htick, hboot]
    exact ⟨rfl, rfl⟩
  · exact ⟨rfl, rfl⟩
  · obtain ⟨htick, hboot⟩ := handOver_keeps s
    rw [bootStep_seven, tick_modBoot, boot_modBoot, htick, hboot]
    exact ⟨rfl, rfl⟩

theorem meas_bootStep_one : thas (s.bootStep 1 fails).meas 1 = true ∧ thas (s.bootStep 1 fails).meas 2 = true := by
  rw [bootStep_one, meas_modBoot, meas_measure, meas_measure, meas_measureRom]
  exact ⟨rfl, rfl⟩

theorem meas_bootStep_two : thas (s.bootStep 2 fails).meas 5 = true := by
  rw [bootStep_two, meas_modBoot, (SameBoot.refl (s.measure 5)).fuses.meas, meas_measure]
  rfl

theorem meas_bootStep_three : thas (s.bootStep 3 fails).meas 3 = true := by
  rw [bootStep_three, meas_modBoot, ((SameBoot.refl (s.measure 3)).allLforce true).meas, meas_measure]
  rfl

theorem lforce_bootStep_three {cl : Nat} (h : cl < 192) : ((s.bootStep 3 fails).cl cl).lforce = true := by
  rw [bootStep_three, cl_modBoot, State.allLforce, cl_foldl_modCl (fun _ k => { k with lforce := true }), if_pos h]

theorem core_clear (c : CoreId) : s.clear.core c = (s.core c).cleared := by
  have hcl : s.clear.cl c.cl = (s.cl c.cl).cleared :=
    tget_map (d := ({ } : Cluster)) (g := fun _ c => c.cleared) (fun _ => rfl) s.clusters c.cl
  rw [State.core, hcl]
  exact tget_map (d := ({ } : Core)) (g := fun _ o => o.cleared) (fun _ => rfl) (s.cl c.cl).cores c.core

/-- After training every memory reads zero. -/
theorem memory_bootStep_four : (s.bootStep 4 fails).vault = [] ∧ (s.bootStep 4 fails).dram = []
    ∧ ∀ c a, rdByte ((s.bootStep 4 fails).core c).lmem a = 0 := by
  refine ⟨rfl, rfl, fun c a => ?_⟩
  rw [bootStep_four, show ∀ t : State, ((t.modBoot fun b => { b with step := 4 }).core c) = t.core c from fun _ => rfl, core_clear]
  rfl

theorem meas_bootStep_five : thas (s.bootStep 5 fails).meas 4 = true ∧ (s.bootStep 5 fails).aliasKey = true := by
  rw [bootStep_five, meas_modBoot, (SameBoot.refl (s.measure 4)).loadGaffers.meas, meas_measure]
  exact ⟨rfl, rfl⟩

/-! ### Step 6: the ports -/

theorem eraseDups_length_le_one {l : List Nat} {a : Nat} (h : ∀ x ∈ l, x = a) : l.eraseDups.length ≤ 1 := by
  cases l with
  | nil => simp
  | cons x l =>
    have hrest : l.filter (fun y => !y == x) = [] := by
      rw [List.filter_eq_nil_iff]
      intro y hy
      rw [h x List.mem_cons_self, h y (List.mem_cons_of_mem _ hy)]
      simp
    rw [List.eraseDups_cons, hrest]
    simp

theorem ports_trainPorts (up : List Nat) (p : Nat) : p ∈ (s.trainPorts up).ports ↔ p < 2 ∧ p ∈ up := by
  have hports : (s.trainPorts up).ports = (up.filter fun p => decide (p < 2)).eraseDups := by
    unfold State.trainPorts
    dsimp only
    split <;> rfl
  rw [hports, List.mem_eraseDups, List.mem_filter, decide_eq_true_eq, and_comm]

theorem trainPorts_keeps (up : List Nat) : (s.trainPorts up).tick = s.tick ∧ ∃ e, (s.trainPorts up).boot = { s.boot with linkerr := e } := by
  unfold State.trainPorts
  dsimp only
  split
  · exact ⟨rfl, _, rfl⟩
  · exact ⟨rfl, _, rfl⟩

/-- A port that does not train is told to the management path. -/
theorem trainPorts_down {up : List Nat} (h : 0 ∉ up ∨ 1 ∉ up) :
    (s.trainPorts up).told = s.told + 1 ∧ (s.trainPorts up).boot.linkerr = true := by
  have hone : (up.filter fun p => decide (p < 2)).eraseDups.length ≤ 1 := by
    have hmem {x : Nat} (hx : x ∈ up.filter fun p => decide (p < 2)) : x ∈ up ∧ x < 2 := by simpa using hx
    rcases h with h | h
    · refine eraseDups_length_le_one (a := 1) fun x hx => ?_
      have : x ≠ 0 := fun h0 => h (h0 ▸ (hmem hx).1)
      have := (hmem hx).2
      omega
    · refine eraseDups_length_le_one (a := 0) fun x hx => ?_
      have : x ≠ 1 := fun h1 => h (h1 ▸ (hmem hx).1)
      have := (hmem hx).2
      omega
  unfold State.trainPorts
  dsimp only
  rw [if_neg (by omega)]
  exact ⟨rfl, rfl⟩

/-! ### Step 7: the release (R387) -/

theorem cl_binds (l : List (Nat × Nat × Nat)) (k : Nat) : (l.foldl (fun s b => s.bind b.1 b.2.1 b.2.2 none) s).cl k = s.cl k := by
  induction l generalizing s with
  | nil => rfl
  | cons b l ih => exact ih _

theorem jobs_handedOver (c : Cluster) (g : GStart) (j : Nat) : (tget ({ } : JobSlot) (c.handedOver g).jobs j).valid = false := by
  refine tget_of_all (p := fun v : JobSlot => v.valid = false) rfl (fun e he => ?_) j
  obtain ⟨v, -, rfl⟩ := List.mem_map.mp he
  rfl

theorem cl_bootStep_seven {cl : Nat} (h : cl < 192) : ∃ c : Cluster, (s.bootStep 7 fails).cl cl = c.handedOver (gafferStart cl) := by
  refine ⟨((List.range 192).foldl State.handoff s).cl cl, ?_⟩
  rw [bootStep_seven, handOver_eq, cl_modBoot, cl_modBoot, cl_binds, State.gaffersReleased, State.release,
    cl_foldl_modCl (fun c k => k.handedOver (gafferStart c)), if_pos h]

/-! ### One step -/

/-- What a step that fails leaves of the clock and of the bring-up: the ROM alone may have been measured. -/
theorem romFirst_keeps (n : Nat) : (if n = 1 then s.measureRom else s).tick = s.tick ∧ (if n = 1 then s.measureRom else s).boot = s.boot := by
  split
  · exact measureRom_keeps s
  · exact ⟨rfl, rfl⟩

/-- The steps that verify an image, and those that cannot fail. -/
theorem stepImage_isSome {n : Nat} (h : n ∈ [1, 2, 3, 5]) : (stepImage n).isSome = true := by
  simp only [List.mem_cons, List.not_mem_nil, or_false] at h
  rcases h with rfl | rfl | rfl | rfl <;> rfl

theorem stepImage_none {n : Nat} (h : n ∈ [4, 6, 7]) : stepImage n = none := by
  simp only [List.mem_cons, List.not_mem_nil, or_false] at h
  rcases h with rfl | rfl | rfl <;> rfl

variable {s fails} (hd : s.boot.done = false) (hr : s.boot.recovery = false) {ok : Bool} {up : List Nat}
include hd hr

theorem bring_fails (hv : (stepImage (s.boot.step + 1)).isSome = true) : s.bring false fails up =
    (if s.boot.step + 1 = 1 then s.measureRom else s).modBoot fun b => { b with recovery := true, tried := false } := by
  simp [State.bring, hd, hr, hv]

theorem bring_passes (hv : ok = true ∨ stepImage (s.boot.step + 1) = none) :
    s.bring ok fails up = if s.boot.step + 1 = 6 then (s.trainPorts up).bootStep 6 fails else s.bootStep (s.boot.step + 1) fails := by
  have hgo : ((stepImage (s.boot.step + 1)).isSome && !ok) = false := by
    rcases hv with h | h <;> simp [h]
  simp [State.bring, hd, hr, hgo]

end Boot

end Sys2Proof.Machine

open Sys2Proof Sys2Proof.Machine Sys2Proof.Claim

/-- Settles O6: the tests of waits change waits alone, a tick's count is `Priv.ticked` in each cluster that runs, and each step of the bring-up is
its own lemma. -/
theorem ticksAndBringUpSteps : Obligations.TicksAndBringUpSteps := by
  refine ⟨fun s rest ha => ?_, fun s ha hd hr => ?_, fun s ok fails up hd hr h6 => ?_⟩
  · intro s' u
    have htick : u.tick = s.tick + 1 := congrArg (· + 1) (OnlyWaits.foldl_noteWait s'.homes s').tick
    refine ⟨by rw [step, ha]; rfl, htick, (tick_due u).trans htick, fun x => ?_⟩
    intro c p
    obtain ⟨w, hu⟩ : ∃ w, u.ctx x = { c with wait := w, pr := if s.clusterRuns x.cl then p.ticked else p } := ctx_noted_counted s' x
    rw [hu]
    refine ⟨rfl, rfl, fun hrun hst hstop => (if_pos hrun).trans (ticked_running hst hstop), fun hno => ?_⟩
    cases hrun : s.clusterRuns x.cl with
    | false => rfl
    | true =>
      rcases hno with h | h | h
      · exact absurd (hrun.symm.trans h) (by decide)
      · exact ticked_idle p h
      · exact ticked_stopped p h
  · rw [step, ha]
    simp only [hd, hr]
    rfl
  · intro n t
    by_cases hfail : ok = false ∧ (stepImage n).isSome = true
    · obtain ⟨rfl, hv⟩ := hfail
      have ht : t = _ := bring_fails hd hr hv
      obtain ⟨htick, hboot⟩ := romFirst_keeps s n
      rw [ht, tick_modBoot, boot_modBoot, meas_modBoot, htick, hboot]
      refine ⟨rfl, fun _ _ => ⟨rfl, rfl, hd, fun h1 => ?_⟩, fun h => ?_⟩
      · rw [if_pos h1]
        exact meas_measureRom s
      · rcases h with h | h
        · exact nomatch h
        · rw [stepImage_none h] at hv
          exact nomatch hv
    · have hno (hok : ok = false) (h : n ∈ [1, 2, 3, 5]) : False := hfail ⟨hok, stepImage_isSome h⟩
      have hv : ok = true ∨ stepImage n = none := by
        cases ok with
        | true => exact Or.inl rfl
        | false => exact Or.inr (by simpa using hfail)
      have hpass : t = if n = 6 then (s.trainPorts up).bootStep 6 fails else s.bootStep n fails := bring_passes hd hr hv
      by_cases hsix : n = 6
      · obtain ⟨htick, e, hboot⟩ := trainPorts_keeps s up
        rw [hpass, if_pos hsix, bootStep_six, tick_modBoot, boot_modBoot]
        refine ⟨htick, fun hok h => (hno hok h).elim, fun _ => ⟨?_, hsix.symm, ?_, fun _ => ?_, fun _ => ?_, fun _ => ?_, fun _ => ?_, fun _ => ?_,
          fun _ => ⟨ports_trainPorts s up, trainPorts_down s⟩, fun _ => ?_⟩⟩
        · rw [hboot]; exact hr
        · rw [hboot, hsix]; exact hd
        all_goals omega
      · obtain ⟨htick, hboot⟩ := bootStep_keeps s fails (n := n) (by omega) (by omega)
        rw [hpass, if_neg hsix, htick, hboot]
        refine ⟨rfl, fun hok h => (hno hok h).elim, fun _ => ⟨?_, ?_, ?_, fun h => ?_, fun h => ?_, fun h => ?_, fun h => ?_, fun h => ?_,
          fun h => absurd h hsix, fun h => ?_⟩⟩
        · split <;> exact hr
        · split
          · next h => exact h.symm
          · rfl
        · split
          · next h => exact (decide_eq_true h).symm
          · next h => exact hd.trans (decide_eq_false h).symm
        · rw [h]; exact meas_bootStep_one s fails
        · rw [h]; exact meas_bootStep_two s fails
        · rw [h]; exact ⟨meas_bootStep_three s fails, fun cl hcl => lforce_bootStep_three s fails hcl⟩
        · rw [h]; exact memory_bootStep_four s fails
        · rw [h]; exact meas_bootStep_five s fails
        · rw [h]
          intro cl hcl
          obtain ⟨c, hc⟩ := cl_bootStep_seven s fails hcl
          rw [hc]
          exact ⟨rfl, rfl, rfl, rfl, rfl, jobs_handedOver c _⟩

end

section
/-! The V-slot's arithmetic and lane moves, conversions, reductions and the mask stack: O21, O22, O23 and O24. Almost every form is one masked
write (`vSlot_masked`), whose elements are then those of the statement. -/

namespace Sys2Proof.Machine

open Sys2Proof.Claim

/-! ## Masks (R177) -/

theorem active_eq_testBit (top i : Nat) : active top i = top.testBit i := by
  rw [active, Nat.testBit_eq_decide_div_mod_eq]
  rfl

theorem active_full {i : Nat} (hi : i < 32) : active (2 ^ 32 - 1) i = true := by
  rw [active_eq_testBit, Nat.testBit_two_pow_sub_one, decide_eq_true hi]

theorem active_and (m n i : Nat) : active (m &&& n) i = (active m i && active n i) := by
  simp only [active_eq_testBit, Nat.testBit_and]

/-- The lanes that a mask leaves out. -/
theorem active_complement (m : Nat) {i : Nat} (hi : i < 32) : active ((2 ^ 32 - 1) ^^^ m) i = !active m i := by
  rw [active_eq_testBit, Nat.testBit_xor, Nat.testBit_two_pow_sub_one, decide_eq_true hi, Bool.true_xor, active_eq_testBit]

theorem active_laneMask (a : BitVec 1024) {i : Nat} (hi : i < 32) : active (laneMask a) i = decide (vget a 32 i ≠ 0) := by
  have hbit := vbuild_div_mod (w := 1) (fun i => if vget a 32 i ≠ 0 then 1 else 0) hi
  rw [Nat.one_mul, Nat.pow_one] at hbit
  rw [active, laneMask, hbit]
  by_cases hv : vget a 32 i = 0 <;> simp [hv]

theorem rankBelow_eq_countP (top i : Nat) : rankBelow top i = (List.range i).countP fun k => active top k := by
  have hsum : ∀ l : List Nat, (l.map fun k => top / 2 ^ k % 2).sum = l.countP fun k => active top k := by
    intro l
    induction l with
    | nil => rfl
    | cons k l ih =>
      rw [List.map_cons, List.sum_cons, ih, List.countP_cons, active]
      rcases Nat.mod_two_eq_zero_or_one (top / 2 ^ k) with hk | hk <;> rw [hk] <;> simp [Nat.add_comm]
  exact hsum _

/-! ## Masked elements (R177) -/

section Masked

variable {t : VType} {top v : Nat} {o o' : BitVec 1024} {f g : Nat → Nat}

theorem div_perLane_lt {i : Nat} (hi : i < 32 * t.perLane) : i / t.perLane < 32 := Nat.div_lt_of_lt_mul (Nat.mul_comm .. ▸ hi)

/-- An element keeps the low bits of what it is given. -/
theorem lanewise_congr (h : Lanewise t top o v f) (hfg : ∀ i, f i % 2 ^ t.width = g i % 2 ^ t.width) : Lanewise t top o v g := fun i hi => by
  rw [h i hi, hfg]

/-- With every lane active nothing of the old register stands. -/
theorem lanewise_full (h : Lanewise t (2 ^ 32 - 1) o v f) : Lanewise t (2 ^ 32 - 1) o' v f := fun i hi => by
  rw [h i hi, if_pos (active_full (div_perLane_lt hi)), if_pos (active_full (div_perLane_lt hi))]

/-- Where the old destination can be read, the masked instruction's own read of it succeeds, and does as well. -/
theorem rdOld_of_rdV {e : Env} {vd : BitVec 5} (h : rdV e vd = .ok o) :
    ∃ o', rdOld e vd false = .ok o' ∧ ∀ {t v f}, Lanewise t e.top o' v f → Lanewise t e.top o v f := by
  by_cases htop : e.top = 2 ^ 32 - 1
  · exact ⟨0, by rw [rdOld, htop]; rfl, fun hl => by rw [htop] at hl ⊢; exact lanewise_full hl⟩
  · exact ⟨o, by rw [rdOld, Bool.false_or, if_pos (decide_eq_true htop), h], id⟩

end Masked

/-! ## Elements (R181 to R184) -/

/-- Clamping as R182 says it: into the type's range. -/
theorem clampInt_eq (t : VType) (x : Int) : clampInt t.isSigned t.width x =
    max (if t.isSigned then -(2 ^ (t.width - 1)) else 0) (min (if t.isSigned then 2 ^ (t.width - 1) - 1 else 2 ^ t.width - 1) x) := by
  have hclamp : ∀ {lo hi : Int}, lo ≤ hi → (if x < lo then lo else if hi < x then hi else x) = max lo (min hi x) := by
    intro lo hi h
    split
    · omega
    · split <;> omega
  cases t <;> exact hclamp (by decide)

theorem vputI_eq_intElem (t : VType) (sat : Bool) (x : Int) : vputI t sat x = intElem t sat x := by
  rw [vputI, clampInt_eq, zextI, Nat.cast_pow]
  rfl

theorem velem_eq (t : VType) (rm : Rm) (sat : Bool) (fi : Int → Int → Int) (ff : FV → FV → FV) (a b : Nat) : velem t rm sat fi ff a b =
    if t.isFloat then vputF t rm sat (ff (vfloat t a) (vfloat t b)) else intElem t sat (fi (vint t a) (vint t b)) := by
  rw [velem, vputI_eq_intElem]

theorem vminE_eq (t : VType) (a b : Nat) : vminE t a b =
    if t.isFloat then vputF t .rne false (fminV (vfloat t a) (vfloat t b)) else if vint t a ≤ vint t b then a else b := by
  simp only [vminE, ← not_lt (a := vint t b), ite_not]

theorem vmaxE_eq (t : VType) (a b : Nat) : vmaxE t a b =
    if t.isFloat then vputF t .rne false (fmaxV (vfloat t a) (vfloat t b)) else if vint t a ≥ vint t b then a else b := by
  simp only [vmaxE, ge_iff_le, ← not_lt (a := vint t a), ite_not]

theorem vminE_int {t : VType} (hf : ¬ t.isFloat = true) : vminE t = fun a b => if vint t b < vint t a then b else a :=
  funext₂ fun _ _ => if_neg hf

theorem vmaxE_int {t : VType} (hf : ¬ t.isFloat = true) : vmaxE t = fun a b => if vint t a < vint t b then b else a :=
  funext₂ fun _ _ => if_neg hf

theorem vsarE_eq (t : VType) (a b : Nat) : vsarE t a b = (sextN a t.width / 2 ^ (b % t.width) % 2 ^ t.width).toNat := by
  rw [vsarE, zextI, Nat.cast_pow, Nat.cast_pow]
  rfl

/-- Each element-wise instruction of the table is the masked one of two sources, with its element. -/
theorem exec_vectorOps {t : VType} {rm : Rm} {sat : Bool} {p : (Cond → BitVec 5 → BitVec 5 → BitVec 5 → Instr) × (Nat → Nat → Nat)}
    (hp : p ∈ vectorOps t rm sat) : ∃ f, (∀ c vd va vb s, exec (p.1 c vd va vb) s = vBin c t vd va vb f s)
      ∧ ∀ x y, f x y % 2 ^ t.width = p.2 x y % 2 ^ t.width := by
  simp only [vectorOps, List.mem_cons, List.not_mem_nil, or_false] at hp
  rcases hp with rfl | rfl | rfl | rfl | rfl | rfl | rfl | rfl | rfl | rfl | rfl
  · exact ⟨_, fun _ _ _ _ _ => rfl, fun x y => by rw [velem_eq]⟩
  · exact ⟨_, fun _ _ _ _ _ => rfl, fun x y => by rw [velem_eq]; rfl⟩
  · exact ⟨_, fun _ _ _ _ _ => rfl, fun x y => by rw [velem_eq]⟩
  · exact ⟨_, fun _ _ _ _ _ => rfl, fun x y => by rw [vminE_eq]⟩
  · exact ⟨_, fun _ _ _ _ _ => rfl, fun x y => by rw [vmaxE_eq]⟩
  · exact ⟨_, fun _ _ _ _ _ => rfl, fun _ _ => rfl⟩
  · exact ⟨_, fun _ _ _ _ _ => rfl, fun _ _ => rfl⟩
  · exact ⟨_, fun _ _ _ _ _ => rfl, fun _ _ => rfl⟩
  · exact ⟨_, fun _ _ _ _ _ => rfl, fun _ _ => Nat.mod_mod ..⟩
  · exact ⟨_, fun _ _ _ _ _ => rfl, fun _ _ => rfl⟩
  · exact ⟨_, fun _ _ _ _ _ => rfl, fun x y => by rw [vsarE_eq]⟩

/-! ## Conversions (R186) -/

/-- Part `h` of a packed register lies in it. -/
theorem vcvtPart_le {dst src : VType} {h : Nat} (hpart : h < vcvtParts dst src) (hk : src.perLane ≤ dst.perLane) :
    32 * src.perLane * h + 32 * src.perLane ≤ 32 * dst.perLane := by
  rw [vcvtParts, show Nat.max dst.perLane src.perLane = dst.perLane from max_eq_left hk,
    show Nat.min dst.perLane src.perLane = src.perLane from min_eq_right hk] at hpart
  calc 32 * src.perLane * h + 32 * src.perLane = 32 * (src.perLane * (h + 1)) := by ring
    _ ≤ 32 * (src.perLane * (dst.perLane / src.perLane)) := by gcongr; exact hpart
    _ ≤ 32 * dst.perLane := by gcongr; exact Nat.mul_div_le ..

section Convert

variable {dst src : VType} {rm : Rm} {sat : Bool} {top h : Nat} {x o : BitVec 1024}

/-- The first element of the part that a conversion writes. -/
def vcvtFrom (dst src : VType) (h : Nat) : Nat := if src.perLane < dst.perLane then 32 * min dst.perLane src.perLane * h else 0

/-- Element `e` of the part that is written. -/
theorem vget_vcvtVal_part {e : Nat} (hpart : h < vcvtParts dst src) (he : e < 32 * min dst.perLane src.perLane) :
    vget (BitVec.ofNat 1024 (vcvtVal dst src rm sat top h x o)) dst.width (vcvtFrom dst src h + e) =
      if active top (e / min dst.perLane src.perLane) then
        vcvtE dst src rm sat (vget x src.width (if src.perLane < dst.perLane then e else 32 * min dst.perLane src.perLane * h + e)) % 2 ^ dst.width
      else vget o dst.width (vcvtFrom dst src h + e) := by
  have hin : vcvtFrom dst src h + e < 32 * dst.perLane := by
    unfold vcvtFrom
    split
    · next hk =>
      rw [min_eq_right hk.le] at he ⊢
      have hle := vcvtPart_le hpart hk.le
      omega
    · have hle : min dst.perLane src.perLane ≤ dst.perLane := min_le_left ..
      omega
  rw [vcvtVal, vget_vbuild _ (width_mul_elements dst).le hin]
  have hwritten : vcvtFrom dst src h ≤ vcvtFrom dst src h + e ∧ vcvtFrom dst src h + e < vcvtFrom dst src h + 32 * min dst.perLane src.perLane := by
    omega
  refine (congrArg (· % 2 ^ dst.width) (if_pos hwritten)).trans ?_
  dsimp only
  rw [show vcvtFrom dst src h + e - (if src.perLane < dst.perLane then 32 * Nat.min dst.perLane src.perLane * h else 0) = e
    from Nat.add_sub_cancel_left ..]
  by_cases hact : active top (e / min dst.perLane src.perLane) = true
  · exact (congrArg (· % 2 ^ dst.width) (if_pos hact)).trans (if_pos hact).symm
  · exact ((congrArg (· % 2 ^ dst.width) (if_neg hact)).trans (vget_mod ..)).trans (if_neg hact).symm

/-- Every other element stands. -/
theorem vget_vcvtVal_rest {de : Nat} (hin : de < 32 * dst.perLane)
    (hout : de < vcvtFrom dst src h ∨ vcvtFrom dst src h + 32 * min dst.perLane src.perLane ≤ de) :
    vget (BitVec.ofNat 1024 (vcvtVal dst src rm sat top h x o)) dst.width de = vget o dst.width de := by
  have hrest : ¬ (vcvtFrom dst src h ≤ de ∧ de < vcvtFrom dst src h + 32 * min dst.perLane src.perLane) := by omega
  rw [vcvtVal, vget_vbuild _ (width_mul_elements dst).le hin]
  exact (congrArg (· % 2 ^ dst.width) (if_neg hrest)).trans (vget_mod ..)

end Convert

/-! ## Running a V-slot -/

section VSlot

variable {c : Cond} {s : State} {b : Bun} (h : s.issues b c)
include h

/-- A slot that ends in a masked write. -/
theorem vSlot_masked {body : Env → State → Rd State} (t : VType) (o : BitVec 1024) (f : Nat → Nat) {vd : BitVec 5}
    (he : body (b.env c) s = .ok (s.wrReg b.x (.v vd.toNat) (vmasked t b.pre.regs.top o f))) :
    ∃ v, vSlot c body s = .next (putV s b vd v) ∧ Lanewise t b.pre.regs.top o v f := ⟨_, vSlot_ok h he, lanewise_vmasked t _ o f⟩

theorem vBin_masked {t : VType} {vd va vb : BitVec 5} {x y o : BitVec 1024} (hx : rdV (b.env c) va = .ok x) (hy : rdV (b.env c) vb = .ok y)
    (ho : rdOld (b.env c) vd false = .ok o) (f : Nat → Nat → Nat) : ∃ v, vBin c t vd va vb f s = .next (putV s b vd v)
      ∧ Lanewise t b.pre.regs.top o v fun i => f (vget x t.width i) (vget y t.width i) :=
  vSlot_masked h t o _ (by rw [hx, ok_bind, hy, ok_bind, ho, ok_bind]; rfl)

/-- One source, and an old destination that can be read. -/
theorem vUn_masked {t : VType} {vd va : BitVec 5} {x o : BitVec 1024} (hx : rdV (b.env c) va = .ok x) (ho : rdV (b.env c) vd = .ok o)
    (f : Nat → Nat) : ∃ v, vUn c t vd va f s = .next (putV s b vd v) ∧ Lanewise t b.pre.regs.top o v fun i => f (vget x t.width i) := by
  obtain ⟨o', ho', hold⟩ := rdOld_of_rdV ho
  have hv : vUn c t vd va f s = .next (putV s b vd (vmasked t b.pre.regs.top o' fun i => f (vget x t.width i))) :=
    vSlot_ok h (by rw [hx, ok_bind, ho', ok_bind]; rfl)
  exact ⟨_, hv, hold (lanewise_vmasked t _ o' _)⟩

theorem execVfma_masked (t : VType) (rm : Rm) (sat : Bool) {vd va vb : BitVec 5} {x y o : BitVec 1024} (hx : rdV (b.env c) va = .ok x)
    (hy : rdV (b.env c) vb = .ok y) (ho : rdV (b.env c) vd = .ok o) : ∃ v, execVfma c t rm sat vd va vb s = .next (putV s b vd v)
      ∧ Lanewise t b.pre.regs.top o v fun i => vfmaE t rm sat (vget x t.width i) (vget y t.width i) (vget o t.width i) :=
  vSlot_masked h t o _ (by rw [hx, ok_bind, hy, ok_bind, ho, ok_bind]; rfl)

theorem execVsel_masked (t : VType) {vd va vb : BitVec 5} {x y o : BitVec 1024} (hx : rdV (b.env c) va = .ok x)
    (hy : rdV (b.env c) vb = .ok y) (ho : rdV (b.env c) vd = .ok o) : ∃ v, execVsel c t vd va vb s = .next (putV s b vd v)
      ∧ Lanewise t b.pre.regs.top o v fun i => if vget o t.width i ≠ 0 then vget x t.width i else vget y t.width i :=
  vSlot_masked h t o _ (by rw [hx, ok_bind, hy, ok_bind, ho, ok_bind]; rfl)

theorem execVext_ok (t : VType) {sd : BitVec 6} {va lane : BitVec 5} {x : BitVec 1024} (hx : rdV (b.env c) va = .ok x) :
    execVext c t sd va lane s =
      .next (putS s b sd (if t.isSigned then zextI (sextN (vget x 32 lane.toNat) 32) 64 else vget x 32 lane.toNat)) :=
  vSlot_ok h (by rw [hx]; rfl)

theorem execVins_ok (t : VType) {vd lane : BitVec 5} {sS : BitVec 6} {z : Word} {o : BitVec 1024} (hz : rdS (b.env c) sS = .ok z)
    (ho : rdV (b.env c) vd = .ok o) :
    execVins c t vd sS lane s = .next (putV s b vd (vbuild 32 32 fun i => if i = lane.toNat then z.toNat else vget o 32 i)) :=
  vSlot_ok h (by rw [hz, ok_bind, ho]; rfl)

theorem execVcvt_ok {dst src : VType} {rm : Rm} {sat : Bool} {vd va p : BitVec 5} {x o : BitVec 1024} (hx : rdV (b.env c) va = .ok x)
    (ho : rdOld (b.env c) vd (decide (1 < vcvtParts dst src)) = .ok o) :
    execVcvt c dst src rm sat vd va p s = .next (putV s b vd (vcvtVal dst src rm sat b.pre.regs.top p.toNat x o)) :=
  vSlot_ok h (by rw [hx, ok_bind, ho]; rfl)

theorem execVred_ok {op : RedOp} {t : VType} {rm : Rm} {sat : Bool} {vd va : BitVec 5} {x : BitVec 1024} (hx : rdV (b.env c) va = .ok x) :
    execVred c op t rm sat vd va s =
      .next (putV s b vd (vbuild 32 32 fun _ => vredE op t rm sat (redLanes op t b.pre.regs.top x))) :=
  vSlot_ok h (by rw [hx]; rfl)

/-! ## The mask stack (R180) -/

theorem execKpush_full {va : BitVec 5} (hd : b.pre.regs.depth = 15) : execKpush c va s = .next (noted s b 2 (.trap 0x01 0)) :=
  vSlot_stop h fun l => by rw [asks_pre, hd]; rfl

theorem execKpush_ok {va : BitVec 5} {x : BitVec 1024} (hd : b.pre.regs.depth ≠ 15) (hx : rdV (b.env c) va = .ok x) :
    execKpush c va s = .next (s.modCtx b.x fun k => { k with regs := { k.regs with
      mask := tset 0 k.regs.mask (b.pre.regs.depth + 1) (b.pre.regs.entry b.pre.regs.depth &&& laneMask x), depth := b.pre.regs.depth + 1 } }) :=
  vSlot_ok h (by rw [env_pre, bne_iff_ne.mpr hd, need_true, ok_bind, hx]; rfl)

theorem execKinv_empty (hd : b.pre.regs.depth = 0) : execKinv c s = .next (noted s b 2 (.trap 0x01 0)) :=
  vSlot_stop h fun l => by rw [asks_pre, hd]; rfl

theorem execKinv_ok (hd : b.pre.regs.depth ≠ 0) : execKinv c s = .next (s.modCtx b.x fun k => { k with regs := { k.regs with
    mask := tset 0 k.regs.mask b.pre.regs.depth
      (b.pre.regs.entry (b.pre.regs.depth - 1) &&& ((2 ^ 32 - 1) ^^^ b.pre.regs.entry b.pre.regs.depth)) } }) :=
  vSlot_ok h (by rw [env_pre, bne_iff_ne.mpr hd]; rfl)

theorem execKpop_empty (hd : b.pre.regs.depth = 0) : execKpop c s = .next (noted s b 2 (.trap 0x01 0)) :=
  vSlot_stop h fun l => by rw [asks_pre, hd]; rfl

theorem execKpop_ok (hd : b.pre.regs.depth ≠ 0) :
    execKpop c s = .next (s.modCtx b.x fun k => { k with regs := { k.regs with depth := b.pre.regs.depth - 1 } }) :=
  vSlot_ok h (by rw [env_pre, bne_iff_ne.mpr hd]; rfl)

end VSlot

end Sys2Proof.Machine

open Sys2Proof Sys2Proof.Machine Sys2Proof.Claim

/-- Settles O21: the instructions of the table are one masked instruction (`exec_vectorOps`), and the four others are masked writes too. -/
theorem vectorElementwise : Obligations.VectorElementwise := by
  refine ⟨fun t rm sat p hp c vd va vb s b x y o h hx hy ho => ?_, fun t rm sat c vd va vb s b x y o h hx hy ho => ⟨?_, ?_, ?_, ?_⟩⟩
  · obtain ⟨f, hexec, hf⟩ := exec_vectorOps hp
    obtain ⟨v, hv, hlanes⟩ := vBin_masked h hx hy ho f
    exact ⟨v, (hexec c vd va vb s).trans hv, lanewise_congr hlanes fun i => hf _ _⟩
  · obtain ⟨v, hv, hlanes⟩ := execVfma_masked h t rm sat hx hy ho
    exact ⟨v, hv, lanewise_congr hlanes fun i => by rw [vfmaE, vputI_eq_intElem]; rfl⟩
  · obtain ⟨v, hv, hlanes⟩ := vUn_masked h hx ho (vabsE t sat)
    exact ⟨v, hv, lanewise_congr hlanes fun i => by rw [vabsE, vputI_eq_intElem]⟩
  · obtain ⟨v, hv, hlanes⟩ := vUn_masked h hx ho (vnegE t sat)
    exact ⟨v, hv, lanewise_congr hlanes fun i => by rw [vnegE, vputI_eq_intElem]⟩
  · exact execVsel_masked h t hx hy ho

/-- Settles O22: the comparison and the moves between lanes are masked writes; VEXT, VINS and KTOP need no mask. -/
theorem vectorCompareAndLaneMoves : Obligations.VectorCompareAndLaneMoves := by
  refine ⟨fun t c vd va vb sS s b x y o z h hx hy ho hz => ⟨fun k => vBin_masked h hx hy ho (vcmpE k t), ?_, ?_, ?_, ?_⟩,
    fun c vd va lane sd sS s b x o z h hx ho hz => ⟨execVext_ok h .s32 hx, ?_, fun t => ⟨_, execVins_ok h t hz ho, fun i hi => ?_⟩,
      vSlot_ok h rfl⟩⟩
  · exact vSlot_masked h .z32 o _ (by rw [hx, ok_bind, hy, ok_bind, ho]; rfl)
  · exact vSlot_masked h t o _ (by rw [hz, ok_bind, ho]; rfl)
  · exact vSlot_masked h t o _ (by rw [ho]; rfl)
  · have hv : exec (.viotaRank c t vd) s = .next (putV s b vd (vmasked t b.pre.regs.top o (rankBelow b.pre.regs.top))) :=
      vSlot_ok h (by rw [ho]; rfl)
    exact ⟨_, hv, lanewise_congr (lanewise_vmasked t _ o _) fun i => by rw [rankBelow_eq_countP]⟩
  · rintro t (rfl | rfl)
    · exact execVext_ok h .z32 hx
    · exact execVext_ok h .f32 hx
  · rw [vget_vbuild _ le_rfl hi]
    split
    · rfl
    · exact vget_mod ..

/-- Settles O23: a conversion's destination element by element, and a reduction's one value in every lane. -/
theorem vectorConversionAndReduction : Obligations.VectorConversionAndReduction := by
  constructor
  · intro dst src rm sat c vd va p s b x o h hx ho _ hpart kmin
    refine ⟨_, execVcvt_ok h hx ho, fun e he => ?_, fun de hde hk hout => vget_vcvtVal_rest hde (by rwa [vcvtFrom, if_pos hk])⟩
    have hpos := vget_vcvtVal_part (rm := rm) (sat := sat) (top := b.pre.regs.top) (x := x) (o := o) hpart he
    unfold vcvtFrom at hpos
    by_cases hk : src.perLane < dst.perLane
    · simpa only [if_pos hk] using hpos
    · simpa only [if_neg hk, Nat.zero_add] using hpos
  · intro op t rm sat c vd va s b x h hx _ lanes one
    refine ⟨_, execVred_ok h hx, fun i hi => ?_⟩
    have hone : vredE op t rm sat lanes = one := by
      unfold vredE
      by_cases hf : t.isFloat = true
      · simp only [one, if_pos hf]
        rfl
      · simp only [one, if_neg hf]
        cases op with
        | add => exact vputI_eq_intElem ..
        | min => rw [redInt, vminE_int hf]
        | max => rw [redInt, vmaxE_int hf]
        | and => rfl
        | or => rfl
        | xor => rfl
    rw [vget_vbuild _ le_rfl hi]
    exact congrArg (· % 2 ^ 32) hone

/-- Settles O24: each of the three passes its check of the depth or stops at it; the masks that they write, lane by lane. -/
theorem maskStack : Obligations.MaskStack := by
  intro c va s b x h hx r d change
  refine ⟨fun hd => ⟨_, execKpush_ok h hd hx, fun i hi => ?_⟩, execKpush_full h, fun hd => ⟨_, execKinv_ok h hd, fun i hi => ?_⟩, execKpop_ok h,
    fun hd => ⟨execKinv_empty h hd, execKpop_empty h hd⟩⟩
  · rw [active_and, active_laneMask x hi]
  · rw [active_and, active_complement _ hi]

end

section
/-! The V-slot's accesses to L-mem: O26, O27, O28 and O29. The checks of an access (alignment, window, aliases) first, then what a store leaves
of the bytes, then the two scalar forms and the two lane-wise ones, whatever their lane addresses. -/

namespace Sys2Proof.Machine

open Sys2Proof.Claim

/-! ## The checks of lanes (R193) -/

theorem lmemOk_iff {p : Priv} {a n : Nat} : p.lmemOk a n = true ↔ InWindow p a n := by
  simp only [Priv.lmemOk, InWindow, Bool.and_eq_true, decide_eq_true_eq]
  tauto

section Lanes

variable {top : Nat} {f : Nat → Nat} {ok : Nat → Bool}

theorem lanesOk_none (h : ∀ j, j < 32 → active top j = true → ok (f j) = true) : lanesOk top f ok = none := by
  rw [lanesOk, Option.map_eq_none_iff, List.find?_eq_none]
  intro j hj
  simpa using h j (List.mem_range.mp hj)

/-- Lane `i` is the first active one that fails. -/
theorem lanesOk_some {i : Nat} (hi : i < 32) (hact : active top i = true) (hbad : ok (f i) = false)
    (hfirst : ∀ j, j < i → active top j = true → ok (f j) = true) : lanesOk top f ok = some (f i) := by
  have hfind : ((List.range 32).find? fun j => active top j && !ok (f j)) = some i := by
    refine List.find?_range_eq_some.mpr ⟨by rw [hact, hbad]; rfl, List.mem_range.mpr hi, fun j hj => ?_⟩
    cases hj' : active top j with
    | false => rfl
    | true => rw [hfirst j hj hj']; rfl
  rw [lanesOk, hfind]
  rfl

variable {e : Env}

theorem lanesAcc_misaligned {i : Nat} (hi : i < 32) (hact : active e.top i = true) (hbad : f i % 4 ≠ 0)
    (hfirst : ∀ j, j < i → active e.top j = true → f j % 4 = 0) : lanesAcc e f = .error (.trap 0x04 (f i)) := by
  rw [lanesAcc, lanesOk_some (ok := fun a => a % 4 == 0) hi hact (beq_eq_false_iff_ne.mpr hbad) fun j hj hj' => beq_iff_eq.mpr (hfirst j hj hj')]
  rfl

variable (hal : ∀ j, j < 32 → active e.top j = true → f j % 4 = 0)
include hal

theorem lanesOk_aligned : (lanesOk e.top f fun a => a % 4 == 0) = none := lanesOk_none fun j hj hj' => beq_iff_eq.mpr (hal j hj hj')

theorem lanesAcc_outside {i : Nat} (hi : i < 32) (hact : active e.top i = true) (hbad : ¬ InWindow e.pre.pr (f i) 4)
    (hfirst : ∀ j, j < i → active e.top j = true → InWindow e.pre.pr (f j) 4) : lanesAcc e f = .error (.trap 0x05 (f i)) := by
  rw [lanesAcc, lanesOk_aligned hal, lanesOk_some (ok := fun a => e.pre.pr.lmemOk a 4) hi hact
    (Bool.eq_false_iff.mpr fun hok => hbad (lmemOk_iff.mp hok)) fun j hj hj' => lmemOk_iff.mpr (hfirst j hj hj')]
  rfl

theorem lanesAcc_ok (hw : ∀ j, j < 32 → active e.top j = true → InWindow e.pre.pr (f j) 4) : lanesAcc e f = .ok () := by
  rw [lanesAcc, lanesOk_aligned hal, lanesOk_none (ok := fun a => e.pre.pr.lmemOk a 4) fun j hj hj' => lmemOk_iff.mpr (hw j hj hj')]

end Lanes

theorem lanesAcc_of_lanesOk {b : Bun} {c : Cond} {f : Nat → Nat} (h : LanesOk b f) : lanesAcc (b.env c) f = .ok () :=
  lanesAcc_ok (fun j hj hj' => (h j hj hj').1) fun j hj hj' => (h j hj hj').2

/-! ## The active lanes, in their order (R195) -/

theorem activeLanes_eq (e : Env) (f : Nat → Nat) : activeLanes e f = ((List.range 32).filter fun i => active e.top i).map fun i => (i, f i) := by
  have hlist : ∀ l : List Nat, (l.filterMap fun i => if active e.top i then some (i, f i) else none) =
      (l.filter fun i => active e.top i).map fun i => (i, f i) := by
    intro l
    induction l with
    | nil => rfl
    | cons i l ih => cases hact : active e.top i <;> simp [hact, ih]
  exact hlist _

theorem mem_activeLanes {e : Env} {f : Nat → Nat} {l : Nat × Nat} : l ∈ activeLanes e f ↔ l.1 < 32 ∧ active e.top l.1 = true ∧ l.2 = f l.1 := by
  obtain ⟨i, a⟩ := l
  simp only [activeLanes_eq, List.mem_map, List.mem_filter, List.mem_range, Prod.mk.injEq]
  constructor
  · rintro ⟨j, ⟨hj, hact⟩, rfl, rfl⟩
    exact ⟨hj, hact, rfl⟩
  · rintro ⟨hi, hact, rfl⟩
    exact ⟨i, ⟨hi, hact⟩, rfl, rfl⟩

theorem length_activeLanes (e : Env) (f : Nat → Nat) : (activeLanes e f).length = (List.range 32).countP fun i => active e.top i := by
  rw [activeLanes_eq, List.length_map, List.countP_eq_length_filter]

theorem length_activeLanes_le (e : Env) (f : Nat → Nat) : (activeLanes e f).length ≤ 32 := by
  rw [length_activeLanes]
  exact List.countP_le_length.trans_eq List.length_range

/-- What stands after a lane's entry belongs to higher lanes. -/
theorem activeLanes_split {e : Env} {f : Nat → Nat} {i : Nat} (hi : i < 32) (hact : active e.top i = true) :
    ∃ below above, activeLanes e f = below ++ (i, f i) :: above ∧ ∀ l ∈ above, i < l.1 := by
  obtain ⟨below, above, hsplit⟩ := List.append_of_mem (mem_activeLanes.mpr ⟨hi, hact, rfl⟩ : (i, f i) ∈ activeLanes e f)
  have hrising : (activeLanes e f).Pairwise fun l l' => l.1 < l'.1 := by
    rw [activeLanes_eq, List.pairwise_map]
    exact List.pairwise_lt_range.filter _
  rw [hsplit, List.pairwise_append, List.pairwise_cons] at hrising
  exact ⟨below, above, hsplit, hrising.2.1.1⟩

/-! ## Aliases (R222) -/

theorem aliasHit_eq_false {s : State} {e : Env} {sp : Space} {a n : Nat} : aliasHit s e sp a n = false ↔ NoHit s e.x sp a n := by
  unfold aliasHit NoHit
  cases (s.ctx e.x).region <;> simp

theorem aliasHit_of_mem {s : State} {e : Env} {sp : Space} {a n : Nat} {g : Region} (hg : (s.ctx e.x).region = some g)
    (h : ∃ al ∈ g.aliases, al.hits sp a n = true) : aliasHit s e sp a n = true := by
  rw [aliasHit, hg]
  exact List.any_eq_true.mpr h

theorem noHit_of_noRegion {s : State} {x : CtxId} {sp : Space} {a n : Nat} (h : (s.ctx x).region = none) : NoHit s x sp a n := fun _ hg =>
  nomatch h.symm.trans hg

theorem lanesHit_eq_false {s : State} {e : Env} {f : Nat → Nat} (h : ∀ i, i < 32 → active e.top i = true → NoHit s e.x .lmem (f i) 4) :
    lanesHit s e f = false := by
  refine List.any_eq_false.mpr fun l hl => ?_
  obtain ⟨hi, hact, ha⟩ := mem_activeLanes.mp hl
  rw [ha, aliasHit_eq_false.mpr (h l.1 hi hact)]
  exact Bool.false_ne_true

theorem lanesHit_of_lane {s : State} {e : Env} {f : Nat → Nat} {i : Nat} (hi : i < 32) (hact : active e.top i = true)
    (h : aliasHit s e .lmem (f i) 4 = true) : lanesHit s e f = true := List.any_eq_true.mpr ⟨(i, f i), mem_activeLanes.mpr ⟨hi, hact, rfl⟩, h⟩

/-- An unchecked load takes no entry. -/
theorem takeAlias_unchecked (s : State) (e : Env) (al : Alias) : s.takeAlias e false al = .ok s := by
  unfold State.takeAlias
  split <;> rfl

/-- What every store to L-mem checks once its address is known: its source, the aliases, then the address (R193, R224). -/
def lmemStoreChecks {α : Type} (hit : Bool) (src : Rd α) (acc : Rd Unit) (rest : α → Rd State) : Rd State := do
  let v ← aliasFirst hit src
  noAlias hit
  acc
  rest v

section Checks

variable {α : Type} {src : Rd α} {acc : Rd Unit} {rest : α → Rd State} {v : α}

theorem lmemStoreChecks_hit (hv : src = .ok v) : lmemStoreChecks true src acc rest = .error (.roll 0x02 0) := by rw [hv]; rfl

theorem lmemStoreChecks_stops {st : Stop} (hv : src = .ok v) (hacc : acc = .error st) : lmemStoreChecks false src acc rest = .error st := by
  rw [hv, hacc]; rfl

theorem lmemStoreChecks_ok (hv : src = .ok v) (hacc : acc = .ok ()) : lmemStoreChecks false src acc rest = rest v := by rw [hv, hacc]; rfl

end Checks

theorem heldRoom_ok {s : State} {e : Env} {n : Nat} (h : (s.ctx e.x).heldSt.length + n ≤ 64) : heldRoom s e n = .ok () := by
  rw [heldRoom, decide_eq_true h]
  rfl

theorem heldRoom_full {s : State} {e : Env} {n : Nat} (h : ¬ (s.ctx e.x).heldSt.length + n ≤ 64) : heldRoom s e n = .error (.roll 0x03 0) := by
  rw [heldRoom, decide_eq_false h]
  rfl

/-! ## The bytes of L-mem -/

/-- A context that holds nothing reads its core's bytes (R62, R83). -/
theorem viewLmem_unheld {s : State} {e : Env} (h : (s.ctx e.x).heldSt = []) (a n : Nat) : viewLmem s e a n = s.rdLmem e.x.coreId a n := by
  rw [viewLmem, h]
  rfl

section Bytes

variable {s t u : State} {c : CoreId} {p q : Nat → Prop}

theorem sameBytesBut_chain (h : sameBytesBut s t c p) (h' : sameBytesBut t u c p) : sameBytesBut s u c p := by
  obtain ⟨hv, hd, hh, hl, hc⟩ := h
  obtain ⟨hv', hd', hh', hl', hc'⟩ := h'
  exact ⟨fun a => (hv' a).trans (hv a), fun a => (hd' a).trans (hd a), fun ld a => (hh' ld a).trans (hh ld a),
    fun c' a ha => (hl' c' a ha).trans (hl c' a ha), fun k a => (hc' k a).trans (hc k a)⟩

theorem sameBytesBut_mono (h : sameBytesBut s t c q) (hqp : ∀ a, q a → p a) : sameBytesBut s t c p := by
  obtain ⟨hv, hd, hh, hl, hc⟩ := h
  exact ⟨hv, hd, hh, fun c' a ha => hl c' a fun hq => ha ⟨hq.1, hqp a hq.2⟩, hc⟩

theorem sameBytesBut_of_sameBytes (h : sameBytes s t) : sameBytesBut s t c p := by
  obtain ⟨hv, hd, hh, hl, hc⟩ := h
  exact ⟨hv, hd, hh, fun c' a _ => hl c' a, hc⟩

theorem lmem_wrLmem (s : State) (c : CoreId) (a n v : Nat) : ((s.wrLmem c a n v).core c).lmem = wrMem (s.core c).lmem a n v := by
  rw [State.wrLmem, core_modCore, if_pos rfl]

theorem sameBytesBut_wrLmem (s : State) (c : CoreId) (a n v : Nat) : sameBytesBut s (s.wrLmem c a n v) c fun q => a ≤ q ∧ q < a + n := by
  refine ⟨fun _ => rfl, fun _ => rfl, fun _ _ => rfl, fun c' q hq => ?_, fun k q => ?_⟩
  · rw [State.wrLmem, core_modCore]
    split
    · next hc => rw [hc]; exact rdByte_wrMem_outside _ _ _ _ _ (by by_contra hin; exact hq ⟨hc, by omega⟩)
    · rfl
  · exact congrArg (fun m => rdByte m q) (cl_modCore_keep Cluster.code s c _ k)

theorem ctx_wrLmem (s : State) (c : CoreId) (a n v : Nat) (y : CtxId) : (s.wrLmem c a n v).ctx y = s.ctx y := ctx_modCore_keep ..

end Bytes

/-! ## A lane-wise store (R195) -/

section StoreLanes

variable (s : State) (c : CoreId) (v : BitVec 1024) (ls : List (Nat × Nat))

/-- The memory that lanes leave, one after the other. -/
def wrLanes (v : BitVec 1024) (m : Memory) (ls : List (Nat × Nat)) : Memory :=
  ls.foldl (fun m l => wrMem m l.2 4 (v.toNat / 2 ^ (32 * l.1) % 2 ^ 32)) m

theorem rdByte_wrLanes_outside (m : Memory) {q : Nat} (h : ∀ l ∈ ls, ¬ (l.2 ≤ q ∧ q < l.2 + 4)) : rdByte (wrLanes v m ls) q = rdByte m q := by
  induction ls generalizing m with
  | nil => rfl
  | cons l ls ih =>
    have hl := h l List.mem_cons_self
    exact (ih _ fun l' hl' => h l' (List.mem_cons_of_mem _ hl')).trans (rdByte_wrMem_outside _ _ _ _ _ (by omega))

/-- Byte `k` of lane `i` is byte `4 * i + k` of the register. -/
theorem lane_byte {i k : Nat} (hk : k < 4) : v.toNat / 2 ^ (32 * i) % 2 ^ 32 / 256 ^ k % 2 ^ 8 = vget v 8 (4 * i + k) := by
  have hword : v.toNat / 2 ^ (32 * i) % 2 ^ 32 / 256 ^ k % 2 ^ 8 = v.toNat / 2 ^ (32 * i) / 256 ^ k % 2 ^ 8 := by
    interval_cases k <;> omega
  rw [hword, Nat.div_div_eq_div_mul, show 256 ^ k = 2 ^ (8 * k) by rw [Nat.pow_mul], ← Nat.pow_add, vget,
    show 32 * i + 8 * k = 8 * (4 * i + k) by omega]

/-- A byte that no later lane writes is the lane's own. -/
theorem rdByte_wrLanes_last (m : Memory) (below : List (Nat × Nat)) {i a q : Nat} {above : List (Nat × Nat)} (hq : a ≤ q ∧ q < a + 4)
    (habove : ∀ l ∈ above, ¬ (l.2 ≤ q ∧ q < l.2 + 4)) :
    (rdByte (wrLanes v m (below ++ (i, a) :: above)) q).toNat = vget v 8 (4 * i + (q - a)) := by
  obtain ⟨k, rfl⟩ := Nat.exists_eq_add_of_le hq.1
  have hk : k < 4 := by omega
  have hlast : rdByte (wrLanes v m (below ++ (i, a) :: above)) (a + k) = BitVec.ofNat 8 (v.toNat / 2 ^ (32 * i) % 2 ^ 32 / 256 ^ k) := by
    rw [wrLanes, List.foldl_append, List.foldl_cons]
    exact (rdByte_wrLanes_outside v above _ habove).trans (rdByte_wrMem_inside _ _ _ _ _ hk)
  rw [hlast, BitVec.toNat_ofNat, lane_byte v hk, Nat.add_sub_cancel_left]

/-- The same lanes written to a core's L-mem: what `State.wrLmemLanes` does before it clears the marks of whole words. -/
def writeLanes (s : State) (c : CoreId) (v : BitVec 1024) (ls : List (Nat × Nat)) : State :=
  ls.foldl (fun s l => s.wrLmem c l.2 4 (v.toNat / 2 ^ (32 * l.1) % 2 ^ 32)) s

theorem wrLmemLanes_eq : s.wrLmemLanes c ls v =
    (writeLanes s c v ls).modCore c fun o => { o with lbad := o.lbad.filter fun w => !lanesCover ls 8 w } := rfl

theorem lmem_writeLanes : ((writeLanes s c v ls).core c).lmem = wrLanes v (s.core c).lmem ls := by
  induction ls generalizing s with
  | nil => rfl
  | cons l ls ih =>
    rw [writeLanes, List.foldl_cons]
    exact (ih _).trans (by rw [lmem_wrLmem]; rfl)

theorem ctx_writeLanes (y : CtxId) : (writeLanes s c v ls).ctx y = s.ctx y := by
  induction ls generalizing s with
  | nil => rfl
  | cons l ls ih => exact (ih _).trans (ctx_wrLmem ..)

theorem sameBytesBut_writeLanes {p : Nat → Prop} (hp : ∀ l ∈ ls, ∀ q, l.2 ≤ q ∧ q < l.2 + 4 → p q) :
    sameBytesBut s (writeLanes s c v ls) c p := by
  induction ls generalizing s with
  | nil => exact sameBytesBut_of_sameBytes (sameBytes_refl s)
  | cons l ls ih =>
    exact sameBytesBut_chain (sameBytesBut_mono (sameBytesBut_wrLmem ..) (hp l List.mem_cons_self))
      (ih _ fun l' hl' => hp l' (List.mem_cons_of_mem _ hl'))

theorem lmem_wrLmemLanes : ((s.wrLmemLanes c ls v).core c).lmem = wrLanes v (s.core c).lmem ls := by
  rw [wrLmemLanes_eq, core_modCore, if_pos rfl]
  exact lmem_writeLanes s c v ls

theorem ctx_wrLmemLanes (y : CtxId) : (s.wrLmemLanes c ls v).ctx y = s.ctx y :=
  (ctx_modCore_keep ..).trans (ctx_writeLanes s c v ls y)

theorem sameBytesBut_wrLmemLanes {p : Nat → Prop} (hp : ∀ l ∈ ls, ∀ q, l.2 ≤ q ∧ q < l.2 + 4 → p q) :
    sameBytesBut s (s.wrLmemLanes c ls v) c p :=
  sameBytesBut_trans (sameBytesBut_writeLanes s c v ls hp) (sameBytes_modCore ..)

end StoreLanes

/-! ## Held stores (R221) -/

/-- Stores held one after the other. -/
def holdAll (s : State) (e : Env) (hs : List HeldSt) : State := hs.foldl (fun s h => s.hold e h) s

/-- The entries join the context's, and no byte and no register changes. -/
theorem holdAll_leaves (s : State) (e : Env) (hs : List HeldSt) : sameBytes s (holdAll s e hs)
    ∧ ((holdAll s e hs).ctx e.x).heldSt = (s.ctx e.x).heldSt ++ hs ∧ ((holdAll s e hs).ctx e.x).regs = (s.ctx e.x).regs := by
  induction hs generalizing s with
  | nil => exact ⟨sameBytes_refl s, (List.append_nil _).symm, rfl⟩
  | cons h hs ih =>
    obtain ⟨hbytes, hheld, hregs⟩ := ih (s.hold e h)
    have hctx : (s.hold e h).ctx e.x = { s.ctx e.x with heldSt := (s.ctx e.x).heldSt ++ [h] } := (ctx_modCtx ..).trans (if_pos rfl)
    rw [hctx] at hheld hregs
    exact ⟨sameBytes_trans (sameBytes_modCtx ..) hbytes, hheld.trans (List.append_assoc ..), hregs⟩

/-! ## Running an access -/

section Access

variable {c : Cond} {s : State} {b : Bun} (h : s.issues b c)
include h

theorem vmSlot_acq {body : Env → State → Rd State} (ha : b.pre.fl.acq ≠ []) : vmSlot c body s = .next (noted s b 2 (.block .acq)) :=
  vSlot_stop (body := fun e s => do holdAcq e; body e s) h fun l => by
    rw [holdAcq, asks_pre, Bool.eq_false_iff.mpr fun he => ha (List.isEmpty_iff.mp he)]
    rfl

variable (ha : b.pre.fl.acq = [])
include ha

theorem vmSlot_ok {body : Env → State → Rd State} {t : State} (he : body (b.env c) s = .ok t) : vmSlot c body s = .next t :=
  vSlot_ok (body := fun e s => do holdAcq e; body e s) h (by rw [holdAcq_ok ha]; exact he)

theorem vmSlot_stop {body : Env → State → Rd State} {st : Stop} (he : ∀ l, body (b.asks c l) s = .error st) :
    vmSlot c body s = .next (noted s b 2 st) :=
  vSlot_stop (body := fun e s => do holdAcq e; body e s) h fun l => by rw [holdAcq_ok (e := b.asks c l) ha]; exact he l

/-! ### LDL and STL -/

section Scalar

variable {a : BitVec 4} {imm : BitVec 14} {base : Word} (hb : rdA (b.env c) a = .ok base)
include hb

section Load

variable {sz : LSz} {chk : Bool} {sd : BitVec 6}

theorem execLdl_stops {st : Stop} (hacc : lmemAcc (b.env c) (effAddr base imm sz.bytes) sz.bytes sz.bytes = .error st) :
    execLdl c sz chk sd a imm s = .next (noted s b 2 st) :=
  vmSlot_stop h ha fun l => by
    rw [rdA_relax l hb, ok_bind]
    exact (congrArg (· >>= _) hacc).trans (error_bind ..)

theorem execLdl_ok (hr : (s.ctx b.x).region = none) (hheld : (s.ctx b.x).heldSt = [])
    (hacc : lmemAcc (b.env c) (effAddr base imm sz.bytes) sz.bytes sz.bytes = .ok ()) :
    execLdl c sz chk sd a imm s = .next (s.wrMarked b.x (.s sd.toNat) (extend sz (s.rdLmem b.x.coreId (effAddr base imm sz.bytes) sz.bytes))
      (poisonMark ((s.core b.x.coreId).lmemBad (effAddr base imm sz.bytes) sz.bytes) (effAddr base imm sz.bytes))) := by
  have hal (al : Alias) : s.takeAlias (b.env c) chk al = .ok s := by rw [State.takeAlias, env_x, hr]
  refine vmSlot_ok h ha ?_
  rw [hb, ok_bind]
  refine (congrArg (· >>= _) hacc).trans ?_
  rw [ok_bind, hal, ok_bind, viewLmem_unheld hheld]
  rfl

end Load

section Store

variable {sz : SSz} {sS : BitVec 6} {v : Word}

/-- What STL does past the checks of every store to L-mem. -/
def stlPast (sz : SSz) (ea : Nat) (e : Env) (s : State) (v : Word) : Rd State :=
  if e.inRegion then do
    heldRoom s e 1
    .ok (s.hold e (.mem .lmem ea sz.bytes v.toNat e.baddr))
  else .ok (s.wrLmem e.x.coreId ea sz.bytes v.toNat)

omit h ha hb in
theorem execStl_checks : execStl c sz sS a imm s = vmSlot c (fun e s => do
    let base ← rdA e a
    let ea := effAddr base imm sz.bytes
    lmemStoreChecks (aliasHit s e .lmem ea sz.bytes) (rdS e sS) (lmemAcc e ea sz.bytes sz.bytes) (stlPast sz ea e s)) s := rfl

variable (hv : rdS (b.env c) sS = .ok v)
include hv

theorem execStl_hit (hhit : aliasHit s (b.env c) .lmem (effAddr base imm sz.bytes) sz.bytes = true) :
    execStl c sz sS a imm s = .next (noted s b 2 (.roll 0x02 0)) := by
  rw [execStl_checks]
  refine vmSlot_stop h ha fun l => ?_
  rw [rdA_relax l hb, ok_bind]
  dsimp only
  rw [show aliasHit s (b.asks c l) .lmem (effAddr base imm sz.bytes) sz.bytes = true from hhit]
  exact lmemStoreChecks_hit (rdS_relax l hv)

variable (hno : NoHit s b.x .lmem (effAddr base imm sz.bytes) sz.bytes)
include hno

theorem execStl_stops {st : Stop} (hst : ∀ l, (do
      lmemAcc (b.asks c l) (effAddr base imm sz.bytes) sz.bytes sz.bytes
      stlPast sz (effAddr base imm sz.bytes) (b.asks c l) s v) = .error st) : execStl c sz sS a imm s = .next (noted s b 2 st) := by
  rw [execStl_checks]
  refine vmSlot_stop h ha fun l => ?_
  rw [rdA_relax l hb, ok_bind]
  dsimp only
  rw [aliasHit_eq_false (e := b.asks c l) |>.mpr hno, lmemStoreChecks, rdS_relax l hv]
  exact hst l

theorem execStl_ok {t : State} (hacc : lmemAcc (b.env c) (effAddr base imm sz.bytes) sz.bytes sz.bytes = .ok ())
    (ht : stlPast sz (effAddr base imm sz.bytes) (b.env c) s v = .ok t) : execStl c sz sS a imm s = .next t := by
  rw [execStl_checks]
  refine vmSlot_ok h ha ?_
  rw [hb, ok_bind]
  dsimp only
  rw [aliasHit_eq_false (e := b.env c) |>.mpr hno, lmemStoreChecks_ok hv hacc]
  exact ht

end Store

end Scalar

/-! ### Lane-wise loads and stores -/

section LaneWise

variable {addrs : Env → Rd (Nat → Nat)} {f : Nat → Nat} (haddr : ∀ l, addrs (b.asks c l) = .ok f)
include haddr

section Load

variable {vd : BitVec 5} {chk : Env → State → (Nat → Nat) → Rd State} {o : BitVec 1024} (ho : rdOld (b.env c) vd false = .ok o)
include ho

theorem vLoad_stops {st : Stop} (hacc : lanesAcc (b.env c) f = .error st) : vLoad c vd addrs chk s = .next (noted s b 2 st) :=
  vmSlot_stop h ha fun l => by
    rw [haddr l, ok_bind, rdOld_relax l ho, ok_bind]
    exact (congrArg (· >>= _) hacc).trans (error_bind ..)

theorem vLoad_ok (hacc : lanesAcc (b.env c) f = .ok ()) (hchk : ∀ e s, chk e s f = .ok s) : vLoad c vd addrs chk s =
    .next ((s.conflicts (b.env c) f).wrMarked b.x (.v vd.toNat) (laneLoad s (b.env c) o f)
      (poisonMark (lanesBad s (b.env c) f).isSome ((lanesBad s (b.env c) f).getD 0))) :=
  vmSlot_ok h ha (by rw [← asks_false b c, haddr false, ok_bind, asks_false, ho, ok_bind, hacc, ok_bind, hchk]; rfl)

end Load

section Store

variable {vs : BitVec 5} {one : Bool} {v : BitVec 1024}

/-- What a lane-wise store does past the checks of every store to L-mem. -/
def vStorePast (one : Bool) (f : Nat → Nat) (e : Env) (s : State) (v : BitVec 1024) : Rd State :=
  if e.inRegion then do
    heldRoom (s.conflicts e f) e (if one then 1 else (activeLanes e f).length)
    if one then .ok ((s.conflicts e f).hold e (.vec .lmem (activeLanes e f) v e.baddr))
    else .ok ((activeLanes e f).foldl (fun s l => s.hold e (.mem .lmem l.2 4 (vget v 32 l.1) e.baddr)) (s.conflicts e f))
  else .ok (storeLanes (s.conflicts e f) e v f)

omit h ha haddr in
theorem vStore_checks : vStore c vs one addrs s = vmSlot c (fun e s => do
    let f ← addrs e
    lmemStoreChecks (lanesHit s e f) (rdV e vs) (lanesAcc e f) (vStorePast one f e s)) s := rfl

variable (hv : rdV (b.env c) vs = .ok v)
include hv

theorem vStore_hit (hhit : lanesHit s (b.env c) f = true) : vStore c vs one addrs s = .next (noted s b 2 (.roll 0x02 0)) := by
  rw [vStore_checks]
  refine vmSlot_stop h ha fun l => ?_
  rw [haddr l, ok_bind, show lanesHit s (b.asks c l) f = true from hhit]
  exact lmemStoreChecks_hit (rdV_relax l hv)

variable (hno : lanesHit s (b.env c) f = false)
include hno

theorem vStore_stops {st : Stop} (hacc : lanesAcc (b.env c) f = .error st) : vStore c vs one addrs s = .next (noted s b 2 st) := by
  rw [vStore_checks]
  refine vmSlot_stop h ha fun l => ?_
  rw [haddr l, ok_bind, show lanesHit s (b.asks c l) f = false from hno]
  exact lmemStoreChecks_stops (rdV_relax l hv) hacc

theorem vStore_ok {t : State} (hacc : lanesAcc (b.env c) f = .ok ()) (ht : vStorePast one f (b.env c) s v = .ok t) :
    vStore c vs one addrs s = .next t := by
  rw [vStore_checks]
  refine vmSlot_ok h ha ?_
  rw [← asks_false b c, haddr false, ok_bind, asks_false, hno, lmemStoreChecks_ok hv hacc]
  exact ht

end Store

end LaneWise

end Access

/-! ## The table of the forms (R194 to R196) -/

section Forms

variable {c : Cond} {b : Bun} {a : BitVec 4} {imm : BitVec 14} {sS : BitVec 6} {vb : BitVec 5} {base st : Word} {ix : BitVec 1024}

theorem consecutive_ok (hb : rdA (b.env c) a = .ok base) (l : Bool) : consecutive a imm (b.asks c l) = .ok (rowAddr base imm) := by
  rw [consecutive, rdA_relax l hb]; rfl

theorem strided_ok (hb : rdA (b.env c) a = .ok base) (hst : rdS (b.env c) sS = .ok st) (l : Bool) :
    strided a sS (b.asks c l) = .ok (strideAddr base st) := by
  rw [strided, rdA_relax l hb, ok_bind, rdS_relax l hst]; rfl

theorem indexed_ok (hb : rdA (b.env c) a = .ok base) (hix : rdV (b.env c) vb = .ok ix) (l : Bool) :
    indexed a vb (b.asks c l) = .ok (offsetAddr base ix) := by
  rw [indexed, rdA_relax l hb, ok_bind, rdV_relax l hix]; rfl

variable {p : Instr × (Nat → Nat)} (hb : rdA (b.env c) a = .ok base) (hst : rdS (b.env c) sS = .ok st) (hix : rdV (b.env c) vb = .ok ix)
include hb hst hix

theorem exec_laneLoads {vd : BitVec 5} (hp : p ∈ laneLoads c vd a imm sS vb base st ix) : ∃ addrs chk, (∀ s, exec p.1 s = vLoad c vd addrs chk s)
    ∧ (∀ l, addrs (b.asks c l) = .ok p.2) ∧ ∀ e s, chk e s p.2 = .ok s := by
  simp only [laneLoads, List.mem_cons, List.not_mem_nil, or_false] at hp
  rcases hp with rfl | rfl | rfl
  · exact ⟨_, _, fun _ => rfl, consecutive_ok hb, fun e s => takeAlias_unchecked s e _⟩
  · exact ⟨_, _, fun _ => rfl, strided_ok hb hst, fun _ _ => rfl⟩
  · exact ⟨_, _, fun _ => rfl, indexed_ok hb hix, fun _ _ => rfl⟩

theorem exec_laneStores {vs : BitVec 5} (hp : p ∈ laneStores c vs a imm sS vb base st ix) : ∃ one addrs, (∀ s, exec p.1 s = vStore c vs one addrs s)
    ∧ (∀ l, addrs (b.asks c l) = .ok p.2) ∧ (p.1 = .vst c vs a imm → one = true) ∧ (p.1 = .vsts c vs a sS ∨ p.1 = .vsct c vs a vb → one = false) := by
  simp only [laneStores, List.mem_cons, List.not_mem_nil, or_false] at hp
  rcases hp with rfl | rfl | rfl
  · exact ⟨true, _, fun _ => rfl, consecutive_ok hb, fun _ => rfl, by rintro (hp | hp) <;> cases hp⟩
  · exact ⟨false, _, fun _ => rfl, strided_ok hb hst, nofun, fun _ => rfl⟩
  · exact ⟨false, _, fun _ => rfl, indexed_ok hb hix, nofun, fun _ => rfl⟩

end Forms

/-! ## What the lane-wise forms leave -/

theorem conflicts_keep {β : Type} (p : Core → β) (s : State) (e : Env) (f : Nat → Nat) (o : CoreId)
    (hp : ∀ (c : Core) a b, p { c with evsel := a, evcnt := b } = p c := by exact fun _ _ _ => rfl) : p ((s.conflicts e f).core o) = p (s.core o) :=
  core_tally_keep p s e.x _ _ o hp

/-- A loaded element, lane by lane. -/
theorem vget_laneLoad {s : State} {e : Env} (hheld : (s.ctx e.x).heldSt = []) (o : BitVec 1024) (f : Nat → Nat) {i : Nat} (hi : i < 32) :
    vget (BitVec.ofNat 1024 (laneLoad s e o f)) 32 i = if active e.top i then s.rdLmem e.x.coreId (f i) 4 else vget o 32 i := by
  rw [laneLoad, vget_vbuild _ le_rfl hi]
  split
  · rw [viewLmem_unheld hheld]
    exact Nat.mod_eq_of_lt (rdMem_lt ..)
  · exact vget_mod ..

theorem isSome_lanesBad {s : State} {e : Env} {f : Nat → Nat} : (lanesBad s e f).isSome = true ↔
    ∃ i, i < 32 ∧ active e.top i = true ∧ (s.core e.x.coreId).lmemBad (f i) 4 = true := by
  simp only [lanesBad, Option.isSome_map, List.find?_isSome, List.mem_range, Bool.and_eq_true]

/-- A lane-wise store outside a region: the highest lane's byte, every other byte, and every context (R195). -/
theorem storeLanes_leaves (s : State) (e : Env) (v : BitVec 1024) (f : Nat → Nat) :
    (∀ y, (storeLanes (s.conflicts e f) e v f).ctx y = s.ctx y)
      ∧ (∀ i q, i < 32 → active e.top i = true → f i ≤ q → q < f i + 4 →
          (∀ j, i < j → j < 32 → active e.top j = true → ¬ (f j ≤ q ∧ q < f j + 4)) →
          (rdByte ((storeLanes (s.conflicts e f) e v f).core e.x.coreId).lmem q).toNat = vget v 8 (4 * i + (q - f i)))
      ∧ sameBytesBut s (storeLanes (s.conflicts e f) e v f) e.x.coreId fun q => ∃ i, i < 32 ∧ active e.top i = true ∧ f i ≤ q ∧ q < f i + 4 := by
  refine ⟨fun y => (ctx_wrLmemLanes ..).trans (ctx_conflicts ..), fun i q hi hact hlo hhi hlast => ?_, ?_⟩
  · obtain ⟨below, above, hsplit, habove⟩ := activeLanes_split (f := f) hi hact
    rw [storeLanes, lmem_wrLmemLanes, hsplit]
    refine rdByte_wrLanes_last v _ below ⟨hlo, hhi⟩ fun l hl => ?_
    obtain ⟨hj, hjact, ha⟩ := mem_activeLanes.mp (hsplit ▸ List.mem_append_right _ (List.mem_cons_of_mem _ hl) : l ∈ activeLanes e f)
    rw [ha]
    exact hlast l.1 (habove l hl) hj hjact
  · refine sameBytesBut_chain (sameBytesBut_of_sameBytes (sameBytes_tally ..)) (sameBytesBut_wrLmemLanes _ _ _ _ fun l hl q hq => ?_)
    obtain ⟨hi, hact, ha⟩ := mem_activeLanes.mp hl
    exact ⟨l.1, hi, hact, ha ▸ hq⟩

/-- A lane-wise store of a region: VST takes one entry, the other two one for each active lane (R199, R221). -/
theorem vStorePast_holds {one : Bool} {f : Nat → Nat} {e : Env} {s : State} {v : BitVec 1024} (hr : e.inRegion = true)
    (hroom : (s.ctx e.x).heldSt.length + 32 ≤ 64) : ∃ t hs, vStorePast one f e s v = .ok t ∧ sameBytes s t
      ∧ (t.ctx e.x).heldSt = (s.ctx e.x).heldSt ++ hs ∧ (t.ctx e.x).regs = (s.ctx e.x).regs
      ∧ hs.length = if one then 1 else (List.range 32).countP fun i => active e.top i := by
  have hlen := length_activeLanes_le e f
  have hctx : (s.conflicts e f).ctx e.x = s.ctx e.x := ctx_conflicts ..
  have hfits : ((s.conflicts e f).ctx e.x).heldSt.length + (if one then 1 else (activeLanes e f).length) ≤ 64 := by
    rw [hctx]
    split <;> omega
  have hleaves (hs : List HeldSt) : sameBytes s (holdAll (s.conflicts e f) e hs)
      ∧ ((holdAll (s.conflicts e f) e hs).ctx e.x).heldSt = (s.ctx e.x).heldSt ++ hs
      ∧ ((holdAll (s.conflicts e f) e hs).ctx e.x).regs = (s.ctx e.x).regs := by
    obtain ⟨hbytes, hheld, hregs⟩ := holdAll_leaves (s.conflicts e f) e hs
    rw [hctx] at hheld hregs
    exact ⟨sameBytes_trans (sameBytes_tally ..) hbytes, hheld, hregs⟩
  cases one with
  | true =>
    obtain ⟨hbytes, hheld, hregs⟩ := hleaves [.vec .lmem (activeLanes e f) v e.baddr]
    exact ⟨_, _, by rw [vStorePast, if_pos hr, heldRoom_ok hfits]; rfl, hbytes, hheld, hregs, rfl⟩
  | false =>
    obtain ⟨hbytes, hheld, hregs⟩ := hleaves ((activeLanes e f).map fun l => .mem .lmem l.2 4 (vget v 32 l.1) e.baddr)
    exact ⟨_, _, by rw [vStorePast, if_pos hr, heldRoom_ok hfits, holdAll, List.foldl_map]; rfl, hbytes, hheld, hregs,
      (List.length_map ..).trans (length_activeLanes e f)⟩

end Sys2Proof.Machine

open Sys2Proof Sys2Proof.Machine Sys2Proof.Claim

/-- Settles O26: outside a region the two forms are one read and one write of the core's L-mem. -/
theorem scalarLmemAccess : Obligations.ScalarLmemAccess := by
  rintro c chk sd sS a imm s b base v h ha ⟨hpre, hreg, hheld⟩ hb hv
  constructor
  · intro sz ea hal hw
    exact execLdl_ok h ha hb hreg hheld (lmemAcc_ok hal hw)
  intro sz ea hal hw
  have hpast : stlPast sz ea (b.env c) s v = .ok (s.wrLmem b.x.coreId ea sz.bytes v.toNat) := by
    rw [stlPast, Env.inRegion, env_pre, hpre]
    rfl
  refine ⟨_, execStl_ok h ha hb hv (noHit_of_noRegion hreg) (lmemAcc_ok hal hw) hpast, ?_, sameBytesBut_wrLmem .., fun _ => ctx_wrLmem ..⟩
  rw [State.rdLmem, lmem_wrLmem]
  exact rdMem_wrMem_same ..

/-- Settles O27: of every access the first check that fails is its slot's stop, as its sources all read. -/
theorem lmemAccessFaults : Obligations.LmemAccessFaults := by
  constructor
  · intro c chk sd sS a imm s b base v h hb hv
    refine ⟨?_, ?_, fun ha => ⟨fun _ => vmSlot_acq h ha, fun _ => vmSlot_acq h ha⟩⟩
    · intro ha sz ea
      exact ⟨fun hal => execLdl_stops h ha hb (lmemAcc_misaligned hal), fun hal hw => execLdl_stops h ha hb (lmemAcc_outside hal hw)⟩
    · intro ha sz ea hno
      refine ⟨fun hal => execStl_stops h ha hb hv hno fun l => ?_, fun hal hw => execStl_stops h ha hb hv hno fun l => ?_⟩
      · rw [lmemAcc_misaligned hal, error_bind]
      · rw [lmemAcc_outside (e := b.asks c l) hal hw, error_bind]
  · intro c vd vb a imm sS s b base st ix v h ha hb hst hix hv p hp hno
    have hstops : ∀ {stop : Stop}, lanesAcc (b.env c) p.2 = .error stop → exec p.1 s = .next (noted s b 2 stop) := by
      intro stop hacc
      rcases List.mem_append.mp hp with hp | hp
      · obtain ⟨addrs, chk, hexec, haddr, -⟩ := exec_laneLoads hb hst hix hp
        obtain ⟨o, ho, -⟩ := rdOld_of_rdV hv
        exact (hexec s).trans (vLoad_stops h ha haddr ho hacc)
      · obtain ⟨one, addrs, hexec, haddr, -⟩ := exec_laneStores hb hst hix hp
        exact (hexec s).trans (vStore_stops h ha haddr hv (lanesHit_eq_false (e := b.env c) hno) hacc)
    exact ⟨fun i hi hact hbad hfirst => hstops (lanesAcc_misaligned hi hact hbad hfirst),
      fun i hi hact hbad hal hfirst => hstops (lanesAcc_outside (e := b.env c) hal hi hact hbad hfirst)⟩

/-- Settles O28: the loads are one operation of their lane addresses (`vLoad_ok`), and so are the stores (`storeLanes_leaves`). -/
theorem laneLoadsAndStores : Obligations.LaneLoadsAndStores := by
  constructor
  · rintro c vd vb a imm sS s b base st ix o h ha ⟨-, -, hheld⟩ hb hst hix ho p hp hok
    obtain ⟨addrs, chk, hexec, haddr, hchk⟩ := exec_laneLoads hb hst hix hp
    refine ⟨_, _, (hexec s).trans (vLoad_ok h ha haddr ho (lanesAcc_of_lanesOk hok) hchk), fun i hi => vget_laneLoad hheld o p.2 hi,
      fun hgood => ?_, fun i hi hact hbad => ?_⟩
    · have hnone : (lanesBad s (b.env c) p.2).isSome = false := by
        refine Bool.eq_false_iff.mpr fun hsome => ?_
        obtain ⟨i, hi, hact, hbad⟩ := isSome_lanesBad.mp hsome
        exact Bool.false_ne_true ((hgood i hi hact).symm.trans hbad)
      rw [hnone]
      rfl
    · rw [isSome_lanesBad (e := b.env c) |>.mpr ⟨i, hi, hact, hbad⟩]
      rfl
  · rintro c vs vb a imm sS s b base st ix v h ha ⟨hpre, hreg, -⟩ hb hst hix hv p hp hok
    obtain ⟨one, addrs, hexec, haddr, -⟩ := exec_laneStores hb hst hix hp
    have hpast : vStorePast one p.2 (b.env c) s v = .ok (storeLanes (s.conflicts (b.env c) p.2) (b.env c) v p.2) := by
      rw [vStorePast, Env.inRegion, env_pre, hpre]
      rfl
    have hno : lanesHit s (b.env c) p.2 = false := lanesHit_eq_false fun i _ _ => noHit_of_noRegion hreg
    exact ⟨_, (hexec s).trans (vStore_ok h ha haddr hv hno (lanesAcc_of_lanesOk hok) hpast), storeLanes_leaves s (b.env c) v p.2⟩

/-- Settles O29: the aliases come first, then the address, then the room that a held store needs. -/
theorem regionHoldsStores : Obligations.RegionHoldsStores := by
  intro c sz sS vs vb a imm s b g base st ix v h ha hpre hg hb hst hix hv
  refine ⟨⟨fun hhit => execStl_hit h ha hb hst (aliasHit_of_mem hg hhit), fun hno hal hw => ?_⟩, fun p hp hhit => ?_, fun p hp hok hno hroom => ?_⟩
  · split
    · next hfull =>
      refine execStl_stops h ha hb hst hno fun l => ?_
      rw [lmemAcc_ok (e := b.asks c l) hal hw, ok_bind, stlPast, if_pos (show (b.asks c l).inRegion = true from hpre),
        heldRoom_full (by rw [asks_x]; omega), error_bind]
    · next hfree =>
      refine execStl_ok h ha hb hst hno (lmemAcc_ok hal hw) ?_
      rw [stlPast, if_pos (show (b.env c).inRegion = true from hpre), heldRoom_ok (by rw [env_x]; omega)]
      rfl
  · obtain ⟨one, addrs, hexec, haddr, -⟩ := exec_laneStores hb hst hix hp
    obtain ⟨i, hi, hact, hal⟩ := hhit
    exact (hexec s).trans (vStore_hit h ha haddr hv (lanesHit_of_lane hi hact (aliasHit_of_mem hg hal)))
  · obtain ⟨one, addrs, hexec, haddr, hvst, hothers⟩ := exec_laneStores hb hst hix hp
    obtain ⟨t, hs, ht, hbytes, hheld, hregs, hlen⟩ := vStorePast_holds (one := one) (f := p.2) (e := b.env c) (v := v) hpre hroom
    refine ⟨t, hs, (hexec s).trans (vStore_ok h ha haddr hv (lanesHit_eq_false hno) (lanesAcc_of_lanesOk hok) ht), hbytes, hheld, hregs,
      fun hp => ?_, fun hp => ?_⟩
    · rw [hlen, hvst hp]
      rfl
    · rw [hlen, hothers hp]
      rfl

end
